-- ==== Sys2Proof/Word.lean ====
section
/-! DEFINITION. The word and byte types of the device, the numbers of its units, and the sparse map
that holds sparse state in one canonical form. -/

namespace Sys2Proof

/-- A register is 32 bits wide (R17). -/
abbrev Word := BitVec 32

/-- The smallest addressable unit of the Central Store and of HBM. -/
abbrev Byte := BitVec 8

/-- Seats are numbered 0 to 511 (R26). -/
abbrev SeatNo := Fin 512

/-- Partitions P0 to P31. -/
abbrev PartNo := Fin 32

/-- Arrays of one partition. -/
abbrev ArrayNo := Fin 8

/-- Fabric ports: B0 to B6 are 0 to 6, T0 to T5 are 7 to 12 (R310). -/
abbrev PortNo := Fin 13

/-- HBM stacks S0 to S11. -/
abbrev StackNo := Fin 12

/-- Group queues 0 to 63 (R26). -/
abbrev GroupNo := Fin 64

/-- Sparse data by key: keys strictly rising, and no entry equal to the value an unlisted key reads as. -/
abbrev SMap (α : Type) := List (Nat × α)

namespace SMap

variable {α : Type}

/-- The entry of key `k`, if one is listed. -/
def find? : SMap α → Nat → Option α
  | [], _ => none
  | (k', v) :: m, k => if k' = k then some v else find? m k

/-- Reading key `k`: the listed value, or what the unlisted key reads as. -/
def get (dflt : α) (m : SMap α) (k : Nat) : α := (find? m k).getD dflt

/-- Every entry of `m` but those of key `k`. -/
def erase (m : SMap α) (k : Nat) : SMap α := m.filter fun e => e.1 != k

/-- `m` with the entry `(k, v)` put before the first larger key. -/
def insert (k : Nat) (v : α) : SMap α → SMap α
  | [] => [(k, v)]
  | e :: m => if k < e.1 then (k, v) :: e :: m else e :: insert k v m

/-- Writing `v` at key `k`; writing what the unlisted key reads as removes the entry. -/
def set [DecidableEq α] (dflt : α) (m : SMap α) (k : Nat) (v : α) : SMap α :=
  if v = dflt then erase m k else insert k v (erase m k)

/-- The canonical form: keys strictly rising. -/
def sorted : SMap α → Bool
  | [] => true
  | [_] => true
  | e :: f :: m => decide (e.1 < f.1) && sorted (f :: m)

/-- The canonical form for a default that may depend on the key. -/
def wf [DecidableEq α] (dflt : Nat → α) (m : SMap α) : Bool :=
  sorted m && m.all fun e => decide (e.2 ≠ dflt e.1)

/-- Every entry whose key lies outside `lo ≤ k < hi`: the keys inside read as unlisted again. -/
def dropRange (m : SMap α) (lo hi : Nat) : SMap α :=
  m.filter fun e => decide (e.1 < lo ∨ hi ≤ e.1)

end SMap

end Sys2Proof
end

