-- ==== Sys2Proof/Syntax.lean ====
section
/-! DEFINITION. The commands of the block: one constructor per row of spec/opcode_table.json, in the
table's order, with the row's operands. A command is what an outside party does (a host write, a
received cell, a CAN frame) or an event of the device's own timers and engines (a turn begins, a
tile ends); an operand holds what arrives, or what the hardware physically meets at that event. -/

namespace Sys2Proof

/-- The IDE attributes of a host request: the selective stream it arrives in, and its T bit (R440). -/
structure Tlp where
  stream : Option (Fin 8)
  tbit   : Bool
deriving DecidableEq, Repr

/-- A host write to BAR0: byte offset, size in bytes, and the value (R17). -/
structure RegWrite where
  offset : Nat
  size   : Nat
  value  : BitVec 64
  tlp    : Tlp
deriving DecidableEq, Repr

/-- A host write to a register of a doorbell page: size in bytes and value (R51). -/
structure Bell where
  size  : Nat
  value : Word
  tlp   : Tlp
deriving DecidableEq, Repr

/-- What the ECC of a read sector or of a group's entries finds (R134, R239, R293). -/
inductive EccSeen where
  | clean | single | uncorrectable
deriving DecidableEq, Repr

/-- A cell whose partial a fault has moved by `delta` least significant units; row or column 128 names a
checksum cell (R130, R132). `partner` chooses the second array of a pair (R402). -/
structure CellUpset where
  partner : Bool
  row     : Fin 129
  col     : Fin 129
  delta   : Int
deriving DecidableEq, Repr

/-- How a host-port read ends (R261, R271). -/
inductive HostStatus where
  | success | unsupportedRequest | completerAbort
deriving DecidableEq, Repr

/-- A MARK body (Table 11-3). -/
structure Mark where
  round      : BitVec 64
  turn       : BitVec 16
  tkind      : BitVec 4
  suppressed : Bool
  flow       : BitVec 16
  freed      : BitVec 16
  schedId    : Word
  prevCheck  : Word
  source     : BitVec 15
  locked     : Bool
  hops       : Byte
deriving DecidableEq, Repr

/-- An IDENT MAINT cell (R315, R442): position, board coordinates, port, ordering number and the
link-encryption setting. -/
structure Ident where
  pos     : BitVec 3
  x       : BitVec 4
  y       : BitVec 4
  z       : BitVec 4
  port    : PortNo
  variant : Byte
  encrypt : Bool
deriving DecidableEq, Repr

/-- Where a cell arrives: port, lane group and cell index in its turn. Its codeword header is right; any other codeword is
that of a FEC_UNCORRECTABLE (R313). -/
structure CellAt where
  port  : PortNo
  group : Fin 3
  cidx  : Byte
deriving DecidableEq, Repr

/-- The path an object request or an SPDM message arrives on (R460, R463). -/
inductive Path where
  | fieldNetwork | hostMailbox
deriving DecidableEq, Repr

/-- An object dictionary entry, index and sub-index. -/
structure ObjId where
  index : BitVec 16
  sub   : Byte
deriving DecidableEq, Repr

/-- A REQ frame (Table 16-2). `reserved` is whether byte 5 or a data byte beyond LEN is nonzero. -/
structure ReqFrame where
  path      : Path
  op        : Byte
  tag       : Byte
  obj       : ObjId
  requester : Byte
  offset    : Word
  len       : Nat
  arg       : Word
  reserved  : Bool
  data      : List Byte
deriving DecidableEq, Repr

/-- The unit a shaker test holds (Table 14-10). -/
inductive ShakeUnit where
  | array (a : ArrayNo) | longAccumulator (a : ArrayNo) | widePath | quantiser | copyEngine (e : Fin 4)
deriving DecidableEq, Repr

/-- The tests of Table 14-10. -/
inductive ShakeTest where
  | arrayKat | arrayInject | laMarch | wpKat | qzKat | ceKat
deriving DecidableEq, Repr

/-- The conditions of R422. -/
inductive ShakeCond where
  | nominal | hot | lowV
deriving DecidableEq, Repr

/-- Partition reset causes (Table 14-3). -/
inductive ResetCause where
  | hostCmd | partWatchdog | seatDrain | cfgParity | cpUncorr | device | fatalHbm
deriving DecidableEq, Repr

/-- Device reset causes (R416) and the core restart of R495. -/
inductive DeviceCause where
  | parity | tagOrTumblerUncorr | hostCmd | firmware
deriving DecidableEq, Repr

/-- What happens to an IDE stream by an IDE_KM request (R438). -/
inductive IdeAction where
  | setLink | setSelective (n : Fin 8) | stopLink | stopSelective (n : Fin 8)
deriving DecidableEq, Repr

/-- The stream of a failed TLP. -/
inductive IdeStream where
  | link | selective (n : Fin 8)
deriving DecidableEq, Repr

/-- The causes of a core loss (R494). -/
inductive CoreLoss where
  | thermal | vin
deriving DecidableEq, Repr

/-- The verdict of the boot ROM on one slot's image: the checks of R428 that need the image itself. -/
structure ImageCheck where
  signatureOk : Bool
  keyIndex    : Fin 4
deriving DecidableEq, Repr

/-- What bring-up finds on one stack (R305, R307): by channel, how many more lanes fail. The rows it repairs are those of the
repair list. -/
structure BringUp where
  lanes : List Nat
deriving DecidableEq, Repr

/-- How an access to a stack fares with the parity of its interface: it passes, its retry passes, or both fail (R297). -/
inductive ParitySeen where
  | good | retried | failed
deriving DecidableEq, Repr

/-- What a read of the patrol scrub finds: the ECC of its sector and the parity of the stack's interface (R293, R297). -/
structure ScrubSeen where
  ecc    : EccSeen
  parity : ParitySeen
deriving DecidableEq, Repr

/-- What a tile finds at its end: the ECC of the long-accumulator SRAM of its array, and of the partner in paired mode (R134,
R402), and the array cycles for which it was held for staging lines (R114). -/
structure TileSeen where
  own     : EccSeen
  partner : EccSeen
  held    : Nat
deriving DecidableEq, Repr

/-- A MARK as a lane group receives it; `corrected` counts the codewords of the lane group that the FEC has corrected since
its last MARK (R343). -/
structure HeardMark where
  mark      : Mark
  corrected : Nat
deriving DecidableEq, Repr

/-- A codeword that a lane group discards. `again` says that the one before it was discarded too (R342); `header` is the
header of a codeword that the FEC could correct (R313). -/
structure LostWord where
  group  : Fin 3
  again  : Bool
  header : Option (BitVec 20)
deriving DecidableEq, Repr

/-- Sources of TB_OVERSUB: a port, or the host port (R337). -/
inductive StallSource where
  | port (n : PortNo) | host
deriving DecidableEq, Repr

/-- The commands, one constructor per row of spec/opcode_table.json, in its order. -/
inductive Instr where
  | registerWrite (w : RegWrite)
  | parityCheckedRead (offset size : Nat) (upset : Bool)
  | paritySweep (upsets : List Nat)
  | bar2Read (addr len : Nat) (tlp : Tlp)
  | bar2Write (addr : Nat) (data : List Byte) (tlp : Tlp)
  | ringProd (seat : SeatNo) (b : Bell)
  | gqLaunch (seat : SeatNo) (b : Bell)
  | cqCons (seat : SeatNo) (b : Bell)
  | eqCons (seat : SeatNo) (b : Bell)
  | groupLaunchEffect (gq : GroupNo)
  | seatCreate (part : PartNo) (loc : Fin 16)
  | seatRelease (part : PartNo) (loc : Fin 16)
  | seatReleaseComplete (seat : SeatNo)
  | gatingComplete (part : PartNo)
  | wakeComplete (part : PartNo)
  | descriptorHead (seat : SeatNo)
  | nop (seat : SeatNo)
  | matrixSingle (seat : SeatNo)
  | matrixOpen (seat : SeatNo)
  | matrixContinue (seat : SeatNo)
  | matrixClose (seat : SeatNo)
  | matrixOpenLoad (seat : SeatNo)
  | tileComplete (seat : SeatNo) (index : Word) (upsets : List CellUpset) (ecc : TileSeen)
  | arrayRetired (part : PartNo) (array : ArrayNo)
  | groupSlotGrant (part : PartNo) (array : ArrayNo)
  | arrayClockGate (part : PartNo) (array : ArrayNo)
  | quantNarrow (seat : SeatNo)
  | quantRestore (seat : SeatNo)
  | quantStats (seat : SeatNo)
  | wideDot (seat : SeatNo)
  | ewiseAdd (seat : SeatNo)
  | ewiseMul (seat : SeatNo)
  | ewiseAxpby (seat : SeatNo)
  | ewiseRelu (seat : SeatNo)
  | ewiseSilu (seat : SeatNo)
  | ewiseSiluMul (seat : SeatNo)
  | wideRmsnorm (seat : SeatNo)
  | wideSoftmax (seat : SeatNo)
  | wideUpdate (seat : SeatNo)
  | wideCast (seat : SeatNo)
  | watchEvaluate (seat : SeatNo)
  | watchApply (seat : SeatNo)
  | watchBoth (seat : SeatNo)
  | copyLinear (seat : SeatNo)
  | copySkewSerial (seat : SeatNo)
  | copySkewParallel (seat : SeatNo)
  | copyTransposeParallel (seat : SeatNo)
  | copyFill (seat : SeatNo)
  | atomicAdd (seat : SeatNo)
  | atomicAnd (seat : SeatNo)
  | atomicOr (seat : SeatNo)
  | atomicXor (seat : SeatNo)
  | atomicSmin (seat : SeatNo)
  | atomicSmax (seat : SeatNo)
  | atomicUmin (seat : SeatNo)
  | atomicUmax (seat : SeatNo)
  | atomicSwap (seat : SeatNo)
  | atomicCas (seat : SeatNo)
  | atomicLoad (seat : SeatNo)
  | lineFillComplete (part : PartNo) (line : Nat)
  | hostXferToCs (seat : SeatNo)
  | hostXferToHost (seat : SeatNo)
  | hostReadCompletion (tag : Nat) (status : HostStatus) (data : List Byte)
  | hostCompletionTimeout (tag : Nat)
  | fenceLocal (seat : SeatNo)
  | fenceChip (seat : SeatNo)
  | fenceFabric (seat : SeatNo)
  | fenceHost (seat : SeatNo)
  | tumblerSet (seat : SeatNo)
  | tumblerAdd (seat : SeatNo)
  | tumblerRemoteAdd (seat : SeatNo)
  | tumblerRead (seat : SeatNo)
  | tumblerHostWrite (w : RegWrite)
  | haspAcquire (seat : SeatNo)
  | haspTry (seat : SeatNo)
  | haspRelease (seat : SeatNo)
  | haspRepair (seat : SeatNo)
  | haspInspect (seat : SeatNo)
  | haspRetry (part : PartNo) (addr : Nat)
  | groupLaunch (seat : SeatNo)
  | collectiveAllreduce (seat : SeatNo)
  | collectiveReduceScatter (seat : SeatNo)
  | collectiveAllgather (seat : SeatNo)
  | collectiveBroadcast (seat : SeatNo)
  | collectivePut (seat : SeatNo)
  | descriptorComplete (seat : SeatNo) (index : Word)
  | seatVectorHoldoffEnd (seat : SeatNo)
  | scResize (w : RegWrite)
  | scResizeComplete
  | csScrubCfgWrite (w : RegWrite)
  | csPatrolScrub (sector : Nat) (seen : EccSeen)
  | configRequest
  | pcieAtomicopRequest
  | perstN
  | tlpIntegrityFail (stream : IdeStream)
  | markReceived (port : PortNo) (group : Fin 3) (mark : HeardMark)
  | schedCellReceived (loc : CellAt) (body : List Byte)
  | cellReady (port : PortNo)
  | putCellReceived (loc : CellAt) (body : List Byte)
  | remoteAddCellReceived (loc : CellAt) (body : List Byte)
  | ackReceived (loc : CellAt) (body : List Byte)
  | refusalReceived (loc : CellAt) (body : List Byte)
  | noAck (id : Nat)
  | forfeitCellReceived (loc : CellAt) (body : List Byte)
  | sideCellReceived (loc : CellAt) (body : List Byte)
  | identReceived (port : PortNo) (ident : Ident)
  | timeReqReceived (port : PortNo) (group : Fin 3) (t2 : BitVec 80)
  | timeReplyReceived (port : PortNo) (t1 t2 t3 t4 : BitVec 80)
  | locked
  | portUp (port : PortNo)
  | keyShareReceived (port : PortNo) (chain : List Byte) (share : List Byte)
  | authTagReceived (port : PortNo) (tag : BitVec 128)
  | fecUncorrectable (port : PortNo) (word : LostWord)
  | lossOfSignal (port : PortNo) (lane : Fin 12)
  | portDown (port : PortNo)
  | portTrainingStart (port : PortNo)
  | linkTrained (port : PortNo)
  | trainingTimeout (port : PortNo)
  | trainingRetry (port : PortNo)
  | miswiredRetrain (port : PortNo)
  | turnBegin (port : PortNo)
  | roundBoundary
  | turnMiss (port : PortNo) (group : Fin 3)
  | turnMissWatchdog (port : PortNo)
  | holdoverTimeout
  | trefLock
  | trefPpsEdge
  | trefLost
  | timeSnap (value : Word)
  | schedInstall
  | installComplete
  | schedArm
  | schedCancel
  /-- `withheld` counts the periods of 64 ns, of the 15,625 of the window, in which posted credits were withheld (R337). -/
  | stallWindowEnd (withheld : Nat)
  | slip (source : StallSource)
  | fbCtrlWrite (port : PortNo) (w : RegWrite)
  | tbCtrlWrite (w : RegWrite)
  | detCtrlWrite (w : RegWrite)
  | recBegin
  | recEnd
  | recorderStepEnd
  | replayRecordApply
  | seatWatchdogExpiry (seat : SeatNo)
  | seatDrainExpiry (seat : SeatNo)
  | partWatchdogExpiry (part : PartNo)
  | partitionResetCmd (value : Word)
  | partitionReset (part : PartNo) (cause : ResetCause)
  | partitionResetEnd (part : PartNo)
  | deviceResetCmd (value : Word)
  | deviceReset (cause : DeviceCause) (found : List BringUp)
  | deviceResetEnd
  | forfeitCmd (value : Word)
  | ecVectorHoldoffEnd
  | pairMaskWrite (w : RegWrite)
  | shakerTest (part : PartNo) (unit : ShakeUnit) (test : ShakeTest) (cond : ShakeCond) (hottest : Nat)
  | shakerTestEnd (part : PartNo) (unit : ShakeUnit) (passed : Bool)
  | hbmRefresh (stack : StackNo)
  | hbmCalibration (stack : StackNo)
  | channelRetrainComplete (stack : StackNo) (chan : PartNo) (ok : Bool)
  | hbmTempReadout (stack : StackNo) (temp : Byte)
  | throttleStepFall (stack : StackNo)
  | tempReadoutTimeout (stack : StackNo)
  | hbScrubCfgWrite (stack : StackNo) (w : RegWrite)
  | hbPatrolScrub (stack : StackNo) (chan : PartNo) (sector : Nat) (seen : ScrubSeen)
  | rowRepairPending (stack : StackNo) (chan : PartNo) (row : Nat)
  | spdmGetVersion (path : Path)
  | spdmGetCapabilities (path : Path)
  | spdmNegotiateAlgorithms (path : Path) (request : List Byte)
  | spdmGetDigests (path : Path)
  | spdmGetCertificate (path : Path) (slot offset length : Nat)
  | spdmChallenge (path : Path) (slot : Nat) (nonce : List Byte)
  | spdmGetMeasurements (path : Path) (index : Byte) (nonce : List Byte)
  | spdmKeyExchange (path : Path) (share : List Byte)
  | spdmFinish (path : Path) (session : Fin 4) (verifyData : List Byte)
  | spdmEndSession (path : Path) (session : Fin 4)
  | ideKm (session : Fin 4) (action : IdeAction) (key : List Byte)
  | tdispGetVersion (session : Fin 4) (seat : SeatNo)
  | tdispGetCapabilities (session : Fin 4) (seat : SeatNo)
  | lockInterface (session : Fin 4) (seat : SeatNo) (stream : Fin 8)
  | getInterfaceReport (session : Fin 4) (seat : SeatNo)
  | getInterfaceState (session : Fin 4) (seat : SeatNo)
  | startInterface (session : Fin 4) (seat : SeatNo) (nonce : BitVec 256)
  | stopInterface (session : Fin 4) (seat : SeatNo)
  | sign (tlp : Tlp)
  | signComplete
  | firmwareVerified (checkA checkB : ImageCheck) (found : List BringUp)
  | fwReady
  | objectRead (f : ReqFrame)
  | objectWrite (f : ReqFrame)
  | objectWriteSeg (f : ReqFrame) (check : ImageCheck)
  | startTrial (f : ReqFrame)
  | commit (f : ReqFrame)
  | fallBack (f : ReqFrame)
  | trialReadyTimeout
  | trialWindowEnd
  | clearRetirementRecord (f : ReqFrame)
  | clearArrayCounts (f : ReqFrame)
  | readdress (target : BitVec 7)
  | tunnelReq (first last : Bool) (counter : Byte) (data : List Byte)
  | claimReceived (addr : BitVec 7) (serial : BitVec 64)
  | heartbeatReceived (addr : BitVec 7)
  | bidReceived (digit : BitVec 6)
  | canFrameSent (acked : Bool)
  | lonely
  | busOffRecovery
  | heartbeatSend
  | alarmSend
  | chainOutFrame
  | chainInFrame (count : Nat)
  | chainInHighTimeout
  | chainInLowTimeout
  | electionListenEnd
  | electionOpen
  | uartReadObject (obj : ObjId)
  | uartReadOffset (obj : ObjId) (offset : Word)
  | uartStatus
  | uartVersion
  | traceTextStart
  | traceTextStop
  | uartBadLine
  | uartOverrun
  | uartFraming
  | uartBreak
  | traceCtrlWrite (w : RegWrite)
  | traceRecordDrop
  | powerOnReset
  | sysResetRelease
  | posSample (pos : BitVec 3)
  | powerStepEvaluation (vin : BitVec 16) (iin : BitVec 16) (power : BitVec 12) (tjMax : Byte) (part : PartNo)
  | thermalTrip (temp : Byte) (part : PartNo)
  | thermAlertRelease
  | coreLoss (cause : CoreLoss)
  | coreRestart (found : List BringUp)
  | perstNRelease
  | canReceiveError (amount : Nat)
  | scrubLate (stack : StackNo)
  | dataPhaseRateChange
  | uartRateChange
deriving DecidableEq, Repr

end Sys2Proof
end

