-- ==== Sys2Proof/Config.lean ====
section
/-! DEFINITION. Free values: what the specification leaves open, and the secrets, signatures and draws
it does not let an observer compute. Every constant here has no body, so nothing can be proved of its
value (log entry 1). -/

namespace Sys2Proof.Config

/-- Byte `i` of the free value drawn with number `n`; `State.free` numbers the draws (log entry 1). -/
opaque freeByte : Nat → Nat → Byte

/-- Byte `i` of an HBM sector that nothing has written, read under a ward key: the key, the tweak of the sector,
and `i` (R299, R436). -/
opaque hbmUnwritten : BitVec 512 → Nat → Nat → Byte

/-- The row of a channel that holds a sector of it (R306): the sector's index within the channel (Table 10-7). -/
opaque hbmRow : Nat → BitVec 15

/-- Byte `i` of a sector written under one ward key and read under another (R436): the two keys, the tweak,
the stored plaintext, and `i`. -/
opaque xtsForeign : BitVec 512 → BitVec 512 → Nat → List Byte → Nat → Byte

/-- What a BAR2 read finds at an address whose producing descriptor has not completed, guard off (R75): seat,
descriptor index, address. -/
opaque pendingByte : Nat → Nat → Nat → Byte

/-- The SEAT nibble and the operation nibble that an engine's status register shows when they have no meaning: register
offset, local clock when the engine last took or ended work (log entry 20). -/
opaque staleStatus : Nat → Nat → BitVec 8

/-- Timing of a tile that MX_ARR_STATUS shows and the reference does not fix (log entry 67): register offset and local clock
at which the tile entered the cells give the local clock at which streaming ends; offset and clock give the holds. -/
opaque streamEnd : Nat → Nat → Nat
opaque arrayHolds : Nat → Nat → BitVec 2

/-- SOURCE in the MARKs of a device that has no time source (Table 11-3). -/
opaque noSource : BitVec 15

/-- The DRBG's output number `n` (R434). -/
opaque drbg : Nat → BitVec 256

/-- The chip secret of the fuses, UDS (R427). -/
opaque uds : BitVec 384

/-- SHA-384 of the boot ROM, measurement 1 (R432). -/
opaque romDigest : BitVec 384

/-- Does the verify data of a FINISH fit the session whose share came from DRBG draw `n` (R433)? -/
opaque finishVerifies : Nat → List Byte → Bool

/-- Does the flash write, or the fuse write, of this number fail (R430, R466)? -/
opaque storeFails : Nat → Bool
opaque fuseFails : Nat → Bool

/-- An ECDSA P-384 signature of a message under the key of a CDI (R431, R446); 96 bytes. -/
opaque ecdsaSign : BitVec 384 → List Byte → Nat → Byte

/-- Does an ECDSA P-384 signature verify under a chain of certificates (R442)? -/
opaque chainVerifies : List Byte → List Byte → Bool

/-- The certificate the boot derives from a CDI: number 0 ROM, 1 FW, 2 PROV (R431); byte `i`. -/
opaque certByte : BitVec 384 → Nat → Nat → Byte

/-- The length of that certificate in bytes. -/
opaque certLength : BitVec 384 → Nat → Nat

/-- An ECDHE public share of a secret draw (R433, R442); byte `i` of 96. -/
opaque ecdhShare : BitVec 256 → Nat → Byte

/-- The secret two ECDHE shares agree on (R433, R442). -/
opaque ecdhAgree : BitVec 256 → List Byte → BitVec 384

/-- The AES-256-GCM authentication tag of an interval: key, port, interval number, cells (R443, R444). -/
opaque gcmTag : BitVec 256 → Nat → Nat → List Byte → BitVec 128

/-- What the signed header of an image states, by the image's bytes (R428, R429): its SVN, ordering number, settings
schema and version. The layout of the header is not given. -/
opaque imageSvn : List Byte → Nat
opaque imageVariant : List Byte → Nat
opaque imageSchema : List Byte → Nat
opaque imageVersion : List Byte → String

/-- What the check of a recorded image finds when it is replayed: is its signature right, and the index of its key (R387). -/
opaque imageSigned : List Byte → Bool
opaque imageKey : List Byte → Fin 4

/-- Does firmware of the second schema carry a migration from the first (R479)? And the value it gives an entry. -/
opaque migrates : Nat → Nat → Bool
opaque migrated : Nat → Nat → Nat → Nat → Nat

end Sys2Proof.Config
end

