-- ==== Sys2Proof/Machine/Bits.lean ====
section
/-! DEFINITION. Bit fields, little-endian bytes, the CRC-32C and CRC-8 of the device, SHA-256 and the
64-bit mixing function. -/

namespace Sys2Proof.Machine

/-- Bits `hi` to `lo` of a word, as a number. -/
def field (w : Word) (hi lo : Nat) : Nat := (w.toNat >>> lo) % 2 ^ (hi + 1 - lo)

/-- `w` with bits `hi` to `lo` replaced by the low bits of `v`. -/
def setField (w : Word) (hi lo v : Nat) : Word :=
  let mask : Word := BitVec.ofNat 32 ((2 ^ (hi + 1 - lo) - 1) <<< lo)
  (w &&& ~~~ mask) ||| (BitVec.ofNat 32 (v <<< lo) &&& mask)

/-- Bit `i` of a word. -/
def bit (w : Word) (i : Nat) : Bool := w.getLsbD i

/-- `w` with bit `i` set to `b`. -/
def setBit (w : Word) (i : Nat) (b : Bool) : Word :=
  if b then w ||| BitVec.ofNat 32 (2 ^ i) else w &&& ~~~ (BitVec.ofNat 32 (2 ^ i))

/-- A number 0 or 1 for a Bool. -/
def b2n (b : Bool) : Nat := if b then 1 else 0

/-- The I16 value of the low 16 bits of `n`. -/
def i16 (n : Nat) : Int := (BitVec.ofNat 16 n).toInt

/-- `n` little-endian bytes of `v`. -/
def leBytes : Nat → Nat → List Byte
  | 0, _ => []
  | n + 1, v => BitVec.ofNat 8 v :: leBytes n (v / 256)

/-- The number that little-endian bytes spell. -/
def leNat : List Byte → Nat
  | [] => 0
  | b :: bs => b.toNat + 256 * leNat bs

/-- `n` big-endian bytes of `v`. -/
def beBytes (n v : Nat) : List Byte := (leBytes n v).reverse

/-- `n` zero bytes. -/
def zeros (n : Nat) : List Byte := List.replicate n 0#8

/-- `bs` cut or padded with zero bytes to length `n`. -/
def padTo (n : Nat) (bs : List Byte) : List Byte := bs.take n ++ zeros (n - bs.length)

/-- Bytes `lo` to `lo + n - 1` of `bs`, zero beyond its end. -/
def slice (bs : List Byte) (lo n : Nat) : List Byte := padTo n (bs.drop lo)

/-- The little-endian number in `n` bytes of `bs` at `lo`. -/
def numAt (bs : List Byte) (lo n : Nat) : Nat := leNat (slice bs lo n)

/-- The 32-bit little-endian words of a byte string. -/
def wordsOf : List Byte → List Word
  | a :: b :: c :: d :: r => BitVec.ofNat 32 (leNat [a, b, c, d]) :: wordsOf r
  | _ => []

/-- ⌈a / b⌉. -/
def ceilDiv (a b : Nat) : Nat := (a + b - 1) / b

/-- Does any byte differ from zero? -/
def anyNonzero (bs : List Byte) : Bool := bs.any fun b => b != 0#8

/-- One bit-reflected step of CRC-32C; the reflected polynomial of 0x1EDC_6F41 is 0x82F6_3B78. -/
def crc32cBit (c : Word) : Word :=
  if c.getLsbD 0 then (c >>> 1) ^^^ 0x82F63B78#32 else c >>> 1

def iter {α : Type} : Nat → (α → α) → α → α
  | 0, _, a => a
  | n + 1, f, a => iter n f (f a)

/-- One byte of CRC-32C. -/
def crc32cByte (c : Word) (b : Byte) : Word := iter 8 crc32cBit (c ^^^ b.zeroExtend 32)

/-- CRC-32C (Castagnoli), reflected, initial value and final XOR 0xFFFF_FFFF (R105). -/
def crc32c (bs : List Byte) : Word := (bs.foldl crc32cByte 0xFFFFFFFF#32) ^^^ 0xFFFFFFFF#32

/-- CRC-8 of the codeword header: polynomial 0x07, initial value 0, over the 12 bits KIND and CIDX,
most significant first (R313). -/
def hchk (bits12 : BitVec 12) : Byte :=
  (List.range 12).foldl (fun (c : Byte) i =>
    let top := (c.getLsbD 7) ^^ (bits12.getLsbD (11 - i))
    let c' := c <<< 1
    if top then c' ^^^ 0x07#8 else c') 0#8

/-- The header of a codeword: KIND, CIDX and HCHK (Table 11-2). -/
def codewordHeader (kind : BitVec 4) (cidx : Byte) : BitVec 20 := (kind ++ cidx) ++ hchk (kind ++ cidx)

/-- Does a receiver take a codeword with this header: HCHK is right, and KIND is not reserved (R313)? -/
def codewordOk (h : BitVec 20) : Bool :=
  decide (h.extractLsb' 0 8 = hchk (h.extractLsb' 8 12) ∧ (h.extractLsb' 16 4).toNat ≤ 5)

/-! SHA-256 (FIPS 180-4), used by the copy engines' hash units (R259) and the recorder (R382). -/

def sha256K : List Word :=
  [0x428a2f98, 0x71374491, 0xb5c0fbcf, 0xe9b5dba5, 0x3956c25b, 0x59f111f1, 0x923f82a4, 0xab1c5ed5] ++
  [0xd807aa98, 0x12835b01, 0x243185be, 0x550c7dc3, 0x72be5d74, 0x80deb1fe, 0x9bdc06a7, 0xc19bf174] ++
  [0xe49b69c1, 0xefbe4786, 0x0fc19dc6, 0x240ca1cc, 0x2de92c6f, 0x4a7484aa, 0x5cb0a9dc, 0x76f988da] ++
  [0x983e5152, 0xa831c66d, 0xb00327c8, 0xbf597fc7, 0xc6e00bf3, 0xd5a79147, 0x06ca6351, 0x14292967] ++
  [0x27b70a85, 0x2e1b2138, 0x4d2c6dfc, 0x53380d13, 0x650a7354, 0x766a0abb, 0x81c2c92e, 0x92722c85] ++
  [0xa2bfe8a1, 0xa81a664b, 0xc24b8b70, 0xc76c51a3, 0xd192e819, 0xd6990624, 0xf40e3585, 0x106aa070] ++
  [0x19a4c116, 0x1e376c08, 0x2748774c, 0x34b0bcb5, 0x391c0cb3, 0x4ed8aa4a, 0x5b9cca4f, 0x682e6ff3] ++
  [0x748f82ee, 0x78a5636f, 0x84c87814, 0x8cc70208, 0x90befffa, 0xa4506ceb, 0xbef9a3f7, 0xc67178f2]

/-- The standard initial value H0 to H7. -/
def sha256Init : List Word :=
  [0x6a09e667, 0xbb67ae85, 0x3c6ef372, 0xa54ff53a, 0x510e527f, 0x9b05688c, 0x1f83d9ab, 0x5be0cd19]

def rotr (w : Word) (n : Nat) : Word := w.rotateRight n

/-- The next word of the message schedule, from the last 16 words, oldest first. -/
def shaNext (w : List Word) : Word :=
  let g := fun i => w.getD i 0
  let s0 := rotr (g 1) 7 ^^^ rotr (g 1) 18 ^^^ (g 1 >>> 3)
  let s1 := rotr (g 14) 17 ^^^ rotr (g 14) 19 ^^^ (g 14 >>> 10)
  g 0 + s0 + g 9 + s1

/-- One round of the compression on the working variables a to h with the schedule window `w`. -/
def shaRound (st : List Word × List Word) (k : Word) : List Word × List Word :=
  let v := st.1
  let w := st.2
  let x := fun i => v.getD i 0
  let S1 := rotr (x 4) 6 ^^^ rotr (x 4) 11 ^^^ rotr (x 4) 25
  let ch := (x 4 &&& x 5) ^^^ (~~~ (x 4) &&& x 6)
  let t1 := x 7 + S1 + ch + k + w.getD 0 0
  let S0 := rotr (x 0) 2 ^^^ rotr (x 0) 13 ^^^ rotr (x 0) 22
  let maj := (x 0 &&& x 1) ^^^ (x 0 &&& x 2) ^^^ (x 1 &&& x 2)
  ([t1 + (S0 + maj), x 0, x 1, x 2, x 3 + t1, x 4, x 5, x 6], w.drop 1 ++ [shaNext w])

/-- The 16 big-endian words of a 64-byte block. -/
def shaBlockWords (b : List Byte) : List Word :=
  (List.range 16).map fun i => BitVec.ofNat 32 (leNat (slice b (4 * i) 4).reverse)

/-- The compression function on one block. -/
def shaCompress (h : List Word) (block : List Byte) : List Word :=
  let v := (sha256K.foldl shaRound (h, shaBlockWords block)).1
  List.zipWith (· + ·) h v

/-- Compress `n` 64-byte blocks of `bs` in turn. -/
def shaBlocks : Nat → List Word → List Byte → List Word
  | 0, h, _ => h
  | n + 1, h, bs => shaBlocks n (shaCompress h (bs.take 64)) (bs.drop 64)

/-- The padding of FIPS 180-4 for the partial block `part` of a message of `total` bytes. -/
def shaPad (part : List Byte) (total : Nat) : List Byte :=
  let l := part.length + 1
  let z := (64 + 56 - l % 64) % 64
  part ++ [0x80#8] ++ zeros z ++ beBytes 8 (8 * total)

/-- A running hash: H0 to H7, the bytes hashed, and the partial block (R259). -/
structure Sha where
  h     : List Word
  count : Nat
  part  : List Byte
deriving DecidableEq, Repr

def shaStart : Sha := { h := sha256Init, count := 0, part := [] }

def shaUpdate (s : Sha) (bs : List Byte) : Sha :=
  let all := s.part ++ bs
  let n := all.length / 64
  { h := shaBlocks n s.h all, count := s.count + bs.length, part := all.drop (64 * n) }

/-- The 32-byte digest in standard byte order. -/
def shaFinish (s : Sha) : List Byte :=
  let p := shaPad s.part s.count
  (shaBlocks (p.length / 64) s.h p).flatMap fun w => beBytes 4 w.toNat

def sha256 (bs : List Byte) : List Byte := shaFinish (shaUpdate shaStart bs)

/-- mix64 of R173. -/
def mix64 (a b : BitVec 64) : BitVec 64 :=
  (iter 4 (fun (p : BitVec 64 × BitVec 64) =>
    let x := (p.1 ^^^ p.2) * 0xD6E8FEB86659FD93#64
    (x ^^^ (x >>> 29), p.2 + 0x9E3779B97F4A7C15#64)) (a, b)).1

/-- sr_bits of R173: the 24-bit stochastic number of element `e`. -/
def srBits (step tensorId seed : Nat) (e : Nat) : Nat :=
  let k := mix64 (BitVec.ofNat 64 seed) (BitVec.ofNat 64 (step * 2 ^ 32 + tensorId))
  (mix64 (BitVec.ofNat 64 e) k).toNat >>> 40

end Sys2Proof.Machine
end

