-- ==== Sys2Proof/Machine/Numeric.lean ====
section
/-! DEFINITION. Number formats and rounding: exact rational values, BF16 and FP32, E2M1 and the integer
views, LA128 and XS64, correctly rounded square root and exponential, and the pairwise tree. Every
operation is formed exactly as a rational and rounded where the manual says, once. -/

namespace Sys2Proof.Machine

/-- 2^e as an exact rational. -/
def pow2 (e : Int) : Rat :=
  match e with
  | .ofNat n => ((2 ^ n : Nat) : Rat)
  | .negSucc n => 1 / ((2 ^ (n + 1) : Nat) : Rat)

/-- ⌊log2 x⌋ for x > 0. -/
def floorLog2 (x : Rat) : Int :=
  let c : Int := (Nat.log2 x.num.toNat : Int) - (Nat.log2 x.den : Int)
  if pow2 c ≤ x then c else c - 1

/-- The nearest integer, ties to even. -/
def roundEven (x : Rat) : Int :=
  let f := x.floor
  let d := x - f
  if d < 1 / 2 then f else if 1 / 2 < d then f + 1 else if f % 2 = 0 then f else f + 1

/-- ⌈x⌉. -/
def ratCeil (x : Rat) : Int := - (-x).floor

/-- A floating-point value: a number with its sign and magnitude, an infinity, or NaN. -/
inductive Fp where
  | num (neg : Bool) (mag : Rat)
  | inf (neg : Bool)
  | nan
deriving DecidableEq, Repr

/-- The significand width and the weight of the last subnormal bit of a format: FP32 or BF16 (R146). -/
inductive FpFmt where
  | bf16 | fp32
deriving DecidableEq, Repr

def FpFmt.width : FpFmt → Nat
  | .bf16 => 8
  | .fp32 => 24

def FpFmt.qMin : FpFmt → Int
  | .bf16 => -133
  | .fp32 => -149

/-- The rational value of a number; zero for the others. -/
def Fp.val : Fp → Rat
  | .num true m => -m
  | .num false m => m
  | _ => 0

def Fp.isFinite : Fp → Bool
  | .num _ _ => true
  | _ => false

def Fp.negated : Fp → Fp
  | .num s m => .num (!s) m
  | .inf s => .inf (!s)
  | .nan => .nan

def Fp.sign : Fp → Bool
  | .num s _ => s
  | .inf s => s
  | .nan => false

/-- A finite value from an exact rational; zero takes the sign given. -/
def Fp.ofRat (x : Rat) (zeroNeg : Bool := false) : Fp :=
  if x = 0 then .num zeroNeg 0 else .num (decide (x < 0)) (if x < 0 then -x else x)

/-- Round an exact rational once onto the grid of `fmt`, to nearest with ties to even, the subnormal
grid included; a magnitude that reaches 2^128 becomes an infinity (R146, R207). -/
def rnRat (fmt : FpFmt) (x : Rat) (zeroNeg : Bool := false) : Fp :=
  if x = 0 then .num zeroNeg 0 else
    let neg := decide (x < 0)
    let m := if x < 0 then -x else x
    let q := max (floorLog2 m - (fmt.width - 1 : Int)) fmt.qMin
    let r := roundEven (m / pow2 q)
    let v := (r : Rat) * pow2 q
    if pow2 128 ≤ v then .inf neg else .num neg v

/-- Is a nonzero value below the smallest normal number, 2^-126, of both formats? -/
def Fp.isSubnormal : Fp → Bool
  | .num _ m => decide (m ≠ 0 ∧ m < pow2 (-126))
  | _ => false

/-- The flush of R93: a subnormal becomes a zero of the same sign. -/
def flushSub (flush : Bool) (x : Fp) : Fp :=
  match x with
  | .num s m => if flush && (Fp.num s m).isSubnormal then .num s 0 else .num s m
  | y => y

/-- Decode a bit pattern of sign, 8-bit exponent and `f` fraction bits. -/
def decodeFp (f : Nat) (n : Nat) : Fp :=
  let neg := n / 2 ^ (f + 8) % 2 = 1
  let e := n / 2 ^ f % 256
  let frac := n % 2 ^ f
  if e = 255 then (if frac = 0 then .inf (decide neg) else .nan)
  else if e = 0 then .num (decide neg) ((frac : Rat) * pow2 (-126 - (f : Int)))
  else .num (decide neg) (((2 ^ f + frac : Nat) : Rat) * pow2 ((e : Int) - 127 - (f : Int)))

/-- Encode a value that lies on the grid of `f` fraction bits; NaN is canonical (R91). -/
def encodeFp (f : Nat) (x : Fp) : Nat :=
  let s := fun (b : Bool) => if b then 2 ^ (f + 8) else 0
  match x with
  | .nan => 255 * 2 ^ f + 2 ^ (f - 1)
  | .inf b => s b + 255 * 2 ^ f
  | .num b m =>
    if m = 0 then s b
    else
      let e := floorLog2 m
      if e < -126 then s b + (m / pow2 (-126 - (f : Int))).floor.toNat
      else
        let sig := (m / pow2 (e - (f : Int))).floor.toNat
        s b + (e + 127).toNat * 2 ^ f + (sig - 2 ^ f)

def decodeBf16 (n : Nat) : Fp := decodeFp 7 (n % 2 ^ 16)
def decodeFp32 (n : Nat) : Fp := decodeFp 23 (n % 2 ^ 32)
def encodeBf16 (x : Fp) : Nat := encodeFp 7 x
def encodeFp32 (x : Fp) : Nat := encodeFp 23 x

/-- Round a value to `fmt`: finite values once (R92), others unchanged. -/
def rnFp (fmt : FpFmt) : Fp → Fp
  | .num s m => rnRat fmt (Fp.num s m).val s
  | x => x

/-! IEEE 754 operations on values, exact, before the one rounding (R207). -/

/-- x + y exactly; the exact sum of two zeros of opposite sign is +0 (R151). -/
def fpAdd (x y : Fp) : Fp :=
  match x, y with
  | .nan, _ => .nan
  | _, .nan => .nan
  | .inf a, .inf b => if a = b then .inf a else .nan
  | .inf a, _ => .inf a
  | _, .inf b => .inf b
  | a, b => Fp.ofRat (a.val + b.val) (a.sign && b.sign)

/-- x × y exactly. -/
def fpMul (x y : Fp) : Fp :=
  match x, y with
  | .nan, _ => .nan
  | _, .nan => .nan
  | .inf a, .num b m => if m = 0 then .nan else .inf (a ^^ b)
  | .num a m, .inf b => if m = 0 then .nan else .inf (a ^^ b)
  | .inf a, .inf b => .inf (a ^^ b)
  | .num a m, .num b n => .num (a ^^ b) (m * n)

/-- x / y exactly. -/
def fpDiv (x y : Fp) : Fp :=
  match x, y with
  | .nan, _ => .nan
  | _, .nan => .nan
  | .inf _, .inf _ => .nan
  | .inf a, .num b _ => .inf (a ^^ b)
  | .num a _, .inf b => .num (a ^^ b) 0
  | .num a m, .num b n =>
    if n = 0 then (if m = 0 then .nan else .inf (a ^^ b)) else .num (a ^^ b) (m / n)

/-- ⌊√n⌋ by bits: `k` bits are still to be decided. -/
def isqrtBits (n : Nat) : Nat → Nat → Nat
  | 0, r => r
  | k + 1, r => if (r + 2 ^ k) * (r + 2 ^ k) ≤ n then isqrtBits n k (r + 2 ^ k) else isqrtBits n k r

/-- The square root, correctly rounded to FP32 (sqrt_rn of R207). -/
def sqrtRn (x : Fp) : Fp :=
  match x with
  | .nan => .nan
  | .inf true => .nan
  | .inf false => .inf false
  | .num s m =>
    if m = 0 then .num s 0 else if s then .nan else
      let q := max (floorLog2 m / 2 - 23) (-149)
      let t := m / (pow2 q * pow2 q)
      let r := isqrtBits t.floor.toNat 32 0
      let h := (r : Rat) + 1 / 2
      let r' := if h * h < t then r + 1 else if t < h * h then r else if r % 2 = 0 then r else r + 1
      .num false ((r' : Rat) * pow2 q)

/-- The fixed-point scale of the exponential's evaluation, 2^320. -/
def expScale : Nat := 2 ^ 320

/-- The Taylor sum of e^y, y in units of 2^-320: `k` terms, the next term being `t` of order `n`. -/
def expTaylor (y : Int) : Nat → Nat → Int → Int → Int
  | 0, _, _, acc => acc
  | k + 1, n, t, acc => expTaylor y k (n + 1) (t * y / ((expScale * (n + 1) : Nat) : Int)) (acc + t)

/-- e^x to within 2^-150 relative for -104 ≤ x ≤ 89, as a rational: the series at x / 2^8, squared 8 times. -/
def expApprox (x : Rat) : Rat :=
  let y := (x * (expScale : Rat) / 256).floor
  let s := expTaylor y 80 0 (expScale : Int) 0
  let e := iter 8 (fun (v : Int) => v * v / (expScale : Int)) s
  (e : Rat) / (expScale : Rat)

/-- The exponential, correctly rounded to FP32 (exp_rn of R207): e^x of a nonzero FP32 number is never a
rounding tie and never so near one that the approximation could cross it. -/
def expRn (x : Fp) : Fp :=
  match x with
  | .nan => .nan
  | .inf true => .num false 0
  | .inf false => .inf false
  | .num s m =>
    let v := (Fp.num s m).val
    if m = 0 then .num false 1
    else if v < -104 then .num false 0
    else if 89 < v then .inf false
    else rnRat .fp32 (expApprox v)

/-! Array operand formats (Table 3-1, Tables 3-2 and 3-3). -/

/-- Element formats (Table 3-1). -/
inductive Fmt where
  | e2m1 | int4 | uint4zp | int2 | ternary | int8 | uint8zp | bf16 | fp32 | la128 | xs64 | act | d4
deriving DecidableEq, Repr

def Fmt.ofCode : Nat → Option Fmt
  | 0 => some .e2m1 | 1 => some .int4 | 2 => some .uint4zp | 3 => some .int2 | 4 => some .ternary
  | 5 => some .int8 | 6 => some .uint8zp | 7 => some .bf16 | 8 => some .fp32 | 9 => some .la128
  | 10 => some .xs64 | 11 => some .act | 12 => some .d4 | _ => none

/-- Bits per element; 0 for ACT, whose rows are records. -/
def Fmt.bits : Fmt → Nat
  | .e2m1 | .int4 | .uint4zp | .d4 => 4
  | .int2 | .ternary => 2
  | .int8 | .uint8zp => 8
  | .bf16 => 16
  | .fp32 => 32
  | .la128 => 128
  | .xs64 => 64
  | .act => 0

/-- May the format be an array operand? -/
def Fmt.isArray : Fmt → Bool
  | .e2m1 | .int4 | .uint4zp | .int2 | .ternary | .int8 | .uint8zp => true
  | _ => false

def Fmt.hasZp : Fmt → Bool
  | .uint4zp | .uint8zp => true
  | _ => false

/-- Magnitude bits P of Table 3-3. -/
def Fmt.magBits : Fmt → Nat
  | .int2 | .ternary => 2
  | .int8 | .uint8zp => 8
  | _ => 4

/-- Largest magnitude of Table 3-3. -/
def Fmt.maxMag : Fmt → Nat
  | .e2m1 => 12
  | .int4 => 8
  | .uint4zp => 15
  | .int2 | .ternary => 2
  | .int8 => 128
  | .uint8zp => 255
  | _ => 0

/-- Twice the magnitude of an E2M1 code's low three bits (Table 3-2). -/
def e2m1Mag2 : Nat → Nat
  | 0 => 0 | 1 => 1 | 2 => 2 | 3 => 3 | 4 => 4 | 5 => 6 | 6 => 8 | _ => 12

/-- Integer view of an E2M1 code: twice its value; 0b1000 is zero (R79). The fold takes the factor back (R80). -/
def e2m1View (c : Nat) : Int :=
  let m : Int := e2m1Mag2 (c % 8)
  if c / 8 % 2 = 1 then -m else m

/-- The decoded value of an E2M1 code. -/
def e2m1Val (c : Nat) : Rat := (e2m1View c : Rat) / 2

/-- Two's complement value of the low `w` bits of `c`. -/
def signedOf (w c : Nat) : Int :=
  let v := c % 2 ^ w
  if 2 ^ (w - 1) ≤ v then (v : Int) - 2 ^ w else v

/-- The integer view of a code with zero point `z` (R81). TERNARY is read as INT2, 0b10 as −2 (R78); the digits and
signs of R89 and R90 are how the cell forms the same product. -/
def intView (f : Fmt) (c z : Nat) : Int :=
  match f with
  | .e2m1 => e2m1View c
  | .int4 => signedOf 4 c
  | .uint4zp => (c % 16 : Int) - (z % 16 : Nat)
  | .int2 | .ternary => signedOf 2 c
  | .int8 => signedOf 8 c
  | .uint8zp => (c % 256 : Int) - (z % 256 : Nat)
  | _ => 0

/-- The code of element `e` of a row of `w`-bit elements (w ≤ 8), packed by R100. -/
def codeAt (w : Nat) (row : List Byte) (e : Nat) : Nat :=
  ((row.getD (e * w / 8) 0#8).toNat >>> (e * w % 8)) % 2 ^ w

/-- Pack `w`-bit codes (w ≤ 8) into bytes, element 0 in the low bits; the last byte is filled with zero codes (R100, R101). -/
def packCodes (w : Nat) (codes : List Nat) : List Byte :=
  let per := 8 / w
  (List.range (ceilDiv codes.length per)).map fun i =>
    BitVec.ofNat 8 ((List.range per).foldl (fun a j => a + (codes.getD (i * per + j) 0 % 2 ^ w) * 2 ^ (j * w)) 0)

/-! Scales (R82 to R85). -/

/-- A BF16 row scale: a positive value, a zero row, or invalid (R83, R84). -/
inductive Scale where
  | value (s : Rat)
  | zeroRow
  | invalid
deriving DecidableEq, Repr

def readScale (n : Nat) : Scale :=
  match decodeBf16 n with
  | .num s m => if m = 0 then .zeroRow else if s then .invalid else .value m
  | _ => .invalid

/-- 2^(g − 127) for an E8M0 code; none for 0xFF (Table 3-4). -/
def e8m0 (g : Nat) : Option Rat := if g = 255 then none else some (pow2 ((g : Int) - 127))

/-! LA128 and XS64. -/

def laMax : Int := 2 ^ 127 - 1
def laMin : Int := -(2 ^ 127)

/-- The least significant weight of an LA128 with anchor `a`: 2^(a − 126) (R96, R98). -/
def laUnit (a : Int) : Rat := pow2 (a - 126)

/-- la128_round of R146: the value L × 2^(A − 126) rounded once to `fmt`. -/
def laRound (fmt : FpFmt) (l a : Int) : Fp := rnRat fmt ((l : Rat) * laUnit a)

/-- Conversion of the exact LA128 value with anchor `a` to XS64 with anchor `j` (R97, R98, R150): the integer X, or none
for INVALID, and whether rounding for underspan took place. -/
def laToXs (l a j : Int) : Option Int × Bool :=
  let x := (l : Rat) * laUnit a / pow2 (j - 62)
  let r := roundEven x
  let inex := decide ((r : Rat) ≠ x)
  if -(2 ^ 63 - 1) ≤ r ∧ r ≤ 2 ^ 63 - 1 then (some r, inex) else (none, inex)

/-! The pairwise tree (R151). -/

/-- The least power of two not below n, given as its exponent (n ≤ 2^k ≤ 2^40). -/
def treeDepth (n : Nat) : Nat := if n ≤ 1 then 0 else Nat.log2 (n - 1) + 1

/-- tree(lo, 2^k) over `n` terms; absent beyond n. -/
def treeSum (add : Fp → Fp → Fp) (x : Nat → Fp) (n : Nat) : Nat → Nat → Option Fp
  | 0, lo => if lo < n then some (x lo) else none
  | k + 1, lo =>
    match treeSum add x n k lo, treeSum add x n k (lo + 2 ^ k) with
    | some a, some b => some (add a b)
    | some a, none => some a
    | none, b => b

/-- One rounded addition of a tree node: IEEE 754 onto `fmt`, then the flush of R93. -/
def nodeAdd (fmt : FpFmt) (flush : Bool) (a b : Fp) : Fp := flushSub flush (rnFp fmt (fpAdd a b))

/-- A rounded reduction of a list (R151, R152). -/
def treeReduce (fmt : FpFmt) (flush : Bool) (xs : List Fp) : Fp :=
  (treeSum (nodeAdd fmt flush) (fun i => xs.getD i (.num false 0)) xs.length (treeDepth xs.length) 0).getD (.num false 0)

/-! Grids of the quantiser (Table 6-4). -/

/-- Qmax of a signed output format. -/
def qMax : Fmt → Nat
  | .e2m1 | .act | .d4 => 6
  | .int4 => 7
  | .int2 | .ternary => 1
  | .int8 => 127
  | .uint4zp => 15
  | .uint8zp => 255
  | _ => 0

/-- The magnitudes of the E2M1 grid, in units of one half, by code. -/
def e2m1Grid : List Nat := [0, 1, 2, 3, 4, 6, 8, 12]

/-- The index of the largest entry of a rising list that is at most `y`. -/
def gridBelow (g : List Nat) (y : Rat) : Nat :=
  ((List.range g.length).filter fun i => decide ((g.getD i 0 : Rat) ≤ y)).length - 1

/-- Round a magnitude within the grid of `f` to the index of its code: nearest with ties to the code with
bit 0 clear (R171), or stochastic with the number `r` (R172). -/
def roundMag (f : Fmt) (stoch : Option Nat) (y : Rat) : Nat :=
  let pick := fun (i : Nat) (a b : Rat) =>
    match stoch with
    | some r => if y = a then i else if (r : Rat) * (b - a) < (y - a) * 2 ^ 24 then i + 1 else i
    | none =>
      let mid := (a + b) / 2
      if y < mid then i else if mid < y then i + 1 else if i % 2 = 0 then i else i + 1
  match f with
  | .e2m1 | .act | .d4 =>
    let i := gridBelow e2m1Grid (2 * y)
    if i = 7 then 7 else pick i ((e2m1Grid.getD i 0 : Rat) / 2) ((e2m1Grid.getD (i + 1) 0 : Rat) / 2)
  | _ =>
    let i := y.floor.toNat
    pick i (i : Rat) ((i : Rat) + 1)

/-- The code of a signed format for sign and grid index; a zero has code 0 (R163, R171). -/
def signedCode (f : Fmt) (neg : Bool) (i : Nat) : Nat :=
  if i = 0 ∨ neg = false then i
  else match f with
    | .e2m1 | .act | .d4 => 8 + i
    | .int4 => 16 - i
    | .int2 | .ternary => 4 - i
    | _ => 256 - i

/-- A positive rational rounded upward onto the BF16 grid, subnormals included, held to 0x0001 and 0x7F7F
(R164); as a bit pattern. -/
def bf16Up (x : Rat) : Nat :=
  let q := max (floorLog2 x - 7) (-133)
  let v := ((ratCeil (x / pow2 q) : Int) : Rat) * pow2 q
  if ((255 : Nat) : Rat) * pow2 120 < v then 0x7F7F else encodeBf16 (.num false v)

/-- A nonnegative rational rounded upward onto FP32, as a bit pattern (AMAX of Table 6-5). -/
def fp32Up (x : Rat) : Nat :=
  if x = 0 then 0 else
    let q := max (floorLog2 x - 23) (-149)
    let v := ((ratCeil (x / pow2 q) : Int) : Rat) * pow2 q
    if pow2 128 ≤ v then 0x7F800000 else encodeFp32 (.num false v)

end Sys2Proof.Machine
end

