-- ==== Sys2Proof/Machine/State.lean ====
section
/-! DEFINITION. The machine's state as plain data: registers, memories, seats, engines, links, time,
security, management and power, the queue of waiting commands, and the state after reset.
Arrays, wide paths, quantisers, copy engines, routers and the host port meet in the Central Store alone (R28 to R32);
every partition, port and watchdog reads the one time word of the device (R44). -/

namespace Sys2Proof.Machine

/-- Ordering numbers (R5). -/
inductive Variant where
  | h32 | b32 | b28
deriving DecidableEq, Repr

/-- STATE of a seat (Table 2-6). -/
inductive SeatState where
  | free | waking | active | faulted | releasing
deriving DecidableEq, Repr

/-- State of a TDISP device interface (Table 15-12). -/
inductive TdiState where
  | unlocked | locked | run | error
deriving DecidableEq, Repr

/-- State of a fabric port (Table 11-9). -/
inductive PortState where
  | down | training | timing | up | miswired
deriving DecidableEq, Repr

/-- Power states (R486); ACTIVE and IDLE differ only in whether a partition is awake. -/
inductive PowerState where
  | reset | aoOnly | on | retired
deriving DecidableEq, Repr

/-- How far the boot has come: ROM verifying, firmware verified, ready, or BOOT_FAILED (R428, R497). -/
inductive BootState where
  | held | rom | verified | ready | failed
deriving DecidableEq, Repr

/-- What leaves the device, as an observer outside sees it. -/
inductive Emission where
  /-- an MSI-X message of a vector, with its table entry's address and data -/
  | msix (vector : Nat) (addr : Nat) (data : Nat)
  /-- the completion of a host read: bytes, and the poisoned (EP) attribute (R240) -/
  | readData (bytes : List Byte) (poisoned : Bool)
  /-- the answer to a configuration request: normal, or Configuration Request Retry Status -/
  | config (normal : Bool)
  /-- a completion with Unsupported Request -/
  | unsupportedRequest
  /-- a memory read request on the host port; `stream` is the bound IDE stream when T = 1 is set -/
  | hostRead (tag addr len : Nat) (stream : Option (Fin 8))
  | hostWrite (addr : Nat) (data : List Byte) (poisoned : Bool) (stream : Option (Fin 8))
  /-- a cell on a port: lane group, codeword header (Table 11-2), and body before link encryption -/
  | cell (port group : Nat) (header : BitVec 20) (body : List Byte)
  | mark (port group : Nat) (m : Mark)
  | ident (port : Nat) (i : Ident)
  | timeReq (port : Nat) (t1 : BitVec 80)
  | timeReply (port : Nat) (t2 t3 : BitVec 80)
  | keyShare (port : Nat)
  | authTag (port : Nat) (tag : BitVec 128)
  /-- a frame on the field network -/
  | can (ident : BitVec 11) (data : List Byte)
  /-- an object reply on the host mailbox (Table 16-2) -/
  | mailbox (data : List Byte)
  /-- an SPDM or TDISP response, on its path, as bytes -/
  | spdm (path : Path) (msg : List Byte)
  /-- one line of the service UART -/
  | uart (line : String)
  /-- a key-chain frame of this many low pulses on CHAIN_OUT (R453) -/
  | chainOut (pulses : Nat)
  /-- the level of THERM_ALERT_N: driven low, or released (R493) -/
  | thermAlert (low : Bool)
deriving DecidableEq, Repr

/-- The bytes from `lo` up to `hi` that a descriptor writes; the read guard judges them by granules of 4 KiB (R73). -/
structure Region where
  lo : Nat
  hi : Nat
deriving DecidableEq, Repr

/-- One atomic or hasp operation waiting for a line (R247, R281). `op` is the AOP or HOP code. -/
structure LineOp where
  isHasp  : Bool
  op      : Nat
  part    : Nat
  addr    : Nat
  wide    : Bool
  operand : Nat
  compare : Nat
  result  : Nat
deriving DecidableEq, Repr

/-- A tile in work: the descriptor's array and slot, its tile index, the array and slot of the retry of R397, and the
tile-row whose outlier records the descriptor has begun (R182). -/
structure TileWork where
  array  : Nat
  slot   : Nat
  tile   : Nat
  tiles  : Nat
  retry  : Option (Nat × Nat)
  listed : Option Nat
deriving DecidableEq, Repr

/-- A transfer of a collective to or from one neighbour (R353): port, flow, PART, its cells, and how many have been
sent or placed. `closed` is whether it is acknowledged (as a receiver) or posted (as a sender), `post` the posted
write then. -/
structure Transfer where
  port   : Nat
  flow   : Nat
  part   : Nat
  cells  : Nat
  moved  : Nat
  closed : Bool
  post   : Nat
deriving DecidableEq, Repr

/-- A side value (Table 12-8): SUMSQ, NONFINITE, FLAGS, POLICY. -/
structure SideVal where
  sumsq     : Int
  nonfinite : Nat
  flags     : Nat
  policy    : Nat
deriving DecidableEq, Repr

/-- A cell the router holds for one of its flows: PART, SEQ, RANK, POISON and the element bytes (Table 12-2), and the
common nanosecond at which it becomes ready to leave (R351). -/
structure FlowCell where
  port   : Nat
  flow   : Nat
  part   : Nat
  seq    : Nat
  rank   : Nat
  poison : Bool
  ready  : Nat
  bytes  : List Byte
deriving DecidableEq, Repr

/-- Results that have come or been finished and wait until their transfers are whole (R333): flow, PART and SEQ of the cell
that brought them, the global index of the first element, poison, and the bytes for DST. -/
structure PlacedCell where
  flow   : Nat
  part   : Nat
  seq    : Nat
  first  : Nat
  poison : Bool
  bytes  : List Byte
deriving DecidableEq, Repr

/-- A collective in work (R350 to R367): its rounds, the transfers it sends and receives, the cells placed so far (port,
flow, PART, SEQ), the board contributions held (R358), the results that wait for their transfers, whether it has begun,
lost a cell, or read poison, the ports its SIDE cell is queued on, its local side value and those received. -/
structure CollWork where
  start      : Nat
  last       : Nat
  sends      : List Transfer
  recvs      : List Transfer
  got        : List (Nat × Nat × Nat × Nat)
  hold       : List FlowCell
  placed     : List PlacedCell
  begun      : Bool
  lost       : Bool
  poison     : Bool
  sidePorts  : List Nat
  sideExpect : Nat
  side       : SideVal
  sides      : List SideVal
deriving DecidableEq, Repr

/-- What a started descriptor still has to do. -/
inductive Work where
  /-- its work has ended; only its completion is left -/
  | done
  /-- its data are moved; its check value, by the bytes as they were written, is settled at its end: `again` if the
  destination is read again for it (R258) -/
  | checkValue (v : Word) (again : Bool)
  /-- its effect waits until every earlier operation of the seat is performed (R278, R284) -/
  | release
  | tile (t : TileWork)
  /-- waits for a group slot of an array (R126): its tile index, and the tile-row whose outlier records are begun -/
  | slotWait (array tile : Nat) (listed : Option Nat)
  /-- waits for a shared-cache line fill -/
  | lineWait (o : LineOp)
  /-- a HASP ACQUIRE waits for its hasp; `due` is whether an event of R284 lets it be tried again -/
  | haspWait (o : LineOp) (due : Bool)
  /-- a fence: KIND, ALL, DEST; for HOST the tag of the read issued (R271) -/
  | fence (kind : Nat) (all : Bool) (dest : Nat) (tag : Option Nat)
  /-- a host transfer: host address, store address, bytes left, and the tag of the read outstanding, if one is -/
  | hostRead (host cs left : Nat) (tag : Option Nat)
  /-- a group launch accepted and waiting for its instant -/
  | launch (gq : Nat)
  | coll (c : CollWork)
  /-- PUT cells wait to be handed to the router -/
  | put (left : Nat)
deriving DecidableEq, Repr

/-- A started descriptor of a seat: its ring index, words and record copy taken at dispatch, STATUS and work. -/
structure Run where
  index   : Word
  words   : List Word
  record  : List Byte
  status  : Nat
  work    : Work
  guard   : List Region
  tensor  : Nat
  /-- void: its tile still ends, and nothing more is done (R58, R404) -/
  void    : Bool
  /-- array or engine, 0xFF for neither (Table 16-7) -/
  unit    : Nat
deriving DecidableEq, Repr

/-- The descriptor at the head of a seat's queue, read and checked (R60). -/
structure Head where
  index : Word
  words : List Word
deriving DecidableEq, Repr

/-- A doorbell held during a wake (R35): register offset in the page and value. -/
structure HeldBell where
  offset : Nat
  value  : Word
deriving DecidableEq, Repr

/-- State of a seat beside its registers. -/
structure SeatRec where
  state     : SeatState
  head      : Option Head
  running   : List Run
  prodAcc   : Word
  gqAcc     : Word
  cqAcc     : Word
  eqAcc     : Word
  heldBells : List HeldBell
  wdStart   : Option Nat
  drainDue  : Option Nat
  quietTill : Nat
  heldEvent : Bool
  /-- the descriptor whose completion waits for a free slot of the completion ring (R69) -/
  cqHeld    : Option Word
  tdi       : TdiState
  tdiStream : Option (Fin 8)
  tdiNonce  : BitVec 256
  wardKey   : Option (BitVec 512)
  fenceBad  : List (Nat × Nat)
deriving DecidableEq, Repr

/-- A partition reset under way (R408): its cause, start, the jobs whose forfeits must take effect and the posted
writes that must settle before it ends (R286). -/
structure PartReset where
  cause : ResetCause
  start : Nat
  jobs  : List Nat
deriving DecidableEq, Repr

/-- State of a partition beside its registers. -/
structure PartRec where
  gated    : Bool
  gatingAt : Option Nat
  wakeAt   : Option Nat
  creates  : List Nat
  resetting : Option PartReset
  resetQueued : Option ResetCause
  wdStart  : Option Nat
  lowV     : Bool
  /-- `uptime` when each engine last took a descriptor since its status register held its reset value (R489), by the
  register's offset -/
  worked   : SMap Nat
deriving DecidableEq, Repr

/-- A group slot of an array (R126): its binding, anchors, marks, the LA128 entries keyed row × 128 + column, and
the 257 checksum accumulators (rows 0–127, columns 128–255, total 256). -/
structure Slot where
  seat     : Option Nat
  handle   : Nat
  anchor   : Int
  eff      : Int
  span     : Bool
  invalid  : Bool
  lost     : Bool
  poisoned : Bool
  entries  : SMap Int
  nan      : SMap Bool
  sat      : SMap Bool
  chk      : SMap Int
deriving DecidableEq, Repr

/-- State of a matrix array beside its registers: its group slots, the local seat that last won one (R126), retirement and
fault count (R399, R400), its clock gate, the seat whose tile is in the cells, when that tile entered, when the cells were
last empty, and the GATE_IDLE in force since its last tile boundary (R133). -/
structure ArrRec where
  slots    : SMap Slot
  lastWon  : Nat
  retired  : Bool
  faults   : Nat
  gated    : Bool
  busy     : Option Nat
  since    : Nat
  idleFrom : Nat
  gateIdle : Nat
deriving DecidableEq, Repr

/-- A line of the shared cache: partition, line number, its 128 bytes, poison per sector, dirty (R242). -/
structure CacheLine where
  part   : Nat
  line   : Nat
  bytes  : List Byte
  poison : List Bool
  dirty  : Bool
deriving DecidableEq, Repr

/-- A stored HBM sector: the ward key it was written under, the 64 plaintext bytes, and its poison (R436, R294). -/
structure HbmSector where
  key    : BitVec 512
  bytes  : List Byte
  poison : Bool
deriving DecidableEq, Repr

/-- A pass of a stack's patrol scrub (R295): `uptime` at its start, the PERIOD in force in hours, and by channel the sector
after the last one read. -/
structure ScrubPass where
  start  : Nat
  period : Nat
  pos    : SMap Nat
deriving DecidableEq, Repr

/-- State of an HBM stack beside its registers (R295 to R307): when its readout last came, since when it has been cool
enough to fall a step, the pass of its patrol scrub, the rows in the repair list (channel × 2^15 + row), the corrected errors
of each row since bring-up, per channel the spare lanes and rows that repairs have used, the channels that retrain and
their failed retrainings in succession, the temperature at the last calibration, and since when a reservation of a
partition has been short. -/
structure StackRec where
  readAt    : Nat
  coolFrom  : Option Nat
  scrub     : Option ScrubPass
  repair    : List Nat
  rowErrs   : SMap Nat
  lanesUsed : SMap Nat
  rowsUsed  : SMap Nat
  retraining : List Nat
  retrainFails : SMap Nat
  calTemp   : Nat
  shortFrom : SMap Nat
deriving DecidableEq, Repr

/-- An accepted group launch waiting for its instant (R65); the descriptor that asked for it, if any. -/
structure Launch where
  gq    : Nat
  count : Nat
  due   : Nat
  asker : Option (Nat × Word)
deriving DecidableEq, Repr

/-- A posted fabric write that is not settled (R274, R275). `seat` is the seat that posted it, plus 512 once that seat has
been released; `coll` says that it is a transfer of a collective. -/
structure Posted where
  id      : Nat
  coll    : Bool
  seat    : Nat
  index   : Word
  job     : Nat
  tag     : Word
  dest    : Nat
  due     : Nat
deriving DecidableEq, Repr

/-- An outstanding host-port read: the HOST_XFER data read or the zero-length read of a HOST fence (R261, R271). -/
structure HostRead where
  tag   : Nat
  seat  : Nat
  index : Word
  cs    : Nat
  len   : Nat
  fence : Bool
deriving DecidableEq, Repr

/-- A turn-table entry (Table 11-6). -/
structure Turn where
  kind : Nat
  len  : Nat
  flow : Nat
deriving DecidableEq, Repr

/-- A schedule in a bank (R325 to R327). -/
structure Schedule where
  id     : Word
  len    : Nat
  origin : Nat
  mask   : Nat
  tables : List (List Turn)
deriving DecidableEq, Repr

/-- What an OPEN queue or CTRL queue of a port holds: the cell body, the posted write of this device it belongs to, the one
it ends, and the port whose receive buffer it still fills (R335, R336). -/
structure QCell where
  body : List Byte
  of   : Option Nat
  post : Option Nat
  hold : Option Nat
deriving DecidableEq, Repr

/-- The turn a port's receiver is in, on one lane group: its MARK, the cells kept until the next MARK confirms them (R341),
the round in which its MARK arrived (R314), and how many of its cells belong to a step that has been closed (R382). -/
structure RxTurn where
  mark  : Mark
  cells : List (Nat × Nat × List Byte)
  missed : Bool
  round : Nat
  kept  : Nat
deriving DecidableEq, Repr

/-- A MAINT cell that waits for a MAINT turn (R339): IDENT, a time reply with its t2, or a key share. -/
inductive MaintCell where
  | ident (i : Ident)
  | timeReply (t2 : BitVec 80)
  | keyShare
deriving DecidableEq, Repr

/-- State of a fabric port beside its registers (R310 to R342, R442 to R444). -/
structure PortRec where
  state     : PortState
  trainAt   : Nat
  /-- the PMA has trained and the FEC has locked, so the port runs a turn table; and when its bring-up rounds began -/
  trained   : Bool
  upBase    : Nat
  retryDue  : Option Nat
  retryStep : Nat
  ident     : Option Ident
  exchanges : Nat
  advert    : Option (Nat × Nat × Bool)
  asked     : Option (BitVec 80)
  sent      : BitVec 16
  freedMine : BitVec 16
  freedPeer : BitVec 16
  openQ     : List QCell
  ctrlQ     : List QCell
  schedQ    : List FlowCell
  maintQ    : List MaintCell
  /-- the transfers (flow, PART) refused on this port since their cell 0 came (R352) -/
  refused   : List (Nat × Nat)
  rx        : SMap RxTurn
  discards  : SMap Nat
  misses    : Nat
  missFired : Bool
  /-- the partner turn counted as missed last -/
  missed    : Option (Nat × Nat)
  prevCheck : SMap Word
  turnNext  : Nat
  roundNext : Nat
  /-- OPEN-cell slots of the present stall window, and those in which a queued cell had no credit (R337); the windows in
  succession with a share above 10%, and the thousands of them that SLIP has counted (R338) -/
  openSlots  : Nat
  stallSlots : Nat
  stallRun  : Nat
  slips     : Nat
  /-- is the link encrypted, by the setting in force when the port last trained -/
  crypt     : Bool
  linkKey   : Option (BitVec 256)
  txInterval : BitVec 64
  txCells   : List Byte
  interval  : BitVec 64
  ivCells   : List Byte
  ivJobs    : List Nat
  ivDirty   : Bool
deriving DecidableEq, Repr

/-- The time base beside its registers (R318 to R338). -/
structure TimeBase where
  counting   : Bool
  timeValid  : Bool
  locked     : Bool
  wasLocked  : Bool
  holdover   : Option Nat
  trefOk     : Bool
  parent     : Option Nat
  source     : Nat
  hops       : Nat
  followConflict : Bool
  stepped    : Bool
  good       : Nat
  slew       : Int
  /-- what the slew has not yet applied, in millionths of 2^-16 ns (R321) -/
  slewRem    : Int
  acc        : Int
  suppressed : Bool
  active     : Option Schedule
  baseRound  : Nat
  baseTime   : Nat
  standing   : Option Schedule
  armed      : Option Nat
  install    : Option (Nat × Nat)
  round      : Nat
  hostRun    : Nat
  hostSlips  : Nat
deriving DecidableEq, Repr

/-- A forfeit this device knows of (R410 to R415). -/
structure Forfeit where
  job    : Nat
  effect : Nat
  tag    : Nat
  cause  : Nat
  origin : Nat
deriving DecidableEq, Repr

/-- A posted write that this device refused as its target: source hall index, job (0 where the refused cell carries none),
SEQ_TAG, and whether more of its cells may follow (R279). -/
structure PriorRefusal where
  source : Nat
  job    : Nat
  tag    : Nat
  more   : Bool
deriving DecidableEq, Repr

/-- A seen pair (source hall index, SEQ_TAG), kept until a round (R413). -/
structure SeenPair where
  source : Nat
  tag    : Nat
  till   : Nat
deriving DecidableEq, Repr

/-- What EC_ holds beside its registers. -/
structure ErrorControl where
  holdTill   : Nat
  held       : Bool
  forfeits   : List Forfeit
  seen       : List SeenPair
  forfeited  : List Nat
  originated : Nat
  /-- `uptime` when the device reset under way began, and whether its steps up to bring-up have been taken -/
  devReset   : Option Nat
  devDone    : Bool
  /-- the shaker's tests in progress, and when each test of a unit last started -/
  shakeUnits : List (Nat × ShakeUnit × ShakeTest × ShakeCond)
  shakeSeen  : List ((Nat × ShakeUnit × ShakeTest × ShakeCond) × Nat)
  retiredHbm : Bool
deriving DecidableEq, Repr

/-- A closed step whose STEP_END is still to be written (R384): step number, first round, record count, whether a record
of it was dropped, and the digest. -/
structure RecEnd where
  step    : Nat
  first   : Nat
  count   : Nat
  dropped : Bool
  digest  : List Byte
deriving DecidableEq, Repr

/-- The step recorder beside its registers (R381 to R387). `pendBegin` holds the round and the step number of a BEGIN
that waits; while a step is replayed, `dropped` says that delivery has ended. -/
structure Recorder where
  openStep  : Option Nat
  firstRound : Nat
  pendBegin : Option (Nat × Nat)
  pendEnd   : Bool
  count     : Nat
  hash      : Sha
  dropped   : Bool
  ending    : List RecEnd
  replay    : Bool
  lastRound : Nat
  /-- what a replayed step adds to round numbers (R387) -/
  shift     : Int
  index     : List (List Byte)
deriving DecidableEq, Repr

/-- An SPDM session (R433): its number, the path it came by, the DRBG draw of its share, and whether FINISH has ended
its handshake. -/
structure Session where
  number  : Nat
  path    : Path
  draw    : Nat
  secured : Bool
deriving DecidableEq, Repr

/-- A signature under way (R446): the cause found at GO, the seat, and its CGEN and EPOCH then. -/
structure Signing where
  cause : Nat
  seat  : Nat
  cgen  : Nat
  epoch : Nat
deriving DecidableEq, Repr

/-- What SC_ holds beside its registers (R427 to R446). -/
structure Security where
  svnFused  : Nat
  revoked   : List Nat
  drbgOk    : Bool
  wardSeed  : Nat
  draws     : Nat
  /-- is the identity derived, so that the SPDM responder answers (R497)? -/
  attest    : Bool
  sessions  : List Session
  ideLink   : Bool
  ideSel    : List (Fin 8)
  ideBad    : List (Fin 8)
  signing   : Option Signing
  /-- the IDE attributes of the last write of each SC_SIGN register, by offset -/
  signVia   : List (Nat × Tlp)
  signCount : Nat
deriving DecidableEq, Repr

/-- State of the field network (Table 16-11). -/
inductive FnState where
  | listen | electing | active | lonely
deriving DecidableEq, Repr

/-- The field network, key chain, election and alarms (R449 to R459). -/
structure FieldNet where
  enabled    : Bool
  state      : FnState
  /-- 0 none, 1 key chain, 2 election -/
  source     : Nat
  address    : Nat
  /-- the ADDR_BASE in force (R469) -/
  base       : Nat
  chainIndex : Nat
  lastCount  : Option Nat
  tec        : Nat
  rxErr      : Nat
  busOff     : Bool
  unacked    : Nat
  /-- frames waiting to be sent, in order -/
  pending    : List (BitVec 11 × List Byte)
  hbLast     : Nat
  chainLast  : Nat
  noted      : List Nat
  listened   : Bool
  contending : Bool
  round      : Nat
  listenFrom : Nat
  bidLast    : Nat
  alarmFault : Word
  alarmArray : Word
  alarmFrom  : Option Nat
  alarmLast  : Option Nat
  rateDue    : Option Nat
  rateNow    : Nat
  /-- an SPDM message being received through the tunnel: the counter of its last segment and its bytes; and one received -/
  tunnel     : Option (Nat × List Byte)
  message    : Option (List Byte)
deriving DecidableEq, Repr

/-- A segment buffer of WRITE_SEG (R462). -/
structure SegBuf where
  obj   : ObjId
  total : Nat
  data  : List Byte
deriving DecidableEq, Repr

/-- An image in a firmware slot, as its header states it (R428, R481). -/
structure Image where
  valid   : Bool
  svn     : Nat
  variant : Nat
  schema  : Nat
  version : String
  digest  : Nat
deriving DecidableEq, Repr

/-- One settings block of the firmware store (R478): entries are object keys and values. -/
structure Settings where
  schema    : Nat
  committed : Bool
  seq       : Nat
  trialSeq  : Nat
  entries   : SMap Nat
deriving DecidableEq, Repr

/-- The firmware store and boot state (R475 to R481). -/
structure Firmware where
  boot       : BootState
  /-- `uptime` when the reset began in which the boot ROM last started -/
  bootAt     : Nat
  selSeq     : Nat
  committed  : Nat
  trial      : Option Nat
  trialCount : Nat
  /-- the selector's SEQ that named the running trial (R478) -/
  trialSeq   : Nat
  /-- a trial has failed, and the next boot is in state FALLEN_BACK (R477) -/
  fell       : Bool
  running    : Nat
  bootState  : Nat
  images     : List Image
  blocks     : List Settings
  /-- the schema of the block the settings came from; none while defaults are in use -/
  inUse      : Option Nat
  /-- the fused SVN and the bytes of the settings block at boot, as measured (R432) -/
  bootFused  : Nat
  bootBlock  : List Byte
  windowEnd  : Option Nat
  healthOk   : Bool
  orphaned   : Bool
  segField   : Option SegBuf
  segHost    : Option SegBuf
deriving DecidableEq, Repr

/-- The service UART (R471, R472). -/
structure Uart where
  text        : Bool
  rateNow     : Nat
  rateNext    : Option Nat
deriving DecidableEq, Repr

/-- Power and thermal control (R485 to R496). -/
structure Power where
  state     : PowerState
  /-- since when every sensor has been below T_TRIP − 10 °C; power and sensors low enough to lower the step; VIN and
  sensors good enough to end a core loss (R493, R491, R495) -/
  coolFrom  : Option Nat
  calmFrom  : Option Nat
  okFrom    : Option Nat
  lastRaise : Nat
  /-- THERM_ALERT_N is driven low -/
  hot       : Bool
  lastEval  : Nat
  /-- VIN energy in nJ, and nanoseconds spent with the power step above 0 -/
  energy    : Nat
  cappedNs  : Nat
  csReady   : Bool
  hbmReady  : Bool
  perstLow  : Bool
  pos       : BitVec 3
  posTaken  : Bool
  /-- the core was lost and has not restarted (R494) -/
  lost      : Bool
deriving DecidableEq, Repr

/-- The whole state of the device, the queue of waiting commands and what has left the device. -/
structure State where
  /-- commands waiting, first in, first out -/
  pending  : List Instr
  variant  : Variant
  stepping : Byte
  serial   : BitVec 64
  /-- stored registers by BAR0 byte offset; an unlisted register reads as its reset value -/
  regs     : SMap Word
  /-- RW/P registers whose stored parity does not match, by BAR0 offset -/
  badParity : List Nat
  /-- the dictionary's stored values, keyed index × 256 + sub-index; an unlisted entry reads as its default -/
  objs     : SMap Nat
  /-- the time word: nanoseconds in bits 79:16, fraction in bits 15:0 (R318) -/
  time     : BitVec 80
  /-- nanoseconds since the last power-on reset -/
  uptime   : Nat
  seats    : SMap SeatRec
  parts    : SMap PartRec
  arrays   : SMap ArrRec
  launches : List Launch
  csMem    : SMap Byte
  csPoison : SMap Bool
  csUpset  : SMap EccSeen
  cache    : List CacheLine
  fills    : List (Nat × Nat)
  resize   : Option Nat
  heldCreates : List Nat
  /-- is a pass of the Central Store's patrol scrub under way (R241) -/
  csScrub  : Bool
  hbm      : SMap HbmSector
  hbmUpset : SMap EccSeen
  hbmStacks : SMap StackRec
  posted   : List Posted
  refusals : List PriorRefusal
  nextId   : Nat
  hostReads : List HostRead
  ports    : SMap PortRec
  tb       : TimeBase
  ec       : ErrorControl
  rec_     : Recorder
  sc       : Security
  fn       : FieldNet
  fw       : Firmware
  uart     : Uart
  pw       : Power
  /-- what has left the device, newest first -/
  out      : List Emission
  /-- the model's own counter of free values (Config.freeByte) -/
  free     : Nat
deriving DecidableEq, Repr

/-- The machine never faults: errors of the device are effects on its state. The one constructor stands for a
read of a Central Store, HBM or register address that the specification says does not exist, which no command
reaches; nobody raises it, and it is safe. -/
inductive Fault where
  | noSuchAddress
deriving DecidableEq, Repr

/-- Why a command has no outcome. -/
inductive Refusal where
  /-- a command whose meaning is not written; raised by the arms of Dispatch only; safe -/
  | notModelled (mnemonic : String)
deriving DecidableEq, Repr

/-! Values of unlisted entries. -/

def SeatRec.fresh : SeatRec :=
  { state := .free, head := none, running := [], prodAcc := 0, gqAcc := 0, cqAcc := 0, eqAcc := 0,
    heldBells := [], wdStart := none, drainDue := none, quietTill := 0, heldEvent := false, cqHeld := none,
    tdi := .unlocked, tdiStream := none, tdiNonce := 0, wardKey := none, fenceBad := [] }

def PartRec.fresh : PartRec :=
  { gated := true, gatingAt := none, wakeAt := none, creates := [], resetting := none, resetQueued := none,
    wdStart := none, lowV := false, worked := [] }

def Slot.fresh : Slot :=
  { seat := none, handle := 0, anchor := 0, eff := 0, span := false, invalid := false, lost := false,
    poisoned := false, entries := [], nan := [], sat := [], chk := [] }

def ArrRec.fresh : ArrRec :=
  { slots := [], lastWon := 15, retired := false, faults := 0, gated := true, busy := none, since := 0, idleFrom := 0,
    gateIdle := 16 }

/-- No bytes: what the sector holds is unspecified until it is written (R299). -/
def HbmSector.fresh : HbmSector := { key := 0, bytes := [], poison := false }

def StackRec.fresh : StackRec :=
  { readAt := 0, coolFrom := none, scrub := none, repair := [], rowErrs := [], lanesUsed := [], rowsUsed := [],
    retraining := [], retrainFails := [], calTemp := 0, shortFrom := [] }

def PortRec.fresh : PortRec :=
  { state := .down, trainAt := 0, trained := false, upBase := 0, retryDue := none, retryStep := 0, ident := none, exchanges := 0, advert := none,
    asked := none, sent := 0, freedMine := 0, freedPeer := 0, openQ := [], ctrlQ := [], schedQ := [], maintQ := [], refused := [], rx := [],
    discards := [], misses := 0, missFired := false, missed := none, prevCheck := [], turnNext := 0, roundNext := 0, openSlots := 0, stallSlots := 0, stallRun := 0, slips := 0,
    crypt := false, linkKey := none, txInterval := 0, txCells := [], interval := 0, ivCells := [], ivJobs := [], ivDirty := false }

def TimeBase.fresh : TimeBase :=
  { counting := false, timeValid := false, locked := false, wasLocked := false, holdover := none, trefOk := false,
    parent := none, source := 0, hops := 0, followConflict := false, stepped := false, good := 0, slew := 0, slewRem := 0, acc := 0,
    suppressed := false, active := none, baseRound := 0, baseTime := 0, standing := none, armed := none,
    install := none, round := 0, hostRun := 0, hostSlips := 0 }

def ErrorControl.fresh : ErrorControl :=
  { holdTill := 0, held := false, forfeits := [], seen := [], forfeited := [], originated := 0, devReset := none,
    devDone := false, shakeUnits := [], shakeSeen := [], retiredHbm := false }

def Recorder.fresh : Recorder :=
  { openStep := none, firstRound := 0, pendBegin := none, pendEnd := false, count := 0, hash := shaStart,
    dropped := false, ending := [], replay := false, lastRound := 0, shift := 0, index := [] }

def Security.fresh : Security :=
  { svnFused := 0, revoked := [], drbgOk := false, wardSeed := 0, draws := 0, attest := false,
    sessions := [], ideLink := false, ideSel := [], ideBad := [], signing := none, signVia := [], signCount := 0 }

def FieldNet.fresh : FieldNet :=
  { enabled := false, state := .listen, source := 0, address := 0, base := 0x20, chainIndex := 0, lastCount := none,
    tec := 0, rxErr := 0, busOff := false, unacked := 0, pending := [], hbLast := 0, chainLast := 0, noted := [],
    listened := false, contending := false, round := 0, listenFrom := 0, bidLast := 0, alarmFault := 0, alarmArray := 0,
    alarmFrom := none, alarmLast := none, rateDue := none, rateNow := 2, tunnel := none, message := none }

def Image.blank : Image :=
  { valid := false, svn := 0, variant := 0, schema := 0, version := "", digest := 0 }

/-- The committed image a device is delivered with, in slot A. -/
def Image.factory : Image :=
  { valid := true, svn := 0, variant := 1, schema := 1, version := "", digest := 0 }

def Firmware.fresh : Firmware :=
  { boot := .held, bootAt := 0, selSeq := 0, committed := 0, trial := none, trialCount := 0, trialSeq := 0, fell := false, running := 0, bootState := 0,
    images := [.factory, .blank], blocks := [], inUse := none, bootFused := 0, bootBlock := [], windowEnd := none, healthOk := false,
    orphaned := false, segField := none, segHost := none }

def Uart.fresh : Uart := { text := false, rateNow := 115200, rateNext := none }

def Power.fresh : Power :=
  { state := .reset, coolFrom := none, calmFrom := none, okFrom := none, lastRaise := 0, hot := false, lastEval := 0,
    energy := 0, cappedNs := 0, csReady := false, hbmReady := false, perstLow := true, pos := 0, posTaken := false, lost := false }

/-- The device right after reset: held in power-on reset (R485), everything at its reset value, every partition
gated, memory with nothing listed, and no command waiting. -/
def State.reset : State :=
  { pending := [], variant := .h32, stepping := 0x01, serial := 0, regs := [], badParity := [], objs := [], time := 0,
    uptime := 0, seats := [], parts := [], arrays := [], launches := [], csMem := [], csPoison := [], csUpset := [],
    cache := [], fills := [], resize := none, heldCreates := [], csScrub := false, hbm := [], hbmUpset := [],
    hbmStacks := [], posted := [], refusals := [], nextId := 0, hostReads := [], ports := [], tb := .fresh, ec := .fresh, rec_ := .fresh,
    sc := .fresh, fn := .fresh, fw := .fresh, uart := .fresh, pw := .fresh, out := [], free := 0 }

end Sys2Proof.Machine
end

