-- ==== Sys2Proof/Machine/Flags.lean ====
section
/-! DEFINITION. The register map: where every register of BAR0 lies, its access code, the bits it has
and its reset value; the stored registers' read and write, sticky log bits, status fields and counters. -/

namespace Sys2Proof.Machine

/-! Where the blocks lie (Table 2-1). -/

/-- A block of Table 2-1, with its instance. -/
inductive Block where
  | mg | pw | sc | ec | hi | ctDev | tumblerLo | tumblerHi | cs | tb | msix
  | hb (k : Nat) | fb (n : Nat) | mx (p : Nat) | wp (p : Nat) | qz (p : Nat) | ce (p : Nat) | ct (p : Nat)
  | reserved
deriving DecidableEq, Repr

/-- The block of a BAR0 byte offset (R48, Table 2-1). -/
def blockOf (off : Nat) : Block :=
  let b := off / 0x10000
  if b = 0 then .mg else if b = 1 then .pw else if b = 2 then .sc else if b = 3 then .ec
  else if b = 4 then .hi else if b = 5 then .ctDev else if b = 6 then .tumblerLo
  else if b = 7 then .tumblerHi else if b = 8 then .cs else if b = 10 then .tb else if b = 11 then .msix
  else if 0x10 ≤ b ∧ b < 0x1C then .hb (b - 0x10)
  else if 0x20 ≤ b ∧ b < 0x2D then .fb (b - 0x20)
  else if 0x200 ≤ b ∧ b < 0x400 then
    let p := (b - 0x200) / 16
    match b % 16 with
    | 0 => .mx p | 1 => .wp p | 2 => .qz p | 3 => .ce p | 4 => .ct p | _ => .reserved
  else .reserved

/-- The register of an offset below its alias: offset in the block modulo 0x4000 (R22). The MSI-X table has no
aliases (R49). -/
def baseOf (off : Nat) : Nat :=
  if blockOf off = .msix then off else off - off % 0x10000 + off % 0x4000

/-- The alias of an offset: 0 base, 1 SET, 2 CLR, 3 TGL (Table 0-8). -/
def aliasOf (off : Nat) : Nat := if blockOf off = .msix then 0 else off % 0x10000 / 0x4000

/-! Offsets of registers, as BAR0 byte offsets. -/

def mgReg (o : Nat) : Nat := o
def pwReg (o : Nat) : Nat := 0x10000 + o
def scReg (o : Nat) : Nat := 0x20000 + o
def ecReg (o : Nat) : Nat := 0x30000 + o
def hiReg (o : Nat) : Nat := 0x40000 + o
def gqReg (g o : Nat) : Nat := 0x50000 + g * 0x80 + o
def tumblerReg (t : Nat) : Nat := if t < 4096 then 0x60000 + t * 4 else 0x70000 + (t - 4096) * 4
def csReg (o : Nat) : Nat := 0x80000 + o
def tbReg (o : Nat) : Nat := 0xA0000 + o
def msixReg (o : Nat) : Nat := 0xB0000 + o
def hbReg (k o : Nat) : Nat := 0x100000 + k * 0x10000 + o
def fbReg (n o : Nat) : Nat := 0x200000 + n * 0x10000 + o
def partReg (p o : Nat) : Nat := 0x2000000 + p * 0x100000 + o
def mxReg (p o : Nat) : Nat := partReg p o
def arrReg (p a o : Nat) : Nat := partReg p (0x100 + a * 0x40 + o)
def wpReg (p o : Nat) : Nat := partReg p (0x10000 + o)
def qzReg (p o : Nat) : Nat := partReg p (0x20000 + o)
def ceReg (p o : Nat) : Nat := partReg p (0x30000 + o)
def ctReg (p o : Nat) : Nat := partReg p (0x40000 + o)

/-- Registers of seat `s` in its partition's CT_ block (R54, Table 2-3). -/
def seatReg (s o : Nat) : Nat := ctReg (s / 16) (0x100 + s % 16 * 0x100 + o)
/-- Registers of seat `s` in its partition's CE_ block (R265). -/
def ceSeatReg (s o : Nat) : Nat := ceReg (s / 16) (0x100 + s % 16 * 0x10 + o)
def wpNumLog (s : Nat) : Nat := wpReg (s / 16) (0x200 + s % 16 * 4)
def wpTrainLog (s : Nat) : Nat := wpReg (s / 16) (0x240 + s % 16 * 4)
def spanLog (s : Nat) : Nat := mxReg (s / 16) (0x400 + s % 16 * 4)
def spanNeed (s : Nat) : Nat := mxReg (s / 16) (0x440 + s % 16 * 4)
def spanTag (s : Nat) : Nat := mxReg (s / 16) (0x480 + s % 16 * 4)
def qzSeatLog (s : Nat) : Nat := qzReg (s / 16) (0x100 + s % 16 * 8)
def qzAlarmTag (s : Nat) : Nat := qzReg (s / 16) (0x104 + s % 16 * 8)
def seatAttr (s : Nat) : Nat := scReg (0x1000 + s * 4)
def tdiStateReg (s : Nat) : Nat := scReg (0x1800 + s * 4)

/-! Access codes, defined bits and reset values (Table 0-7 and the register tables). -/

/-- Access codes of Table 0-7; `none` is a reserved offset. -/
inductive Access where
  | rw | rwp | ro | rs | sl | wo | none
deriving DecidableEq, Repr

/-- A register: its access code, the bits that are not reserved, and its reset value. -/
structure RegInfo where
  acc   : Access
  mask  : Nat
  reset : Nat
deriving DecidableEq, Repr

/-- A reserved offset. -/
def reservedReg : RegInfo := { acc := .none, mask := 0, reset := 0 }

def full : Nat := 0xFFFFFFFF

def rReg (a : Access) (mask : Nat) (reset : Nat := 0) : RegInfo := { acc := a, mask := mask, reset := reset }

/-- Is partition `p` present (R5, R6, R10)? -/
def partPresent (v : Variant) (p : Nat) : Bool := match v with | .b28 => decide (p < 28) | _ => decide (p < 32)

/-- Is port `n` present (R5)? -/
def portPresent (v : Variant) (n : Nat) : Bool := match v with | .h32 => decide (n < 13) | _ => decide (n < 7)

/-- Is the step recorder present (R5, R380)? -/
def recorderPresent : Variant → Bool
  | .h32 => true
  | _ => false

def numParts : Variant → Nat
  | .b28 => 28
  | _ => 32

/-- The mask of Table 0-3. -/
def partMask (v : Variant) : Nat := 2 ^ numParts v - 1

def variantCode : Variant → Nat
  | .h32 => 1 | .b32 => 2 | .b28 => 3

/-- MG_UNIT_PRESENT (Table 0-4). -/
def unitPresent (v : Variant) : Nat :=
  0x4000 + (if recorderPresent v then 0x2000 else 0) + 0x1FC0 + (match v with | .h32 => 0x3F | _ => 0)

def mgInfo (o : Nat) : RegInfo :=
  match o with
  | 0x0 | 0x10 | 0x14 => rReg .ro full
  | 0x100 | 0x120 | 0x118 => rReg .rs full
  | 0x104 => rReg .sl 0xFF
  | 0x110 => rReg .rwp 0x01FF0001
  | 0x114 => rReg .rwp 0x1F03FFFF 0x0C000000
  | 0x11C => rReg .rw full
  | _ => reservedReg

def pwInfo (v : Variant) (o : Nat) : RegInfo :=
  match o with
  | 0x0 => rReg .rwp 0x30FFF 0xC1C
  | 0x4 | 0xC | 0x10 | 0x14 => rReg .rs full
  | 0x18 => rReg .rs full full
  | 0x1C => rReg .rs (partMask v)
  | 0x8 => rReg .sl 0xF
  | 0x20 | 0x24 => rReg .ro full
  | _ => reservedReg

def scInfo (o : Nat) : RegInfo :=
  match o with
  | 0x0 | 0x20 => rReg .rs full
  | 0x4 => rReg .sl 0x1F
  | 0x8 => rReg .sl 0x1FFF1FFF
  | 0x10 => rReg .rw 0x1FF
  | 0x14 | 0x18 => rReg .rw full
  | 0x1C => rReg .wo 1
  | _ =>
    if 0x1000 ≤ o ∧ o < 0x1800 then rReg .rwp 3
    else if 0x1800 ≤ o ∧ o < 0x2000 then rReg .rs full
    else reservedReg

def ecInfo (v : Variant) (o : Nat) : RegInfo :=
  match o with
  | 0x0 | 0x24 => rReg .rs full
  | 0x4 => rReg .sl 0xF
  | 0x8 => rReg .sl 0x7FF
  | 0xC => rReg .sl 0x3F
  | 0x10 => rReg .sl 0x83FFFFFF
  | 0x14 => rReg .rwp full 0x100A07D0
  | 0x18 => rReg .rwp 0xFF
  | 0x1C => rReg .rwp 0xFFFFFF07 0x02581E07
  | 0x20 => rReg .rwp (partMask v)
  | 0x28 | 0x2C | 0x30 => rReg .wo full
  | 0x40 | 0x44 | 0x48 => rReg .sl full
  | 0x4C => rReg .sl (match v with | .b28 => 0xFFFF | _ => full)
  | 0x60 | 0x64 | 0x68 | 0x6C | 0x70 | 0x74 | 0x78 | 0x7C => rReg .rs full
  | 0x800 => rReg .rwp 1
  | 0x804 => rReg .sl 3
  | 0x810 => rReg .rwp 0x01FF00F7 0x30
  | 0x814 => rReg .rwp 0x1F03FFFF 0x0A000000
  | 0x818 | 0x834 => rReg .rs full
  | 0x81C => rReg .rw full
  | 0x820 | 0x824 | 0x828 | 0x82C => rReg .rwp full
  | 0x830 => rReg .wo 3
  | 0x838 => rReg .sl 0x3F
  | _ => reservedReg

def hiInfo (o : Nat) : RegInfo :=
  match o with
  | 0x0 => rReg .rwp 3
  | 0x4 => rReg .rs 0xFFF
  | 0x8 => rReg .sl 7
  | _ => reservedReg

def gqInfo (o : Nat) : RegInfo :=
  if 0x2000 ≤ o then reservedReg else
    match o % 0x80 with
    | 0x0 => rReg .rwp 0x800001FF
    | 0x4 => rReg .rs 1
    | 0x8 => rReg .sl 3
    | r => if 0x40 ≤ r then rReg .rwp full else reservedReg

def csInfo (o : Nat) : RegInfo :=
  match o with
  | 0x0 => rReg .rwp 0x1F 4
  | 0x4 => rReg .rwp 0xFF 0x10
  | 0x8 => rReg .rs 7
  | 0xC => rReg .sl 0xF
  | 0x10 => rReg .sl 0x8FFFFFFF
  | 0x14 | 0x20 | 0x24 | 0x28 | 0x2C => rReg .ro full
  | _ => reservedReg

def tbInfo (o : Nat) : RegInfo :=
  match o with
  | 0x0 => rReg .rwp 7
  | 0x4 => rReg .rs full 0xF000
  | 0x8 => rReg .sl 0x3F
  | 0xC | 0x34 => rReg .wo 3
  | 0x10 | 0x14 => rReg .ro full
  | 0x18 => rReg .ro 0xFFFF
  | 0x20 | 0x24 | 0x28 | 0x2C | 0x38 | 0x44 | 0x48 | 0x4C => rReg .rs full
  | 0x30 | 0x3C | 0x40 => rReg .rwp full
  | 0x50 => rReg .sl 0x3FFF
  | _ => reservedReg

/-- The MSI-X table (16 bytes per vector, 576 vectors) and the pending-bit array. Address low bits 1:0 and the
vector control's reserved bits read 0; the mask bit is 1 after reset (PRESUMED, PCIe base specification; log
entry 9). -/
def msixInfo (o : Nat) : RegInfo :=
  if o < 0x2400 then
    match o % 16 with
    | 0 => rReg .rw 0xFFFFFFFC
    | 4 | 8 => rReg .rw full
    | 12 => rReg .rw 1 1
    | _ => reservedReg
  else if 0x8000 ≤ o ∧ o < 0x8048 then rReg .ro full
  else reservedReg

def hbInfo (v : Variant) (o : Nat) : RegInfo :=
  match o with
  | 0x0 => rReg .rwp 3
  | 0x4 => rReg .rwp 0xFF 0x0C
  | 0x8 => rReg .rs 0xFF
  | 0xC => rReg .sl 0xFF
  | 0x10 => rReg .rs 0x1FF
  | 0x14 => rReg .sl 0xBFFFFFFF
  | 0x18 => rReg .ro full
  | 0x1C => rReg .rs full full
  | 0x20 => rReg .ro full (match v with | .b28 => 0x07000038 | _ => 0x08000040)
  | _ => reservedReg

def fbInfo (o : Nat) : RegInfo :=
  match o with
  | 0x0 => rReg .rwp 3 3
  | 0x4 | 0xC | 0x10 | 0x14 => rReg .rs full
  | 0x8 => rReg .sl 0x3F
  | 0x18 | 0x1C | 0x20 | 0x24 | 0x28 | 0x2C => rReg .ro full
  | _ => reservedReg

def mxInfo (o : Nat) : RegInfo :=
  if 0x100 ≤ o ∧ o < 0x300 then
    match o % 0x40 with
    | 0x0 => rReg .rs full
    | 0x4 => rReg .sl 0x1F
    | 0x8 => rReg .sl 0x8FF0FFFF
    | 0xC => rReg .sl full
    | 0x10 | 0x14 | 0x18 | 0x1C | 0x20 => rReg .ro full
    | _ => reservedReg
  else if 0x400 ≤ o ∧ o < 0x440 then rReg .sl 0x1F
  else if 0x440 ≤ o ∧ o < 0x480 then rReg .sl 0x87FF87FF
  else if 0x480 ≤ o ∧ o < 0x4C0 then rReg .sl full
  else match o with
    | 0x0 => rReg .rwp 0xFF00 0x1000
    | 0x4 => rReg .rs 0xFFFF 0xFF00
    | _ => reservedReg

def wpInfo (o : Nat) : RegInfo :=
  if 0x200 ≤ o ∧ o < 0x240 then rReg .sl 0xF
  else if 0x240 ≤ o ∧ o < 0x280 then rReg .sl 0x7F
  else match o with
    | 0x4 => rReg .rs full
    | 0x10 | 0x14 => rReg .ro full
    | _ => reservedReg

def qzInfo (o : Nat) : RegInfo :=
  if 0x100 ≤ o ∧ o < 0x180 then rReg .sl (if o % 8 = 0 then 0x7F else full)
  else match o with
    | 0x0 => rReg .rwp 0xFFFF000F 0x028F0006
    | 0x4 => rReg .rs full
    | 0x10 | 0x14 | 0x18 | 0x1C | 0x20 | 0x24 | 0x28 | 0x2C => rReg .ro full
    | _ => reservedReg

def ceInfo (o : Nat) : RegInfo :=
  if 0x100 ≤ o ∧ o < 0x200 then
    match o % 0x10 with
    | 0x0 | 0x4 => rReg .rwp 0xFFFFF
    | 0x8 => rReg .rwp 1
    | _ => rReg .sl 0xF
  else if 0x40 ≤ o ∧ o < 0x60 then rReg .ro full
  else match o with
    | 0x0 => rReg .rwp 0xF 0xF
    | 0x10 | 0x14 | 0x18 | 0x1C => rReg .rs full
    | 0x20 => rReg .sl 0xC00FFFFF
    | 0x24 => rReg .sl 0xFFFF
    | 0x28 => rReg .sl full
    | _ => reservedReg

/-- Registers of one seat in the CT_ block (Tables 2-3, 9-13 and R373). -/
def ctSeatInfo (o : Nat) : RegInfo :=
  match o with
  | 0x0 => rReg .rwp 0x1CFF
  | 0x4 | 0xC | 0x14 | 0x20 | 0x2C => rReg .rwp 0x3FFFF
  | 0x8 | 0x10 => rReg .rwp 0x7FFFF
  | 0x18 | 0x30 => rReg .rwp 0x1F
  | 0x24 => rReg .rwp 0xFF1F
  | 0x1C | 0x28 | 0x34 => rReg .ro full
  | 0x38 => rReg .rwp 0x3FFF1FFF
  | 0x3C => rReg .rwp 0xFFFF
  | 0x40 | 0x48 | 0x50 | 0x58 => rReg .rwp 0x3FFFF
  | 0x44 | 0x4C | 0x54 | 0x5C => rReg .rwp 0x7FFFF
  | 0x60 => rReg .rs full
  | 0x64 => rReg .sl 0x3F
  | 0x68 => rReg .sl 0x1F
  | 0x6C => rReg .ro 0xFF
  | 0x70 => rReg .sl 0x7F
  | _ => reservedReg

def ctInfo (o : Nat) : RegInfo :=
  if 0x100 ≤ o ∧ o < 0x1100 then ctSeatInfo (o % 0x100)
  else match o with
    | 0x0 => rReg .wo full
    | 0x4 | 0x8 => rReg .rs full
    | 0xC => rReg .sl 3
    | _ => reservedReg

/-- The register at an aligned base offset (R22, R24). -/
def regInfo (v : Variant) (off : Nat) : RegInfo :=
  let o := off % 0x10000
  match blockOf off with
  | .mg => mgInfo o | .pw => pwInfo v o | .sc => scInfo o | .ec => ecInfo v o | .hi => hiInfo o
  | .ctDev => gqInfo o
  | .tumblerLo | .tumblerHi => if o < 0x4000 then rReg .rwp full else reservedReg
  | .cs => csInfo o | .tb => tbInfo o | .msix => msixInfo o
  | .hb _ => hbInfo v o | .fb _ => fbInfo o
  | .mx _ => mxInfo o | .wp _ => wpInfo o | .qz _ => qzInfo o | .ce _ => ceInfo o | .ct _ => ctInfo o
  | .reserved => reservedReg

/-- The reset value of a register. -/
def regReset (v : Variant) (off : Nat) : Word := BitVec.ofNat 32 (regInfo v off).reset

/-- Does an offset lie in the register space of an absent unit (R11)? -/
def absentUnit (v : Variant) (off : Nat) : Bool :=
  match blockOf off with
  | .mx p | .wp p | .qz p | .ce p | .ct p => !partPresent v p
  | .fb n => !portPresent v n
  | .ec => !recorderPresent v && decide (0x810 ≤ off % 0x4000 ∧ off % 0x4000 < 0x840)
  | _ => false

/-! The stored registers. -/

/-- The stored value of the register at `off`. -/
def State.reg (s : State) (off : Nat) : Word := SMap.get (regReset s.variant off) s.regs off

/-- The stored value as a number. -/
def State.regN (s : State) (off : Nat) : Nat := (s.reg off).toNat

/-- Write the stored value of the register at `off`; its parity is recomputed in the same operation (Table 0-7). -/
def State.setReg (s : State) (off : Nat) (v : Word) : State :=
  { s with regs := SMap.set (regReset s.variant off) s.regs off v,
           badParity := s.badParity.filter fun o => o != off }

def State.setRegN (s : State) (off v : Nat) : State := s.setReg off (BitVec.ofNat 32 v)

/-- Set the sticky bits `mask` of a log register (R21). -/
def State.raise (s : State) (off : Nat) (mask : Nat) : State :=
  s.setReg off (s.reg off ||| BitVec.ofNat 32 mask)

/-- Set or clear bit `i` of a status register. -/
def State.status (s : State) (off i : Nat) (b : Bool) : State := s.setReg off (setBit (s.reg off) i b)

/-- Replace the field `hi:lo` of a register. -/
def State.setRegField (s : State) (off hi lo v : Nat) : State := s.setReg off (setField (s.reg off) hi lo v)

/-- The 64-bit counter whose lower word is at `off`. -/
def State.counter (s : State) (off : Nat) : Nat := s.regN off + 2 ^ 32 * s.regN (off + 4)

/-- Add to a wrapping 64-bit counter (R135, R196, R232, R264, R265, R343). -/
def State.count (s : State) (off n : Nat) : State :=
  let v := (s.counter off + n) % 2 ^ 64
  (s.setRegN off (v % 2 ^ 32)).setRegN (off + 4) (v / 2 ^ 32)

/-- Add to a 32-bit counter that saturates at 0xFFFF_FFFF (Tables 8-14, 10-8). -/
def State.countSat (s : State) (off n : Nat) : State := s.setRegN off (min (s.regN off + n) full)

/-- Drop every stored register of `lo ≤ off < hi`: they read as their reset values again, with matching parity (R19). -/
def State.resetRegs (s : State) (lo hi : Nat) : State :=
  { s with regs := SMap.dropRange s.regs lo hi, badParity := s.badParity.filter fun o => decide (o < lo ∨ hi ≤ o) }

/-- The registers that firmware keeps a copy of. -/
def firmwareKept (off : Nat) : Bool :=
  match blockOf off with
  | .mg | .pw | .sc | .ec => true
  | _ => false

/-- Does the register lie in the always-on domain (Table 1-1)? -/
def alwaysOn (off : Nat) : Bool := firmwareKept off || decide (blockOf off = .tb)

end Sys2Proof.Machine
end

