-- ==== Sys2Proof/Machine/Ops.lean ====
section
/-! DEFINITION. The named operations over the state that every family uses: time, records of seats,
partitions, arrays and ports, windows, the Central Store with its poison, interrupts, completion, error,
trace and recorder records, and tumblers. -/

namespace Sys2Proof.Machine

/-- The outcome of every meaning. -/
abbrev Result := Host.Outcome State Fault Refusal

/-! Free values. -/

/-- Draw a free value (Config.freeByte); its number is `s.free`. -/
def State.draw (s : State) : State := { s with free := s.free + 1 }

/-- The `n` bytes of the free value that the next draw gives. -/
def State.freeBytes (s : State) (n : Nat) : List Byte := (List.range n).map (Config.freeByte s.free)

/-! Time (R318). `uptime` measures durations; the time word is the common nanosecond. -/

/-- The common nanosecond: bits 79:16 of the time word. -/
def State.now (s : State) : Nat := s.time.toNat / 2 ^ 16

/-- The correction, in units of 2^-16 ns, that a slew at `rate` ppm applies over `n` ns, after `rem` millionths that
earlier ones have left over; and what it leaves over itself (R321). -/
def slewPart (rate rem : Int) (n : Nat) : Int × Int :=
  let w := (n : Int) * 65536 * rate + rem
  (w.tdiv 1000000, w.tmod 1000000)

/-- Let `n` nanoseconds of the local clock pass: the time word counts, at the slewed rate while a correction is
outstanding (R318, R321). -/
def State.advance (s : State) (n : Nat) : State :=
  let want := slewPart s.tb.slew s.tb.slewRem n
  let part := if 0 ≤ s.tb.acc then min (max want.1 0) s.tb.acc else max (min want.1 0) s.tb.acc
  let step : Int := if s.tb.counting then (n : Int) * 65536 + part else 0
  let t := (((s.time.toNat : Int) + step) % 2 ^ 80).toNat
  { s with uptime := s.uptime + n, time := BitVec.ofNat 80 t,
           tb := { s.tb with acc := if s.tb.counting then s.tb.acc - part else s.tb.acc,
                             slewRem := if s.tb.counting then want.2 else s.tb.slewRem } }

/-- The nanoseconds of the local clock in which the common nanosecond comes `d` later at least: a negative correction that
is outstanding slows it (R321). -/
def State.localSpan (s : State) (d : Nat) : Nat :=
  let rate := s.tb.slew.natAbs
  if s.tb.acc < 0 then d + d * rate / (1000000 - rate) + 2 else d

/-- Let time pass until the common nanosecond is at least `t`: an event due at `t` is not early (log entry 3). -/
def State.reach (s : State) (t : Nat) : State := if s.now < t then s.advance (s.localSpan (t - s.now)) else s

/-- Let time pass until `t` nanoseconds after power-on. -/
def State.reachUp (s : State) (t : Nat) : State := if s.uptime < t then s.advance (t - s.uptime) else s

/-! Records of the units. -/

def State.seat (s : State) (n : Nat) : SeatRec := SMap.get SeatRec.fresh s.seats n
def State.setSeat (s : State) (n : Nat) (r : SeatRec) : State := { s with seats := SMap.set SeatRec.fresh s.seats n r }
def State.modSeat (s : State) (n : Nat) (f : SeatRec → SeatRec) : State := s.setSeat n (f (s.seat n))

def State.part (s : State) (p : Nat) : PartRec := SMap.get PartRec.fresh s.parts p
def State.setPart (s : State) (p : Nat) (r : PartRec) : State := { s with parts := SMap.set PartRec.fresh s.parts p r }
def State.modPart (s : State) (p : Nat) (f : PartRec → PartRec) : State := s.setPart p (f (s.part p))

/-- Array `a` of partition `p` has key p × 8 + a, its array number (Table 14-17). -/
def State.arr (s : State) (p a : Nat) : ArrRec := SMap.get ArrRec.fresh s.arrays (p * 8 + a)
def State.setArr (s : State) (p a : Nat) (r : ArrRec) : State :=
  { s with arrays := SMap.set ArrRec.fresh s.arrays (p * 8 + a) r }
def State.modArr (s : State) (p a : Nat) (f : ArrRec → ArrRec) : State := s.setArr p a (f (s.arr p a))

def State.port (s : State) (n : Nat) : PortRec := SMap.get PortRec.fresh s.ports n
def State.setPort (s : State) (n : Nat) (r : PortRec) : State := { s with ports := SMap.set PortRec.fresh s.ports n r }
def State.modPort (s : State) (n : Nat) (f : PortRec → PortRec) : State := s.setPort n (f (s.port n))

def State.stack (s : State) (k : Nat) : StackRec := SMap.get StackRec.fresh s.hbmStacks k
def State.setStack (s : State) (k : Nat) (r : StackRec) : State :=
  { s with hbmStacks := SMap.set StackRec.fresh s.hbmStacks k r }
def State.modStack (s : State) (k : Nat) (f : StackRec → StackRec) : State := s.setStack k (f (s.stack k))

/-- Seats that are not as after a reset, in rising order. -/
def State.seatList (s : State) : List Nat := s.seats.map Prod.fst

/-- Ports present on the part. -/
def State.portList (s : State) : List Nat := (List.range 13).filter fun n => portPresent s.variant n

/-- Partitions present on the part. -/
def State.partList (s : State) : List Nat := List.range (numParts s.variant)

def State.seatIs (s : State) (n : Nat) (st : SeatState) : Bool := decide ((s.seat n).state = st)

/-! Objects of the dictionary held in `objs`. -/

def objKey (index sub : Nat) : Nat := index * 256 + sub

/-- The stored value of an object, with its default `dflt`. -/
def State.obj (s : State) (index sub dflt : Nat) : Nat := (SMap.find? s.objs (objKey index sub)).getD dflt

def State.setObj (s : State) (index sub v : Nat) : State :=
  { s with objs := SMap.insert (objKey index sub) v (SMap.erase s.objs (objKey index sub)) }

/-- Add to a 0x6000 counter object, a U64 that saturates (R470). -/
def State.bumpObj (s : State) (index sub n : Nat) : State :=
  s.setObj index sub (min (s.obj index sub 0 + n) (2 ^ 64 - 1))

/-- Fold a register counter into its 0x6000 object before a reset or gating clears the register (R470). -/
def State.foldWide (s : State) (index sub off : Nat) : State := s.bumpObj index sub (s.counter off)
def State.foldNarrow (s : State) (index sub off : Nat) : State := s.bumpObj index sub (s.regN off)

/-! What leaves the device. -/

def State.emit (s : State) (e : Emission) : State := { s with out := e :: s.out }

/-! Does the device run? (Table 17-2, R428, R494, R496.) -/

/-- Core domains powered. -/
def State.coreOn (s : State) : Bool := decide (s.pw.state = .on ∨ s.pw.state = .retired)

/-- Does the always-on domain run? -/
def State.aoOn (s : State) : Bool := decide (s.pw.state ≠ .reset)

/-- Do host packets reach the device: PERST_N released, the always-on domain runs? -/
def State.hostPort (s : State) : Bool := s.aoOn && !s.pw.perstLow

/-- Do BAR accesses reach the device? In BOOT_FAILED reads return zero and writes are ignored (R428); with PERST_N
low or the core off no access arrives (log entry 5). -/
def State.barLive (s : State) : Bool :=
  s.coreOn && !s.pw.perstLow && decide (s.fw.boot ≠ .failed) && decide (s.fw.boot ≠ .held)

/-! Interrupts (R72, R396, R49). -/

/-- Send the MSI-X message of vector `v`, or set its pending bit while the vector is masked (PRESUMED, PCIe base
specification; log entry 9). -/
def State.msix (s : State) (v : Nat) : State :=
  let e := fun o => s.regN (msixReg (v * 16 + o))
  if e 12 % 2 = 1 then
    s.status (msixReg (0x8000 + v / 32 * 4)) (v % 32) true
  else s.emit (.msix v (e 0 + 2 ^ 32 * e 4) (e 8))

/-- Signal the vector of a seat, with its hold-off (R72). -/
def State.signalSeat (s : State) (n : Nat) : State :=
  if s.uptime < (s.seat n).quietTill then s.modSeat n fun r => { r with heldEvent := true }
  else
    let h := field (s.reg (seatReg n 0x24)) 15 8 * 1000
    (s.modSeat n fun r => { r with quietTill := s.uptime + h }).msix n

/-- Signal vector 512, with the 100 µs hold-off of R396. -/
def State.signalEc (s : State) : State :=
  if s.uptime < s.ec.holdTill then { s with ec := { s.ec with held := true } }
  else ({ s with ec := { s.ec with holdTill := s.uptime + 100000 } }).msix 512

/-- Bits of EC_LOG_FAULT or EC_LOG_ARRAY that change from 0 to 1 are gathered for the next ALARM (R459). -/
def State.gatherAlarm (s : State) (o : Nat) (bits : Word) : State :=
  if o = 0x8 ∨ o = 0xC then
    { s with fn := { s.fn with alarmFault := if o = 0x8 then s.fn.alarmFault ||| bits else s.fn.alarmFault,
                               alarmArray := if o = 0xC then s.fn.alarmArray ||| bits else s.fn.alarmArray,
                               alarmFrom := some (s.fn.alarmFrom.getD s.uptime) } }
  else s

/-- Set bits of EC_LOG_CONFIG, EC_LOG_FAULT or EC_LOG_ARRAY; a bit that changes from 0 to 1 signals vector 512 (R396)
and enters the next ALARM (R459). -/
def State.raiseEc (s : State) (o mask : Nat) : State :=
  let old := s.reg (ecReg o)
  let new := old ||| BitVec.ofNat 32 mask
  if new = old then s else ((s.setReg (ecReg o) new).gatherAlarm o (new &&& ~~~ old)).signalEc

def State.logConfig (s : State) (mask : Nat) : State := s.raiseEc 0x4 mask
def State.logFault (s : State) (mask : Nat) : State := s.raiseEc 0x8 mask
def State.logArray (s : State) (mask : Nat) : State := s.raiseEc 0xC mask

/-- ABSENT_UNIT (R11, R13). -/
def State.absentAccess (s : State) : State := s.logConfig 1

/-! The Central Store (R234 to R240). -/

/-- The size of the Central Store in bytes: 16 GiB (R234). -/
def csSize : Nat := 0x400000000

/-- Where sector `s` of the Central Store lies: its bank and bank row, by the procedure of R234 (DEDUCED where its example
sums otherwise; log entry 69). -/
def csPlace (s : BitVec 28) : BitVec 11 × BitVec 17 :=
  (s.extractLsb' 0 11 ^^^ s.extractLsb' 11 11 ^^^ ((s.extractLsb' 22 6).setWidth 11 <<< 5), s.extractLsb' 11 17)

/-- The compute die, the tier, and the bank within the tier, of a bank (R234). -/
def bankPlace (b : BitVec 11) : BitVec 1 × BitVec 2 × BitVec 8 :=
  (b.extractLsb' 10 1, b.extractLsb' 8 2, b.extractLsb' 0 8)

def State.csByte (s : State) (a : Nat) : Byte := SMap.get 0 s.csMem a

/-- The stored bits of `n` bytes at `a`. -/
def State.csBytes (s : State) (a n : Nat) : List Byte := (List.range n).map fun i => s.csByte (a + i)

def State.csPoisoned (s : State) (sec : Nat) : Bool := SMap.get false s.csPoison sec

def State.setCsPoison (s : State) (sec : Nat) (b : Bool) : State :=
  { s with csPoison := SMap.set false s.csPoison sec b }

/-- The sectors that `n` bytes at `a` touch. -/
def sectorsOf (a n : Nat) : List Nat :=
  if n = 0 then [] else (List.range ((a + n - 1) / 64 - a / 64 + 1)).map fun i => a / 64 + i

/-- One sector read: is its data delivered as poisoned, and the errors it finds (R239, R240). -/
def State.csFetch (s : State) (sec : Nat) : Bool × State :=
  if s.csPoisoned sec then (true, s.raise (csReg 0xC) 4)
  else
    match SMap.get EccSeen.clean s.csUpset sec with
    | .clean => (false, s)
    | .single =>
      let s := { s with csUpset := SMap.erase s.csUpset sec }
      (false, (s.raise (csReg 0xC) 1).countSat (csReg 0x14) 1)
    | .uncorrectable =>
      let s := ({ s with csUpset := SMap.erase s.csUpset sec }).setCsPoison sec true
      let s := s.raise (csReg 0xC) 2
      (true, if bit (s.reg (csReg 0x10)) 31 then s else s.setRegN (csReg 0x10) (2 ^ 31 + sec))

/-- The reads of several sectors: is any of the data poisoned? -/
def State.csFetchAll (s : State) : List Nat → Bool × State
  | [] => (false, s)
  | sec :: r =>
    let f := s.csFetch sec
    let g := f.2.csFetchAll r
    (f.1 || g.1, g.2)

/-- A unit's read of `n` bytes at `a`: the bytes, whether any is poisoned, and the state after it. -/
def State.csRead (s : State) (a n : Nat) : List Byte × Bool × State :=
  let f := s.csFetchAll (sectorsOf a n)
  (s.csBytes a n, f.1, f.2)

/-- Bytes stored from address `a`. -/
def putBytes (m : SMap Byte) (a : Nat) : List Byte → SMap Byte
  | [] => m
  | b :: bs => putBytes (SMap.set 0 m a b) (a + 1) bs

/-- The sectors wholly inside `n` bytes at `a`: a write of all 64 bytes clears poison and any latent error (R239). -/
def wholeSectors (a n : Nat) : List Nat :=
  (sectorsOf a n).filter fun sec => decide (a ≤ sec * 64 ∧ sec * 64 + 64 ≤ a + n)

/-- A write of `bs` at `a`. -/
def State.csWrite (s : State) (a : Nat) (bs : List Byte) : State :=
  let w := wholeSectors a bs.length
  { s with csMem := putBytes s.csMem a bs,
           csPoison := s.csPoison.filter fun e => !w.contains e.1,
           csUpset := s.csUpset.filter fun e => !w.contains e.1 }

/-- Store the sectors that `n` bytes at `a` touch as poisoned (R260, R371). -/
def State.csPoisonRange (s : State) (a n : Nat) : State :=
  (sectorsOf a n).foldl (fun s sec => s.setCsPoison sec true) s

/-- Clear `n` bytes at `a` to zero, poison and latent errors included (R58). -/
def State.csClear (s : State) (a n : Nat) : State :=
  let keep := fun (k : Nat) => decide (k < a / 64 ∨ (a + n + 63) / 64 ≤ k)
  { s with csMem := SMap.dropRange s.csMem a (a + n), csPoison := s.csPoison.filter fun e => keep e.1,
           csUpset := s.csUpset.filter fun e => keep e.1 }

/-- The first byte of the shared cache (R242). -/
def State.scBase (s : State) : Nat := csSize - s.regN (csReg 0) * 0x4000000

/-! Windows of a seat (Table 2-3), as byte ranges: first byte and the byte after the last. -/

def State.regField (s : State) (off hi lo : Nat) : Nat := field (s.reg off) hi lo

def unit64K : Nat := 0x10000

/-- The window whose BASE and SIZE registers of seat `n` lie at `o` and `o + 4`. -/
def State.win (s : State) (n o : Nat) : Nat × Nat :=
  let b := s.regN (seatReg n o) * unit64K
  (b, b + s.regN (seatReg n (o + 4)) * unit64K)

def State.csWin (s : State) (n : Nat) : Nat × Nat := s.win n 0x4
def State.hostWin (s : State) (n : Nat) : Nat × Nat := s.win n 0xC
def State.shareWin (s : State) (n i : Nat) : Nat × Nat := s.win n (0x40 + i * 8)

/-- The HBM window of seat `n`, partition-local bytes (Table 8-19). -/
def State.hbmWin (s : State) (n : Nat) : Nat × Nat :=
  let b := s.regN (ceSeatReg n 0) * unit64K
  (b, b + s.regN (ceSeatReg n 4) * unit64K)

/-- Do `n` bytes at `a` lie in the range? -/
def inWin (w : Nat × Nat) (a n : Nat) : Bool := decide (w.1 ≤ a ∧ a + n ≤ w.2)

def overlap (v w : Nat × Nat) : Bool := decide (v.1 < w.2 ∧ w.1 < v.2 ∧ v.1 < v.2 ∧ w.1 < w.2)

def State.job (s : State) (n : Nat) : Nat := s.regN (seatReg n 0x3C)

def State.seatCfg (s : State) (n : Nat) : Word := s.reg (seatReg n 0)

/-- FLUSH_SUBN of the seat (R93). -/
def State.flush (s : State) (n : Nat) : Bool := bit (s.seatCfg n) 12

/-- DETERMINISTIC (R375). -/
def State.deterministic (s : State) : Bool := bit (s.reg (ecReg 0x800)) 0

/-- Is the read guard on for the seat? With DETERMINISTIC set every seat acts as if it were (Table 13-1). -/
def State.guardOn (s : State) (n : Nat) : Bool := bit (s.seatCfg n) 11 || s.deterministic

def State.epoch (s : State) (p : Nat) : Nat := field (s.reg (ctReg p 8)) 15 0
def State.cgen (s : State) (n : Nat) : Nat := s.regN (seatReg n 0x6C)

/-- Is partition `p` under reset (Table 14-4, R307)? -/
def State.resetting (s : State) (p : Nat) : Bool := (s.part p).resetting.isSome || s.ec.retiredHbm

/-- The ACTIVE seat whose host window holds the `n` bytes at `a` (R50). An access that runs over the edge of a window, or
over two seats' windows, is denied whole (DESIGN CHOICE, log entry 65). -/
def State.hostWinSeat (s : State) (a n : Nat) : Option Nat :=
  s.seatList.find? fun k => s.seatIs k .active && inWin (s.hostWin k) a n

/-! Tumblers (R276, R277). -/

/-- The tumbler range of seat `n`: first and one beyond the last. -/
def State.tumbRange (s : State) (n : Nat) : Nat × Nat :=
  let f := s.regField (seatReg n 0x38) 12 0
  (f, f + s.regField (seatReg n 0x38) 29 16)

def State.ownsTumbler (s : State) (n t : Nat) : Bool :=
  decide ((s.tumbRange n).1 ≤ t ∧ t < (s.tumbRange n).2)

def State.tumbler (s : State) (t : Nat) : Word := s.reg (tumblerReg t)

/-- A change of a tumbler's value restarts the watchdogs of the seats whose range holds it (R403). -/
def State.setTumbler (s : State) (t : Nat) (v : Word) : State :=
  let changed := decide (v ≠ s.tumbler t)
  let s' := s.setReg (tumblerReg t) v
  if changed then
    { s' with seats := s'.seats.map fun e =>
        (e.1, if s'.ownsTumbler e.1 t then { e.2 with wdStart := e.2.wdStart.map fun _ => s.now } else e.2) }
  else s'

/-- A wait with value `v` on a tumbler that holds `t` is satisfied (R276). -/
def waitMet (t v : Word) : Bool := decide ((t - v).toNat < 2 ^ 31)

/-! Watchdogs (R403, R405). They read the common nanosecond (R44). -/

/-- Does seat `n` have pending work: a descriptor accepted and not yet completed, refused or void? -/
def State.pendingWork (s : State) (n : Nat) : Bool :=
  let r := s.seat n
  decide (r.prodAcc ≠ s.reg (seatReg n 0x1C)) || !r.running.isEmpty

/-- Start or stop the seat's and the partition's watchdogs as the pending work now is. -/
def State.refreshWd (s : State) (n : Nat) : State :=
  let run := s.seatIs n .active && s.pendingWork n
  let s := s.modSeat n fun r => { r with wdStart := if run then some (r.wdStart.getD s.now) else none }
  let p := n / 16
  let busy := fun (m : Nat) => (s.seatIs m .active && s.pendingWork m) || !(s.seat m).running.isEmpty
  let any := (List.range 16).any fun l => busy (p * 16 + l)
  s.modPart p fun r => { r with wdStart := if any then some (r.wdStart.getD s.now) else none }

/-! The step recorder's records (R382 to R385). -/

/-- The fields of a record header that vary with its kind (Table 13-3). -/
structure RecHead where
  kind   : Nat
  flags  : Nat := 0
  source : Nat := 15
  round  : Nat := 0
  turn   : Nat := 0
  group  : Nat := 0
  cidx   : Nat := 0
  tag    : Nat := 0
  addr   : Nat := 0
  value  : Nat := 0
deriving DecidableEq, Repr

/-- The bytes of a record: header, CHECK, and payload padded to 64 bytes (Table 13-3). -/
def recordBytes (h : RecHead) (step now : Nat) (payload : List Byte) : List Byte :=
  let body := padTo (64 * ceilDiv payload.length 64) payload
  let head := leBytes 1 h.kind ++ leBytes 1 h.flags ++ leBytes 2 h.source ++ leBytes 4 payload.length ++
    leBytes 8 step ++ leBytes 8 now ++ leBytes 8 h.round ++ leBytes 2 h.turn ++ leBytes 1 h.group ++
    leBytes 1 h.cidx ++ leBytes 4 h.tag ++ leBytes 8 h.addr ++ leBytes 8 h.value ++ zeros 4
  head ++ leBytes 4 (crc32c (head ++ body)).toNat ++ body

/-- The ring of the recorder: base address and number of 64-byte units (R384). -/
def State.recRing (s : State) : Nat × Nat :=
  (s.regField (ecReg 0x814) 17 0 * unit64K, 2 ^ s.regField (ecReg 0x814) 28 24)

/-- Store units of 64 bytes in a ring of `size` units at `base`, from unit `i`. -/
def State.ringPut (s : State) (base size : Nat) : Nat → Nat → List Byte → State
  | _, 0, _ => s
  | i, k + 1, bs => (s.csWrite (base + i % size * 64) (bs.take 64)).ringPut base size (i + 1) k (bs.drop 64)

/-- The number of free units of the recorder's ring. -/
def State.recFree (s : State) : Nat :=
  s.recRing.2 - (s.reg (ecReg 0x818) - s.reg (ecReg 0x81C)).toNat

/-- Write one record if it fits; otherwise set OVERFLOW and write no later record of the step (R384). -/
def State.recWrite (s : State) (h : RecHead) (step : Nat) (payload : List Byte) : State :=
  let bs := recordBytes h step s.now payload
  let units := bs.length / 64
  if s.rec_.dropped then s
  else if s.recFree < units then
    ({ s with rec_ := { s.rec_ with dropped := true } }).raise (ecReg 0x838) 1
  else
    let s' := s.ringPut s.recRing.1 s.recRing.2 (s.regN (ecReg 0x818)) units bs
    let s' := s'.setReg (ecReg 0x818) (s'.reg (ecReg 0x818) + BitVec.ofNat 32 units)
    { s' with rec_ := { s'.rec_ with count := s'.rec_.count + 1, hash := shaUpdate s'.rec_.hash bs } }

/-- Is the recorder recording a step in RECORD mode? -/
def State.recording (s : State) : Bool :=
  s.rec_.openStep.isSome && !s.rec_.replay && bit (s.reg (ecReg 0x810)) 0

/-- Record an accepted input of the source whose enable is bit `en` of EC_REC_CTRL (R382). -/
def State.record (s : State) (en : Nat) (h : RecHead) (payload : List Byte) : State :=
  if s.recording && bit (s.reg (ecReg 0x810)) en then s.recWrite h (s.rec_.openStep.getD 0) payload else s

/-! Rounds (R327, R330, R387). -/

/-- The round of common nanosecond `t`: of the active schedule, or, with none, in 1,024 ns rounds from time 0
(DESIGN CHOICE, log entry 8). -/
def State.roundAt (s : State) (t : Nat) : Nat :=
  match s.tb.active with
  | some a => s.tb.baseRound + (t - s.tb.baseTime) / a.len
  | none => t / 1024

def State.curRound (s : State) : Nat := s.roundAt s.now

/-- When round `n` begins. -/
def State.roundStart (s : State) (n : Nat) : Nat :=
  match s.tb.active with
  | some a => s.tb.baseTime + (n - s.tb.baseRound) * a.len
  | none => n * 1024

/-- The round number that registers and collectives use: a replayed step carries its recorded numbers (R387). -/
def State.shownRound (s : State) (r : Nat) : Nat := ((r : Int) + s.rec_.shift).toNat

/-- Record a host input: HOST_WRITE, DOORBELL or TUMBLER (Table 13-2). -/
def State.recordHost (s : State) (kind addr value : Nat) (payload : List Byte) : State :=
  s.record 4 { kind := kind, source := 13, round := s.curRound, addr := addr, value := value } payload

/-! The trace (R473, R474). -/

/-- Upper-case hexadecimal digits of `v`, `n` of them. -/
def hexDigits : Nat → Nat → String
  | 0, _ => ""
  | n + 1, v => hexDigits n (v / 16) ++ String.singleton (("0123456789ABCDEF".toList).getD (v % 16) '0')

/-- Does TRACE_QUIET act as 1 for the seat (R441, R447)? -/
def State.quiet (s : State) (n : Nat) : Bool :=
  bit (s.reg (seatAttr n)) 0 || decide ((s.seat n).tdi = .locked ∨ (s.seat n).tdi = .run)

/-- Form one trace record: EVENT 1 START, 2 END, 3 REFUSED, 4 VOID (Table 16-7). -/
def State.trace (s : State) (n tag opcode event status unit : Nat) : State :=
  if s.quiet n then s else
    let s := if s.uart.text then
        s.emit (.uart (hexDigits 16 s.now ++ " " ++ hexDigits 3 n ++ " " ++ hexDigits 2 opcode ++ " " ++
          hexDigits 2 event ++ " " ++ hexDigits 8 tag ++ " " ++ hexDigits 2 status))
      else s
    let ctrl := s.reg (mgReg 0x110)
    if bit ctrl 0 then
      let size := 2 ^ s.regField (mgReg 0x114) 28 24
      let dev := s.reg (mgReg 0x118)
      if size ≤ (dev - s.reg (mgReg 0x11C)).toNat then s.bumpObj 0x60D4 0 1
      else
        let bs := leBytes 8 s.now ++ leBytes 4 tag ++ leBytes 2 n ++ leBytes 1 opcode ++ leBytes 1 event ++
          leBytes 1 status ++ leBytes 1 unit ++ leBytes 2 (s.job n) ++ zeros 12
        (s.csWrite (s.regField (mgReg 0x114) 17 0 * unit64K + dev.toNat % size * 32) bs).setReg (mgReg 0x118) (dev + 1)
    else s

/-! Completion and error records (R68 to R71). -/

/-- Entries of a ring whose LOG2_ENTRIES field of seat `n` lies at `o`. -/
def State.ringSize (s : State) (n o : Nat) : Nat := 2 ^ s.regField (seatReg n o) 4 0

/-- CQ_FULL (Table 2-6). -/
def State.cqFull (s : State) (n : Nat) : Bool :=
  decide (s.ringSize n 0x24 ≤ (s.reg (seatReg n 0x28) - (s.seat n).cqAcc).toNat)

/-- EQ_FULL (Table 2-6). -/
def State.eqFull (s : State) (n : Nat) : Bool :=
  decide (s.ringSize n 0x30 ≤ (s.reg (seatReg n 0x34) - (s.seat n).eqAcc).toNat)

/-- Write a completion record and signal the seat's vector (R68, R72, R269). -/
def State.completionRecord (s : State) (n tag status opcode : Nat) : State :=
  let i := s.regN (seatReg n 0x28)
  let a := s.regN (seatReg n 0x20) * unit64K + i % s.ringSize n 0x24 * 16
  let bs := leBytes 4 tag ++ leBytes 1 status ++ leBytes 1 opcode ++ zeros 2 ++ leBytes 8 s.now
  ((s.csWrite a bs).setReg (seatReg n 0x28) (BitVec.ofNat 32 (i + 1))).signalSeat n

/-- Write an error record and signal the seat's vector; EQ_OVERFLOW when the ring is full (R70 to R72). -/
def State.errorRecord (s : State) (n tag cause kind hall ns : Nat) : State :=
  if s.eqFull n then s.raise (seatReg n 0x64) 8
  else
    let i := s.regN (seatReg n 0x34)
    let a := s.regN (seatReg n 0x2C) * unit64K + i % s.ringSize n 0x30 * 32
    let bs := leBytes 4 tag ++ leBytes 2 cause ++ leBytes 1 kind ++ zeros 1 ++ leBytes 4 hall ++ zeros 4 ++
      leBytes 8 ns ++ zeros 8
    ((s.csWrite a bs).setReg (seatReg n 0x34) (BitVec.ofNat 32 (i + 1))).signalSeat n

/-! The hall (R39, Architecture "Hall"). -/

/-- The hall index of the device: ((z × 16 + y) × 16 + x) × 8 + position. -/
def State.hallIndex (s : State) : Nat :=
  ((s.obj 0x2700 3 0 * 16 + s.obj 0x2700 2 0) * 16 + s.obj 0x2700 1 0) * 8 + s.pw.pos.toNat

end Sys2Proof.Machine
end

