-- ==== Sys2Proof/Machine/Memory.lean ====
section
/-! DEFINITION. HBM, the shared cache and the reads and writes of copy engines: placement, ECC and poison of
HBM sectors, encryption under ward keys, lines and their replacement, and atomic updates of a line. -/

namespace Sys2Proof.Machine

/-! The canonical form of the memories. An unlisted byte of the Central Store reads as 0 (log entry 4). -/

/-- Addresses strictly rising, and no byte equal to what an unlisted address reads as. -/
def Memory.wf (m : List Host.Cell) : Bool := SMap.wf (fun _ => 0#8) m

/-- The canonical form of HBM: sectors strictly rising, and none equal to a sector that nothing has written. -/
def hbmWf (m : SMap HbmSector) : Bool := SMap.wf (fun _ => HbmSector.fresh) m

/-! HBM (R291 to R294, R436). -/

/-- Where partition-local address `a` lies: stack, granule within the channel, byte in the granule (R291). -/
def hbmPlace (a : Nat) : Nat × Nat × Nat :=
  let g := a / 256
  (g % 12, g / 12, a % 256)

/-- The pseudo-channel of address `a`, and its byte address there (R291). -/
def hbmPseudo (a : Nat) : Nat × Nat :=
  let pl := hbmPlace a
  (pl.2.1 % 2, pl.2.1 / 2 * 256 + pl.2.2)

/-- The partition-local address of byte 0 of sector `idx` of a channel of stack `k` (Table 10-7). -/
def hbmAddrOf (k idx : Nat) : Nat := (idx / 4 * 12 + k) * 256 + idx % 4 * 64

/-- The tweak of a sector, which is also its key in `State.hbm` (R436). -/
def hbmTweak (p sec : Nat) : Nat := p * 2 ^ 40 + sec

/-- The last column of Table 10-1: a partition's HBM space in 64 KiB units. -/
def hbmUnits : Variant → Nat
  | .b28 => 183105
  | _ => 274658

def State.hbmSector (s : State) (p sec : Nat) : HbmSector := SMap.get HbmSector.fresh s.hbm (hbmTweak p sec)

def State.setHbmSector (s : State) (p sec : Nat) (v : HbmSector) : State :=
  { s with hbm := SMap.set HbmSector.fresh s.hbm (hbmTweak p sec) v }

/-- The 64 bytes a read of a sector decrypts to under `key` (R299, R436). -/
def State.hbmPlain (s : State) (p sec : Nat) (key : BitVec 512) : List Byte :=
  let v := s.hbmSector p sec
  if v.bytes = [] then (List.range 64).map (Config.hbmUnwritten key (hbmTweak p sec))
  else if v.key = key then v.bytes
  else (List.range 64).map (Config.xtsForeign v.key key (hbmTweak p sec) v.bytes)

/-- Row `x` (channel × 2^15 + row) enters the repair list of stack `k`, unless it is there (R306). -/
def State.rowListed (s : State) (k x : Nat) : State :=
  if (s.stack k).repair.contains x then s
  else (s.modStack k fun r => { r with repair := r.repair ++ [x] }).raise (hbReg k 0xC) 0x80

/-- A corrected error of row `x`: the sixteenth since bring-up enters the row in the repair list (R306). -/
def State.rowCorrected (s : State) (k x : Nat) : State :=
  let n := SMap.get 0 (s.stack k).rowErrs x + 1
  let s := s.modStack k fun r => { r with rowErrs := SMap.set 0 r.rowErrs x n }
  if n = 16 then s.rowListed k x else s

/-- One sector read of HBM: is its data delivered as poisoned, and the errors it finds (R293, R294, R306). -/
def State.hbmFetch (s : State) (p sec : Nat) : Bool × State :=
  let pl := hbmPlace (sec * 64)
  let k := pl.1
  let i := 4 * pl.2.1 + pl.2.2 / 64
  let row := p * 2 ^ 15 + (Config.hbmRow i).toNat
  let v := s.hbmSector p sec
  if v.poison then (true, s.raise (hbReg k 0xC) 4)
  else
    match SMap.get EccSeen.clean s.hbmUpset (hbmTweak p sec) with
    | .clean => (false, s)
    | .single =>
      let s := { s with hbmUpset := SMap.erase s.hbmUpset (hbmTweak p sec) }
      (false, ((s.raise (hbReg k 0xC) 1).countSat (hbReg k 0x18) 1).rowCorrected k row)
    | .uncorrectable =>
      let s := ({ s with hbmUpset := SMap.erase s.hbmUpset (hbmTweak p sec) }).setHbmSector p sec { v with poison := true }
      let s := (s.raise (hbReg k 0xC) 2).rowListed k row
      (true, if bit (s.reg (hbReg k 0x14)) 31 then s else s.setRegN (hbReg k 0x14) (2 ^ 31 + p * 2 ^ 25 + i))

/-! The shared cache (R242 to R245). -/

def State.scSize (s : State) : Nat := s.regField (csReg 0) 4 0

/-- sc_set of R242. -/
def scSet (p n size : Nat) : Nat :=
  ((BitVec.ofNat 64 n) ^^^ (BitVec.ofNat 64 (n / 2 ^ 15)) ^^^ (BitVec.ofNat 64 (p * 2 ^ 23))).toNat % (32768 * size)

def CacheLine.is (l : CacheLine) (p n : Nat) : Bool := decide (l.part = p ∧ l.line = n)

def State.lineOf (s : State) (p n : Nat) : Option CacheLine := s.cache.find? fun l => l.is p n

/-- Make a held line the most recently used one, with new contents. -/
def State.putLine (s : State) (l : CacheLine) : State :=
  { s with cache := l :: s.cache.filter fun m => !m.is l.part l.line }

/-- The seat whose HBM window holds address `a` of partition `p`, if it is not FREE. -/
def State.hbmOwner (s : State) (p a : Nat) : Option Nat :=
  ((List.range 16).map fun l => p * 16 + l).find? fun n => !s.seatIs n .free && inWin (s.hbmWin n) a 1

/-- The ward key under which address `a` of partition `p` is written and read by the shared cache (R436). -/
def State.keyAt (s : State) (p a : Nat) : BitVec 512 :=
  match s.hbmOwner p a with
  | some n => (s.seat n).wardKey.getD 0
  | none => 0

/-- Write a line's two sectors back to HBM (R242, R244, R294). -/
def State.writeBack (s : State) (l : CacheLine) : State :=
  if l.dirty then
    (List.range 2).foldl (fun s i =>
      let sec := l.line * 2 + i
      s.setHbmSector l.part sec { key := s.keyAt l.part (sec * 64), bytes := slice l.bytes (64 * i) 64,
                                  poison := l.poison.getD i false }) s
  else s

/-- The line a fill of line `n` of partition `p` replaces: the least recently used of a full set (R242). -/
def State.victim (s : State) (p n : Nat) : Option CacheLine :=
  let set := s.cache.filter fun l => decide (scSet l.part l.line s.scSize = scSet p n s.scSize)
  if 16 ≤ set.length then set.getLast? else none

/-- Fill line `n` of partition `p` from HBM, replacing a line of its set (R29, R242). -/
def State.fillLine (s : State) (p n : Nat) : State :=
  let s := match s.victim p n with
    | some v => let s' := s.writeBack v
                { s' with cache := s'.cache.filter fun m => !m.is v.part v.line }
    | none => s
  let f := s.hbmFetch p (n * 2)
  let g := f.2.hbmFetch p (n * 2 + 1)
  let s := g.2
  let key := s.keyAt p (n * 128)
  s.putLine { part := p, line := n, bytes := s.hbmPlain p (n * 2) key ++ s.hbmPlain p (n * 2 + 1) key,
              poison := [f.1, g.1], dirty := false }

/-- Invalidate without write-back every line that `drop` names (R244). -/
def State.dropLines (s : State) (drop : CacheLine → Bool) : State :=
  { s with cache := s.cache.filter fun l => !drop l }

/-- Is the sector of address `a` in the line poisoned? -/
def CacheLine.poisonAt (l : CacheLine) (a : Nat) : Bool := l.poison.getD (a / 64 % 2) false

/-- `n` bytes of the line at address `a`. -/
def CacheLine.get (l : CacheLine) (a n : Nat) : List Byte := slice l.bytes (a % 128) n

/-- Replace bytes of a list from position `i`. -/
def spliceAt (bs : List Byte) (i : Nat) (new : List Byte) : List Byte :=
  bs.take i ++ new ++ bs.drop (i + new.length)

def CacheLine.set (l : CacheLine) (a : Nat) (bs : List Byte) : CacheLine :=
  { l with bytes := spliceAt l.bytes (a % 128) bs, dirty := true }

/-! Reads and writes of HBM by copies, which see the shared cache's contents (R245). -/

/-- A copy's read of one sector: bytes, poisoned, state. -/
def State.hbmReadSector (s : State) (p sec : Nat) (key : BitVec 512) : List Byte × Bool × State :=
  match s.lineOf p (sec / 2) with
  | some l =>
    let s := s.putLine l
    if l.poisonAt (sec * 64) then (l.get (sec * 64) 64, true, s.raise (csReg 0xC) 4)
    else (l.get (sec * 64) 64, false, s)
  | none =>
    let f := s.hbmFetch p sec
    (s.hbmPlain p sec key, f.1, f.2)

/-- A copy's write of `bs` from byte `i` of a sector: whole, or a read-modify-write that leaves poison (R294). -/
def State.hbmWriteSector (s : State) (p sec i : Nat) (bs : List Byte) (poison : Bool) (key : BitVec 512) : State :=
  match s.lineOf p (sec / 2) with
  | some l =>
    let old := l.poisonAt (sec * 64)
    let now := poison || (old && decide (bs.length < 64))
    s.putLine { l.set (sec * 64 + i) bs with poison := l.poison.set (sec % 2) now }
  | none =>
    if bs.length = 64 then
      ({ s with hbmUpset := SMap.erase s.hbmUpset (hbmTweak p sec) }).setHbmSector p sec
        { key := key, bytes := bs, poison := poison }
    else
      let f := s.hbmFetch p sec
      let s := f.2
      s.setHbmSector p sec { key := key, bytes := spliceAt (s.hbmPlain p sec key) i bs, poison := poison || f.1 }

/-- Bytes with a mark: was the sector they came from delivered as poisoned? -/
abbrev Marked := List (Byte × Bool)

/-- A read of `n` Central Store bytes at `a`, each marked with its sector's poison. -/
def State.csReadMarked (s : State) (a n : Nat) : Marked × State :=
  let s' := (s.csFetchAll (sectorsOf a n)).2
  ((List.range n).map fun i => (s.csByte (a + i), s'.csPoisoned ((a + i) / 64)), s')

/-- The reads of a list of sectors of HBM. -/
def State.hbmReadSectors (s : State) (p : Nat) (key : BitVec 512) : List Nat → Marked × State
  | [] => ([], s)
  | sec :: r =>
    let f := s.hbmReadSector p sec key
    let g := f.2.2.hbmReadSectors p key r
    (f.1.map (fun b => (b, f.2.1)) ++ g.1, g.2)

/-- A read of `n` HBM bytes at `a`. -/
def State.hbmReadMarked (s : State) (p a n : Nat) (key : BitVec 512) : Marked × State :=
  let f := s.hbmReadSectors p key (sectorsOf a n)
  ((f.1.drop (a % 64)).take n, f.2)

/-- A write of marked bytes to the Central Store: a sector that would carry a marked byte is stored as poisoned (R260). -/
def State.csWriteMarked (s : State) (a : Nat) (bs : Marked) : State :=
  let s := s.csWrite a (bs.map Prod.fst)
  (sectorsOf a bs.length).foldl (fun s sec =>
    if ((bs.drop (sec * 64 - a)).take (sec * 64 + 64 - max a (sec * 64))).any (·.2) then s.setCsPoison sec true
    else s) s

/-- A write of marked bytes to HBM. -/
def State.hbmWriteMarked (s : State) (p a : Nat) (bs : Marked) (key : BitVec 512) : State :=
  (sectorsOf a bs.length).foldl (fun s sec =>
    let lo := max a (sec * 64)
    let piece := (bs.drop (lo - a)).take (sec * 64 + 64 - lo)
    s.hbmWriteSector p sec (lo - sec * 64) (piece.map Prod.fst) (piece.any (·.2)) key) s

end Sys2Proof.Machine
end

