-- ==== Sys2Proof/Machine/Faults.lean ====
section
/-! DEFINITION. What a fault does, once for every family: CTRL cells, forfeits, changes of a seat's STATE,
voided descriptors, RELEASE, gating, fault counts of arrays, partition resets, and the retirement of the
device. -/

namespace Sys2Proof.Machine

/-! CTRL cells (R363). -/

/-- A CTRL cell body: the 16-byte header and what follows it. -/
def ctrlCell (kind job tag dest src : Nat) (rest : List Byte) : List Byte :=
  padTo 640 (leBytes 1 kind ++ zeros 1 ++ leBytes 2 job ++ leBytes 4 tag ++ leBytes 2 dest ++ leBytes 2 src ++
    zeros 4 ++ rest)

/-- Queue a CTRL cell on a port (R340). -/
def State.queueCtrl (s : State) (port : Nat) (body : List Byte) : State :=
  s.modPort port fun r => { r with ctrlQ := r.ctrlQ ++ [{ body := body, of := none, post := none, hold := none }] }

/-- Ports that are UP. -/
def State.upPorts (s : State) : List Nat := s.portList.filter fun n => decide ((s.port n).state = .up)

def State.queueCtrlAll (s : State) (ports : List Nat) (body : List Byte) : State :=
  ports.foldl (fun s n => s.queueCtrl n body) s

/-! Forfeits (R410 to R413). -/

/-- LEAD of R411. -/
def State.lead (s : State) : Nat :=
  let l := s.regField (ecReg 0x18) 7 0
  if l ≠ 0 then l else s.obj 0x2700 4 1 / 2 + s.obj 0x2700 5 1 / 2 + s.obj 0x2700 6 1 / 2 + 3

/-- The bytes of a FORFEIT cell from byte 16 (Table 14-5). -/
def forfeitRest (effect causeNs cause seat hops : Nat) : List Byte :=
  leBytes 8 effect ++ leBytes 8 causeNs ++ leBytes 2 cause ++ leBytes 2 seat ++ leBytes 1 hops

/-- Keep a seen pair until its round; in a full table it replaces the pair whose keep time ends first (R413). -/
def addSeen (l : List SeenPair) (p : SeenPair) : List SeenPair :=
  if l.length < 256 then l ++ [p]
  else
    match l.find? fun q => l.all fun r => decide (q.till ≤ r.till) with
    | some q => l.erase q ++ [p]
    | none => l ++ [p]

/-- Does the device know of a forfeit of job `j` that awaits its effect round? -/
def State.forfeitKnown (s : State) (j : Nat) : Bool := s.ec.forfeits.any fun f => decide (f.job = j)

/-- Originate a forfeit of job `j` (R410 to R413), unless one awaits its effect. -/
def State.originate (s : State) (j cause seat : Nat) : State :=
  if j = 0 ∨ s.forfeitKnown j then s
  else
    let effect := s.curRound + s.lead
    let tag := s.ec.originated % 2 ^ 32
    let me := s.hallIndex
    let body := ctrlCell 3 j tag 0xFFFF me (forfeitRest effect s.now cause seat 0)
    let f : Forfeit := { job := j, effect := effect, tag := tag, cause := cause, origin := me }
    let seen := addSeen s.ec.seen { source := me, tag := tag, till := effect + s.lead }
    let s := { s with ec := { s.ec with forfeits := s.ec.forfeits ++ [f], seen := seen,
                                        originated := s.ec.originated + 1 } }
    ((s.queueCtrlAll s.upPorts body).logFault 0x80).bumpObj 0x60B2 0 1

/-! HBM reservations (R302 to R304). -/

/-- The reservations of partition `p`, summed. -/
def State.reserved (s : State) (p : Nat) : Nat := ((List.range 16).map fun l => s.obj (0x2600 + p) (l + 1) 0).sum

/-- The throttle step of stack `k`. -/
def State.stackStep (s : State) (k : Nat) : Nat := s.regField (hbReg k 8) 1 0

/-- Is f_k below 1 on the channel of partition `p` (R303)? -/
def State.short (s : State) (k p : Nat) : Bool := decide (672 * (4 - s.stackStep k) < 4 * s.reserved p)

/-- Shortfall episodes of stack `k` begin and end as the steps and reservations now are: RESERVATION_SHORT, SHORTFALL, and
the length of an ended episode in object 0x6070 (R304). -/
def State.shortfall (s : State) (k : Nat) : State :=
  let s := s.partList.foldl (fun s p =>
    match SMap.find? (s.stack k).shortFrom p with
    | none =>
      if s.short k p then
        (s.modStack k fun r => { r with shortFrom := SMap.insert p s.uptime r.shortFrom }).raise (hbReg k 0xC) 0x10
      else s
    | some t =>
      if s.short k p then s
      else
        (s.modStack k fun r => { r with shortFrom := SMap.erase r.shortFrom p }).bumpObj 0x6070 (p + 1)
          (ceilDiv (s.uptime - t) 1000000)) s
  s.status (hbReg k 8) 5 (!(s.stack k).shortFrom.isEmpty)

/-- Set the reservation of seat `n`. -/
def State.reserve (s : State) (n v : Nat) : State :=
  (List.range 12).foldl State.shortfall (s.setObj (0x2600 + n / 16) (n % 16 + 1) v)

/-! Seats. -/

/-- A TDI in CONFIG_LOCKED or RUN goes to ERROR (R441). -/
def State.tdiError (s : State) (n : Nat) : State :=
  if (s.seat n).tdi = .locked ∨ (s.seat n).tdi = .run then
    (s.modSeat n fun r => { r with tdi := .error }).raise (scReg 0x4) 8
  else s

/-- The trace stops when its seat leaves ACTIVE (R474). -/
def State.traceLost (s : State) (n : Nat) : State :=
  if bit (s.reg (mgReg 0x110)) 0 && decide (s.regField (mgReg 0x110) 24 16 = n) then
    (s.status (mgReg 0x110) 0 false).raise (mgReg 0x104) 0x80
  else s

/-- Change a seat's STATE: its TDI and the trace follow, and the seat's vector is signalled (R72, R441, R474). -/
def State.toState (s : State) (n : Nat) (st : SeatState) : State :=
  if (s.seat n).state = st then s
  else
    let was := (s.seat n).state
    let s := s.modSeat n fun r => { r with state := st }
    let s := if was = .active then (s.tdiError n).traceLost n else s
    (s.signalSeat n).refreshWd n

/-! Tiles in the cells (R33, R133, R401). -/

/-- Does partition `p` run paired (R401)? -/
def State.paired (s : State) (p : Nat) : Bool := bit (s.reg (ecReg 0x20)) p

/-- The arrays a tile of array `a` runs on: itself, and its partner in paired mode. -/
def State.pairOf (s : State) (p a : Nat) : List Nat := if s.paired p then [a, a ^^^ 1] else [a]

/-- GATE_IDLE as MX_CTRL now has it. A tile boundary of an array, where its cells take or end a tile, puts it in force
there (R133; log entry 67). -/
def State.gateIdleNow (s : State) (p : Nat) : Nat := s.regField (mxReg p 0) 15 8

/-- The cells of an array are empty again; a retired array gates its clocks (R400). -/
def State.freeArray (s : State) (p a : Nat) : State :=
  let idle := s.gateIdleNow p
  s.modArr p a fun r =>
    { r with busy := none, idleFrom := s.uptime, gateIdle := idle, gated := r.gated || r.retired }

/-- A tile of seat `n` enters the cells of arrays `as` that are idle, or waits its turn; the arrays are ungated. A retired
array takes no new tile (R400). -/
def State.enterArrays (s : State) (n : Nat) (as : List Nat) : State :=
  let idle := s.gateIdleNow (n / 16)
  as.foldl (fun s b => s.modArr (n / 16) b fun r =>
    if (s.pairOf (n / 16) b).any fun c => (s.arr (n / 16) c).retired then r
    else if r.busy.isSome then { r with gated := false }
    else { r with gated := false, busy := some n, since := s.uptime, gateIdle := idle }) s

/-- The array and slot a tile runs on. -/
def TileWork.place (t : TileWork) : Nat × Nat := t.retry.getD (t.array, t.slot)

/-- The arrays a tile runs on. -/
def State.tileArrays (s : State) (p : Nat) (t : TileWork) : List Nat :=
  if t.retry.isSome then [t.place.1] else s.pairOf p t.array

/-- The opcode and SEQ_TAG of a descriptor's words. -/
def opcodeOf (w : List Word) : Nat := field (w.getD 0 0) 7 0
def tagOf (w : List Word) : Nat := (w.getD 1 0).toNat

def Run.tileWork? (r : Run) : Option TileWork :=
  match r.work with
  | .tile t => some t
  | _ => none

/-- Has the run a tile for array `a`? -/
def State.runOn (s : State) (p a : Nat) (r : Run) : Bool :=
  match r.tileWork? with
  | some t => (s.tileArrays p t).contains a
  | none => false

/-- The first tile of seat `n` on array `a` in ring order. -/
def State.firstTile (s : State) (n a : Nat) : Option Word :=
  ((s.seat n).running.find? (s.runOn (n / 16) a)).map Run.index

/-- Is the tile of the run in the cells of its arrays? -/
def State.inCells (s : State) (n : Nat) (r : Run) : Bool :=
  match r.tileWork? with
  | some t => decide (s.firstTile n t.place.1 = some r.index) &&
      (s.tileArrays (n / 16) t).all fun b => decide ((s.arr (n / 16) b).busy = some n)
  | none => false

/-- Does the run queue cells of this flow on this port? -/
def Run.sendsOn (r : Run) (port flow : Nat) : Bool :=
  match r.work with
  | .coll c => c.sends.any fun t => decide (t.port = port ∧ t.flow = flow)
  | _ => false

/-- The posted writes of seat `n` whose PUT is not handed to the router whole. -/
def State.halfPosted (s : State) (n : Nat) : List Nat :=
  (s.posted.filter fun w => decide (w.seat = n) && (s.seat n).running.any fun r =>
    decide (r.index = w.index ∧ r.words.getD 1 0 = w.tag) && (match r.work with | .put _ => true | _ => false)).map Posted.id

/-- The queued cells of void descriptors of seat `n` never leave: those of its collectives, and those of PUTs not handed
over whole (R372). Its posted writes with no cell left in a queue settle by R275. -/
def State.dropCells (s : State) (n : Nat) : State :=
  let runs := (s.seat n).running
  let half := s.halfPosted n
  let mine := fun (c : QCell) => match c.of with | some id => half.contains id | none => false
  let s := s.portList.foldl (fun s p => s.modPort p fun r =>
    { r with schedQ := r.schedQ.filter fun c => !(runs.any fun q => q.sendsOn p c.flow),
             openQ := r.openQ.filter fun c => !mine c }) s
  let queued := fun (id : Nat) => s.portList.any fun p => (s.port p).openQ.any fun c => decide (c.post = some id)
  let due := s.curRound + 2
  let posted := s.posted.map fun (w : Posted) =>
    if w.seat = n ∧ w.due = 0 ∧ queued w.id = false then { w with due := due } else w
  { s with posted := posted }

/-- Void every outstanding descriptor of a seat (R58, R404, R414): nothing more of it is done, but a tile already in
the cells runs to its end, with its comparison, write and counts (`hard` halts it too, R408). -/
def State.voidSeat (s : State) (n : Nat) (hard : Bool) : State :=
  let runs := (s.seat n).running
  let keep := if hard then [] else (runs.filter (s.inCells n)).map fun r => { r with void := true }
  let s := runs.foldl (fun s r => if r.void then s else s.trace n (tagOf r.words) (opcodeOf r.words) 4 0 r.unit) s
  let s := if hard then
      (List.range 8).foldl (fun s a =>
        if (s.arr (n / 16) a).busy = some n then s.freeArray (n / 16) a else s) s
    else s
  let reads := s.hostReads.filter fun h => decide (h.seat ≠ n)
  let launches := s.launches.map fun l => { l with asker := l.asker.filter fun b => decide (b.1 ≠ n) }
  let s := { (s.dropCells n) with hostReads := reads, launches := launches }
  let s := s.modSeat n fun r => { r with head := none, running := keep, heldBells := [], cqHeld := none }
  s.refreshWd n

/-- A fault ends a seat: FAULTED, and a forfeit when its JOB is nonzero (R43, R62, R410). -/
def State.faultSeat (s : State) (n cause : Nat) : State :=
  if s.seatIs n .active || s.seatIs n .waking then
    ((s.toState n .faulted).modSeat n fun r => { r with head := none }).originate (s.job n) cause n
  else s

/-- A descriptor whose STATUS faults the seat (R123, R195, R214, R263, R356): cause SEAT_FAULTED. -/
def State.seatFault (s : State) (n : Nat) : State := s.faultSeat n 1

/-- The slot whose tile is in the cells of an array. -/
def State.cellSlot (s : State) (p a : Nat) : Option Nat :=
  match (s.arr p a).busy with
  | none => none
  | some n => (((s.seat n).running.find? (s.runOn p a)).bind Run.tileWork?).map fun t => t.place.2

/-- Clear and free every group slot bound to the seats `sel` of partition `p` (R128), but for that of a tile in the cells,
which its end frees. -/
def State.clearSlots (s : State) (p : Nat) (sel : Nat → Bool) : State :=
  (List.range 8).foldl (fun s a =>
    let keep := s.cellSlot p a
    s.modArr p a fun r =>
      { r with slots := r.slots.filter fun e =>
          match e.2.seat with
          | some n => !sel n || decide (keep = some e.1)
          | none => true }) s

/-- Count a fault event of an array; the count saturates at 255 (R399, Table 14-18). -/
def State.countFault (s : State) (p a : Nat) : State :=
  s.modArr p a fun r => { r with faults := min (r.faults + 1) 255 }

/-- The retirement limit, object 0x4040:01. -/
def State.retireLimit (s : State) : Nat := s.obj 0x4040 1 3

/-- Retire an array: its bound slots are lost, but a tile in its cells completes and is checked as usual, before the clocks
gate (R399, R400). -/
def State.retireArray (s : State) (p a : Nat) : State :=
  let keep := s.cellSlot p a
  let s := s.modArr p a fun r =>
    { r with retired := true, gated := r.gated || r.busy.isNone,
             slots := r.slots.map fun e => if keep = some e.1 then e else (e.1, { e.2 with lost := true }) }
  s.logArray 8

/-! The recorder when its seat goes (R385, R386). -/

/-- Append an entry to the recorder index; the oldest of 4,096 is overwritten (R386). -/
def State.indexEntry (s : State) (step first count flags : Nat) (digest : List Byte) : State :=
  let e := leBytes 8 step ++ leBytes 8 first ++ leBytes 4 count ++ leBytes 4 flags ++ digest.take 8
  { s with rec_ := { s.rec_ with index := (e :: s.rec_.index).take 4096 } }

/-- A RELEASE of the recorder seat, or a reset of its partition, while a step is open (R385). A BEGIN that waits, and a
STEP_END that waits for room in the ring, lapse with the seat's window (DESIGN CHOICE, log entry 70). -/
def State.recorderLost (s : State) : State :=
  let lapse := fun (r : Recorder) => { r with pendBegin := none, pendEnd := false, ending := [] }
  match s.rec_.openStep with
  | none => { s with rec_ := lapse s.rec_ }
  | some step =>
    let flags := b2n s.rec_.dropped + 2 * b2n s.deterministic + 4
    let s := if s.rec_.replay then s
      else (s.indexEntry step s.rec_.firstRound s.rec_.count flags (s.freeBytes 8)).draw
    ({ s with rec_ := { lapse s.rec_ with openStep := none, replay := false, shift := 0 } }).raise (ecReg 0x838) 8

def State.recorderSeat (s : State) : Nat := s.regField (ecReg 0x810) 24 16

/-! RELEASE (R58). -/

/-- May the waiting acquires that `f` names be tried again (R284)? -/
def State.haspDue (s : State) (b : Bool) (f : LineOp → Bool) : State :=
  let wake := fun (q : Run) =>
    match q.work with
    | .haspWait o due => { q with work := .haspWait o (if f o then b else due) }
    | _ => q
  { s with seats := s.seats.map fun (e : Nat × SeatRec) => (e.1, { e.2 with running := e.2.running.map wake }) }

/-- RELEASE begins: RELEASING, outstanding descriptors void, its cache lines dropped, its reservation 0. -/
def State.startRelease (s : State) (n : Nat) : State :=
  let s := if s.recorderSeat = n then s.recorderLost else s
  let s := s.voidSeat n false
  let s := s.toState n .releasing
  let s := s.clearSlots (n / 16) fun m => decide (m = n)
  let w := s.hbmWin n
  let s := s.dropLines fun l => decide (l.part = n / 16) && inWin w (l.line * 128) 1
  (s.reserve n 0).haspDue true fun _ => true

/-- The registers and bits of a CT_SEAT_RESULT: BUSY, LOCAL_SEAT, CAUSE (Table 2-3). -/
def State.seatResult (s : State) (p : Nat) (busy : Bool) (loc cause : Nat) : State :=
  s.setRegN (ctReg p 4) (b2n busy * 2 ^ 31 + loc * 2 ^ 8 + cause)

/-- Set the tumblers of a seat's range to 0. -/
def State.zeroTumblers (s : State) (n : Nat) : State :=
  let r := s.tumbRange n
  (List.range (r.2 - r.1)).foldl (fun s i => s.setReg (tumblerReg (r.1 + i)) 0) s

/-- Job `j` leaves the forfeited set when its last seat on the device is FREE (R414). -/
def State.leaveForfeited (s : State) : State :=
  let left := s.ec.forfeited.filter fun j => s.seatList.any fun n => !s.seatIs n .free && decide (s.job n = j)
  { s with ec := { s.ec with forfeited := left } }

/-! Gating (R489). -/

/-- Fold a partition's register counters into their 0x6000 objects (R470, R489). -/
def State.foldPart (s : State) (p : Nat) : State :=
  ((s.foldWide 0x6040 (p + 1) (qzReg p 0x18)).foldWide 0x6041 (p + 1) (qzReg p 0x20)).foldWide 0x6042 (p + 1)
    (qzReg p 0x28)

/-- Is every seat of partition `p` FREE? -/
def State.allFree (s : State) (p : Nat) : Bool := (List.range 16).all fun l => s.seatIs (p * 16 + l) .free

/-- Is every seat of the device FREE? -/
def State.deviceFree (s : State) : Bool := s.seatList.all fun n => s.seatIs n .free

/-- A partition whose last seat is FREE begins to gate; gating takes 4 µs (R489). -/
def State.gatePart (s : State) (p : Nat) : State :=
  let r := s.part p
  if s.allFree p && !r.gated && r.gatingAt.isNone && r.wakeAt.isNone then
    s.modPart p fun r => { r with gatingAt := some (s.uptime + 4000) }
  else s

/-- Is a register retained through gating (R489)? -/
def retained (v : Variant) (off : Nat) : Bool :=
  let a := (regInfo v off).acc
  decide (a = .rwp ∨ a = .sl) ||
    (match blockOf off with
     | .ct _ => decide (off % 0x10000 = 4 ∨ off % 0x10000 = 8) ||
         (decide (0x100 ≤ off % 0x10000 ∧ off % 0x10000 < 0x1100 ∧ off % 0x100 = 0x6C))
     | _ => false)

/-- Registers of a gated partition that are not retained return to their reset values (R489). -/
def State.dropWorking (s : State) (p : Nat) : State :=
  { s with regs := s.regs.filter fun e =>
      decide (e.1 < partReg p 0 ∨ partReg (p + 1) 0 ≤ e.1) || retained s.variant e.1 }

/-! Partition reset (R407 to R409). -/

/-- Table 14-3. -/
def causeCode : ResetCause → Nat
  | .hostCmd => 1 | .partWatchdog => 2 | .seatDrain => 3 | .cfgParity => 4 | .cpUncorr => 5
  | .device => 6 | .fatalHbm => 7

/-- The forfeit cause of a partition reset (Table 14-6). -/
def forfeitOf : ResetCause → Nat
  | .device => 4 | .fatalHbm => 8 | _ => 3

/-- EC_RESET_CAUSE captures the cause while its field reads 0 (R425). -/
def State.captureCause (s : State) (p : Nat) (c : ResetCause) : State :=
  let off := ecReg (0x40 + p / 8 * 4)
  let i := p % 8
  if s.regField off (4 * i + 3) (4 * i) = 0 then s.setRegField off (4 * i + 3) (4 * i) (causeCode c) else s

/-- Is the run a hasp or atomic operation on memory of partition `p` that is not performed yet? -/
def Run.onMemory (r : Run) (p : Nat) : Bool :=
  match r.work with
  | .lineWait o => decide (o.part = p)
  | .haspWait o _ => decide (o.part = p)
  | .release => (decide (opcodeOf r.words = 8) && decide (field (r.words.getD 4 0) 12 8 = p)) ||
      (decide (opcodeOf r.words = 4) && decide (field (r.words.getD 5 0) 12 8 = p))
  | _ => false

/-- Is the run an ADD, not performed yet, to a tumbler of a seat of partition `p`? -/
def State.addsTo (s : State) (p : Nat) (r : Run) : Bool :=
  decide (r.work = Work.release) && decide (opcodeOf r.words = 7 ∧ field (r.words.getD 4 0) 31 28 = 1) &&
    ((List.range 16).map fun l => p * 16 + l).any fun m =>
      !s.seatIs m .free && s.ownsTumbler m (field (r.words.getD 5 0) 12 0)

/-- An operation of another seat on memory of a partition under reset ends with TARGET_RESET, and every fence that covers
it with RESET; so does a fence that covers an ADD to a tumbler of the partition, which is judged when it runs (R273, R280,
R285). -/
def State.endTargetReset (s : State) (p : Nat) : State :=
  s.seatList.foldl (fun s n =>
    let hit := fun (r : Run) => r.onMemory p
    if n / 16 = p then s
    else if (s.seat n).running.any hit then
      (s.modSeat n fun r =>
        { r with running := r.running.map fun q => if hit q then { q with work := .done, status := 5 } else q,
                 fenceBad := r.fenceBad ++ [(0, 0)] }).raise (seatReg n 0x68) 0x10
    else if (s.seat n).running.any (s.addsTo p) then s.modSeat n fun r => { r with fenceBad := r.fenceBad ++ [(0, 0)] }
    else s) s

/-- The seats of partition `p` that are not FREE. -/
def State.partSeats (s : State) (p : Nat) : List Nat :=
  ((List.range 16).map fun l => p * 16 + l).filter fun n => !s.seatIs n .free

/-- The shaker gives up its tests of the units of partition `p` that `f` names (R421). -/
def State.takeBack (s : State) (p : Nat) (f : ShakeUnit → Bool) : State :=
  { s with ec := { s.ec with shakeUnits := s.ec.shakeUnits.filter fun u => !(decide (u.1 = p) && f u.2.1) } }

/-- A CREATE or RELEASE in progress in partition `p` ends with PARTITION_RESETTING (R55, Table 14-4). -/
def State.abortCommand (s : State) (p : Nat) : State :=
  let res := s.reg (ctReg p 4)
  if bit res 31 then
    ({ s with heldCreates := s.heldCreates.filter fun n => decide (n / 16 ≠ p) }).seatResult p false (field res 11 8) 7
  else s

/-- A partition reset begins and runs its steps up to the re-initialised HBM channels (Table 14-4). A cause that
arises during a reset of the same partition starts no second one (R395); one that arises during a wake waits (R490). -/
def State.startPartReset (s : State) (p : Nat) (c : ResetCause) : State :=
  if !partPresent s.variant p || (s.part p).resetting.isSome then s
  else if (s.part p).wakeAt.isSome then
    s.modPart p fun r => { r with resetQueued := some (r.resetQueued.getD c) }
  else
    let seats := s.partSeats p
    let jobs := ((seats.map s.job).filter fun j => decide (j ≠ 0)).dedup
    let s := ((s.captureCause p c).takeBack p fun _ => true).abortCommand p
    let s := if s.recorderSeat / 16 = p then s.recorderLost else s
    let s := seats.foldl (fun s n => (s.voidSeat n true).tdiError n) s
    let s := s.modPart p fun r => { r with resetting := some { cause := c, start := s.uptime, jobs := jobs }, lowV := false }
    let s := jobs.foldl (fun s j => s.originate j (forfeitOf c)
      ((seats.filter fun n => decide (s.job n = j)).headD 0)) s
    let s := s.clearSlots p fun _ => true
    let s := s.dropLines fun l => decide (l.part = p)
    let s := { s with fills := s.fills.filter fun f => decide (f.1 ≠ p) }
    let s := (s.endTargetReset p).haspDue true fun _ => true
    let s := seats.foldl (fun s n =>
      let w := s.csWin n
      let s := s.csClear w.1 (w.2 - w.1)
      let s := s.modSeat n fun r => { r with wardKey := none }
      s.reserve n 0) s
    s.traceLost (seats.find? (fun n => decide (s.regField (mgReg 0x110) 24 16 = n)) |>.getD 512)

/-- Do the conditions of R286 hold for a partition under reset: its jobs' forfeits have taken effect, and every
fabric write its seats posted is settled? -/
def State.oldEpochGone (s : State) (p : Nat) : Bool :=
  match (s.part p).resetting with
  | none => true
  | some r => (r.jobs.all fun j => !s.forfeitKnown j) && s.posted.all fun w => decide (w.seat % 512 / 16 ≠ p)

/-- The seats of partition `p` are as after a reset, but for their TDIs, which only STOP_INTERFACE unlocks (R441), and the
hold-off of their vectors with the event it holds (R72). -/
def State.freshSeats (s : State) (p : Nat) : State :=
  { s with seats := s.seats.filterMap fun e =>
      let r := { SeatRec.fresh with tdi := e.2.tdi, tdiStream := e.2.tdiStream, tdiNonce := e.2.tdiNonce,
                                    quietTill := e.2.quietTill, heldEvent := e.2.heldEvent }
      if e.1 / 16 ≠ p then some e else if r = SeatRec.fresh then none else some (e.1, r) }

/-- Channel `c` of stack `k` retrains no more (R297). -/
def State.retrainEnds (s : State) (k c : Nat) : State :=
  let s := s.modStack k fun r => { r with retraining := r.retraining.filter fun d => decide (d ≠ c) }
  s.status (hbReg k 8) 2 (!(s.stack k).retraining.isEmpty)

/-- The re-initialisation of a partition reset has retrained the partition's channel of every stack (R299). -/
def State.retrainPart (s : State) (p : Nat) : State :=
  (List.range 12).foldl (fun s k =>
    ((s.retrainEnds k p).modStack k fun r => { r with retrainFails := SMap.erase r.retrainFails p }).raise (hbReg k 0xC) 0x40) s

/-- The tests of a partition reset's self-test (Table 14-10): of every array that is not retired, the wide path, the quantiser
and the copy engines. -/
def State.selfTests (s : State) (p : Nat) : List (ShakeUnit × ShakeTest) :=
  let arrays := (List.finRange 8).filter fun a => !(s.arr p a.val).retired
  (arrays.flatMap fun a =>
    [(.array a, .arrayKat), (.array a, .arrayInject), (.longAccumulator a, .laMarch)]) ++
  [(.widePath, .wpKat), (.quantiser, .qzKat)] ++ (List.finRange 4).map fun e => (.copyEngine e, .ceKat)

/-- The self-test of a partition reset is over (Table 14-4). A SHAKER_TEST and its SHAKER_TEST_END show a test of it that
fails; the others have run now, and passed (log entry 71). -/
def State.selfTest (s : State) (p : Nat) : State :=
  let start := match (s.part p).resetting with
    | some r => r.start
    | none => s.uptime
  let shown := fun (k : Nat × ShakeUnit × ShakeTest × ShakeCond) =>
    s.ec.shakeSeen.any fun q => decide (q.1 = k ∧ start ≤ q.2)
  let keys := (s.selfTests p).map fun t => (p, t.1, t.2, ShakeCond.nominal)
  let ran := keys.filter fun k => !shown k
  { s with ec := { s.ec with shakeSeen := ran.map (fun k => (k, s.uptime)) ++
                                          s.ec.shakeSeen.filter fun q => !ran.contains q.1 } }

/-- A partition reset ends: self-test over, tumblers 0, registers at reset values, seats FREE, EPOCH incremented, gated
(Table 14-4, R27, R36, R285, R287). Nothing of another partition changes but the shared forfeited set (R38). -/
def State.finishPartReset (s : State) (p : Nat) : State :=
  let seats := s.partSeats p
  let epoch := (s.epoch p + 1) % 2 ^ 16
  let s := seats.foldl State.zeroTumblers (s.selfTest p)
  let s := s.foldPart p
  let s := seats.foldl (fun s n => s.toState n .free) s
  let s := s.freshSeats p
  let s := s.resetRegs (partReg p 0) (partReg (p + 1) 0)
  let s := s.setRegN (ctReg p 8) epoch
  let s := (List.range 8).foldl (fun s a => s.modArr p a fun r =>
    { ArrRec.fresh with faults := r.faults, retired := r.retired }) s
  let s := s.setPart p { PartRec.fresh with gated := true }
  (((s.retrainPart p).leaveForfeited).logFault 0x10).bumpObj 0x60B0 (p + 1) 1

/-! Loss of a stack (R307, R419). -/

/-- The device retires: stack `k` is lost for `why` (0x4020:03). -/
def State.retireDevice (s : State) (k why : Nat) : State :=
  let s := s.status (hbReg k 8) 7 true
  let s := s.setObj 0x4020 1 1
  let s := s.setObj 0x4020 2 (s.obj 0x4020 2 0 ||| 2 ^ k)
  let s := s.setObj 0x4020 3 why
  let s := s.setObj 0x4020 5 s.now
  let s := s.logFault 0x40
  let s := s.partList.foldl (fun s p => s.startPartReset p .fatalHbm) s
  { s with ec := { s.ec with retiredHbm := true }, pw := { s.pw with state := .retired } }

/-! Device reset begins (R416, R477, Table 14-8, first step). -/

/-- A health check of the trial fails: the next boot is in the committed slot, in state FALLEN_BACK (R477). -/
def State.trialFails (s : State) : State :=
  { s with fw := { s.fw with trial := none, trialCount := 0, selSeq := s.fw.selSeq + 1, fell := true, windowEnd := none,
                             healthOk := false } }

/-- Is a trial running inside its window? -/
def State.inTrial (s : State) : Bool := decide (s.fw.bootState = 1) && s.fw.windowEnd.isSome

/-- DEV_RESETTING, every partition's reset with cause DEVICE, one forfeit per job; with `fault`, DEV_FAULT (R416). A
cause during a device reset restarts it and counts again (R395). -/
def State.startDeviceReset (s : State) (fault : Bool) : State :=
  let s := if fault && s.inTrial then s.trialFails else s
  let s := { s with ec := { s.ec with devReset := some s.uptime, devDone := false } }
  let s := (if fault then s.logFault 0x20 else s).bumpObj 0x60B1 0 1
  s.partList.foldl (fun s p => s.startPartReset p .device) s

end Sys2Proof.Machine
end

