-- ==== Sys2Proof/Machine/Operands.lean ====
section
/-! DEFINITION. Descriptors and their operands: fields of words, windows, alignment, plain tensors, what a
descriptor needs to dispatch, its refusal, its start, and its completion. -/

namespace Sys2Proof.Machine

/-! Fields of a descriptor's words. -/

/-- Bits `hi` to `lo` of word `i`. -/
def wF (w : List Word) (i hi lo : Nat) : Nat := field (w.getD i 0) hi lo

def wN (w : List Word) (i : Nat) : Nat := (w.getD i 0).toNat

def wB (w : List Word) (i b : Nat) : Bool := bit (w.getD i 0) b

/-- A signed 16-bit field in bits 15:0 of word `i`. -/
def wI16 (w : List Word) (i : Nat) : Int := i16 (wN w i)

/-- A byte address held in a word in units of 64 bytes. -/
def wAddr (w : List Word) (i : Nat) : Nat := wN w i * 64

/-- Two words, low first. -/
def wN64 (w : List Word) (i : Nat) : Nat := wN w i + 2 ^ 32 * wN w (i + 1)

/-- COUNT of Table 2-8. -/
def countOf (w : List Word) : Nat := wF w 0 11 8

/-- Are bits `hi` to `lo` of word `i` zero? -/
def wZ (w : List Word) (i hi lo : Nat) : Bool := decide (wF w i hi lo = 0)

/-- Are words `lo` to `hi - 1` all zero? -/
def wordsZero (w : List Word) (lo hi : Nat) : Bool :=
  (List.range (hi - lo)).all fun i => decide (wN w (lo + i) = 0)

/-! Windows a descriptor may read and write (R45, R77, R262). -/

/-- The byte ranges seat `n` may read: its CS window, and the parts of its SHARE windows that lie in CS windows of
seats of its JOB that are neither FREE nor RELEASING (R45). -/
def State.readRanges (s : State) (n : Nat) : List (Nat × Nat) :=
  let shared := (List.range 4).flatMap fun i =>
    let w := s.shareWin n i
    (s.seatList.filter fun m =>
      !s.seatIs m .free && !s.seatIs m .releasing && decide (s.job m = s.job n)).map fun m =>
        let v := s.csWin m
        (max w.1 v.1, min w.2 v.2)
  s.csWin n :: shared.filter fun r => decide (r.1 < r.2)

/-- Does a list of ranges cover `lo ≤ x < hi`? `fuel` bounds the ranges used. -/
def covers (rs : List (Nat × Nat)) : Nat → Nat → Nat → Bool
  | 0, lo, hi => decide (hi ≤ lo)
  | fuel + 1, lo, hi =>
    if hi ≤ lo then true
    else
      match rs.find? fun r => decide (r.1 ≤ lo ∧ lo < r.2) with
      | some r => covers rs fuel r.2 hi
      | none => false

/-- May seat `n` read `len` bytes at `a`? -/
def State.mayRead (s : State) (n a len : Nat) : Bool :=
  let rs := s.readRanges n
  covers rs (rs.length + 1) a (a + len)

/-- May seat `n` write `len` bytes at `a`: inside its CS window? -/
def State.mayWrite (s : State) (n a len : Nat) : Bool := decide (len = 0) || inWin (s.csWin n) a len

/-- Do `len` bytes at HBM address `a` lie in the seat's HBM window? -/
def State.inHbm (s : State) (n a len : Nat) : Bool := decide (len = 0) || inWin (s.hbmWin n) a len

/-- Is byte `a` in the CS window of a seat, not FREE, of another partition that is under reset (R45, Table 9-12)? A FREE
seat holds no window (R27). -/
def State.underReset (s : State) (n a : Nat) : Bool :=
  s.seatList.any fun m =>
    decide (m / 16 ≠ n / 16) && !s.seatIs m .free && s.resetting (m / 16) && inWin (s.csWin m) a 1

/-- A unit's read for seat `n` of `len` bytes at `a`, each marked with its sector's poison; a region of a seat whose
partition is under reset reads as poisoned (Table 9-12). -/
def State.unitRead (s : State) (n a len : Nat) : Marked × State :=
  let r := s.csReadMarked a len
  ((List.range len).map fun i =>
    let b := r.1.getD i (0, false)
    (b.1, b.2 || s.underReset n (a + i)), r.2)

def Marked.bytes (m : Marked) : List Byte := m.map Prod.fst
def Marked.poisoned (m : Marked) : Bool := m.any (·.2)

/-- The words of a region read. -/
def Marked.words (m : Marked) : List Word := wordsOf m.bytes

/-! Plain tensors (R99 to R102). -/

/-- Bytes of a row of `k` elements of `w` bits. -/
def rowBytes (w k : Nat) : Nat := ceilDiv (k * w) 8

def aligned (a n : Nat) : Bool := decide (a % n = 0)

/-- A pitch is a multiple of 64 of at least the row's length (R99, R102). -/
def pitchOk (pitch len : Nat) : Bool := aligned pitch 64 && decide (len ≤ pitch)

/-- The bytes from the first to the last of `rows` rows of `len` bytes. -/
def spanOf (pitch rows len : Nat) : Nat := if rows = 0 then 0 else (rows - 1) * pitch + len

/-- May the seat read every row of a plain tensor? -/
def State.mayReadRows (s : State) (n base pitch rows len : Nat) : Bool :=
  let rs := s.readRanges n
  covers rs (rs.length + 1) base (base + spanOf pitch rows len) ||
    (List.range rows).all fun r => covers rs (rs.length + 1) (base + r * pitch) (base + r * pitch + len)

/-- May the seat write every row of a plain tensor? -/
def State.mayWriteRows (s : State) (n base pitch rows len : Nat) : Bool :=
  decide (rows = 0) || inWin (s.csWin n) base (spanOf pitch rows len)

/-! Arrays a seat may use (R33, R400, R401). -/

/-- Does seat `m` hold array `a` of its partition in dedicated mode? -/
def State.dedicates (s : State) (m a : Nat) : Bool :=
  !s.seatIs m .free && bit (s.seatCfg m) 10 && bit (s.seatCfg m) a

/-- Is array `a` of partition `p` dedicated to a seat other than `n`? -/
def State.dedicatedElsewhere (s : State) (p n a : Nat) : Bool :=
  (List.range 16).any fun l => decide (p * 16 + l ≠ n) && s.dedicates (p * 16 + l) a


/-- May seat `n` use array `a` alone? -/
def State.mayUseOne (s : State) (n a : Nat) : Bool :=
  !(s.arr (n / 16) a).retired && !s.dedicatedElsewhere (n / 16) n a &&
    (!bit (s.seatCfg n) 10 || bit (s.seatCfg n) a)

/-- May seat `n` use array `a`, and in paired mode its partner too? -/
def State.mayUse (s : State) (n a : Nat) : Bool :=
  s.mayUseOne n a && (!s.paired (n / 16) || s.mayUseOne n (a ^^^ 1))

/-! The descriptor at the head of a queue and those in work. -/

/-- Does a started descriptor hold its seat's queue: one that waits for a slot, a fence, or an ACQUIRE or TRY
(R126, R271, R284)? -/
def Run.holds (r : Run) : Bool :=
  match r.work with
  | .slotWait _ _ _ => true
  | _ => decide (opcodeOf r.words = 6 ∨ (opcodeOf r.words = 8 ∧ wF r.words 4 31 28 ≤ 1))

/-- Is an earlier operation covered by a fence of this KIND (Table 9-3)? FABRIC's posted writes are named by the
caller. -/
def Run.covered (kind : Nat) (r : Run) : Bool :=
  !r.void &&
    match opcodeOf r.words with
    | 1 | 2 | 3 => true
    | 4 => decide (wF r.words 4 31 28 ≠ 5 ∨ 1 ≤ kind)
    | 7 => decide (1 ≤ kind ∧ wF r.words 4 31 28 ≠ 2)
    | 8 => decide (1 ≤ kind)
    | 9 => decide (kind = 3) && wB r.words 4 31
    | _ => false

/-- The runs of seat `n` that lie before index `idx` in ring order. -/
def State.runsBefore (s : State) (n : Nat) (idx : Word) : List Run :=
  (s.seat n).running.takeWhile fun r => decide (r.index ≠ idx)

/-- Has every earlier operation that a fence of this KIND covers ended (R271)? -/
def State.clearBefore (s : State) (n : Nat) (idx : Word) (kind : Nat) : Bool :=
  (s.runsBefore n idx).all fun r => !r.covered kind

def State.blocked (s : State) (n : Nat) : Bool :=
  (s.seat n).cqHeld.isSome || (s.seat n).running.any Run.holds

/-- Do the units of partition `p` run: awake and not under reset? -/
def State.partRuns (s : State) (p : Nat) : Bool :=
  let r := s.part p
  !s.resetting p && !r.gated && r.wakeAt.isNone && r.gatingAt.isNone

/-- The tumbler wait of a descriptor is satisfied (R60, R276). -/
def State.waitOk (s : State) (w : List Word) : Bool :=
  !wB w 0 13 || waitMet (s.tumbler (wF w 2 12 0)) (w.getD 3 0)

/-- The head descriptor of seat `n`, when it can dispatch now: read and checked, its wait satisfied, and nothing
holds the queue. -/
def State.readyHead (s : State) (n : Nat) : Option Head :=
  if s.coreOn && s.seatIs n .active && s.partRuns (n / 16) && !s.blocked n then
    match (s.seat n).head with
    | some h => if s.waitOk h.words then some h else none
    | none => none
  else none

/-- A DESCRIPTOR_REFUSED record, and the seat FAULTED; RING_CONS stays (R62, R70). -/
def State.refuse (s : State) (n : Nat) (w : List Word) (cause : Nat) : State :=
  let s := s.errorRecord n (tagOf w) cause 1 s.hallIndex s.now
  (s.trace n (tagOf w) (opcodeOf w) 3 0 0xFF).seatFault n

/-- Refusal with NOT_DETERMINISTIC: NONDET_REFUSED and object 0x60A2 (R377). -/
def State.refuseNondet (s : State) (n : Nat) (w : List Word) : State :=
  ((s.raise (ecReg 0x804) 2).bumpObj 0x60A2 0 1).refuse n w 5

/-- The descriptor starts: RING_CONS moves past it and its continuations (R516). -/
def State.start (s : State) (n : Nat) (h : Head) (unit : Nat) : State :=
  let s := s.setReg (seatReg n 0x1C) (h.index + BitVec.ofNat 32 (1 + countOf h.words))
  let s := s.modSeat n fun r => { r with head := none }
  s.trace n (tagOf h.words) (opcodeOf h.words) 1 0 unit

/-- Output regions that reach into the host window: bytes `a` to `a + len - 1` (R73). -/
def State.guardRegion (s : State) (n a len : Nat) : List Region :=
  let w := s.hostWin n
  if len ≠ 0 ∧ a < w.2 ∧ w.1 < a + len then [{ lo := a, hi := a + len }] else []

/-- Does an access to `len` bytes at `a` meet a granule of 4 KiB of the region (R73, R74)? -/
def Region.meets (g : Region) (a len : Nat) : Bool :=
  decide (g.lo / 4096 * 4096 < a + len ∧ a < ((g.hi - 1) / 4096 + 1) * 4096)

/-- Does the region hold byte `a`? -/
def Region.holds (g : Region) (a : Nat) : Bool := decide (g.lo ≤ a ∧ a < g.hi)

/-- Guard-table entries in use: one per started descriptor that writes inside the host window (R73). -/
def State.guardCount (s : State) (n : Nat) : Nat :=
  ((s.seat n).running.filter fun r => !r.guard.isEmpty).length


/-- A new descriptor in work. -/
def newRun (h : Head) (work : Work) (status : Nat) : Run :=
  { index := h.index, words := h.words, record := [], status := status, work := work, guard := [], tensor := 0,
    void := false, unit := 0xFF }

/-- Does a run of this opcode on engine `e` use a unit that the shaker tests? Arrays are used tile by tile. -/
def usesUnit (opcode e : Nat) : ShakeUnit → Bool
  | .widePath => decide (opcode = 2)
  | .quantiser => decide (opcode = 3)
  | .copyEngine k => decide ((opcode = 4 ∨ opcode = 9) ∧ k.val = e)
  | _ => false

/-- The status register, within its partition, of the engine that a run of this opcode on engine `e` uses, if it is a wide
path, quantiser or copy engine. -/
def engineStatus (p opcode e : Nat) : List Nat :=
  match opcode with
  | 2 => [wpReg p 4]
  | 3 => [qzReg p 4]
  | 4 | 9 => [ceReg p (0x10 + 4 * e)]
  | _ => []

/-- Engines take a descriptor, which their status registers show. -/
def State.noteWork (s : State) (p : Nat) (offs : List Nat) : State :=
  s.modPart p fun r =>
    { r with worked := offs.foldl (fun m o => SMap.insert o s.uptime (SMap.erase m o)) r.worked }

/-- A descriptor enters its unit, and the shaker gives the unit back (R421). -/
def State.addRun (s : State) (n : Nat) (r : Run) : State :=
  let s := s.noteWork (n / 16) (engineStatus (n / 16) (opcodeOf r.words) r.unit)
  let s := s.takeBack (n / 16) (usesUnit (opcodeOf r.words) r.unit)
  (s.modSeat n fun q => { q with running := q.running ++ [r] }).refreshWd n

/-- A descriptor starts whose work ends in this step with STATUS `status`. -/
def State.startDone (s : State) (n : Nat) (h : Head) (status : Nat) (guard : List Region) : State :=
  s.addRun n { newRun h .done status with guard := guard }

def State.findRun (s : State) (n : Nat) (idx : Word) : Option Run :=
  (s.seat n).running.find? fun r => decide (r.index = idx)

/-- Replace the run of index `idx`. -/
def State.modRun (s : State) (n : Nat) (idx : Word) (f : Run → Run) : State :=
  s.modSeat n fun q => { q with running := q.running.map fun r => if r.index = idx then f r else r }

def State.dropRun (s : State) (n : Nat) (idx : Word) : State :=
  (s.modSeat n fun q => { q with running := q.running.filter fun r => decide (r.index ≠ idx) }).refreshWd n

/-- A run's work ends with STATUS `status`. -/
def State.endRun (s : State) (n : Nat) (idx : Word) (status : Nat) : State :=
  s.modRun n idx fun r => { r with work := .done, status := status }

/-- What dispatch needs to know of an opcode: is every field it marks reserved 0, its first own cause, and whether
deterministic mode refuses it. -/
structure Checks where
  reservedOk : List Word → Bool
  cause      : List Word → Option Nat
  nondet     : List Word → Bool

/-- Dispatch of the head descriptor of seat `n` when it is of this row (R60, R62, R70): refused, or started with
`go`. A descriptor that would need a 33rd guard entry waits (R73). -/
def State.dispatch (s : State) (n : Nat) (mine : List Word → Bool) (c : Checks) (guard : List Word → List Region)
    (unit : List Word → Nat) (go : Head → List Region → State → State) : State :=
  match s.readyHead n with
  | none => s
  | some h =>
    if !mine h.words then s
    else if !c.reservedOk h.words then s.refuse n h.words 4
    else
      match c.cause h.words with
      | some k => s.refuse n h.words k
      | none =>
        if c.nondet h.words then s.refuseNondet n h.words
        else
          let g := guard h.words
          if s.guardOn n && !g.isEmpty && decide (32 ≤ s.guardCount n) then s
          else go h g (s.start n h (unit h.words))

/-! The causes of a dispatch check, in order. -/

/-- The first cause whose condition holds. -/
def firstCause : List (Bool × Nat) → Option Nat
  | [] => none
  | (b, k) :: r => if b then some k else firstCause r

/-- Do the words have this opcode, and does the operation field of word 4 hold this code? -/
def isOp (opcode hi lo code : Nat) (w : List Word) : Bool :=
  decide (opcodeOf w = opcode ∧ wF w 4 hi lo = code)

/-! Completion (R68, R69, R268 and the status tables). -/

/-- What a STATUS does: whether ADVANCE is performed, and whether the seat becomes FAULTED
(R67, R123, R195, R214, R225, R263, R273, R280, Table 9-11, R356). -/
def statusEffect (opcode status : Nat) : Bool × Bool :=
  if status = 0 then (true, false)
  else
    match opcode with
    | 1 => (false, true)
    | 2 | 3 => if status = 2 then (true, false) else (false, true)
    | 4 | 9 => if status = 4 then (true, false) else (false, decide (status = 2 ∨ status = 3))
    | 5 => (false, decide (status = 2 ∨ status = 3))
    | 8 => (decide (status = 2), false)
    | _ => (false, false)

/-- The completion of a descriptor: its guard entry clears, the ADVANCE, the record, the seat's fate, the watchdogs. -/
def State.complete (s : State) (n : Nat) (r : Run) : State :=
  let op := opcodeOf r.words
  let eff := statusEffect op r.status
  let s := s.dropRun n r.index
  let s := s.modSeat n fun q => { q with cqHeld := q.cqHeld.filter fun j => decide (j ≠ r.index) }
  let s := s.modPart (n / 16) fun p => { p with wdStart := p.wdStart.map fun _ => s.now }
  let s := s.trace n (tagOf r.words) op 2 r.status r.unit
  let s := if eff.1 && wB r.words 0 14 then
      let t := wF r.words 2 28 16
      s.setTumbler t (s.tumbler t + 1)
    else s
  let s := if wB r.words 0 15 || decide (r.status ≠ 0) then s.completionRecord n (tagOf r.words) r.status op else s
  let s := if eff.2 then s.seatFault n else s
  s.refreshWd n

end Sys2Proof.Machine
end

