-- ==== Sys2Proof/Machine/Convert.lean ====
section
/-! DEFINITION. The quantiser's conversion of one row (Table 6-1), shared by MATRIX tiles and QUANT: outliers, scales,
rounding, packing, statistics, histogram and next-scale vector. -/

namespace Sys2Proof.Machine

/-! Histogram (R107, R108). -/

/-- The bin of Table 3-8. -/
def histBin (base : Int) (x : Fp) : Nat :=
  match x with
  | .num _ m =>
    if m = 0 then 0
    else
      let e := floorLog2 m
      if e < base then 1 else if base + 128 ≤ e then 130 else (e - base + 2).toNat
  | _ => 131

/-- The histogram record after the values are counted in. -/
def histAdd (rec : List Byte) (base : Int) (xs : List Fp) : List Byte :=
  let bins := xs.map (histBin base)
  let adds := (List.range 132).map fun b => numAt rec (4 * b) 4 + (bins.filter fun c => decide (c = b)).length
  let sat := adds.any fun v => decide (full < v)
  let old := numAt rec (4 * 133) 4 % 2
  adds.flatMap (fun v => leBytes 4 (min v full)) ++ leBytes 4 (BitVec.ofInt 32 base).toNat ++
    leBytes 4 (if sat then 1 else old) ++ zeros 40

/-- Has a histogram record taken counts under another HIST_BASE? Its contents are then unspecified (R108). -/
def histMixed (rec : List Byte) (base : Int) : Bool :=
  anyNonzero (rec.take 528) && decide (numAt rec 528 4 ≠ (BitVec.ofInt 32 base).toNat)

/-- Count values into the histogram record at `addr`; one named with two values of HIST_BASE holds free bytes. -/
def State.histogram (s : State) (addr : Nat) (base : Int) (xs : List Fp) : State :=
  let r := s.csRead addr 576
  if histMixed r.1 base then (r.2.2.csWrite addr (s.freeBytes 576)).draw
  else r.2.2.csWrite addr (histAdd r.1 base xs)

/-! The conversion record (R160, R161). -/

/-- Word `i` of a record. -/
def recN (rec : List Byte) (i : Nat) : Nat := numAt rec (4 * i) 4

/-- Bits `hi` to `lo` of word `i` of a record. -/
def recF (rec : List Byte) (i hi lo : Nat) : Nat := field (BitVec.ofNat 32 (recN rec i)) hi lo

/-- A conversion as its record and descriptor set it, with the defaults of dispatch in place. -/
structure ConvCfg where
  seat : Nat
  fmt : Fmt
  matrix : Bool
  stoch : Bool
  mode : Nat
  gscale : Bool
  gsz : Nat
  outl : Bool
  nextEn : Bool
  ratio : Nat
  clipT : Nat
  scaleBase : Nat
  gBase : Nat
  gPitch : Nat
  zpBase : Nat
  outlBase : Nat
  outlPitch : Nat
  statAddr : Nat
  nextBase : Nat
  step : Nat
  seed : Nat
  rotSeed : Nat
  statAnchor : Int
  row0 : Nat
  col0 : Nat
  rowLen : Nat
  tensorId : Nat
  flush : Bool
deriving DecidableEq, Repr

/-- The copy of a conversion record taken at dispatch: a field whose 0 means "default" takes the value that
QZ_DEFAULTS holds (R161). -/
def State.convDefaults (s : State) (n : Nat) (rec : List Byte) : List Byte :=
  let d := s.reg (qzReg (n / 16) 0)
  let w := BitVec.ofNat 32 (recN rec 0)
  let dr := if field d 3 0 = 0 then 6 else field d 3 0
  let w := if field w 23 20 = 0 then setField w 23 20 dr else w
  let w := if field w 15 0 = 0 then setField w 15 0 (field d 31 16) else w
  leBytes 4 w.toNat ++ slice rec 4 60

/-- The conversion of a record: format, columns of the descriptor, TENSOR_ID. -/
def State.convCfg (s : State) (n : Nat) (rec : List Byte) (fmt : Fmt) (matrix : Bool) (cols tensor : Nat) : ConvCfg :=
  let u := fun (i : Nat) => recN rec i * 64
  { seat := n, fmt := fmt, matrix := matrix, stoch := decide (recF rec 0 31 30 = 1), mode := recF rec 0 29 28,
    gscale := decide (recF rec 0 27 27 = 1), gsz := if recF rec 0 26 26 = 1 && !matrix then 256 else 128,
    outl := decide (recF rec 0 25 25 = 1), nextEn := decide (recF rec 0 24 24 = 1), ratio := recF rec 0 23 20,
    clipT := recF rec 0 15 0, scaleBase := u 1, gBase := u 2, gPitch := recN rec 3, zpBase := u 4, outlBase := u 5,
    outlPitch := recN rec 6, statAddr := u 7, nextBase := u 8, step := recN rec 9, seed := recN rec 10,
    rotSeed := recN rec 11, statAnchor := i16 (recF rec 12 15 0), row0 := recN rec 13, col0 := recN rec 14,
    rowLen := if recN rec 15 = 0 then cols else recN rec 15, tensorId := tensor, flush := s.flush n }

/-- Is a reserved field of a conversion record nonzero (Table 6-2)? -/
def convReservedOk (rec : List Byte) : Bool := decide (recF rec 0 19 16 = 0 ∧ recF rec 12 31 16 = 0)

/-- Entries per row of an outlier list: the row's total budget (R179, R182). -/
def outlCap (c : ConvCfg) (cols : Nat) : Nat :=
  if c.gscale ∨ c.matrix then
    (List.range (ceilDiv cols c.gsz)).foldl (fun a j => a + ceilDiv (min cols ((j + 1) * c.gsz) - j * c.gsz) 32) 0
  else ceilDiv cols 32

/-! Outliers (R179, R180). -/

def rabs (x : Rat) : Rat := if x < 0 then -x else x

/-- Insert into a list sorted by falling magnitude, equal magnitudes by rising index. -/
def insDesc (e : Nat × Rat) : List (Nat × Rat) → List (Nat × Rat)
  | [] => [e]
  | f :: r =>
    if rabs f.2 < rabs e.2 ∨ (rabs f.2 = rabs e.2 ∧ e.1 < f.1) then e :: f :: r else f :: insDesc e r

def sortDesc (l : List (Nat × Rat)) : List (Nat × Rat) := l.foldr insDesc []

/-- The loop of R180 ovf the sorted candidates: moved elements, and indices of overflows. -/
def detectGo (ratio : Nat) : Nat → List (Nat × Rat) → List (Nat × Rat) × List Nat
  | _, [] => ([], [])
  | budget, e :: rest =>
    let next := match rest with
      | [] => 0
      | f :: _ => rabs f.2
    if e.2 = 0 ∨ rabs e.2 ≤ 2 ^ ratio * next then ([], [])
    else if 0 < budget ∧ (rnRat .bf16 e.2).isFinite then
      let g := detectGo ratio (budget - 1) rest
      (e :: g.1, g.2)
    else
      let g := detectGo ratio budget rest
      (g.1, e.1 :: g.2)

/-! Scales (R164 to R167). -/

/-- ⌈log2 x⌉ for x > 0. -/
def ceilLog2 (x : Rat) : Int := if pow2 (floorLog2 x) = x then floorLog2 x else floorLog2 x + 1

def maxMag (xs : List Rat) : Rat := xs.foldl (fun m x => max m (rabs x)) 0

/-- The scale and zero point that R164 and R166 choose; 0 and 0 for an all-zero body. -/
def dynScale (f : Fmt) (xs : List Rat) : Nat × Nat :=
  if xs.all fun x => decide (x = 0) then (0, 0)
  else if f.hasZp then
    let mn := xs.foldl min 0
    let mx := xs.foldl max 0
    let sb := bf16Up ((mx - mn) / qMax f)
    (sb, (min (max (roundEven (-mn / (decodeBf16 sb).val)) 0) (qMax f)).toNat)
  else (bf16Up (maxMag xs / qMax f), 0)

/-- What the conversion of one row gives (R159); `zeroBlocks` counts by R168. -/
structure RowOut where
  codes   : List Nat
  zero    : Nat
  scale   : Nat
  gcodes  : List Nat
  moved   : List (Nat × Nat)
  flushed : Bool
  badScale : Bool
  clipped : Nat
  overflow : Nat
  zeroBlocks : Nat
  zeroRow : Bool
  nonfinite : Nat
  amax    : Rat
  next    : Nat
deriving DecidableEq, Repr

/-- Ranges of `g` elements that cut `n` elements. -/
def rangesOf (n g : Nat) : List (Nat × Nat) :=
  (List.range (ceilDiv n g)).map fun j => (j * g, min n ((j + 1) * g))

/-- The code of one body element, and whether it clips (R169 to R174): a scale of zero makes a zero row (R167), an invalid
one a row of zero codes. -/
def codeOf (c : ConvCfg) (s : Scale) (g z idx : Nat) (x : Rat) : Nat × Bool :=
  match s with
  | .value sv =>
    if g = 0 then (z, decide (x ≠ 0))
    else if g = 255 then (z, true)
    else
      let y := x / (sv * pow2 ((g : Int) - 127))
      let v := if c.fmt.hasZp then y + (z : Rat) else rabs y
      let top : Rat := (qMax c.fmt : Rat)
      let stoch := if c.stoch then some (srBits c.step c.tensorId c.seed idx) else none
      if c.fmt.hasZp then
        if v < 0 then (0, true) else if top < v then (qMax c.fmt, true) else (roundMag c.fmt stoch v, false)
      else if top < v then (signedCode c.fmt (decide (x < 0)) (roundMag c.fmt none top), true)
      else (signedCode c.fmt (decide (x < 0)) (roundMag c.fmt stoch v), false)
  | .zeroRow => (z, decide (x ≠ 0))
  | .invalid => (0, true)

/-- The conversion of the elements `xs` at columns `c0 …` of row `r`, with the scale, group codes and zero point as
read (stages 3 to 6 of Table 6-1). -/
def convertRow (c : ConvCfg) (r c0 : Nat) (xs : List Fp) (scaleIn : Nat) (gIn : List Nat) (zIn : Nat) : RowOut :=
  let n := xs.length
  let fin := (xs.zipIdx.filter fun e => e.1.isFinite).map fun e => (e.2, e.1.val)
  let groups := rangesOf n c.gsz
  let segs := if c.outl then (if c.gscale then groups else [(0, n)]) else []
  let det := segs.map fun g =>
    detectGo c.ratio (ceilDiv (g.2 - g.1) 32) (sortDesc (fin.filter fun e => decide (g.1 ≤ e.1 ∧ e.1 < g.2)))
  let moved := det.flatMap Prod.fst
  let ovf := det.flatMap Prod.snd
  let body := fin.filter fun e => !moved.any fun m => decide (m.1 = e.1)
  let zeroBody := body.all fun e => decide (e.2 = 0)
  let dyn := dynScale c.fmt (body.map Prod.snd)
  let chosen := if c.mode = 0 then (if zeroBody then (if moved.isEmpty then 0 else 0x3F80, 0) else dyn)
    else (scaleIn, zIn)
  let sk := readScale chosen.1
  let z := if c.fmt.hasZp then chosen.2 else 0
  let gPick := fun (g : Nat × Nat) =>
    let am := maxMag ((body.filter fun e => decide (g.1 ≤ e.1 ∧ e.1 < g.2)).map Prod.snd)
    match sk with
    | .value sv =>
      if am = 0 then 0
      else
        let k := (min (max (127 + ceilLog2 (am / (sv * qMax c.fmt))) 1) 254).toNat
        if c.mode = 0 then min k 127 else k
    | _ => 0
  let gc := if !c.gscale then groups.map fun _ => 127 else if c.mode = 1 then gIn else groups.map gPick
  let coded := (List.range n).map fun i =>
    match body.find? fun e => decide (e.1 = i) with
    | some e =>
      let k := codeOf c sk (gc.getD (i / c.gsz) 127) z ((c.row0 + r) * c.rowLen + (c.col0 + c0 + i)) e.2
      (k.1, k.2 && !ovf.contains i)
    | none => (if sk = .invalid then 0 else z, false)
  let codes := coded.map Prod.fst
  let allZero := fun (g : Nat × Nat) => ((codes.drop g.1).take (g.2 - g.1)).all fun k => decide (k = z)
  let gc := if c.gscale ∧ c.mode ≠ 1 then
      (groups.zip gc).map fun e => if allZero e.1 then 0 else e.2
    else gc
  let zb := if c.gscale then ((groups.zip gc).filter fun e => decide (e.2 = 0) || allZero e.1).length
    else ((rangesOf n 32).filter allZero).length
  let vals := moved.map fun m => (m.1, rnRat .bf16 m.2)
  { codes := codes, zero := z, scale := chosen.1, gcodes := gc,
    moved := (List.range n).filterMap fun i =>
      (vals.find? fun v => decide (v.1 = i)).map fun v => (v.1, encodeBf16 (flushSub c.flush v.2)),
    flushed := c.flush && vals.any fun v => v.2.isSubnormal,
    badScale := decide (c.mode ≠ 0 ∧ sk = .invalid) || (c.gscale && decide (c.mode = 1) && gIn.contains 255),
    clipped := (coded.filter Prod.snd).length + ovf.length, overflow := ovf.length, zeroBlocks := zb,
    zeroRow := (zeroBody && moved.isEmpty) || decide (c.mode ≠ 0 ∧ sk = .zeroRow),
    nonfinite := n - fin.length, amax := maxMag (fin.map Prod.snd), next := dyn.1 }

/-! Statistics (R184 to R188). -/

/-- The sum of squares: integer, FLAGS bits 1 and 2, and whether an event took place (R187). -/
structure SumSq where
  l     : Int
  flags : Nat
  event : Bool
deriving DecidableEq, Repr

/-- Add the square of one finite input, rounded to FP32. -/
def sumsqAdd (anchor : Int) (q : SumSq) (x : Rat) : SumSq :=
  if q.flags / 4 % 2 = 1 then q
  else
    match rnRat .fp32 x with
    | .num _ m =>
      let e := m * m / laUnit anchor
      let t := roundEven e
      let inex := decide ((t : Rat) ≠ e)
      let f := if inex && decide (q.flags / 2 % 2 = 0) then q.flags + 2 else q.flags
      if laMax < q.l + t then { l := laMax, flags := f + 4, event := true }
      else { l := q.l + t, flags := f, event := q.event || inex }
    | _ => { l := laMax, flags := q.flags + 4, event := true }

/-- What a row adds to a statistics record. -/
structure StatAdd where
  elements : Nat
  clipped : Nat
  outliers : Nat
  overflow : Nat
  zeroBlocks : Nat
  zeroRows : Nat
  nonfinite : Nat
  amax : Rat
  actBytes : Nat
  squares : List Rat
deriving DecidableEq, Repr

/-- The statistics record after an update, whether a sum-of-squares event took place, and whether the alarm was raised
by it (R185 to R188). -/
def statUpdate (rec : List Byte) (c : ConvCfg) (a : StatAdd) : List Byte × Bool × Bool :=
  let f := numAt rec 76 4 % 8
  let q := a.squares.foldl (sumsqAdd c.statAnchor)
    { l := (BitVec.ofNat 128 (numAt rec 0 16)).toInt, flags := f, event := false }
  let add := fun (off n : Nat) => min (numAt rec off 8 + n) (2 ^ 64 - 1)
  let el := add 16 a.elements
  let cl := add 24 a.clipped
  let alarm := decide (c.clipT ≠ 0xFFFF ∧ c.clipT * el < cl * 65536)
  let flags := q.flags / 2 * 2 + (if alarm then 1 else q.flags % 2)
  let old := numAt rec 72 4
  let am := fp32Up a.amax
  (leBytes 16 (BitVec.ofInt 128 q.l).toNat ++ leBytes 8 el ++ leBytes 8 cl ++ leBytes 8 (add 32 a.outliers) ++
    leBytes 8 (add 40 a.overflow) ++ leBytes 8 (add 48 a.zeroBlocks) ++ leBytes 8 (add 56 a.zeroRows) ++
    leBytes 8 (add 64 a.nonfinite) ++ leBytes 4 (max old am) ++ leBytes 4 flags ++ leBytes 8 (add 80 a.actBytes) ++
    leBytes 4 c.tensorId ++ leBytes 4 c.step ++ zeros 32, q.event, alarm)

/-- QZ_SEAT_LOG bits of a seat. -/
def State.qzLog (s : State) (n mask : Nat) : State := s.raise (qzSeatLog n) mask

/-- WP_NUM_LOG bits of a seat: 0 SUBN_FLUSHED, 1 NONFINITE_IN, 2 NONFINITE_OUT, 3 BAD_SCALE (Table 3-5). -/
def State.numLog (s : State) (n bit : Nat) (b : Bool) : State := if b then s.raise (wpNumLog n) (2 ^ bit) else s

/-- One update of a statistics record, with the QZ_ counters and logs that go with it (R184 to R188, R196, R198). -/
def State.statistics (s : State) (c : ConvCfg) (a : StatAdd) : State :=
  let n := c.seat
  let r := s.csRead c.statAddr 128
  let u := statUpdate r.1 c a
  let s := r.2.2.csWrite c.statAddr u.1
  let s := if u.2.1 then s.qzLog n 0x40 else s
  let s := if u.2.2 then
      let s := if bit (s.reg (qzSeatLog n)) 0 then s else s.setRegN (qzAlarmTag n) c.tensorId
      s.qzLog n 1
    else s
  let p := n / 16
  (((s.count (qzReg p 0x10) a.elements).count (qzReg p 0x18) a.outliers).count (qzReg p 0x20) a.overflow).count
    (qzReg p 0x28) a.clipped

/-! Writing (stage 7). -/

/-- The byte offset of a serial staging slot: lane, chunk, P × D, element width (R116). -/
def serialSlot (lane chunk pd w : Nat) : Nat := (chunk * pd + lane) * 128 + lane / pd * w

/-- The byte offset of a parallel staging slot (R117). -/
def parallelSlot (lane chunk w : Nat) : Nat := chunk * (128 * w) + lane * w

/-- Where a narrow result goes: layout, base, pitch or tile stride, P × D of the reader (R99, R119). -/
structure OutPlace where
  layout : Nat
  base   : Nat
  pitch  : Nat
  pd     : Nat
deriving DecidableEq, Repr

/-- Write the codes of row `r` from column `c0` (R99 to R101, R119). -/
def State.writeCodes (s : State) (o : OutPlace) (f : Fmt) (r c0 : Nat) (codes : List Nat) : State :=
  let w := f.bits
  if o.layout = 0 then s.csWrite (o.base + r * o.pitch + c0 * w / 8) (packCodes w codes)
  else
    (List.range (ceilDiv codes.length 8)).foldl (fun s j =>
      let slot := (List.range 8).map fun e => codes.getD (8 * j + e) 0
      let chunk := c0 / 8 + j
      let off := if o.layout = 1 then serialSlot (r % 128) chunk o.pd w else parallelSlot (r % 128) chunk w
      s.csWrite (o.base + r / 128 * o.pitch + off) (packCodes w slot)) s

/-- Write the header of an outlier list and the record of row `r`; a tile of a row that this descriptor has begun
(`more`) appends (R181, R182). -/
def State.writeOutliers (s : State) (c : ConvCfg) (cols r c0 : Nat) (more : Bool) (moved : List (Nat × Nat)) : State :=
  let s := s.csWrite c.outlBase (leBytes 4 c.outlPitch ++ leBytes 4 (outlCap c cols) ++ zeros 56)
  let a := c.outlBase + 64 + r * c.outlPitch
  let old := if more then leNat (s.csBytes a 4) else 0
  let bs := moved.flatMap fun m => leBytes 4 ((c0 + m.1) % 2 ^ 24) ++ leBytes 4 m.2
  let s := s.csWrite (a + 8 + 8 * old) bs
  s.csWrite a (leBytes 4 (old + moved.length) ++ zeros 4)

/-- The reads a row's conversion makes: row scale, group codes, zero point, next-scale entry; address and length. -/
def convReads (c : ConvCfg) (r c0 n : Nat) : List (Nat × Nat) :=
  (if c.mode ≠ 0 then [(c.scaleBase + 2 * r, 2)] else []) ++
  (if c.gscale ∧ c.mode = 1 then [(c.gBase + r * c.gPitch + c0 / c.gsz, ceilDiv n c.gsz)] else []) ++
  (if c.fmt.hasZp ∧ c.mode = 1 then [(c.zpBase + r, 1)] else []) ++
  (if c.nextEn then [(c.nextBase + 2 * (c.row0 + r), 2)] else [])

/-- Make the reads, of seat `n`: is any of the data poisoned? -/
def State.readAll (s : State) (n : Nat) : List (Nat × Nat) → Bool × State
  | [] => (false, s)
  | a :: r =>
    let f := s.unitRead n a.1 a.2
    let g := f.2.readAll n r
    (Marked.poisoned f.1 || g.1, g.2)

/-- The zero point as the format uses it (R86). -/
def zpOf (f : Fmt) (b : Byte) : Nat := if f = .uint4zp then b.toNat % 16 else b.toNat

/-- A histogram to count a row's values into: its address, HIST_BASE and the values; none for a MATRIX row, whose values
are counted with its tile (R108). -/
abbrev HistAdd := Option (Nat × Int × List Fp)

def State.countHist (s : State) (h : HistAdd) : State :=
  match h with
  | some a => s.histogram a.1 a.2.1 a.2.2
  | none => s

/-- What follows the writing of a row: statistics, histogram, next scale, logs (stage 8 of Table 6-1; R189, R197). -/
def State.afterRow (s : State) (c : ConvCfg) (r n : Nat) (q : RowOut) (raw : List Rat) (actBytes : Nat) (h : HistAdd) :
    State :=
  let s := s.statistics c
    { elements := n, clipped := q.clipped, outliers := q.moved.length, overflow := q.overflow,
      zeroBlocks := q.zeroBlocks, zeroRows := b2n q.zeroRow, nonfinite := q.nonfinite, amax := q.amax,
      actBytes := actBytes, squares := raw }
  let s := s.countHist h
  let s := if c.nextEn then
      let na := c.nextBase + 2 * (c.row0 + r)
      let cur := decodeBf16 (leNat (s.csBytes na 2))
      let keep := match cur with
        | .num _ _ => decide ((decodeBf16 q.next).val ≤ cur.val)
        | .inf b => !b
        | .nan => false
      if keep then s else s.csWrite na (leBytes 2 q.next)
    else s
  let s := if q.zeroRow then s.qzLog c.seat 4 else s
  let s := if q.nonfinite ≠ 0 then s.qzLog c.seat 8 else s
  let s := if q.overflow ≠ 0 then s.qzLog c.seat 2 else s
  (s.numLog c.seat 0 q.flushed).numLog c.seat 3 q.badScale

/-- Convert row `r` and write it with its scales, zero point, outliers, logs, statistics, histogram and next scale (stages 3
to 8). `xs` are the values after rotation, `raw` the finite inputs of the sum of squares; `more` is whether the
descriptor has written an outlier record of the row. -/
def State.convertWrite (s : State) (c : ConvCfg) (o : OutPlace) (cols r c0 : Nat) (more : Bool) (xs : List Fp)
    (raw : List Rat) (h : HistAdd) : State :=
  let ng := ceilDiv xs.length c.gsz
  let ga := c.gBase + r * c.gPitch + c0 / c.gsz
  let scaleIn := leNat (s.csBytes (c.scaleBase + 2 * r) 2)
  let gIn := (s.csBytes ga ng).map BitVec.toNat
  let q := convertRow c r c0 xs scaleIn gIn (zpOf c.fmt (s.csByte (c.zpBase + r)))
  let s := s.writeCodes o c.fmt r c0 q.codes
  let s := if c.mode = 0 then
      let s := s.csWrite (c.scaleBase + 2 * r) (leBytes 2 q.scale)
      if c.fmt.hasZp then s.csWrite (c.zpBase + r) (leBytes 1 q.zero) else s
    else s
  let s := if c.gscale ∧ c.mode ≠ 1 then s.csWrite ga (q.gcodes.flatMap (leBytes 1)) else s
  let s := if c.outl then s.writeOutliers c cols r c0 more q.moved else s
  s.afterRow c r xs.length q raw 0 h

/-! Checks of a conversion record (R162, R166, R191, R194). -/

/-- Reserved codes and mode combinations. -/
def convModeBad (rec : List Byte) (fmt : Fmt) : Bool :=
  let gs := decide (recF rec 0 27 27 = 1)
  decide (1 < recF rec 0 31 30) || decide (recF rec 0 29 28 = 3) || (decide (recF rec 0 29 28 = 2) && !gs) ||
    (gs && (fmt.hasZp || decide (fmt = .act))) || (decide (fmt = .act) && decide (recF rec 0 29 28 ≠ 0))

/-- Pitches of a conversion of rows of `cols` columns. -/
def convPitchBad (c : ConvCfg) (cols : Nat) : Bool :=
  (c.gscale && (!aligned c.gPitch 64 || decide (c.gPitch < ceilDiv cols c.gsz))) ||
    (c.outl && decide (c.fmt ≠ .act) && (!aligned c.outlPitch 64 || decide (c.outlPitch < 8 + 8 * outlCap c cols)))

def anchorBad (a : Int) : Bool := decide (a < -1022 ∨ 1023 < a)

/-- The areas a conversion of `rows` rows of `cols` columns reads. -/
def convReadAreas (c : ConvCfg) (rows cols : Nat) : List (Nat × Nat) :=
  (if c.mode ≠ 0 then [(c.scaleBase, 2 * rows)] else []) ++
  (if c.gscale ∧ c.mode = 1 then [(c.gBase, spanOf c.gPitch rows (ceilDiv cols c.gsz))] else []) ++
  (if c.fmt.hasZp ∧ c.mode = 1 then [(c.zpBase, rows)] else [])

/-- The areas it writes. -/
def convWriteAreas (c : ConvCfg) (rows cols : Nat) : List (Nat × Nat) :=
  [(c.statAddr, 128)] ++
  (if c.mode = 0 ∧ c.fmt ≠ .act then [(c.scaleBase, 2 * rows)] ++ (if c.fmt.hasZp then [(c.zpBase, rows)] else [])
    else []) ++
  (if c.gscale ∧ c.mode ≠ 1 then [(c.gBase, spanOf c.gPitch rows (ceilDiv cols c.gsz))] else []) ++
  (if c.outl ∧ c.fmt ≠ .act then [(c.outlBase, 64 + spanOf c.outlPitch rows (8 + 8 * outlCap c cols))] else []) ++
  (if c.nextEn then [(c.nextBase + 2 * c.row0, 2 * rows)] else [])

def State.readsOk (s : State) (n : Nat) (as : List (Nat × Nat)) : Bool := as.all fun a => s.mayRead n a.1 a.2
def State.writesOk (s : State) (n : Nat) (as : List (Nat × Nat)) : Bool := as.all fun a => s.mayWrite n a.1 a.2
def State.guardOf (s : State) (n : Nat) (as : List (Nat × Nat)) : List Region := as.flatMap fun a => s.guardRegion n a.1 a.2

end Sys2Proof.Machine
end

