-- ==== Sys2Proof/Machine/Router.lean ====
section
/-! DEFINITION. The fabric router's common operations: neighbours and routes, OPEN and CTRL queues, posted fabric
writes and their settlement. -/

namespace Sys2Proof.Machine

/-! The hall (R39, R40, R310). -/

/-- Board coordinate in dimension `d` (0 X, 1 Y, 2 Z), and the extent. -/
def State.coord (s : State) (d : Nat) : Nat := s.obj 0x2700 (d + 1) 0
def State.extent (s : State) (d : Nat) : Nat := s.obj 0x2700 (d + 4) 1

/-- A hall index of coordinates and position. -/
def hallOf (x y z pos : Nat) : Nat := ((z * 16 + y) * 16 + x) * 8 + pos

/-- A coordinate of a hall index in dimension `d`, and its position. -/
def hallCoord (h d : Nat) : Nat := h / 8 / 16 ^ d % 16
def hallPos (h : Nat) : Nat := h % 8

/-- Lane groups of port `n` (Table 11-1). -/
def groupsOf (n : Nat) : Nat := if n < 7 then 2 else 3

def State.posN (s : State) : Nat := s.pw.pos.toNat

/-- The hall index of the neighbour at port `n` (R39, Table 11-1). -/
def State.neighbour (s : State) (n : Nat) : Nat :=
  if n < 7 then hallOf (s.coord 0) (s.coord 1) (s.coord 2) ((s.posN + n + 1) % 8)
  else
    let d := (n - 7) / 2
    let e := s.extent d
    let c := if n % 2 = 1 then (s.coord d + 1) % e else (s.coord d + e - 1) % e
    let at' := fun (k : Nat) => if k = d then c else s.coord k
    hallOf (at' 0) (at' 1) (at' 2) s.posN

/-- Is port `n` one of a torus dimension with extent 1, which is kept idle (R40)? -/
def State.idlePort (s : State) (n : Nat) : Bool := decide (7 ≤ n ∧ s.extent ((n - 7) / 2) = 1)

/-- The port of the neighbour at which traffic sent on port `n` arrives (R39, Table 11-1). -/
def partnerPort (n : Nat) : Nat := if n < 7 then 6 - n else if n % 2 = 1 then n + 1 else n - 1

/-- The port towards hall index `dest` (R369): X, then Y, then Z, the shorter way, + when equal, then across the board. -/
def State.route (s : State) (dest : Nat) : Option Nat :=
  match (List.range 3).find? fun d => decide (hallCoord dest d ≠ s.coord d) with
  | some d =>
    let e := s.extent d
    let up := (hallCoord dest d + e - s.coord d) % e
    some (if up ≤ e - up then 7 + 2 * d else 8 + 2 * d)
  | none => if hallPos dest = s.posN then none else some ((hallPos dest + 8 - s.posN - 1) % 8)



/-- Is a step being replayed (R387)? -/
def State.replaying (s : State) : Bool := s.rec_.replay && s.rec_.openStep.isSome

/-- Is port `n` UP? In a replayed step every port acts as disabled (R387). -/
def State.portUp (s : State) (n : Nat) : Bool :=
  portPresent s.variant n && decide ((s.port n).state = .up) && !s.replaying

/-- Does port `n` act as enabled (FB_CTRL.ENABLE, R387)? -/
def State.portEnabled (s : State) (n : Nat) : Bool := bit (s.reg (fbReg n 0)) 0 && !s.replaying

/-! Posted writes (R274, R275). -/

/-- Record a posted write of the run of seat `n` to `dest`, of a collective when `coll`; `due` is the round at whose start
it settles as NO_ACK, 0 while its last cell has not left. -/
def State.post (s : State) (n : Nat) (r : Run) (coll : Bool) (dest due : Nat) : State :=
  { s with posted := s.posted ++ [{ id := s.nextId, coll := coll, seat := n, index := r.index, job := s.job n,
                                    tag := r.words.getD 1 0, dest := dest, due := due }],
           nextId := s.nextId + 1 }

def State.settle (s : State) (id : Nat) : State := { s with posted := s.posted.filter fun w => decide (w.id ≠ id) }

/-- The round at whose start a write that leaves, or is discarded, now settles as NO_ACK (R275). -/
def State.settleRound (s : State) : Nat := s.curRound + 2

/-- Give posted write `id` its settlement round. -/
def State.setDue (s : State) (id : Nat) : State :=
  { s with posted := s.posted.map fun w => if w.id = id then { w with due := s.settleRound } else w }

/-- A write settled as refused: error record, REMOTE_WRITE_FAILED, and REMOTE_FAILED for the fences that cover it (R275).
No record is written for a seat that is released or whose partition is under reset (Table 14-4). -/
def State.lateRefusal (s : State) (w : Posted) (cause hall ns : Nat) : State :=
  let s := s.settle w.id
  if s.seatIs w.seat .free || s.resetting (w.seat / 16) then s
  else
    ((s.modSeat w.seat fun r => { r with fenceBad := r.fenceBad ++ [(1, w.dest)] }).errorRecord w.seat w.tag.toNat
      cause 2 hall ns).raise (seatReg w.seat 0x68) 1

/-- NO_ACK: an unacknowledged write settles at the end of the round after the round of its receiving turn. -/
def execNoAck (id : Nat) (s : State) : Result :=
  .next <|
    match s.posted.find? fun w => decide (w.id = id ∧ w.due ≠ 0) with
    | none => s
    | some w =>
      let s := s.reach (s.roundStart w.due)
      s.lateRefusal w 0x107 w.dest s.now

/-! OPEN queues (R335, R336). -/

/-- A receive buffer of port `p` frees one OPEN cell (R335). -/
def State.freeCell (s : State) (p : Option Nat) : State :=
  match p with
  | some n => s.modPort n fun r => { r with freedMine := r.freedMine + 1 }
  | none => s

/-- Cells a port's OPEN queue holds at most (R336). -/
def openLimit : Nat := 1024

/-- How many cells the OPEN queue of port `n` still takes. -/
def State.openRoom (s : State) (n : Nat) : Nat := openLimit - (s.port n).openQ.length

/-- Hand an OPEN cell to port `n`. A cell of another device keeps its receive buffer while the queue is full; a cell
for a port that is not UP is discarded, and the write it ends settles by R275. -/
def State.queueOpen (s : State) (n : Nat) (body : List Byte) (of post hold : Option Nat) : State :=
  if s.portUp n then
    let room := decide ((s.port n).openQ.length < openLimit)
    let s := if room then s.freeCell hold else s
    s.modPort n fun r =>
      { r with openQ := r.openQ ++ [{ body := body, of := of, post := post, hold := if room then none else hold }] }
  else
    let s := s.freeCell hold
    match post with
    | some id => s.setDue id
    | none => s

/-- Cells that a full queue kept in a receive buffer move into it. -/
def State.promoteOpen (s : State) (n : Nat) : State :=
  let q := (s.port n).openQ
  let s := (q.take openLimit).foldl (fun s c => s.freeCell c.hold) s
  s.modPort n fun r => { r with openQ := (q.take openLimit).map (fun c => { c with hold := none }) ++ q.drop openLimit }

/-- The routing header of an OPEN cell and its payload (Table 12-9). -/
def openCell (okind job tag dest src seat addr value flags : Nat) (payload : List Byte) : List Byte :=
  padTo 640 (leBytes 1 okind ++ zeros 1 ++ leBytes 2 job ++ leBytes 4 tag ++ leBytes 2 dest ++ leBytes 2 src ++
    leBytes 2 seat ++ leBytes 2 payload.length ++ leBytes 8 addr ++ leBytes 4 value ++ leBytes 1 flags ++ zeros 3 ++
    payload)

/-- Hand an OPEN cell towards `dest`; with no route it is discarded. -/
def State.sendOpen (s : State) (dest : Nat) (body : List Byte) (of post hold : Option Nat) : State :=
  match s.route dest with
  | some n => s.queueOpen n body of post hold
  | none =>
    let s := s.freeCell hold
    match post with
    | some id => s.setDue id
    | none => s

/-- Queue a CTRL cell towards `dest` (R340, R363). -/
def State.sendCtrl (s : State) (dest : Nat) (body : List Byte) : State :=
  match s.route dest with
  | some n => if s.portUp n then s.queueCtrl n body else s
  | none => s

end Sys2Proof.Machine
end

