-- ==== Sys2Proof/Machine/Quant.lean ====
section
/-! DEFINITION. QUANT descriptors: NARROW to the narrow formats, ACT and BF16, RESTORE of compressed activations,
and STATS. -/

namespace Sys2Proof.Machine

/-! Fields (Table 6-6). -/

def qIn (w : List Word) : Option Fmt := Fmt.ofCode (wF w 4 31 28)
def qOut (w : List Word) : Option Fmt := Fmt.ofCode (wF w 4 27 24)
def qOp (w : List Word) : Nat := wF w 4 23 22
/-- Rotation size; 0 for none. -/
def qRot (w : List Word) : Nat := if wF w 4 21 20 = 0 then 0 else 16 * 2 ^ wF w 4 21 20
def qRows (w : List Word) : Nat := wF w 5 23 0 + 1
def qCols (w : List Word) : Nat := wF w 6 23 0 + 1
def qAnchor (w : List Word) : Int := wI16 w 4
def qHistBase (w : List Word) : Int := i16 (wF w 14 31 16)
def qFmtIn (w : List Word) : Fmt := (qIn w).getD .fp32
def qFmtOut (w : List Word) : Fmt := (qOut w).getD .bf16

/-- Is the output a narrow body with scales? -/
def qNarrowOut (w : List Word) : Bool :=
  decide (qOp w = 0) && (qFmtOut w).isArray

def qActOut (w : List Word) : Bool := decide (qOp w = 0 ∧ qOut w = some .act)

/-- The combinations of Table 6-7. -/
def qCombination (w : List Word) : Bool :=
  let wide := decide (qIn w = some .bf16 ∨ qIn w = some .fp32 ∨ qIn w = some .la128)
  match qOp w with
  | 0 =>
    wide && (match qOut w with
      | some .act => true
      | some .bf16 => decide (qIn w ≠ some .bf16)
      | some f => f.isArray
      | none => false)
  | 1 => decide (qIn w = some .act ∧ (qOut w = some .bf16 ∨ qOut w = some .e2m1) ∧ wF w 4 21 20 = 0)
  | 2 => wide
  | _ => false

/-! Rotation (R175 to R178). -/

/-- The sign of whole-tensor column `k`. -/
def rotSign (seed k : Nat) : Int :=
  if (mix64 (BitVec.ofNat 64 (k / 32)) (BitVec.ofNat 64 (seed * 2 ^ 32))).getLsbD (k % 32) then -1 else 1

/-- The parity of the number of common one bits of two numbers below 128. -/
def oddCommon (a b : Nat) : Bool :=
  (List.range 7).foldl (fun p i => p ^^ (a.testBit i && b.testBit i)) false

/-- One rotation group of `n` values starting at whole-tensor column `k0`. -/
def rotateGroup (n side seed k0 : Nat) (xs : List Fp) : List Fp :=
  if xs.all Fp.isFinite then
    let lg := Nat.log2 n
    let h := if side = 0 then (lg + 1) / 2 else lg / 2
    let v := xs.zipIdx.map fun e => e.1.val * (rotSign seed (k0 + e.2) : Rat)
    (List.range n).map fun a =>
      Fp.ofRat (pow2 (-(h : Int)) * (v.zipIdx.foldl (fun t e => if oddCommon a e.2 then t - e.1 else t + e.1) 0))
  else xs.map fun _ => .nan

/-- A row rotated in groups of `n`. -/
def rotateRow (n side seed col0 : Nat) (xs : List Fp) : List Fp :=
  (List.range (xs.length / n)).flatMap fun j => rotateGroup n side seed (col0 + j * n) ((xs.drop (j * n)).take n)

/-! Compressed records (R103 to R106). -/

/-- The bytes of an ACT record. -/
def actRecord (codes : List Nat) (scale : Nat) (outl : List (Nat × Nat)) : List Byte :=
  let lb := ceilDiv codes.length 32
  let block := fun (b : Nat) => padTo 16 (packCodes 4 ((codes.drop (32 * b)).take 32))
  let present := (List.range lb).filter fun b => anyNonzero (block b)
  let bitmap := (List.range (16 * ceilDiv lb 128)).map fun j =>
    BitVec.ofNat 8 ((List.range 8).foldl (fun a i => a + (if present.contains (8 * j + i) then 2 ^ i else 0)) 0)
  let list := padTo (16 * ceilDiv outl.length 4) (outl.flatMap fun e => leBytes 2 e.1 ++ leBytes 2 e.2)
  let zeroRow := decide (scale % 0x8000 = 0)
  let head := leBytes 2 scale ++ leBytes 2 lb ++ leBytes 2 present.length ++ leBytes 2 outl.length ++
    leBytes 1 (b2n zeroRow) ++ zeros 3
  let rest := bitmap ++ list ++ present.flatMap block
  head ++ leBytes 4 (crc32c (head ++ rest)).toNat ++ rest

/-- The largest record of R104 for rows of `cols` elements. -/
def actMax (cols : Nat) : Nat :=
  let lb := ceilDiv cols 32
  16 * (1 + ceilDiv lb 128 + ceilDiv lb 4 + lb)

/-- The length of a record that its header states. -/
def actLength (head : List Byte) : Nat :=
  16 * (1 + ceilDiv (numAt head 2 2) 128 + ceilDiv (numAt head 6 2) 4 + numAt head 4 2)

/-- A decoded row: scale, codes, outliers, and the present blocks. -/
structure ActRow where
  scale : Nat
  codes : List Nat
  outl  : List (Nat × Nat)
  present : List Nat
deriving DecidableEq, Repr

/-- Are the numbers strictly rising? -/
def rising : List Nat → Bool
  | a :: b :: r => decide (a < b) && rising (b :: r)
  | _ => true

/-- Decode a record of a row of `cols` elements; none for a corrupt one (R106, R192): a zero scale leaves no block present
(R105). -/
def actDecode (rec : List Byte) (cols : Nat) : Option ActRow :=
  let lb := numAt rec 2 2
  let pb := numAt rec 4 2
  let oc := numAt rec 6 2
  let flags := numAt rec 8 1
  let mapLen := 16 * ceilDiv lb 128
  let listLen := 16 * ceilDiv oc 4
  let bits := (List.range (8 * mapLen)).filter fun i => ((rec.getD (16 + i / 8) 0).getLsbD (i % 8))
  let outl := (List.range oc).map fun i => (numAt rec (16 + mapLen + 4 * i) 2, numAt rec (18 + mapLen + 4 * i) 2)
  let good := decide (lb = ceilDiv cols 32 ∧ lb ≤ 2048 ∧ pb ≤ lb ∧ oc ≤ lb ∧ bits.length = pb ∧ flags < 2 ∧
      numAt rec 9 1 = 0) && bits.all (fun b => decide (b < lb)) && rising (outl.map Prod.fst) &&
    outl.all (fun e => decide (e.1 < cols)) && !(decide ((flags = 1 ∨ numAt rec 0 2 % 0x8000 = 0) ∧ pb ≠ 0)) &&
    decide (numAt rec 12 4 = (crc32c (rec.take 12 ++ rec.drop 16)).toNat)
  if good then
    let bodies := rec.drop (16 + mapLen + listLen)
    let codeOfBlock := fun (b j : Nat) =>
      match bits.zipIdx.find? fun e => decide (e.1 = b) with
      | some e => codeAt 4 ((bodies.drop (16 * e.2)).take 16) j
      | none => 0
    some { scale := numAt rec 0 2, codes := (List.range cols).map fun i => codeOfBlock (i / 32) (i % 32), outl := outl,
           present := bits }
  else none

/-- The exact value of element `e` of a decoded row: its outlier's VALUE; zero in an absent block or under a zero scale
(R83); otherwise ROW_SCALE times its code (R106). -/
def ActRow.value (q : ActRow) (e : Nat) : Fp :=
  match q.outl.find? fun o => decide (o.1 = e) with
  | some o => decodeBf16 o.2
  | none =>
    if !q.present.contains (e / 32) || decide (q.scale % 0x8000 = 0) then .num false 0
    else fpMul (decodeBf16 q.scale) (Fp.ofRat (e2m1Val (q.codes.getD e 0)))

/-! Rows. -/

def qBytes (f : Fmt) (cols : Nat) : Nat := rowBytes f.bits cols

/-- The elements of a row of `n` bytes-wide values. -/
def decodeRow (f : Fmt) (anchor : Int) (cols : Nat) (bs : List Byte) : List Fp :=
  (List.range cols).map fun i =>
    match f with
    | .bf16 => decodeBf16 (numAt bs (2 * i) 2)
    | .la128 => Fp.ofRat ((((BitVec.ofNat 128 (numAt bs (16 * i) 16)).toInt : Int) : Rat) * laUnit anchor)
    | _ => decodeFp32 (numAt bs (4 * i) 4)

/-- NONFINITE_IN and SUBN_FLUSHED for the values read by the wide path or the quantiser (R93 to R95). -/
def State.logInputs (s : State) (n : Nat) (xs : List Fp) : State :=
  (s.numLog n 1 (xs.any fun x => !x.isFinite)).numLog n 0 (s.flush n && xs.any Fp.isSubnormal)

/-- The conversion of a QUANT. -/
def State.qConv (s : State) (n : Nat) (w : List Word) (rec : List Byte) : ConvCfg :=
  s.convCfg n rec (qFmtOut w) false (qCols w) (wN w 12)

/-- One plain input row: poisoned, the values as read, the state. -/
def State.qRead (s : State) (n : Nat) (w : List Word) (r : Nat) : Bool × List Fp × State :=
  let len := qBytes (qFmtIn w) (qCols w)
  let f := s.unitRead n (wAddr w 7 + r * wN w 8) len
  (Marked.poisoned f.1, decodeRow (qFmtIn w) (qAnchor w) (qCols w) (Marked.bytes f.1), f.2)

/-- The records that a row's conversion reads beside its input. -/
def qRecords (w : List Word) (c : ConvCfg) (r : Nat) : List (Nat × Nat) :=
  (if qNarrowOut w || qActOut w then convReads { c with mode := if qActOut w then 0 else c.mode } r 0 (qCols w) else []) ++
  [(c.statAddr, 128)] ++ (if wB w 4 18 then [(wAddr w 13, 576)] else [])

/-- Convert one row of NARROW or STATS; the record area used so far is `used` bytes. Gives poisoned, the new use and
the state (Table 6-1). A row of STATS or of BF16 output has no body, so it counts in neither ZERO_ROWS nor ZERO_BLOCKS and
sets no ZERO_ROW (DESIGN CHOICE, log entry 66). -/
def State.qNarrowRow (s : State) (n : Nat) (w : List Word) (c : ConvCfg) (r used : Nat) : Bool × Nat × State :=
  let f := s.qRead n w r
  let g := f.2.2.readAll n (qRecords w c r)
  if f.1 || g.1 then (true, used, g.2)
  else
    let s := g.2
    let raw := f.2.1
    let s := if qFmtIn w = .la128 then s else s.logInputs n raw
    let read := if qFmtIn w = .la128 then raw else raw.map (flushSub c.flush)
    let xs := if qRot w = 0 then read else rotateRow (qRot w) (wF w 4 19 19) c.rotSeed c.col0 read
    let squares := (read.zip xs).filterMap fun x => if x.2.isFinite then some x.1.val else none
    let hist : HistAdd :=
      if wB w 4 18 then some (wAddr w 13, qHistBase w, if qRot w = 0 then raw else xs) else none
    if qNarrowOut w then
      (false, used, s.convertWrite c { layout := 0, base := wAddr w 9, pitch := wN w 10, pd := 2 } (qCols w) r 0 false xs
        squares hist)
    else if qActOut w then
      let q := convertRow c r 0 xs 0 [] 0
      let bs := actRecord q.codes q.scale q.moved
      let s := (s.csWrite (wAddr w 15 + used) bs).csWrite (wAddr w 9 + 4 * r) (leBytes 4 (used / 16))
      (false, used + bs.length, s.afterRow c r xs.length q squares bs.length hist)
    else
      let fin := xs.filter Fp.isFinite
      let ys := xs.map (rnFp .bf16)
      let zs := ys.map (flushSub c.flush)
      let s := if qOp w = 0 then
          let s := s.csWrite (wAddr w 9 + r * wN w 10) (zs.flatMap fun y => leBytes 2 (encodeBf16 y))
          (s.numLog n 0 (c.flush && ys.any Fp.isSubnormal)).numLog n 2 (zs.any fun y => !y.isFinite)
        else s
      let s := s.statistics c
        { elements := xs.length, clipped := 0, outliers := 0, overflow := 0, zeroBlocks := 0, zeroRows := 0,
          nonfinite := xs.length - fin.length, amax := maxMag (fin.map Fp.val), actBytes := 0, squares := squares }
      (false, used, s.countHist hist)

/-- The rows of NARROW or STATS in order; a poisoned row ends them (R195). Gives the status. -/
def State.qNarrowRows (s : State) (n : Nat) (w : List Word) (c : ConvCfg) : Nat → Nat → Nat → Nat × State
  | 0, _, _ => (0, s)
  | k + 1, r, used =>
    let q := s.qNarrowRow n w c r used
    if q.1 then (3, q.2.2) else q.2.2.qNarrowRows n w c k (r + 1) q.2.1

/-- The row a corrupt record restores to in E2M1, which has no code for NaN: every element is NaN by the row scale 0x7FC0
(DESIGN CHOICE, log entry 66). -/
def corruptRow (cols : Nat) : ActRow := { scale := 0x7FC0, codes := List.replicate cols 0, outl := [], present := [] }

/-- The record of row `r` of a compressed tensor as RESTORE reads it: whether poison came with the directory entry or the
record, and its bytes, none where it leaves the windows of seat `n` (R192, R195). -/
def State.actRead (s : State) (n : Nat) (w : List Word) (r : Nat) : Bool × Option (List Byte) × State :=
  let f := s.unitRead n (wAddr w 7 + 4 * r) 4
  let a := wAddr w 15 + leNat (Marked.bytes f.1) * 16
  if Marked.poisoned f.1 then (true, none, f.2)
  else if !f.2.mayRead n a 16 then (false, none, f.2)
  else
    let h := f.2.unitRead n a 16
    let len := actLength (Marked.bytes h.1)
    if Marked.poisoned h.1 then (true, none, h.2)
    else if !h.2.mayRead n a len then (false, none, h.2)
    else
      let g := h.2.unitRead n a len
      (Marked.poisoned g.1, some (Marked.bytes g.1), g.2)

/-- One row of RESTORE: poisoned, corrupt, the state (R106, R192). A row that fails R106 is not converted, so QZ_ELEMS does
not count it (R195, R196); the histogram takes the exact values (R107). -/
def State.qRestoreRow (s : State) (n : Nat) (w : List Word) (c : ConvCfg) (r : Nat) : Bool × Bool × State :=
  let cols := qCols w
  let f := s.actRead n w r
  let g := f.2.2.readAll n (if wB w 4 18 then [(wAddr w 13, 576)] else [])
  if f.1 || g.1 then (true, false, g.2)
  else
    let row := f.2.1.bind fun bs => actDecode bs cols
    let s := g.2
    let s := match row with
      | some q => (s.count (qzReg (n / 16) 0x10) cols).numLog n 1 (q.outl.any fun o => !(decodeBf16 o.2).isFinite)
      | none => s
    let exact := match row with
      | some q => (List.range cols).map q.value
      | none => List.replicate cols .nan
    let s := match qFmtOut w with
      | .e2m1 =>
        let q := row.getD (corruptRow cols)
        let s := s.csWrite (wAddr w 9 + r * wN w 10) (packCodes 4 q.codes)
        let s := s.csWrite (c.scaleBase + 2 * r) (leBytes 2 q.scale)
        (s.writeOutliers c cols r 0 false q.outl).numLog n 2 row.isNone
      | _ =>
        let xs := exact.map (rnFp .bf16)
        let zs := xs.map (flushSub c.flush)
        let s := s.csWrite (wAddr w 9 + r * wN w 10) (zs.flatMap fun y => leBytes 2 (encodeBf16 y))
        (s.numLog n 0 (c.flush && xs.any Fp.isSubnormal)).numLog n 2 (zs.any fun y => !y.isFinite)
    (false, row.isNone, if wB w 4 18 then s.histogram (wAddr w 13) (qHistBase w) exact else s)

/-- The rows of RESTORE; a poisoned row ends them. -/
def State.qRestoreRows (s : State) (n : Nat) (w : List Word) (c : ConvCfg) : Nat → Nat → Nat → Nat × State
  | 0, _, st => (st, s)
  | k + 1, r, st =>
    let q := s.qRestoreRow n w c r
    if q.1 then (3, q.2.2)
    else
      let s := if q.2.1 then q.2.2.qzLog n 0x10 else q.2.2
      s.qRestoreRows n w c k (r + 1) (if q.2.1 then 2 else st)

/-! Dispatch (R190 to R193). -/

def State.qRecord (s : State) (w : List Word) : List Byte := s.csBytes (wAddr w 11) 64

/-- The areas read. -/
def State.qReads (s : State) (n : Nat) (w : List Word) : List (Nat × Nat) :=
  let c := s.qConv n w (s.qRecord w)
  [(wAddr w 11, 64),
   (wAddr w 7, if qOp w = 1 then 4 * qRows w else spanOf (wN w 8) (qRows w) (qBytes (qFmtIn w) (qCols w)))] ++
  (if qNarrowOut w then convReadAreas c (qRows w) (qCols w) else [])

/-- The areas written. -/
def State.qWrites (s : State) (n : Nat) (w : List Word) : List (Nat × Nat) :=
  let c := s.qConv n w (s.qRecord w)
  let rows := qRows w
  let cols := qCols w
  let plain := (wAddr w 9, spanOf (wN w 10) rows (qBytes (qFmtOut w) cols))
  let hist := if wB w 4 18 then [(wAddr w 13, 576)] else []
  match qOp w with
  | 0 =>
    if qActOut w then
      [(wAddr w 9, 4 * rows), (wAddr w 15, rows * actMax cols)] ++ hist ++ convWriteAreas c rows cols
    else if qNarrowOut w then plain :: hist ++ convWriteAreas c rows cols
    else plain :: hist ++ [(c.statAddr, 128)]
  | 1 =>
    plain :: hist ++ (if qOut w = some .e2m1 then
      [(c.scaleBase, 2 * rows), (c.outlBase, 64 + spanOf c.outlPitch rows (8 + 8 * outlCap c cols))] else [])
  | _ => hist ++ [(c.statAddr, 128)]

def qReservedOk (w : List Word) : Bool := wZ w 4 17 16 && wZ w 5 31 24 && wZ w 6 31 24 && wZ w 14 15 0

/-- The first cause of Table 6-8. -/
def State.qCause (s : State) (n : Nat) (w : List Word) : Option Nat :=
  let rec_ := s.qRecord w
  let c := s.qConv n w rec_
  let cols := qCols w
  let rot := qRot w
  let narrow := qNarrowOut w || qActOut w
  firstCause [
    (decide (countOf w ≠ 0) || decide (rot ≠ 0 ∧ (cols % rot ≠ 0 ∨ c.col0 % rot ≠ 0)) ||
      (decide (qIn w = some .act ∨ qActOut w) && decide (65536 < cols)), 0x100),
    (!qCombination w ||
      decide (1 < recF rec_ 0 31 30 ∨ recF rec_ 0 29 28 = 3 ∨ (recF rec_ 0 29 28 = 2 ∧ recF rec_ 0 27 27 = 0)) ||
      (narrow && convModeBad rec_ (qFmtOut w)), 0x101),
    ((decide (qOp w ≠ 1) && !pitchOk (wN w 8) (qBytes (qFmtIn w) cols)) ||
      (decide (qOp w ≠ 2) && !qActOut w && !pitchOk (wN w 10) (qBytes (qFmtOut w) cols)) ||
      (qNarrowOut w && convPitchBad c cols) ||
      (decide (qOp w = 1 ∧ qOut w = some .e2m1) &&
        (!aligned c.outlPitch 64 || (c.outl && decide (c.outlPitch < 8 + 8 * outlCap c cols)))), 0x102),
    (anchorBad (qAnchor w) || anchorBad c.statAnchor, 0x103),
    (!s.readsOk n (s.qReads n w) || !s.writesOk n (s.qWrites n w), 0x104)]

def State.qChecks (s : State) (n : Nat) : Checks :=
  { reservedOk := fun w => qReservedOk w && convReservedOk (s.qRecord w), cause := s.qCause n, nondet := fun _ => false }

/-- A QUANT runs: its record is copied, then its rows are converted (R161). -/
def State.qRun (n : Nat) (h : Head) (g : List Region) (s : State) : State :=
  let w := h.words
  let f := s.unitRead n (wAddr w 11) 64
  let s := f.2
  if Marked.poisoned f.1 then s.startDone n h 3 g
  else
    let c := s.qConv n w (s.convDefaults n (Marked.bytes f.1))
    let q := if qOp w = 1 then s.qRestoreRows n w c (qRows w) 0 0 else s.qNarrowRows n w c (qRows w) 0 0
    q.2.startDone n h q.1 g

def State.qDispatch (s : State) (n op : Nat) : State :=
  s.dispatch n (isOp 3 23 22 op) (s.qChecks n) (fun w => s.guardOf n (s.qWrites n w)) (fun _ => 0xFF) (State.qRun n)

def execQuantNarrow (seat : SeatNo) (s : State) : Result := .next (s.qDispatch seat.val 0)
def execQuantRestore (seat : SeatNo) (s : State) : Result := .next (s.qDispatch seat.val 1)
def execQuantStats (seat : SeatNo) (s : State) : Result := .next (s.qDispatch seat.val 2)

end Sys2Proof.Machine
end

