-- ==== Sys2Proof/Machine/Wide.lean ====
section
/-! DEFINITION. The wide path: DOT, EWISE, RMSNORM, SOFTMAX and CAST, with the D4 storage, and the checks of every
WIDE descriptor. -/

namespace Sys2Proof.Machine

/-! Fields (Table 7-3). -/

def wOp (w : List Word) : Nat := wF w 4 31 28
def wFmtA (w : List Word) : Fmt := (Fmt.ofCode (wF w 4 27 24)).getD .act
def wFmtB (w : List Word) : Fmt := (Fmt.ofCode (wF w 4 23 20)).getD .act
def wFmtOut (w : List Word) : Fmt := (Fmt.ofCode (wF w 4 19 16)).getD .act
def wFunc (w : List Word) : Nat := wF w 4 15 8
def wBcast (w : List Word) : Bool := wB w 4 0
def wRows (w : List Word) : Nat := wF w 5 23 0 + 1
def wCols (w : List Word) : Nat := wF w 6 23 0 + 1
def wK (w : List Word) : Nat := wF w 7 23 0

def Fmt.isFp : Fmt → Bool
  | .bf16 | .fp32 => true
  | _ => false

/-- Does the operation read B: DOT, RMSNORM, or an EWISE function of y? -/
def wUsesB (w : List Word) : Bool :=
  match wOp w with
  | 0 | 2 => true
  | 1 => decide (wFunc w = 0 ∨ wFunc w = 1 ∨ wFunc w = 2 ∨ wFunc w = 5)
  | _ => false

/-- The length in bytes of the operation's record; 0 when it reads none. -/
def wRecLen (w : List Word) : Nat :=
  match wOp w with
  | 1 => if wFunc w = 2 then 64 else 0
  | 2 | 3 | 5 | 6 => 64
  | 4 => 128
  | _ => 0

def State.wRecord (s : State) (w : List Word) : List Byte := s.csBytes (wAddr w 14) (wRecLen w)

/-! Values with a flag: was a subnormal flushed on the way (R93, R207)? -/

structure Wv where
  v  : Fp
  fl : Bool
deriving DecidableEq, Repr

/-- rn: one rounding onto `f`, then FLUSH_SUBN (R207). -/
def rnW (f : FpFmt) (flush : Bool) (x : Fp) : Wv :=
  let y := rnFp f x
  { v := flushSub flush y, fl := flush && y.isSubnormal }

/-- A primitive already rounded to FP32: sqrt_rn, exp_rn. -/
def doneW (flush : Bool) (y : Fp) : Wv := { v := flushSub flush y, fl := flush && y.isSubnormal }

/-- The format a rounding of the output takes. -/
def fpFmtOf (f : Fmt) : FpFmt := if f = .bf16 then .bf16 else .fp32

/-- The bytes of a value in FP32 or BF16. -/
def encFp (f : Fmt) (x : Fp) : List Byte := if f = .bf16 then leBytes 2 (encodeBf16 x) else leBytes 4 (encodeFp32 x)

def one : Fp := .num false 1

/-- x / rn32(1 + exp_rn(−x)), exact, and the flags of its steps (Table 7-5). -/
def siluQ (flush : Bool) (x : Fp) : Wv :=
  let e := doneW flush (expRn x.negated)
  let d := rnW .fp32 flush (fpAdd one e.v)
  { v := fpDiv x d.v, fl := e.fl || d.fl }

/-- The functions of Table 7-5, with the rounding `f` of the output. -/
def ewise (func : Nat) (f : FpFmt) (flush : Bool) (a b x y : Fp) : Wv :=
  match func with
  | 0 => rnW f flush (fpAdd x y)
  | 1 => rnW f flush (fpMul x y)
  | 2 => rnW f flush (fpAdd (fpMul a x) (fpMul b y))
  | 3 =>
    match x with
    | .nan => { v := .nan, fl := false }
    | .inf true => { v := .num false 0, fl := false }
    | .inf false => { v := .inf false, fl := false }
    | .num s m => if s ∨ m = 0 then { v := .num false 0, fl := false } else rnW f flush (.num false m)
  | 4 =>
    let q := siluQ flush x
    let r := rnW f flush q.v
    { r with fl := q.fl || r.fl }
  | _ =>
    let q := siluQ flush x
    let m := rnW .fp32 flush q.v
    let r := rnW f flush (fpMul m.v y)
    { r with fl := q.fl || m.fl || r.fl }

/-- Σ of exact values under the rules of IEEE 754 for the non-finite. -/
def fpSum (xs : List Fp) : Fp :=
  match xs with
  | [] => .num false 0
  | x :: r => r.foldl fpAdd x

/-- A row of DOT: rn of each exact dot product (R208). -/
def dotRow (f : FpFmt) (flush : Bool) (a : List Fp) (bs : List (List Fp)) : List Wv :=
  bs.map fun b => rnW f flush (fpSum (List.zipWith fpMul a b))

/-- A row of RMSNORM (R210). -/
def rmsRow (f : FpFmt) (flush : Bool) (eps : Fp) (xs gain : List Fp) : List Wv :=
  let n : Fp := .num false ((xs.length : Nat) : Rat)
  let ms := rnW .fp32 flush (fpDiv (fpSum (xs.map fun x => fpMul x x)) n)
  let t := rnW .fp32 flush (fpAdd ms.v eps)
  let q := doneW flush (sqrtRn t.v)
  let inv := rnW .fp32 flush (fpDiv one q.v)
  (List.zipWith (fun x g => rnW f flush (fpMul (fpMul x inv.v) g)) xs gain).map fun r =>
    { r with fl := ms.fl || t.fl || q.fl || inv.fl || r.fl }

/-- The larger of two values; NaN when either is. -/
def fpMax (x y : Fp) : Fp :=
  match x, y with
  | .nan, _ => .nan
  | _, .nan => .nan
  | .inf false, _ => x
  | _, .inf false => y
  | .inf true, z => z
  | z, .inf true => z
  | a, b => if a.val < b.val then b else a

/-- A row of SOFTMAX; `mask` says which elements are masked (R211). -/
def softRow (f : FpFmt) (flush : Bool) (scale : Fp) (mask : Nat → Bool) (xs : List Fp) : List Wv :=
  let live := (xs.zipIdx).filter fun e => !mask e.2
  let zero : Wv := { v := .num false 0, fl := false }
  if live.isEmpty then xs.map fun _ => zero
  else if live.any fun e => !e.1.isFinite then xs.map fun _ => { v := .nan, fl := false }
  else
    let zs := live.map fun e => (e.2, rnW .fp32 flush (fpMul e.1 scale))
    let mx := zs.foldl (fun m z => fpMax m z.2.v) (.inf true)
    let es := zs.map fun z =>
      let d := rnW .fp32 flush (fpAdd z.2.v mx.negated)
      let e := doneW flush (expRn d.v)
      (z.1, ({ v := e.v, fl := z.2.fl || d.fl || e.fl } : Wv))
    let s := treeReduce .fp32 flush (es.map fun e => e.2.v)
    (List.range xs.length).map fun j =>
      match es.find? fun e => decide (e.1 = j) with
      | none => zero
      | some e =>
        let r := rnW f flush (fpDiv e.2.v s)
        { r with fl := e.2.fl || r.fl }

/-! D4 storage (R204, R205). -/

/-- The scale and codes of one block of values; `e0` is the element index of its first. -/
def d4Block (stoch : Bool) (tensor step seed e0 : Nat) (xs : List Fp) : Nat × List Nat :=
  if xs.any fun x => !x.isFinite then (0x7FC0, xs.map fun _ => 0)
  else
    let vs := xs.map Fp.val
    if vs.all fun v => decide (v = 0) then (0, xs.map fun _ => 0)
    else
      let sb := bf16Up (maxMag vs / 6)
      let sv := (decodeBf16 sb).val
      (sb, vs.zipIdx.map fun e =>
        let y := min (rabs e.1 / sv) 6
        let st := if stoch ∧ rabs e.1 / sv ≤ 6 then some (srBits step tensor seed (e0 + e.2)) else none
        signedCode .d4 (decide (e.1 < 0)) (roundMag .d4 st y))

/-- A row of D4: block scales, then codes. -/
def d4Row (stoch : Bool) (tensor step seed e0 : Nat) (xs : List Fp) : List Nat × List Nat :=
  let bs := (List.range (ceilDiv xs.length 32)).map fun b =>
    d4Block stoch tensor step seed (e0 + 32 * b) ((xs.drop (32 * b)).take 32)
  (bs.map Prod.fst, bs.flatMap Prod.snd)

/-- The exact values of a D4 row. -/
def d4Decode (cols : Nat) (body scales : List Byte) : List Fp :=
  (List.range cols).map fun i =>
    fpMul (decodeBf16 (numAt scales (2 * (i / 32)) 2)) (Fp.ofRat (e2m1Val (codeAt 4 body i)))

/-- NONFINITE_IN (bit 1) or NONFINITE_OUT (bit 2) for values read from or written to D4, whose NaN blocks decode as NaN
(R205, R207). A value read as D4 is never flushed: its scale and codes are no BF16 or FP32 values (R94). -/
def State.logD4 (s : State) (n b : Nat) (xs : List Fp) : State := s.numLog n b (xs.any fun x => !x.isFinite)

/-! Rows. -/

/-- `n` rows in order from row `r`; a poisoned row ends them with status 3 (R195, R214). -/
def wRowsLoop (f : State → Nat → Bool × State) : Nat → Nat → State → Nat × State
  | 0, _, s => (0, s)
  | k + 1, r, s =>
    let q := f s r
    if q.1 then (3, q.2) else wRowsLoop f k (r + 1) q.2

/-- A row of BF16 or FP32 operand values, flushed on input, with the numeric log (R93, R95). -/
def State.wRead (s : State) (n : Nat) (f : Fmt) (a cols : Nat) : Bool × List Fp × State :=
  let r := s.unitRead n a (rowBytes f.bits cols)
  let xs := decodeRow f 0 cols (Marked.bytes r.1)
  (Marked.poisoned r.1, xs.map (flushSub (s.flush n)), r.2.logInputs n xs)

/-- A constant of a record, read as an operand. -/
def State.wConst (s : State) (n : Nat) (rec : List Byte) (i : Nat) : Fp × State :=
  let x := decodeFp32 (recN rec i)
  (flushSub (s.flush n) x, s.logInputs n [x])

/-- The numeric log of results: SUBN_FLUSHED and NONFINITE_OUT (R94, R95). -/
def State.logResults (s : State) (n : Nat) (ys : List Wv) : State :=
  (s.numLog n 0 (ys.any Wv.fl)).numLog n 2 (ys.any fun y => !y.v.isFinite)

/-- Write a row of results with the numeric log. -/
def State.wWrite (s : State) (n : Nat) (f : Fmt) (a : Nat) (ys : List Wv) : State :=
  (s.csWrite a (ys.flatMap fun y => encFp f y.v)).logResults n ys

/-- The rows of B that a DOT reads, read once. -/
def State.wReadRows (s : State) (n : Nat) (f : Fmt) (base pitch cols : Nat) : Nat → Nat → Bool × List (List Fp) × State
  | 0, _ => (false, [], s)
  | k + 1, r =>
    let q := s.wRead n f (base + r * pitch) cols
    let t := q.2.2.wReadRows n f base pitch cols k (r + 1)
    (q.1 || t.1, q.2.1 :: t.2.1, t.2.2)

/-- DOT (R208, R232). -/
def State.wideDotRun (s : State) (n : Nat) (w : List Word) : Nat × State :=
  let k := wK w
  let b := s.wReadRows n (wFmtB w) (wAddr w 10) (wN w 11) k (wCols w) 0
  if b.1 then (3, b.2.2)
  else
    wRowsLoop (fun s r =>
      let a := s.wRead n (wFmtA w) (wAddr w 8 + r * wN w 9) k
      if a.1 then (true, a.2.2)
      else
        let ys := dotRow (fpFmtOf (wFmtOut w)) (s.flush n) a.2.1 b.2.1
        (false, (a.2.2.wWrite n (wFmtOut w) (wAddr w 12 + r * wN w 13) ys).count (wpReg (n / 16) 0x10) (wCols w * k)))
      (wRows w) 0 b.2.2

/-- EWISE (R209). -/
def State.wideEwiseRun (s : State) (n : Nat) (w : List Word) (rec : List Byte) : Nat × State :=
  let cols := wCols w
  let axpby := decide (wFunc w = 2)
  let ca := if axpby then s.wConst n rec 0 else (one, s)
  let cb := if axpby then ca.2.wConst n rec 1 else (one, s)
  wRowsLoop (fun s r =>
    let a := s.wRead n (wFmtA w) (wAddr w 8 + r * wN w 9) cols
    let b := if wUsesB w then
        a.2.2.wRead n (wFmtB w) (wAddr w 10 + (if wBcast w then 0 else r * wN w 11)) cols
      else (false, a.2.1, a.2.2)
    if a.1 || b.1 then (true, b.2.2)
    else
      let ys := List.zipWith (ewise (wFunc w) (fpFmtOf (wFmtOut w)) (s.flush n) ca.1 cb.1) a.2.1 b.2.1
      (false, b.2.2.wWrite n (wFmtOut w) (wAddr w 12 + r * wN w 13) ys))
    (wRows w) 0 cb.2

/-- RMSNORM (R210). -/
def State.wideRmsRun (s : State) (n : Nat) (w : List Word) (rec : List Byte) : Nat × State :=
  let cols := wCols w
  let eps := s.wConst n rec 0
  let g := eps.2.wRead n .fp32 (wAddr w 10) cols
  if g.1 then (3, g.2.2)
  else
    wRowsLoop (fun s r =>
      let a := s.wRead n (wFmtA w) (wAddr w 8 + r * wN w 9) cols
      if a.1 then (true, a.2.2)
      else (false, a.2.2.wWrite n (wFmtOut w) (wAddr w 12 + r * wN w 13)
        (rmsRow (fpFmtOf (wFmtOut w)) (s.flush n) eps.1 a.2.1 g.2.1)))
      (wRows w) 0 g.2.2

/-- SOFTMAX (R211). -/
def State.wideSoftRun (s : State) (n : Nat) (w : List Word) (rec : List Byte) : Nat × State :=
  let cols := wCols w
  let scale := s.wConst n rec 0
  let q0 := recF rec 1 21 0
  let k0 := recF rec 2 21 0
  let causal := decide (recF rec 3 0 0 = 1)
  wRowsLoop (fun s r =>
    let a := s.wRead n (wFmtA w) (wAddr w 8 + r * wN w 9) cols
    if a.1 then (true, a.2.2)
    else (false, a.2.2.wWrite n (wFmtOut w) (wAddr w 12 + r * wN w 13)
      (softRow (fpFmtOf (wFmtOut w)) (s.flush n) scale.1 (fun j => causal && decide (q0 + r < k0 + j)) a.2.1)))
    (wRows w) 0 scale.2

/-- CAST (R212). -/
def State.wideCastRun (s : State) (n : Nat) (w : List Word) (rec : List Byte) : Nat × State :=
  let cols := wCols w
  let anchor := i16 (recF rec 1 15 0)
  let fa := wFmtA w
  let fo := wFmtOut w
  let bsA := fun (r : Nat) => recN rec 2 * 64 + r * recN rec 3
  let nb := ceilDiv cols 32
  wRowsLoop (fun s r =>
    let m := s.unitRead n (wAddr w 8 + r * wN w 9) (rowBytes fa.bits cols)
    let c := if fa = .d4 then m.2.unitRead n (bsA r) (2 * nb) else ([], m.2)
    if Marked.poisoned m.1 || Marked.poisoned c.1 then (true, c.2)
    else
      let raw := if fa = .d4 then d4Decode cols (Marked.bytes m.1) (Marked.bytes c.1)
        else decodeRow fa anchor cols (Marked.bytes m.1)
      let s := if fa.isFp then c.2.logInputs n raw else c.2.logD4 n 1 raw
      let xs := if fa.isFp then raw.map (flushSub (s.flush n)) else raw
      let out := wAddr w 12 + r * wN w 13
      if fo = .d4 then
        let q := d4Row (decide (recF rec 0 0 0 = 1)) (wN w 15) (recN rec 4) (recN rec 5)
          (recN rec 6 + 2 ^ 32 * recN rec 7 + r * cols) xs
        (false, ((s.csWrite out (packCodes 4 q.2)).csWrite (bsA r) (q.1.flatMap (leBytes 2))).logD4 n 2 xs)
      else (false, s.wWrite n fo out (xs.map (rnW (fpFmtOf fo) (s.flush n)))))
    (wRows w) 0 s

/-! Dispatch (R206, R213). -/

/-- The formats and functions of Tables 7-4 and 7-5. -/
def wFormatOk (w : List Word) : Bool :=
  match wOp w with
  | 0 => (wFmtA w).isFp && (wFmtB w).isFp && (wFmtOut w).isFp && decide (wFunc w = 0)
  | 1 => (wFmtA w).isFp && (!wUsesB w || (wFmtB w).isFp) && (wFmtOut w).isFp && decide (wFunc w ≤ 5)
  | 2 => (wFmtA w).isFp && decide (wFmtB w = .fp32) && (wFmtOut w).isFp && decide (wFunc w = 0)
  | 3 => (wFmtA w).isFp && (wFmtOut w).isFp && decide (wFunc w = 0)
  | 4 => decide (wFunc w = 0)
  | 5 => ((wFmtA w).isFp || decide (wFmtA w = .la128 ∨ wFmtA w = .d4)) && ((wFmtOut w).isFp || decide (wFmtOut w = .d4)) &&
      decide (wFunc w = 0)
  | 6 => decide (wFunc w ≤ 2)
  | _ => false

/-- Do A, OUT and the other fields of the plain operations take part: DOT to SOFTMAX and CAST? -/
def wPlain (w : List Word) : Bool := decide (wOp w ≠ 4 ∧ wOp w ≠ 6)

/-- Length of a row of A, of B, of OUT in bytes. -/
def wLenA (w : List Word) : Nat := rowBytes (wFmtA w).bits (if wOp w = 0 then wK w else wCols w)
def wLenB (w : List Word) : Nat := rowBytes (wFmtB w).bits (if wOp w = 0 then wK w else wCols w)
def wLenOut (w : List Word) : Nat := rowBytes (wFmtOut w).bits (wCols w)

/-- Rows of B as the operation reads them. -/
def wRowsB (w : List Word) : Nat :=
  if wOp w = 0 then wCols w else if wOp w = 2 ∨ wBcast w then 1 else wRows w

def wReservedOk (w : List Word) : Bool := wZ w 4 7 1 && wZ w 5 31 24 && wZ w 6 31 24

/-- Does a CAST read or write D4? -/
def wD4 (w : List Word) : Bool := decide (wOp w = 5 ∧ (wFmtA w = .d4 ∨ wFmtOut w = .d4))

/-- The areas that the plain operations read and write. -/
def wPlainReads (w : List Word) (rec : List Byte) : List (Nat × Nat) :=
  (wAddr w 8, spanOf (wN w 9) (wRows w) (wLenA w)) ::
  (if wUsesB w then [(wAddr w 10, spanOf (wN w 11) (wRowsB w) (wLenB w))] else []) ++
  (if wD4 w ∧ wFmtA w = .d4 then
    [(recN rec 2 * 64, spanOf (recN rec 3) (wRows w) (2 * ceilDiv (wCols w) 32))] else [])
def wPlainWrites (w : List Word) (rec : List Byte) : List (Nat × Nat) :=
  (wAddr w 12, spanOf (wN w 13) (wRows w) (wLenOut w)) ::
  (if wD4 w ∧ wFmtOut w = .d4 then
    [(recN rec 2 * 64, spanOf (recN rec 3) (wRows w) (2 * ceilDiv (wCols w) 32))] else [])

/-- The causes of Table 7-6 for the plain operations. -/
def State.wPlainCause (s : State) (n : Nat) (w : List Word) : Option Nat :=
  let r := s.wRecord w
  let far := decide (wOp w = 3) && decide (4194303 < recF r 1 21 0 + wRows w - 1 ∨ 4194303 < recF r 2 21 0 + wCols w - 1)
  let usesPitchB := wUsesB w && decide (wOp w ≠ 2) && !(decide (wOp w = 1) && wBcast w)
  firstCause [
    (decide (countOf w ≠ 0 ∨ (wK w = 0 ∧ wOp w = 0) ∨ (wK w ≠ 0 ∧ wOp w ≠ 0)) || far, 0x100),
    (!wFormatOk w, 0x101),
    (!pitchOk (wN w 9) (wLenA w) || !pitchOk (wN w 13) (wLenOut w) || (usesPitchB && !pitchOk (wN w 11) (wLenB w)) ||
      (wD4 w && !pitchOk (recN r 3) (2 * ceilDiv (wCols w) 32)), 0x102),
    (decide (wOp w = 5) && anchorBad (i16 (recF r 1 15 0)), 0x103),
    (!s.mayRead n (wAddr w 14) (wRecLen w) || !s.readsOk n (wPlainReads w r) || !s.writesOk n (wPlainWrites w r), 0x104)]

/-- A WIDE descriptor runs with the copy of its record; a poisoned record ends it (R213, R214). -/
def wideGo (n : Nat) (run : State → List Word → List Byte → Nat × State) (h : Head) (g : List Region) (s : State) : State :=
  let f := s.unitRead n (wAddr h.words 14) (wRecLen h.words)
  if Marked.poisoned f.1 then f.2.startDone n h 3 g
  else
    let q := run f.2 h.words (Marked.bytes f.1)
    q.2.startDone n h q.1 g

def State.widePlain (s : State) (n : Nat) (mine : List Word → Bool) (run : State → List Word → List Byte → Nat × State) :
    State :=
  s.dispatch n mine { reservedOk := wReservedOk, cause := s.wPlainCause n, nondet := fun _ => false }
    (fun w => s.guardOf n (wPlainWrites w (s.wRecord w))) (fun _ => 0xFF) (wideGo n run)

/-- An EWISE descriptor with function `f`. -/
def isEwise (f : Nat) (w : List Word) : Bool := isOp 2 31 28 1 w && decide (wFunc w = f)

def execWideDot (seat : SeatNo) (s : State) : Result :=
  .next (s.widePlain seat.val (isOp 2 31 28 0) fun s w _ => s.wideDotRun seat.val w)
def execEwiseAdd (seat : SeatNo) (s : State) : Result :=
  .next (s.widePlain seat.val (isEwise 0) fun s w r => s.wideEwiseRun seat.val w r)
def execEwiseMul (seat : SeatNo) (s : State) : Result :=
  .next (s.widePlain seat.val (isEwise 1) fun s w r => s.wideEwiseRun seat.val w r)
def execEwiseAxpby (seat : SeatNo) (s : State) : Result :=
  .next (s.widePlain seat.val (isEwise 2) fun s w r => s.wideEwiseRun seat.val w r)
def execEwiseRelu (seat : SeatNo) (s : State) : Result :=
  .next (s.widePlain seat.val (isEwise 3) fun s w r => s.wideEwiseRun seat.val w r)
def execEwiseSilu (seat : SeatNo) (s : State) : Result :=
  .next (s.widePlain seat.val (isEwise 4) fun s w r => s.wideEwiseRun seat.val w r)
def execEwiseSiluMul (seat : SeatNo) (s : State) : Result :=
  .next (s.widePlain seat.val (isEwise 5) fun s w r => s.wideEwiseRun seat.val w r)
def execWideRmsnorm (seat : SeatNo) (s : State) : Result :=
  .next (s.widePlain seat.val (isOp 2 31 28 2) fun s w r => s.wideRmsRun seat.val w r)
def execWideSoftmax (seat : SeatNo) (s : State) : Result :=
  .next (s.widePlain seat.val (isOp 2 31 28 3) fun s w r => s.wideSoftRun seat.val w r)
def execWideCast (seat : SeatNo) (s : State) : Result :=
  .next (s.widePlain seat.val (isOp 2 31 28 5) fun s w r => s.wideCastRun seat.val w r)

end Sys2Proof.Machine
end

