-- ==== Sys2Proof/Machine/Collective.lean ====
section
/-! DEFINITION. Collectives: the COLLECTIVE descriptor, the transfers of each level, the reduction formats, the cells
a router sends and places, and the side lanes. -/

namespace Sys2Proof.Machine

/-! Fields (Table 12-3). -/

def kKind (w : List Word) : Nat := wF w 4 31 28
def kLevel (w : List Word) : Nat := wF w 4 27 26
def kDim (w : List Word) : Nat := wF w 4 25 24
def kRfmt (w : List Word) : Nat := wF w 4 23 20
def kSide (w : List Word) : Nat := wF w 4 19 18
def kOut (w : List Word) : Nat := wF w 4 17 16
def kAnchor (w : List Word) : Int := wI16 w 4
def kElems (w : List Word) : Nat := wN w 5
def kFlow2 (w : List Word) : Nat := wF w 6 27 16
def kFlow (w : List Word) : Nat := wF w 6 11 0
def kSrc (w : List Word) : Nat := wAddr w 7
def kDst (w : List Word) : Nat := wAddr w 8
def kSideAddr (w : List Word) : Nat := wAddr w 9
def kStat (w : List Word) : Nat := wAddr w 10
def kConv (w : List Word) : Bool := wB w 11 20
def kRoot (w : List Word) : Nat := wF w 11 19 16
def kNorm (w : List Word) : Int := wI16 w 11
/-- The continuation of a PUT (R354). -/
def kDest (w : List Word) : Nat := wF w 16 14 0
def kDestSeat (w : List Word) : Nat := wF w 17 8 0
def kDestAddr (w : List Word) : Nat := wAddr w 18

def kBoard (w : List Word) : Bool := decide (kLevel w = 0)
def kReduces (w : List Word) : Bool := decide (kKind w ≤ 1)
/-- The flow of the gather phase (Table 12-3). -/
def kGather (w : List Word) : Nat := if kKind w = 0 then kFlow2 w else kFlow w

/-! Formats (Table 12-1, R349). -/

/-- Bytes of an element of the reduction format. -/
def kWidth (w : List Word) : Nat := [8, 16, 4, 2, 4, 4, 4, 1].getD (kRfmt w) 1
/-- Bytes of a result element. -/
def kOutWidth (w : List Word) : Nat := [kWidth w, 16, 4, 2].getD (kOut w) 1
/-- Bytes of a contribution in SRC. -/
def kSrcWidth (w : List Word) : Nat := if kConv w ∧ kReduces w then 16 else kWidth w

/-! Places (R357, R359). E is the number of segments or chunks, x the device's own. -/

def State.kE (s : State) (w : List Word) : Nat := if kBoard w then 8 else s.extent (kDim w)
def State.kX (s : State) (w : List Word) : Nat := if kBoard w then s.posN else s.coord (kDim w)

/-- Q, and the length of segment or chunk `k`. -/
def kQ (w : List Word) (e : Nat) : Nat := ceilDiv (kElems w) e
def kLen (w : List Word) (e k : Nat) : Nat := min (kQ w e) (kElems w - k * kQ w e)

/-- The + half and the − half of a torus chunk. -/
def plusLen (w : List Word) (e k : Nat) : Nat := (kLen w e k + 1) / 2
def minusLen (w : List Word) (e k : Nat) : Nat := kLen w e k / 2

/-- PART of the − half of chunk `k` (Table 12-2). -/
def minusPart (k : Nat) : Nat := k + 0x8000

/-- The stack depth S of a torus FP32 or BF16 reduction (R360). -/
def stackDepth (e : Nat) : Nat := max 1 (Nat.log2 e)
def kStacked (w : List Word) : Bool := !kBoard w && decide (kRfmt w = 2 ∨ kRfmt w = 3)

/-- Elements per cell of the reduction phase, and of the gather phase (Table 12-1). -/
def redPer (w : List Word) (e : Nat) : Nat :=
  if kStacked w then 624 / kWidth w / stackDepth e else 624 / kWidth w
def gatherPer (w : List Word) : Nat := 624 / (if kReduces w then kOutWidth w else kWidth w)

/-- The ports of the level. -/
def kPorts (w : List Word) : List Nat :=
  match kLevel w with
  | 0 => List.range 7
  | 1 => [7 + 2 * kDim w, 8 + 2 * kDim w]
  | _ => []
def plusPort (w : List Word) : Nat := 7 + 2 * kDim w
def minusPort (w : List Word) : Nat := 8 + 2 * kDim w

/-- A planned transfer of `n` elements, `per` to a cell. -/
def planOf (per port flow part n : Nat) : Transfer :=
  { port := port, flow := flow, part := part, cells := ceilDiv n per, moved := 0, closed := false, post := 0 }

/-- The distance of coordinate `x` from ROOT on the + way and on the − way. -/
def fromRoot (w : List Word) (e x : Nat) : Nat := (x + e - kRoot w % e) % e
def toRoot (w : List Word) (e x : Nat) : Nat := (kRoot w + e - x % e) % e

/-- The transfers a device sends, contributions, results and forwarded ones (R357, R359). -/
def sendPlan (w : List Word) (e x : Nat) : List Transfer :=
  let red := redPer w e
  let gat := gatherPer w
  let all := (List.range 7).map fun n => (n, (x + n + 1) % 8)
  let ks := List.range e
  let l :=
    if kBoard w then
      (if kReduces w then all.map fun p => planOf red p.1 (kFlow w) p.2 (kLen w 8 p.2) else []) ++
      (if kKind w = 0 ∨ kKind w = 2 then all.map fun p => planOf gat p.1 (kGather w) x (kLen w 8 x) else []) ++
      (if kKind w = 3 ∧ x = kRoot w then all.map fun p => planOf gat p.1 (kFlow w) 0 (kElems w) else [])
    else
      (if kReduces w then (ks.filter fun k => decide (k ≠ x)).flatMap fun k =>
          [planOf red (plusPort w) (kFlow w) k (plusLen w e k),
           planOf red (minusPort w) (kFlow w) (minusPart k) (minusLen w e k)] else []) ++
      (if kKind w = 0 ∨ kKind w = 2 then
          ((ks.filter fun k => decide ((x + e - k) % e ≠ e - 1)).map fun k =>
            planOf gat (plusPort w) (kGather w) k (plusLen w e k)) ++
          ((ks.filter fun k => decide ((k + e - x) % e ≠ e - 1)).map fun k =>
            planOf gat (minusPort w) (kGather w) (minusPart k) (minusLen w e k)) else []) ++
      (if kKind w = 3 then
          (if fromRoot w e x < e / 2 then [planOf gat (plusPort w) (kFlow w) 0 (kElems w)] else []) ++
          (if toRoot w e x + 1 < ceilDiv e 2 then [planOf gat (minusPort w) (kFlow w) 0 (kElems w)] else []) else [])
  l.filter fun t => decide (t.cells ≠ 0)

/-- The transfers a device expects (R357, R359). -/
def recvPlan (w : List Word) (e x : Nat) : List Transfer :=
  let red := redPer w e
  let gat := gatherPer w
  let all := (List.range 7).map fun n => (n, (x + n + 1) % 8)
  let ks := List.range e
  let l :=
    if kBoard w then
      (if kReduces w then all.map fun p => planOf red p.1 (kFlow w) x (kLen w 8 x) else []) ++
      (if kKind w = 0 ∨ kKind w = 2 then all.map fun p => planOf gat p.1 (kGather w) p.2 (kLen w 8 p.2) else []) ++
      (if kKind w = 3 ∧ x ≠ kRoot w then
          [planOf gat ((kRoot w + 8 - x - 1) % 8) (kFlow w) 0 (kElems w)] else [])
    else
      (if kReduces w then
          ((ks.filter fun k => decide ((k + 1) % e ≠ x)).map fun k =>
            planOf red (minusPort w) (kFlow w) k (plusLen w e k)) ++
          ((ks.filter fun k => decide ((x + 1) % e ≠ k)).map fun k =>
            planOf red (plusPort w) (kFlow w) (minusPart k) (minusLen w e k)) else []) ++
      (if kKind w = 0 ∨ kKind w = 2 then (ks.filter fun k => decide (k ≠ x)).flatMap fun k =>
          [planOf gat (minusPort w) (kGather w) k (plusLen w e k),
           planOf gat (plusPort w) (kGather w) (minusPart k) (minusLen w e k)] else []) ++
      (if kKind w = 3 ∧ x ≠ kRoot w then
          if fromRoot w e x ≤ e / 2 then [planOf gat (minusPort w) (kFlow w) 0 (kElems w)]
          else [planOf gat (plusPort w) (kFlow w) 0 (kElems w)] else [])
  l.filter fun t => decide (t.cells ≠ 0)

/-- The element range of cell `seq` of a transfer: global index of its first element, and how many. -/
def cellSpan (w : List Word) (e per part seq : Nat) : Nat × Nat :=
  let k := part % 0x8000
  let first :=
    if kKind w = 3 then 0
    else k * kQ w e + (if part < 0x8000 then 0 else plusLen w e k)
  let len :=
    if kKind w = 3 then kElems w
    else if kBoard w then kLen w e k
    else if part < 0x8000 then plusLen w e k else minusLen w e k
  (first + seq * per, min per (len - seq * per))

/-! Checks (R355). -/

/-- Table 12-4, and the fields that must be 0 elsewhere (Table 12-3, R349). -/
def kAllowed (w : List Word) : Bool :=
  let k := kKind w
  let ring := decide (kLevel w ≤ 1)
  (match k with
   | 0 => ring && decide (kRfmt w ≤ 6 ∧ kSide w ≤ 1)
   | 1 => ring && decide (kRfmt w ≤ 6 ∧ kSide w = 0)
   | 2 => ring && decide (kRfmt w ≤ 7 ∧ (kSide w = 0 ∨ kSide w = 2))
   | 3 => ring && decide (kRfmt w ≤ 7 ∧ kSide w = 0)
   | 4 => decide (kLevel w = 2 ∧ kRfmt w = 7 ∧ kSide w = 0)
   | _ => false) &&
  (if kLevel w = 1 then decide (kDim w ≠ 3) else decide (kDim w = 0)) &&
  (decide (kRfmt w ≤ 1) || decide (kAnchor w = 0)) && (decide (k = 0) || decide (kFlow2 w = 0)) &&
  (!kConv w || decide (kRfmt w = 0)) &&
  (match kOut w with
   | 0 => true
   | 1 => kReduces w && decide (kRfmt w = 0)
   | _ => kReduces w && decide (kRfmt w ≤ 1))

def collReservedOk (w : List Word) : Bool :=
  wordsZero w 14 16 && (decide (kKind w ≠ 4 ∨ countOf w = 0) || wordsZero w 19 32)

/-- The pairs (port, FLOW) that descriptors bind (R350). -/
def State.boundFlows (s : State) : List (Nat × Nat) :=
  s.seatList.flatMap fun n => (s.seat n).running.flatMap fun r =>
    match r.work with
    | .coll _ => if r.void then [] else (kPorts r.words).flatMap fun p => [(p, kFlow r.words), (p, kGather r.words)]
    | _ => []

/-- The areas a COLLECTIVE reads and writes. -/
def State.collReads (s : State) (w : List Word) : List (Nat × Nat) :=
  let x := s.kX w
  let own := kLen w (s.kE w) x
  [(kSrc w, match kKind w with
    | 0 | 1 => kElems w * kSrcWidth w
    | 2 => own * kWidth w
    | 3 => if x = kRoot w then kElems w * kWidth w else 0
    | _ => kElems w)] ++ (if kStat w = 0 then [] else [(kStat w, 128)])
def State.collWrites (s : State) (w : List Word) : List (Nat × Nat) :=
  [(kDst w, match kKind w with
    | 0 => kElems w * kOutWidth w
    | 1 => kLen w (s.kE w) (s.kX w) * kOutWidth w
    | 2 | 3 => kElems w * kWidth w
    | _ => 0)] ++ (if kSide w = 0 then [] else [(kSideAddr w, 64)])

/-- Rounds from now to START, and from START to LAST (R350). -/
def State.kAhead (s : State) (w : List Word) : Nat :=
  ((w.getD 12 0) - BitVec.ofNat 32 (s.shownRound s.curRound)).toNat
def kSpan (w : List Word) : Nat := ((w.getD 13 0) - (w.getD 12 0)).toNat

/-- The first cause of Table 12-5. Its conditions on START and LAST hold for every kind, and that on ROOT for every kind with
positions, which a PUT has not (DEDUCED, log entry 38). -/
def State.collCause (s : State) (n : Nat) (w : List Word) : Option Nat :=
  let put := decide (kKind w = 4)
  let e := s.kE w
  firstCause
    [(decide (countOf w ≠ (if kKind w = 4 then 1 else 0)) || (kBoard w && decide (kElems w < 8)) ||
        (decide (kLevel w = 1) && decide (kElems w < 2 * e)) ||
        (put && decide (kElems w = 0 ∨ kDest w = s.hallIndex)), 0x100),
     (!kAllowed w || (!put && decide (e ≤ kRoot w)), 0x101),
     (anchorBad (kAnchor w) || anchorBad (kNorm w), 0x103),
     (!s.readsOk n (s.collReads w) || !s.writesOk n (s.collWrites w), 0x104),
     ((kPorts w).any (fun p => !portPresent s.variant p) || (decide (kLevel w = 1) && decide (e = 1)) ||
        decide (s.job n = 0), 0x105),
     (!put && (kPorts w).any fun p => s.boundFlows.contains (p, kFlow w) || s.boundFlows.contains (p, kGather w), 0x106),
     (decide (s.kAhead w = 0 ∨ 2 ^ 31 ≤ s.kAhead w), 0x107),
     (decide (2 ^ 31 ≤ kSpan w), 0x108)]

def State.collChecks (s : State) (n : Nat) : Checks :=
  { reservedOk := collReservedOk, cause := s.collCause n, nondet := fun _ => false }

/-! Elements (R346 to R349, R360). -/

/-- Bits of CT_COLL_LOG (Table 12-11). -/
def State.collLog (s : State) (n mask : Nat) (b : Bool) : State := if b then s.raise (seatReg n 0x70) mask else s

/-- INVALID of the exact formats (R347). -/
def invalidOf (bits : Nat) : Nat := 2 ^ (bits - 1)

def signedBits (bits v : Nat) : Int := (BitVec.ofNat bits v).toInt
def unsignedBits (bits : Nat) (v : Int) : Nat := (BitVec.ofInt bits v).toNat

/-- The exact sum of contributions, or INVALID, and whether INVALID is formed here (R347). -/
def exactSum (bits : Nat) (xs : List Nat) : Nat × Bool :=
  if xs.contains (invalidOf bits) then (invalidOf bits, false)
  else
    let t := (xs.map (signedBits bits)).sum
    if -(2 ^ (bits - 1) - 1) ≤ t ∧ t ≤ 2 ^ (bits - 1) - 1 then (unsignedBits bits t, false) else (invalidOf bits, true)

/-- The reduction's floating-point format, and its patterns. -/
def kFp (w : List Word) : FpFmt := if kRfmt w = 3 then .bf16 else .fp32
def decFp (f : FpFmt) (v : Nat) : Fp := match f with | .bf16 => decodeBf16 v | _ => decodeFp32 v
def fpBits (f : FpFmt) (x : Fp) : Nat := match f with | .bf16 => encodeBf16 x | _ => encodeFp32 x

/-- One rounded node, with its flush (R348). -/
def nodeW (f : FpFmt) (flush : Bool) (a b : Wv) : Wv :=
  let r := rnW f flush (fpAdd a.v b.v)
  { r with fl := r.fl || a.fl || b.fl }

/-- The 8 board contributions in rank order (R358). -/
def boardTree (f : FpFmt) (flush : Bool) (p : Nat → Wv) : Wv :=
  let q := fun i => nodeW f flush (p (2 * i)) (p (2 * i + 1))
  nodeW f flush (nodeW f flush (q 0) (q 1)) (nodeW f flush (q 2) (q 3))

/-- The merging of ring_add, top of the stack first; `fuel` bounds the bits of the rank. -/
def ringMerge (f : FpFmt) (flush : Bool) : Nat → Nat → List Wv → List Wv
  | 0, _, st => st
  | fuel + 1, j, st =>
    match st with
    | b :: a :: r => if j % 2 = 1 then ringMerge f flush fuel (j / 2) (nodeW f flush a b :: r) else st
    | _ => st

/-- ring_add (R360). -/
def ringAdd (f : FpFmt) (flush : Bool) (st : List Wv) (k : Nat) (x : Wv) : List Wv := ringMerge f flush 5 k (x :: st)

/-- ring_finish (R360). -/
def ringFinish (f : FpFmt) (flush : Bool) : List Wv → Wv
  | [] => { v := .num false 0, fl := false }
  | r :: rest => rest.foldl (fun r a => nodeW f flush a r) r

/-- The number of set bits of a rank plus one. -/
def popcount5 (k : Nat) : Nat := ((List.range 6).filter fun i => k.testBit i).length

/-- MAX or MIN of two FP32 patterns: NaN wins as the canonical NaN, −0 lies below +0 (R348). -/
def extremum (isMin : Bool) (a b : Nat) : Nat :=
  if decodeFp32 a = .nan ∨ decodeFp32 b = .nan then 0x7FC00000
  else
    let key := fun (v : Nat) => if v < 2 ^ 31 then (v : Int) else -((v - 2 ^ 31 : Nat) : Int) - 1
    if decide (key a < key b) == isMin then a else b

/-- The value an element takes when it is computed from a poisoned cell (R371). -/
def poisonElem (w : List Word) (v : Nat) : Nat :=
  match kRfmt w with
  | 0 => invalidOf 64
  | 1 => invalidOf 128
  | 3 => 0x7FC0
  | 6 => v
  | _ => 0x7FC00000

/-- A finished element: its pattern in OUT_FMT, and whether a result was flushed (R93, R349). -/
def outElem (w : List Word) (flush : Bool) (v : Nat) : Nat × Bool :=
  let bits := if kRfmt w = 0 then 64 else 128
  let bad := decide (v = invalidOf bits)
  let l : Int := if kRfmt w = 0 then signedBits 64 v * 2 ^ 64 else signedBits 128 v
  match kOut w with
  | 0 => (v, false)
  | 1 => (if bad then invalidOf 128 else v * 2 ^ 64, false)
  | o =>
    let f : FpFmt := if o = 3 then .bf16 else .fp32
    let y := laRound f l (kAnchor w)
    (if bad then fpBits f .nan else fpBits f (flushSub flush y), !bad && flush && y.isSubnormal)

/-- The exact value of a finished element for SUMSQ, none when it is non-finite or INVALID (R365). -/
def elemValue (w : List Word) (v : Nat) : Option Rat :=
  let ofFp := fun (x : Fp) => match x with
    | .num s m => some (if s then -m else m)
    | _ => none
  match kRfmt w with
  | 0 => if v = invalidOf 64 then none else some ((signedBits 64 v : Rat) * 2 ^ 64 * laUnit (kAnchor w))
  | 1 => if v = invalidOf 128 then none else some ((signedBits 128 v : Rat) * laUnit (kAnchor w))
  | 3 => ofFp (decodeBf16 v)
  | 6 => some (v : Rat)
  | _ => ofFp (decodeFp32 v)

/-! The device's own contributions. -/

/-- A read of own contributions `g` to `g + c − 1`: patterns in RFMT, poison, COLL_INEXACT and COLL_SATURATED (R349). -/
def State.contrib (s : State) (n : Nat) (w : List Word) (g c : Nat) : List Nat × Bool × State :=
  let sw := kSrcWidth w
  let f := s.unitRead n (kSrc w + g * sw) (c * sw)
  let raw := (List.range c).map fun i => numAt (Marked.bytes f.1) (i * sw) sw
  let conv := raw.map fun v =>
    if v = invalidOf 128 then (invalidOf 64, false, false)
    else
      let r := laToXs (signedBits 128 v) (kAnchor w) (kAnchor w)
      match r.1 with
      | some x => (unsignedBits 64 x, r.2, false)
      | none => (invalidOf 64, r.2, true)
  if kConv w ∧ kReduces w then
    (conv.map Prod.fst, Marked.poisoned f.1,
      (f.2.collLog n 8 (conv.any fun x => x.2.1)).collLog n 4 (conv.any fun x => x.2.2))
  else (raw, Marked.poisoned f.1, f.2)

/-- Element bytes of a cell, padded to 624. -/
def elemBytes (width : Nat) (vs : List Nat) : List Byte := padTo 624 (vs.flatMap (leBytes width))

/-- The stack of element `i` of a cell, top first: `k` slots in use of `S` (Table 12-2). -/
def stackAt (w : List Word) (sdepth k : Nat) (bytes : List Byte) (i : Nat) : List Wv :=
  ((List.range k).map fun t =>
    ({ v := decFp (kFp w) (numAt bytes ((i * sdepth + t) * kWidth w) (kWidth w)), fl := false } : Wv)).reverse

/-- A stack as the slots of an element. -/
def stackSlots (w : List Word) (sdepth : Nat) (st : List Wv) : List Nat :=
  (List.range sdepth).map fun t => match st.reverse[t]? with
    | some x => fpBits (kFp w) x.v
    | none => 0

/-! Writing results. -/

/-- Where element `g` of the results lies in DST, and its width. -/
def State.dstOf (s : State) (w : List Word) (g : Nat) : Nat × Nat :=
  match kKind w with
  | 0 => (kDst w + g * kOutWidth w, kOutWidth w)
  | 1 => (kDst w + (g - s.kX w * kQ w (s.kE w)) * kOutWidth w, kOutWidth w)
  | _ => (kDst w + g * kWidth w, kWidth w)

/-- Write result bytes from element `g`; a poisoned cell's sectors are written as poisoned (R371). -/
def State.putResult (s : State) (w : List Word) (g : Nat) (bytes : List Byte) (poison : Bool) : State :=
  let a := (s.dstOf w g).1
  let s := s.csWrite a bytes
  if poison then s.csPoisonRange a bytes.length else s

/-- Change the collective of a run. -/
def State.modColl (s : State) (n : Nat) (idx : Word) (f : CollWork → CollWork) : State :=
  s.modRun n idx fun r => { r with work := match r.work with | .coll c => .coll (f c) | x => x }

def State.collOf (s : State) (n : Nat) (idx : Word) : Option CollWork :=
  match s.findRun n idx with
  | some r => match r.work with | .coll c => some c | _ => none
  | none => none

/-- Queue a cell of a descriptor on its port; the first cell of a transfer posts the write (R351, R353). -/
def State.queueFlow (s : State) (n : Nat) (r : Run) (c : FlowCell) : State :=
  let s := s.modPort c.port fun p => { p with schedQ := p.schedQ ++ [c] }
  match s.collOf n r.index with
  | none => s
  | some k =>
    let hit := fun (t : Transfer) => decide (t.port = c.port ∧ t.flow = c.flow ∧ t.part = c.part)
    if k.sends.any fun t => hit t && !t.closed then
      let id := s.nextId
      (s.post n r true (s.neighbour c.port) 0).modColl n r.index fun k =>
        { k with sends := k.sends.map fun t => if hit t then { t with closed := true, post := id } else t }
    else s

/-- Queue the gather cell `seq` of the device's own segment or half `part` on `ports`; its elements are marked with the
poison they were made of (R357, R359, R371). -/
def State.queueGather (s : State) (n : Nat) (r : Run) (ports : List Nat) (part seq : Nat) (bs : List Byte) (poison : Bool) :
    State :=
  ports.foldl (fun s p => s.queueFlow n r
    { port := p, flow := kGather r.words, part := part, seq := seq, rank := 0, poison := poison, ready := s.now,
      bytes := padTo 624 bs }) s

/-- Elements `g` to `g + c − 1` of the finished cells `ps`: their bytes, and whether a cell they come from is poisoned. -/
def finishedBytes (w : List Word) (ps : List PlacedCell) (g c : Nat) : List Byte × Bool :=
  let ow := kOutWidth w
  let holds := fun (p : PlacedCell) (i : Nat) => decide (p.first ≤ i ∧ i < p.first + p.bytes.length / ow)
  let elem := fun (i : Nat) => match ps.find? fun p => holds p i with
    | some p => slice p.bytes ((i - p.first) * ow) ow
    | none => zeros ow
  ((List.range c).flatMap fun i => elem (g + i), ps.any fun p => p.poison && (List.range c).any fun i => holds p (g + i))

/-- The results whose transfers are closed are applied to DST, all of them with `all`; those of a transfer that ends at a
swap, or of a turn that is missed, never are (R333, R341). -/
def State.applyPlaced (s : State) (n : Nat) (r : Run) (all : Bool) : State :=
  match s.collOf n r.index with
  | none => s
  | some c =>
    let whole := fun (p : PlacedCell) => all || c.recvs.all fun t =>
      decide (t.flow ≠ p.flow ∨ t.part ≠ p.part ∨ t.closed = true)
    let s := (c.placed.filter whole).foldl (fun s p => s.putResult r.words p.first p.bytes p.poison) s
    s.modColl n r.index fun c => { c with placed := c.placed.filter fun p => !whole p }

/-- Results join those that wait for their transfers. -/
def State.place (s : State) (n : Nat) (r : Run) (p : PlacedCell) : State :=
  s.modColl n r.index fun c => { c with placed := c.placed ++ [p] }

/-- The ports on which the own segment or half `part` is gathered. -/
def gatherPorts (w : List Word) (part : Nat) : List Nat :=
  if kBoard w then List.range 7 else if part < 0x8000 then [plusPort w] else [minusPort w]

/-- SUMSQ and NONFINITE of finished elements join the local side value (R365). -/
def State.seedSide (s : State) (n : Nat) (r : Run) (vs : List Nat) : State :=
  if kSide r.words ≠ 1 then s
  else
    match s.collOf n r.index with
    | none => s
    | some c =>
      let xs := vs.map (elemValue r.words)
      let start : SumSq := { l := c.side.sumsq, flags := c.side.flags % 2 * 4 + c.side.flags / 2 * 2, event := false }
      let q := (xs.filterMap id).foldl (sumsqAdd (kNorm r.words)) start
      let bad := (xs.filter Option.isNone).length
      let flags := q.flags / 4 % 2 + 2 * (q.flags / 2 % 2)
      let side := { c.side with sumsq := q.l, nonfinite := min (c.side.nonfinite + bad) (2 ^ 64 - 1), flags := flags }
      ((s.modColl n r.index fun c => { c with side := side }).collLog n 4 (decide (flags % 2 = 1))).collLog n 8
        (decide (2 ≤ flags))

/-- Which gather cells of the own part are complete: every reduction cell with an element of theirs is finished. -/
def gatherReady (w : List Word) (e part : Nat) (done : Nat → Bool) (seq : Nat) : Bool :=
  let per := gatherPer w
  let red := redPer w e
  let span := cellSpan w e per part seq
  let lo := seq * per / red
  let hi := (seq * per + span.2 - 1) / red
  decide (span.2 ≠ 0) && (List.range (hi + 1 - lo)).all fun i => done (lo + i)

/-- Finished elements of reduction cell `seq` of the own part: the results wait for their transfers, the side value grows,
and gather cells that are now complete are queued (R349, R357, R359, R365). -/
def State.finishCell (s : State) (n : Nat) (r : Run) (part seq : Nat) (vs : List Nat) (poison : Bool)
    (doneBefore doneAfter : Nat → Bool) : State :=
  let w := r.words
  let e := s.kE w
  let span := cellSpan w e (redPer w e) part seq
  let vs := if poison then vs.map (poisonElem w) else vs
  let out := vs.map (outElem w (s.flush n))
  let s := s.numLog n 0 (out.any (·.2))
  let s := s.place n r { flow := kFlow w, part := part, seq := seq, first := span.1, poison := poison,
                         bytes := out.flatMap fun v => leBytes (kOutWidth w) v.1 }
  let s := s.seedSide n r vs
  if kKind w ≠ 0 then s
  else
    let mine := match s.collOf n r.index with
      | some c => c.placed.filter fun p => decide (p.flow = kFlow w ∧ p.part = part)
      | none => []
    let len := if kBoard w then kLen w e (part % 0x8000) else if part < 0x8000 then plusLen w e part
      else minusLen w e (part % 0x8000)
    (List.range (ceilDiv len (gatherPer w))).foldl (fun s g =>
      if gatherReady w e part doneAfter g && !gatherReady w e part doneBefore g then
        let own := cellSpan w e (gatherPer w) part g
        let b := finishedBytes w mine own.1 own.2
        s.queueGather n r (gatherPorts w part) part g b.1 b.2
      else s) s

/-! Sending own contributions when round START begins. -/

/-- The cells of the own contributions to a transfer, RANK as given (R351, R357, R359). -/
def State.sendContrib (s : State) (n : Nat) (r : Run) (port part rank : Nat) : State :=
  let w := r.words
  let e := s.kE w
  let per := redPer w e
  let cells := ((sendPlan w e (s.kX w)).find? fun t =>
    decide (t.port = port ∧ t.flow = kFlow w ∧ t.part = part)).map Transfer.cells
  (List.range (cells.getD 0)).foldl (fun s q =>
    let span := cellSpan w e per part q
    let f := s.contrib n w span.1 span.2
    let bytes := if kStacked w then
        elemBytes (kWidth w) (f.1.flatMap fun v =>
          stackSlots w (stackDepth e) [{ v := decFp (kFp w) v, fl := false }])
      else elemBytes (kWidth w) f.1
    let s := if f.2.1 then f.2.2.modColl n r.index fun c => { c with poison := true } else f.2.2
    s.queueFlow n r { port := port, flow := kFlow w, part := part, seq := q, rank := rank, poison := f.2.1,
                      ready := s.now, bytes := bytes }) s

/-- Copy own elements from SRC to DST, `g` the global index of the first (ALLGATHER and BROADCAST). -/
def State.copyOwn (s : State) (n : Nat) (r : Run) (g c : Nat) : State :=
  let wd := kWidth r.words
  let f := s.unitRead n (kSrc r.words) (c * wd)
  let bad := Marked.poisoned f.1
  let s := f.2.csWriteMarked (s.dstOf r.words g).1 f.1
  if bad then s.modColl n r.index fun c => { c with poison := true } else s

/-- Queue gather cell `seq` of part `part`, whose elements lie in SRC from element `g0` of the level on (ALLGATHER and
BROADCAST). -/
def State.gatherSrc (s : State) (n : Nat) (r : Run) (ports : List Nat) (part seq g0 : Nat) : State :=
  let w := r.words
  let own := cellSpan w (s.kE w) (gatherPer w) part seq
  let f := s.unitRead n (kSrc w + (own.1 - g0) * kWidth w) (own.2 * kWidth w)
  f.2.queueGather n r ports part seq (Marked.bytes f.1) (Marked.poisoned f.1)

/-- Queue every gather cell of the own parts. -/
def State.gatherOwn (s : State) (n : Nat) (r : Run) : State :=
  let w := r.words
  let e := s.kE w
  let x := s.kX w
  let parts := if kBoard w then [x] else [x, minusPart x]
  parts.foldl (fun s part =>
    let len := if kBoard w then kLen w e x else if part < 0x8000 then plusLen w e x else minusLen w e x
    (List.range (ceilDiv len (gatherPer w))).foldl (fun s q =>
      s.gatherSrc n r (gatherPorts w part) part q (x * kQ w e)) s) s

/-- BROADCAST: the root's cells on each port it uses (R357, R359). -/
def State.rootCells (s : State) (n : Nat) (r : Run) : State :=
  let w := r.words
  let ports := (sendPlan w (s.kE w) (s.kX w)).map Transfer.port
  (List.range (ceilDiv (kElems w) (gatherPer w))).foldl (fun s q => s.gatherSrc n r ports 0 q 0) s

/-- Round START begins: the device queues what it sends from its own memory. -/
def State.collBegin (s : State) (n : Nat) (r : Run) : State :=
  let w := r.words
  let e := s.kE w
  let x := s.kX w
  let s := s.modColl n r.index fun c => { c with begun := true }
  match kKind w with
  | 0 | 1 =>
    if kBoard w then (List.range 7).foldl (fun s p => s.sendContrib n r p ((x + p + 1) % 8) x) s
    else (s.sendContrib n r (plusPort w) ((x + e - 1) % e) 0).sendContrib n r (minusPort w) (minusPart ((x + 1) % e)) 0
  | 2 => (s.copyOwn n r (x * kQ w e) (kLen w e x)).gatherOwn n r
  | 3 => if x = kRoot w then (s.copyOwn n r 0 (kElems w)).rootCells n r else s
  | _ => s

/-! The side lanes (R363 to R366). -/

def le128 (l : Int) : List Byte := leBytes 16 (unsignedBits 128 l)

/-- The SIDE cell of a descriptor's local value (Table 12-8). -/
def State.sideCell (s : State) (n : Nat) (r : Run) (v : SideVal) (dest : Nat) : List Byte :=
  ctrlCell 4 (s.job n) (tagOf r.words) dest s.hallIndex
    (le128 v.sumsq ++ leBytes 8 v.nonfinite ++ leBytes 1 v.flags ++ leBytes 1 v.policy ++
      leBytes 2 (unsignedBits 16 (kNorm r.words)) ++ leBytes 2 (kGather r.words))

/-- The ports a SIDE cell leaves on: all seven of the board, or the + port of a ring (R364). -/
def sideOut (w : List Word) : List Nat := if kBoard w then List.range 7 else [plusPort w]

/-- Is every own element finished: nothing expected of the reduction is missing? -/
def reductionDone (w : List Word) (c : CollWork) : Bool :=
  !kReduces w || c.recvs.all fun t => decide (t.flow ≠ kFlow w ∨ t.moved = t.cells)

/-- Queue the SIDE cell on each port whose last gather cell has been sent (R364). -/
def State.sidePump (s : State) (n : Nat) (r : Run) : State :=
  match s.collOf n r.index with
  | none => s
  | some c =>
    if kSide r.words = 0 || !c.begun || !reductionDone r.words c then s
    else
      (sideOut r.words).foldl (fun s p =>
        let sent := c.sends.all fun t => decide (t.port ≠ p ∨ t.flow ≠ kGather r.words ∨ t.moved = t.cells)
        if sent && !c.sidePorts.contains p then
          (s.queueCtrl p (s.sideCell n r c.side (s.neighbour p))).modColl n r.index fun c =>
            { c with sidePorts := c.sidePorts ++ [p] }
        else s) s

/-- Combination of side values (R366); a POLICY that differs becomes FORFEIT. -/
def sideAdd (a b : SideVal) : SideVal :=
  let t := a.sumsq + b.sumsq
  let sat := decide (laMax < t)
  { sumsq := if sat then laMax else t, nonfinite := min (a.nonfinite + b.nonfinite) (2 ^ 64 - 1),
    flags := (a.flags ||| b.flags) ||| b2n sat, policy := if a.policy = b.policy then a.policy else 1 }

/-- A side value of bytes: SUMSQ, NONFINITE, FLAGS, POLICY at the given offsets. -/
def sideAt (bs : List Byte) (sq nf fl pol : Nat) : SideVal :=
  { sumsq := signedBits 128 (numAt bs sq 16), nonfinite := numAt bs nf 8, flags := numAt bs fl 1 % 4,
    policy := numAt bs pol 1 }

/-- The clip record of a side value (Table 7-8, R364). -/
def clipRecord (w : List Word) (v : SideVal) : List Byte :=
  padTo 64 (le128 v.sumsq ++ leBytes 2 (unsignedBits 16 (kNorm w)) ++ zeros 2 ++ leBytes 4 v.flags ++
    leBytes 8 v.nonfinite ++ leBytes 1 v.policy)

/-! Dispatch. -/

/-- Does the active schedule have a SCHED turn of `flow` on port `p` (R333, Table 12-6)? -/
def State.hasTurn (s : State) (p flow : Nat) : Bool :=
  match s.tb.active with
  | none => false
  | some a => (a.tables.getD p []).any fun t => decide (t.kind = 1 ∧ t.flow = flow)

/-- A transfer of a collective ends without a turn: UNSCHEDULED in FB_LOG of its port, and for the fences that cover it;
its write is never refused (R333). -/
def State.endTransfer (s : State) (n : Nat) (t : Transfer) : State :=
  let s := if t.closed then s.settle t.post else s
  (s.modSeat n fun q => { q with fenceBad := q.fenceBad ++ [(2, s.neighbour t.port)] }).raise (fbReg t.port 0x8) 0x20

/-- A collective ends with UNSCHEDULED (Table 12-6). -/
def State.collUnscheduled (s : State) (n : Nat) (r : Run) : State :=
  let sends := match r.work with | .coll c => c.sends | _ => sendPlan r.words (s.kE r.words) (s.kX r.words)
  let s := (sends.filter fun t => decide (t.moved < t.cells)).foldl (fun s t => s.endTransfer n t) s
  let s := (kPorts r.words).foldl (fun s p => s.modPort p fun q =>
    { q with schedQ := q.schedQ.filter fun c => decide (c.flow ≠ kFlow r.words ∧ c.flow ≠ kGather r.words) }) s
  (s.endRun n r.index 4).collLog n 2 true

/-- The local side value at dispatch: NONFINITE of the statistics record and the policy, or the record at SIDE_ADDR
(R365); the reads' poison. -/
def State.sideStart (s : State) (n : Nat) (w : List Word) : SideVal × Bool × State :=
  match kSide w with
  | 1 =>
    let f : Marked × State := if kStat w = 0 then ([], s) else s.unitRead n (kStat w) 128
    ({ sumsq := 0, nonfinite := numAt (Marked.bytes f.1) 64 8, flags := 0, policy := s.obj 0x2710 1 0 },
      Marked.poisoned f.1, f.2)
  | 2 =>
    let f := s.unitRead n (kSideAddr w) 64
    (sideAt (Marked.bytes f.1) 0 24 20 32, Marked.poisoned f.1, f.2)
  | _ => ({ sumsq := 0, nonfinite := 0, flags := 0, policy := 0 }, false, s)

/-- Dispatch of a COLLECTIVE on a board or ring: it binds its flows until the end of round LAST (R350). -/
def State.collGo (n : Nat) (h : Head) (g : List Region) (s : State) : State :=
  let w := h.words
  let e := s.kE w
  let x := s.kX w
  let v := s.sideStart n w
  let s := v.2.2
  let c : CollWork :=
    { start := s.curRound + s.kAhead w, last := s.curRound + s.kAhead w + kSpan w, sends := sendPlan w e x,
      recvs := recvPlan w e x, got := [], hold := [], placed := [], begun := false, lost := false, poison := v.2.1, sidePorts := [],
      sideExpect := if kSide w = 0 then 0 else if kBoard w then 7 else e - 1, side := v.1, sides := [] }
  let run := { newRun h (.coll c) 0 with guard := g }
  let s := s.addRun n run
  if (kPorts w).all fun p => s.hasTurn p (kFlow w) && s.hasTurn p (kGather w) then s else s.collUnscheduled n run

def State.collStart (s : State) (n kind : Nat) : State :=
  s.dispatch n (isOp 5 31 28 kind) (s.collChecks n) (fun w => s.guardOf n (s.collWrites w)) (fun _ => 0xFF)
    (State.collGo n)

def execCollectiveAllreduce (seat : SeatNo) (s : State) : Result := .next (s.collStart seat.val 0)
def execCollectiveReduceScatter (seat : SeatNo) (s : State) : Result := .next (s.collStart seat.val 1)
def execCollectiveAllgather (seat : SeatNo) (s : State) : Result := .next (s.collStart seat.val 2)
def execCollectiveBroadcast (seat : SeatNo) (s : State) : Result := .next (s.collStart seat.val 3)

/-! PUT (R354, R356, R368). -/

/-- Hand cell `i` of `total` of a PUT to the router. -/
def State.putCell (s : State) (n : Nat) (r : Run) (post total i : Nat) : State :=
  let w := r.words
  let len := min 608 (kElems w - 608 * i)
  let f := s.unitRead n (kSrc w + 608 * i) len
  let last := decide (i + 1 = total)
  let body := openCell 0 (f.2.job n) (tagOf w) (kDest w) f.2.hallIndex (kDestSeat w) (kDestAddr w + 608 * i) 0
    (2 * b2n last) (Marked.bytes f.1)
  let s := f.2.sendOpen (kDest w) body (some post) (if last then some post else none) none
  if Marked.poisoned f.1 then s.modRun n r.index fun r => { r with status := 3 } else s

/-- Hand as many of the cells left as the port's queue has room for; the PUT's work ends with its last cell (R336). -/
def State.putPump (s : State) (n : Nat) (r : Run) (left : Nat) : State :=
  let total := ceilDiv (kElems r.words) 608
  let room := match s.route (kDest r.words) with
    | some p => if s.portUp p then s.openRoom p else left
    | none => left
  let k := min left room
  match s.posted.find? fun p => decide (p.seat = n ∧ p.index = r.index ∧ p.tag = r.words.getD 1 0) with
  | none => s.modRun n r.index fun r => { r with work := .done }
  | some p =>
    let s := (List.range k).foldl (fun s i => s.putCell n r p.id total (total - left + i)) s
    s.modRun n r.index fun r => { r with work := if left = k then .done else .put (left - k) }

def execCollectivePut (seat : SeatNo) (s : State) : Result :=
  .next (s.dispatch seat.val (isOp 5 31 28 4) (s.collChecks seat.val) (fun _ => []) (fun _ => 0xFF) fun h g s =>
    let left := ceilDiv (kElems h.words) 608
    let run := { newRun h (.put left) 0 with guard := g }
    ((s.addRun seat.val run).post seat.val run false (kDest h.words) 0).putPump seat.val run left)

/-! Cells received (R352, R353, R358 to R360). -/

/-- The run that binds a flow on a port, with its seat. -/
def State.binding (s : State) (port flow : Nat) : Option (Nat × Run) :=
  ((s.seatList.flatMap fun n => ((s.seat n).running.map fun r => (n, r))).find? fun q =>
    match q.2.work with
    | .coll _ => !q.2.void && (kPorts q.2.words).contains port &&
        decide (kFlow q.2.words = flow ∨ kGather q.2.words = flow)
    | _ => false)

/-- An ACK for a transfer of a collective of seat `n`. The cells of Table 12-2 do not show the SEQ_TAG that the transfer
carries, a free value here (log entry 12). -/
def State.ackTransfer (s : State) (n : Nat) (port : Nat) : State :=
  (s.queueCtrl port (ctrlCell 1 (s.job n) (numAt (s.freeBytes 4) 0 4) (s.neighbour port) s.hallIndex [])).draw

/-- The cells of a transfer that finds no ACTIVE seat bound to its flow are discarded, and it is refused once with
TARGET_NOT_ACTIVE (R274, R352). The cells do not show its JOB and SEQ_TAG, free values here (log entry 12). -/
def State.refuseFlow (s : State) (x : FlowCell) : State :=
  if x.seq ≠ 0 ∧ (s.port x.port).refused.contains (x.flow, x.part) then s
  else
    let b := s.freeBytes 6
    let s := s.queueCtrl x.port (ctrlCell 2 (numAt b 0 2) (numAt b 2 4) (s.neighbour x.port) s.hallIndex
      (leBytes 2 0x101 ++ zeros 6 ++ leBytes 8 s.now))
    let s := s.modPort x.port fun r =>
      { r with refused := (x.flow, x.part) :: r.refused.filter fun q => decide (q ≠ (x.flow, x.part)) }
    let f : PriorRefusal := { source := s.neighbour x.port, job := 0, tag := 0, more := false }
    ({ s with refusals := s.refusals ++ [f] }).draw

/-- Place a cell: count it in its transfer. -/
def State.placeCell (s : State) (n : Nat) (r : Run) (port flow part seq : Nat) : State :=
  s.modColl n r.index fun c =>
    { c with got := c.got ++ [(port, flow, part, seq)],
             recvs := c.recvs.map fun t =>
               if t.port = port ∧ t.flow = flow ∧ t.part = part then { t with moved := t.moved + 1 } else t }

/-- Does a turn that its next MARK has not confirmed yet hold a cell of the transfer (R341)? -/
def State.unconfirmed (s : State) (t : Transfer) : Bool :=
  (s.port t.port).rx.any fun e => decide (e.2.mark.tkind = 1#4 ∧ e.2.mark.flow.toNat = t.flow) &&
    e.2.cells.any fun c => decide (c.1 = 2 ∧ numAt c.2.2 632 2 = t.part)

/-- The transfers that have come whole, in confirmed turns unless `all`, are acknowledged and closed, and their results
applied (R341, R353). -/
def State.closeTransfers (s : State) (n : Nat) (r : Run) (all : Bool) : State :=
  match s.collOf n r.index with
  | none => s
  | some c =>
    let ends := fun (t : Transfer) => !t.closed && decide (t.moved = t.cells) && (all || !s.unconfirmed t)
    let s' := (c.recvs.filter ends).foldl (fun s t => s.ackTransfer n t.port) s
    let s' := s'.modColl n r.index fun c =>
      { c with recvs := c.recvs.map fun t => if ends t then { t with closed := true } else t }
    s'.applyPlaced n r all

/-- A SCHED cell of a turn that is missed is discarded: its descriptor lacks it, what it brought is not applied, and it is
not forwarded any more (R341, R352). -/
def State.loseCell (s : State) (port flow : Nat) (body : List Byte) : State :=
  let part := numAt body 632 2
  let seq := numAt body 624 4
  match s.binding port flow with
  | none => s
  | some (n, r) =>
    let s := s.modPort (partnerPort port) fun q =>
      { q with schedQ := q.schedQ.filter fun c => decide (c.flow ≠ flow ∨ c.part ≠ part ∨ c.seq ≠ seq) }
    s.modColl n r.index fun c =>
      if c.got.contains (port, flow, part, seq) then
        { c with lost := true, got := c.got.erase (port, flow, part, seq),
                 hold := c.hold.filter fun h => decide (h.port ≠ port ∨ h.seq ≠ seq),
                 placed := c.placed.filter fun p => decide (p.flow ≠ flow ∨ p.part ≠ part ∨ p.seq ≠ seq),
                 recvs := c.recvs.map fun t =>
                   if t.port = port ∧ t.flow = flow ∧ t.part = part then { t with moved := t.moved - 1 } else t }
      else c

/-- The reduction of one element of the board: own contribution and the 7 held ones, by position (R347, R348, R358). -/
def boardElem (w : List Word) (flush : Bool) (vs : List Nat) : Nat × Bool × Bool :=
  match kRfmt w with
  | 0 => let r := exactSum 64 vs; (r.1, r.2, false)
  | 1 => let r := exactSum 128 vs; (r.1, r.2, false)
  | 4 => (vs.tail.foldl (extremum false) (vs.headD 0), false, false)
  | 5 => (vs.tail.foldl (extremum true) (vs.headD 0), false, false)
  | 6 => (vs.foldl (· ||| ·) 0, false, false)
  | _ =>
    let r := boardTree (kFp w) flush fun i => { v := decFp (kFp w) (vs.getD i 0), fl := false }
    (fpBits (kFp w) r.v, false, r.fl)

/-- A board contribution arrives: it is held until the cell of its SEQ has come on every port (R358). -/
def State.boardCell (s : State) (n : Nat) (r : Run) (c : CollWork) (x : FlowCell) : State :=
  let w := r.words
  let me := s.kX w
  let full := decide (kRfmt w = 2 ∨ kRfmt w = 3) && decide (256 ≤ (c.hold.filter fun h => decide (h.port = x.port)).length)
  if full then s
  else
    let s := s.placeCell n r x.port x.flow x.part x.seq
    let held := x :: c.hold
    let mine := held.filter fun h => decide (h.seq = x.seq)
    if mine.length < 7 then s.modColl n r.index fun c => { c with hold := held }
    else
      let s := s.modColl n r.index fun c => { c with hold := held.filter fun h => decide (h.seq ≠ x.seq) }
      let span := cellSpan w 8 (redPer w 8) x.part x.seq
      let f := s.contrib n w span.1 span.2
      let s := if f.2.1 then f.2.2.modColl n r.index fun c => { c with poison := true } else f.2.2
      let at' := fun (j i : Nat) =>
        if j = me then f.1.getD i 0
        else
          match mine.find? fun h => decide ((me + h.port + 1) % 8 = j) with
          | some h => numAt h.bytes (i * kWidth w) (kWidth w)
          | none => 0
      let vs := (List.range span.2).map fun i => boardElem w (s.flush n) ((List.range 8).map fun j => at' j i)
      let s := (s.collLog n 4 (vs.any fun v => v.2.1)).numLog n 0 (vs.any fun v => v.2.2)
      let seen := fun (extra : Bool) (q : Nat) => (List.range 7).all fun p =>
        (extra || decide (q ≠ x.seq)) &&
          (c.got.contains (p, x.flow, x.part, q) || (decide (p = x.port) && decide (q = x.seq)))
      s.finishCell n r x.part x.seq (vs.map fun v => v.1) (mine.any (fun h => h.poison) || f.2.1)
        (fun q => seen false q) (fun q => seen true q)

/-- The own contribution joins element `i` of a ring cell of rank `k − 1`: the slots or pattern that go on, INVALID
formed, flushed (R347, R348, R360). -/
def ringElem (w : List Word) (flush : Bool) (e k : Nat) (last : Bool) (bytes : List Byte) (i own : Nat) :
    List Nat × Bool × Bool :=
  if kStacked w then
    let st := ringAdd (kFp w) flush (stackAt w (stackDepth e) (popcount5 k) bytes i) k { v := decFp (kFp w) own, fl := false }
    let fl := st.any Wv.fl
    if last then
      let y := ringFinish (kFp w) flush st
      ([fpBits (kFp w) y.v], false, y.fl || fl)
    else (stackSlots w (stackDepth e) st, false, fl)
  else
    let v := numAt bytes (i * kWidth w) (kWidth w)
    let r := boardElem w flush [v, own]
    ([r.1], r.2.1, r.2.2)

/-- A reduction cell of a ring arrives: the own contribution is added, and the cell is finished or forwarded (R359). -/
def State.ringCell (s : State) (n : Nat) (r : Run) (c : CollWork) (x : FlowCell) : State :=
  let w := r.words
  let e := s.kE w
  let s := s.placeCell n r x.port x.flow x.part x.seq
  let span := cellSpan w e (redPer w e) x.part x.seq
  let f := s.contrib n w span.1 span.2
  let s := if f.2.1 then f.2.2.modColl n r.index fun c => { c with poison := true } else f.2.2
  let last := decide (x.part % 0x8000 = s.kX w)
  let k := x.rank + 1
  let vs := (List.range span.2).map fun i => ringElem w (s.flush n) e k last x.bytes i (f.1.getD i 0)
  let s := (s.collLog n 4 (vs.any fun v => v.2.1)).numLog n 0 (vs.any fun v => v.2.2)
  let poison := x.poison || f.2.1
  if last then
    s.finishCell n r x.part x.seq (vs.flatMap fun v => v.1) poison
      (fun q => c.got.contains (x.port, x.flow, x.part, q))
      (fun q => decide (q = x.seq) || c.got.contains (x.port, x.flow, x.part, q))
  else
    let used := if kStacked w then popcount5 (k + 1) else 1
    let vals := vs.flatMap fun v => v.1.zipIdx.map fun q =>
      if x.poison && decide (q.2 < used) then poisonElem w q.1 else q.1
    s.queueFlow n r { x with port := partnerPort x.port, rank := k, poison := poison, ready := s.now + 160,
                             bytes := elemBytes (kWidth w) vals }

/-- A result cell arrives: it waits for its transfer to be whole, and is forwarded on a ring that carries it further (R357,
R359). -/
def State.gatherCell (s : State) (n : Nat) (r : Run) (c : CollWork) (x : FlowCell) : State :=
  let w := r.words
  let s := s.placeCell n r x.port x.flow x.part x.seq
  let span := cellSpan w (s.kE w) (gatherPer w) x.part x.seq
  let s := s.place n r { flow := x.flow, part := x.part, seq := x.seq, first := span.1, poison := x.poison,
                         bytes := x.bytes.take (span.2 * (s.dstOf w span.1).2) }
  let out := partnerPort x.port
  if !kBoard w && c.sends.any fun t => decide (t.port = out ∧ t.flow = x.flow ∧ t.part = x.part) then
    s.queueFlow n r { x with port := out, ready := s.now + 160 }
  else s

/-- A SCHED cell reaches the router on a port and flow: it is placed by PART and SEQ, or discarded when the descriptor does
not expect it, as before round START (R350, R352). Without an ACTIVE seat bound to the flow its transfer is refused. -/
def State.schedCell (s : State) (port flow : Nat) (body : List Byte) : State :=
  let x : FlowCell :=
    { port := port, flow := flow, part := numAt body 632 2, seq := numAt body 624 4, rank := numAt body 634 2,
      poison := decide (numAt body 628 1 % 2 = 1), ready := 0, bytes := body.take 624 }
  match s.binding port flow with
  | none => s.refuseFlow x
  | some (n, r) =>
    match s.collOf n r.index with
    | none => s
    | some c =>
      let want := c.begun && c.recvs.any fun t =>
        decide (t.port = port ∧ t.flow = flow ∧ t.part = x.part ∧ x.seq < t.cells)
      if !s.seatIs n .active then s.refuseFlow x
      else if !want || c.got.contains (port, flow, x.part, x.seq) then s
      else
        let s := s.collLog n 0x10 x.poison
        let s := if kReduces r.words && decide (flow = kFlow r.words) then
            if kBoard r.words then s.boardCell n r c x else s.ringCell n r c x
          else s.gatherCell n r c x
        s.closeTransfers n r false

/-- The side values of a collective combined so far (R366). -/
def CollWork.sideSum (c : CollWork) : SideVal := c.sides.foldl sideAdd c.side

/-- SATURATED and INEXACT of a side value are logged (R365). -/
def State.sideLog (s : State) (n : Nat) (v : SideVal) : State :=
  (s.collLog n 4 (decide (v.flags % 2 = 1))).collLog n 8 (decide (2 ≤ v.flags))

/-- A SIDE cell reaches the router: it joins the descriptor of its JOB bound to its flow, and is forwarded unchanged on a
ring (R353, R364, R366). -/
def State.sideArrives (s : State) (port : Nat) (body : List Byte) : State :=
  let flow := numAt body 44 2
  match s.binding port flow with
  | none => s
  | some (n, r) =>
    let w := r.words
    if kSide w = 0 ∨ kGather w ≠ flow ∨ i16 (numAt body 42 2) ≠ kNorm w ∨ numAt body 2 2 ≠ s.job n then s
    else
      match s.collOf n r.index with
      | none => s
      | some c =>
        let v := sideAt body 16 32 40 41
        let s := if c.begun && decide (c.sides.length < c.sideExpect) then
            (((s.modColl n r.index fun c => { c with sides := c.sides ++ [v] }).collLog n 0x20
              (decide (v.policy ≠ c.sideSum.policy)))).sideLog n (sideAdd c.sideSum v)
          else s
        let e := s.kE w
        let from' := hallCoord (numAt body 10 2) (kDim w)
        if !kBoard w && decide (port = minusPort w) && decide ((s.kX w + e - from') % e ≠ e - 1) then
          s.queueCtrl (plusPort w) body
        else s

/-! The end of round LAST (R350, R352, R356, R364). -/

/-- The descriptor's end: INCOMPLETE, or its side record is written and it ends with SUCCESS or POISONED_OPERAND. -/
def State.collEnd (s : State) (n : Nat) (r : Run) (c : CollWork) : State :=
  let w := r.words
  let missing := c.lost || c.recvs.any (fun t => decide (t.moved < t.cells)) || decide (c.sides.length < c.sideExpect)
  let due := s.settleRound
  let posted := s.posted.map fun p => if p.seat = n ∧ p.index = r.index ∧ p.due = 0 then { p with due := due } else p
  let s := { s with posted := posted }
  let s := (kPorts w).foldl (fun s p => s.modPort p fun q =>
    { q with schedQ := q.schedQ.filter fun x => decide (x.flow ≠ kFlow w ∧ x.flow ≠ kGather w) }) s
  let s := s.closeTransfers n r true
  if missing then (s.endRun n r.index 2).collLog n 1 true
  else
    let s := if kSide w = 0 then s else (s.sideLog n c.sideSum).csWrite (kSideAddr w) (clipRecord w c.sideSum)
    s.endRun n r.index (if c.poison then 3 else 0)

/-- The completion of a COLLECTIVE with SUCCESS or INCOMPLETE counts in object 0x6090 or 0x6091 (R374). -/
def State.collCount (s : State) (r : Run) : State :=
  if opcodeOf r.words ≠ 5 then s
  else if r.status = 0 then s.bumpObj 0x6090 0 1
  else if r.status = 2 then s.bumpObj 0x6091 0 1 else s

/-- The collectives in work, with their seats. -/
def State.collRuns (s : State) : List (Nat × Run × CollWork) :=
  s.seatList.flatMap fun n => (s.seat n).running.filterMap fun r =>
    match r.work with
    | .coll c => if r.void then none else some (n, r, c)
    | _ => none

/-- Collectives whose round LAST lies before round `k` end at the boundary that begins it (R350, R356). -/
def State.collEnds (s : State) (k : Nat) : State :=
  s.collRuns.foldl (fun s q => if q.2.2.last < k then s.collEnd q.1 q.2.1 q.2.2 else s) s

/-- Collectives of round START begin at the boundary that begins round `k` (R350). -/
def State.collBegins (s : State) (k : Nat) : State :=
  s.collRuns.foldl (fun s q =>
    if q.2.2.start ≤ k && !q.2.2.begun then (s.collBegin q.1 q.2.1).sidePump q.1 q.2.1 else s) s

/-- What a swap does to the collectives issued before it: none moves across (R47). Those not begun, those with unsent cells
of the outgoing schedule, and those whose flow has no turn in the new one end with UNSCHEDULED (R333). In a replayed step the
cells sent go nowhere, and none counts as unsent (R387, R388). -/
def State.collSwap (s : State) : State :=
  s.collRuns.foldl (fun s q =>
    let w := q.2.1.words
    let unsent := !q.2.2.begun || (!s.replaying && q.2.2.sends.any fun t => decide (t.moved < t.cells))
    let gone := !(kPorts w).all fun p => s.hasTurn p (kFlow w) && s.hasTurn p (kGather w)
    if unsent || gone then s.collUnscheduled q.1 q.2.1 else s) s

/-- After a SIDE descriptor completes with NONFINITE above 0 or SATURATED: NONFINITE_STEP, its object, and under FORFEIT
a forfeit of the job (R367). -/
def State.sideStep (s : State) (n : Nat) (r : Run) : State :=
  let w := r.words
  if opcodeOf w ≠ 5 ∨ kKind w = 4 ∨ kSide w = 0 ∨ (r.status ≠ 0 ∧ r.status ≠ 3) then s
  else
    let bs := s.csBytes (kSideAddr w) 64
    if numAt bs 24 8 = 0 ∧ numAt bs 20 4 % 2 = 0 then s
    else
      let s := (s.collLog n 0x40 true).bumpObj 0x6092 0 1
      if numAt bs 32 1 = 1 then s.originate (s.job n) 6 n else s

end Sys2Proof.Machine
end

