-- ==== Sys2Proof/Machine/Lines.lean ====
section
/-! DEFINITION. Atomic and hasp operations on lines of the shared cache: which targets they may name, what they do to
the word, and how they wait for a line fill. -/

namespace Sys2Proof.Machine

/-! Targets (R247). -/

/-- May seat `n` target `len` bytes at HBM address `a` of partition `p`: inside its own window, or inside the shared
window of an ACTIVE seat of that partition with the same JOB? -/
def State.mayTarget (s : State) (n p a len : Nat) : Bool :=
  (decide (n / 16 = p) && inWin (s.hbmWin n) a len) ||
  ((List.range 16).map fun l => p * 16 + l).any fun m =>
    s.seatIs m .active && decide (s.job m = s.job n) && bit (s.reg (ceSeatReg m 8)) 0 && inWin (s.hbmWin m) a len

/-- Does the target lie in the seat's own window? -/
def State.ownTarget (s : State) (n p a len : Nat) : Bool := decide (n / 16 = p) && inWin (s.hbmWin n) a len

/-- Does the target's memory belong to a partition under reset, or to a seat that has been released, or has it since passed
to a seat whose window the issuer may not target (R244, R285)? -/
def State.lineGone (s : State) (n : Nat) (o : LineOp) : Bool :=
  s.resetting o.part ||
    match s.hbmOwner o.part o.addr with
    | none => true
    | some m => decide (m ≠ n) &&
        (s.seatIs m .releasing || decide (s.job m ≠ s.job n) || !bit (s.reg (ceSeatReg m 8)) 0)

/-! The words (Tables 8-4, 9-9, 9-10). -/

/-- The new value of an atomic operation's target of `bits` bits: code, old value, OPERAND, COMPARE (Table 8-4). -/
def aopNew (bits op old x cmp : Nat) : Nat :=
  let sg := fun (v : Nat) => (BitVec.ofNat bits v).toInt
  match op with
  | 0 => (old + x) % 2 ^ bits
  | 1 => old &&& x
  | 2 => old ||| x
  | 3 => old ^^^ x
  | 4 => if sg old ≤ sg x then old else x
  | 5 => if sg old ≤ sg x then x else old
  | 6 => min old x
  | 7 => max old x
  | 8 => x
  | 9 => if old = cmp then x else old
  | _ => old

/-- Fields of a hasp word (Table 9-9). -/
def haspField (w : BitVec 64) (hi lo : Nat) : Nat := w.toNat / 2 ^ lo % 2 ^ (hi + 1 - lo)
def haspHeld (w : BitVec 64) : Bool := w.getLsbD 25
def haspBroken (w : BitVec 64) : Bool := w.getLsbD 26
def haspOwner (w : BitVec 64) : Nat := haspField w 24 16

/-- A hasp word of its fields. -/
def haspWord (version cgen : Nat) (broken held : Bool) (owner epoch : Nat) : BitVec 64 :=
  BitVec.ofNat 64 (version % 2 ^ 24 * 2 ^ 40 + cgen * 2 ^ 32 + b2n broken * 2 ^ 26 + b2n held * 2 ^ 25 +
    owner * 2 ^ 16 + epoch)

/-- The word with VERSION incremented, HELD clear and BROKEN as given: a release. -/
def haspReleased (w : BitVec 64) (broken : Bool) : BitVec 64 :=
  haspWord (haspField w 63 40 + 1) (haspField w 39 32) broken false (haspOwner w) (haspField w 15 0)

/-- Staleness of a held word (R283); a partition under reset has no seat in its epoch (Table 9-12). -/
def State.haspStale (s : State) (w : BitVec 64) : Bool :=
  let o := haspOwner w
  haspHeld w &&
    (decide (haspField w 15 0 ≠ s.epoch (o / 16) ∨ haspField w 39 32 ≠ s.cgen o) || s.resetting (o / 16) ||
      !(s.seatIs o .active || s.seatIs o .faulted))

/-- Is seat `n` the holder of the word? -/
def State.haspMine (s : State) (n : Nat) (w : BitVec 64) : Bool :=
  haspHeld w && decide (haspOwner w = n ∧ haspField w 15 0 = s.epoch (n / 16) ∧ haspField w 39 32 = s.cgen n)

/-- The word as seen after the staleness test (R283). -/
def State.haspSeen (s : State) (w : BitVec 64) : BitVec 64 := if s.haspStale w then haspReleased w true else w

/-- The word acquired by seat `n`. -/
def State.haspTaken (s : State) (n : Nat) (w : BitVec 64) : BitVec 64 :=
  haspWord (haspField w 63 40) (s.cgen n) (haspBroken w) true n (s.epoch (n / 16))

/-- Table 9-10 on the word as seen: the new word, and the status, none for an ACQUIRE that waits. -/
def State.haspAct (s : State) (n hop : Nat) (w : BitVec 64) : BitVec 64 × Option Nat :=
  match hop with
  | 0 | 1 =>
    if haspHeld w then (w, if hop = 0 then none else some 3)
    else (s.haspTaken n w, some (if haspBroken w then 2 else 0))
  | 2 => if s.haspMine n w then (haspReleased w (haspBroken w), some 0) else (w, some 4)
  | 3 =>
    if s.haspMine n w then
      (haspWord (haspField w 63 40) (haspField w 39 32) false true (haspOwner w) (haspField w 15 0), some 0)
    else (w, some 4)
  | _ => (w, some 0)

/-! Performing an operation on a held line. -/

/-- The run ends with TARGET_RESET, and every fence that covers it with RESET (R244, R273, Table 9-14). -/
def State.targetReset (s : State) (n : Nat) (idx : Word) : State :=
  ((s.endRun n idx 5).modSeat n fun r => { r with fenceBad := r.fenceBad ++ [(0, 0)] }).raise (seatReg n 0x68) 0x10

/-- Write RESULT, 8 bytes; a hasp's RESULT of 0 is not written (R247, R282). -/
def State.lineResult (s : State) (o : LineOp) (v : Nat) : State :=
  if o.isHasp ∧ o.result = 0 then s else s.csWrite o.result (leBytes 8 v)

/-- The bits of CT_SYNC_LOG that a hasp status sets (Table 9-14). -/
def haspLog (status : Nat) : Nat := if status = 2 then 4 else if status = 6 then 8 else 0

/-- Perform an operation on line `l`, which the cache holds. -/
def State.lineDo (s : State) (n : Nat) (idx : Word) (o : LineOp) (l : CacheLine) : State :=
  let s := s.putLine l
  if l.poisonAt o.addr then (s.raise (csReg 0xC) 4).endRun n idx (if o.isHasp then 7 else 3)
  else if o.isHasp then
    let w := BitVec.ofNat 64 (leNat (l.get o.addr 8))
    if haspField w 31 27 ≠ 0 then ((s.lineResult o w.toNat).endRun n idx 6).raise (seatReg n 0x68) (haspLog 6)
    else
      let a := s.haspAct n o.op (s.haspSeen w)
      let s := if a.1 = w then s else s.putLine (l.set o.addr (leBytes 8 a.1.toNat))
      let s := if haspHeld w && !haspHeld a.1 then s.haspDue true fun v => decide (v.part = o.part ∧ v.addr / 8 = o.addr / 8)
        else s
      match a.2 with
      | none => s.modRun n idx fun r => { r with work := .haspWait o false }
      | some st => ((s.lineResult o w.toNat).endRun n idx st).raise (seatReg n 0x68) (haspLog st)
  else
    let len := if o.wide then 8 else 4
    let old := leNat (l.get o.addr len)
    let s := s.lineResult o old
    let new := aopNew (8 * len) o.op old o.operand o.compare
    (if new = old then s else s.putLine (l.set o.addr (leBytes len new))).endRun n idx 0

/-- An operation reaches the shared cache: at once on a hit, after a line fill on a miss (R247, Table 8-14). -/
def State.lineStart (s : State) (n : Nat) (idx : Word) (o : LineOp) : State :=
  if s.lineGone n o then s.targetReset n idx
  else
    match s.lineOf o.part (o.addr / 128) with
    | some l => (s.count (csReg 0x20) 1).lineDo n idx o l
    | none =>
      let s := s.count (csReg 0x28) 1
      let f := (o.part, o.addr / 128)
      let s := if s.fills.contains f then s else { s with fills := s.fills ++ [f] }
      s.modRun n idx fun r => { r with work := .lineWait o }

/-- The operations waiting for line `ln` of partition `p`, seat by seat and in ring order (R247). -/
def State.lineWaiters (s : State) (p ln : Nat) : List (Nat × Word × LineOp) :=
  s.seatList.flatMap fun n => (s.seat n).running.filterMap fun r =>
    match r.work with
    | .lineWait o => if !r.void && decide (o.part = p ∧ o.addr / 128 = ln) then some (n, r.index, o) else none
    | _ => none

/-- The waiting operations act on the line that has been filled, or end with TARGET_RESET. -/
def State.lineWake (s : State) (ws : List (Nat × Word × LineOp)) : State :=
  ws.foldl (fun s w =>
    if s.lineGone w.1 w.2.2 then s.targetReset w.1 w.2.1
    else
      match s.lineOf w.2.2.part (w.2.2.addr / 128) with
      | some l => s.lineDo w.1 w.2.1 w.2.2 l
      | none => s) s

/-- May a line be filled: its partition is not under reset, and its memory belongs to a seat that is not RELEASING
(R244)? -/
def State.mayFill (s : State) (p ln : Nat) : Bool :=
  !s.resetting p &&
    match s.hbmOwner p (ln * 128) with
    | none => false
    | some m => !s.seatIs m .releasing

/-- LINE_FILL_COMPLETE: a pending fill ends, and the operations that wait for the line are performed (R29, R242, R247). -/
def execLineFillComplete (part : PartNo) (line : Nat) (s : State) : Result :=
  .next <|
    if s.fills.contains (part.val, line) then
      let s := { s with fills := s.fills.filter fun f => decide (f ≠ (part.val, line)) }
      let s := if s.mayFill part.val line && (s.lineOf part.val line).isNone then s.fillLine part.val line else s
      s.lineWake (s.lineWaiters part.val line)
    else s

/-- Must an operation of seat `n` on the aligned word at `a` wait for an earlier one on it, which itself waits for work
before it, or for a line that the cache holds by now? Such operations take effect in ring order (Table 9-1); while the
line is absent they wait for it together, in that order. -/
def State.wordHeld (s : State) (n p a : Nat) : Bool :=
  (s.seat n).running.any fun r =>
    match r.work with
    | .release => decide (opcodeOf r.words = 8 ∧ wF r.words 4 12 8 = p ∧ wN64 r.words 5 / 8 = a / 8) ||
        decide (opcodeOf r.words = 4 ∧ wF r.words 5 12 8 = p ∧ wN64 r.words 7 / 8 = a / 8)
    | .lineWait o => (s.lineOf p (a / 128)).isSome && decide (o.part = p ∧ o.addr / 8 = a / 8)
    | _ => false

end Sys2Proof.Machine
end

