-- ==== Sys2Proof/Machine/Matrix.lean ====
section
/-! DEFINITION. The matrix arrays: dispatch of MATRIX descriptors, group slots, folds into LA128 with span events,
checksums, outlier contributions, the final conversion, retries, pairs, retirement and clock gating. -/

namespace Sys2Proof.Machine

/-! Fields of a MATRIX descriptor (Tables 4-4 and 4-5). -/

def mxArray (w : List Word) : Nat := wF w 4 31 28
def mxGroup (w : List Word) : Nat := wF w 4 27 26
def mxOp (w : List Word) : Nat := wF w 4 25 23
def mxG (w : List Word) : Nat := if wB w 4 20 then 256 else 128
def mxSerialB (w : List Word) : Bool := wB w 4 19
def mxOutFmt (w : List Word) : Option Fmt := Fmt.ofCode (wF w 4 15 12)
def mxFmtA (w : List Word) : Fmt := (Fmt.ofCode (wF w 4 3 0)).getD .la128
def mxFmtB (w : List Word) : Fmt := (Fmt.ofCode (wF w 4 7 4)).getD .la128
def mxN (w : List Word) : Nat := wF w 5 31 16 + 1
def mxM (w : List Word) : Nat := wF w 5 15 0 + 1
def mxK (w : List Word) : Nat := wF w 6 23 0
def mxAnchor (w : List Word) : Int := wI16 w 7
def mxLayout (w : List Word) : Nat := wF w 23 4 3
def mxOutPd (w : List Word) : Nat := 2 * 2 ^ wF w 23 6 5
def mxHistEn (w : List Word) : Bool := wB w 23 2
def mxHistBase (w : List Word) : Int := i16 (wF w 23 31 16)
def mxTileRows (w : List Word) : Nat := ceilDiv (mxM w) 128
def mxTileCols (w : List Word) : Nat := ceilDiv (mxN w) 128

/-- Does the operation convert and write: SINGLE or CLOSE? -/
def mxConverts (w : List Word) : Bool := decide (mxOp w = 0 ∨ mxOp w = 3)

def Fmt.isNarrow : Fmt → Bool
  | .e2m1 | .int4 | .int2 | .int8 | .ternary | .uint4zp | .uint8zp => true
  | _ => false

/-- Output formats of Table 4-4. -/
def mxOutOk : Option Fmt → Bool
  | some .e2m1 | some .int4 | some .int2 | some .int8 | some .bf16 | some .fp32 | some .la128 => true
  | _ => false

/-- Does the quantiser convert the output, by a conversion record? -/
def mxNarrow (w : List Word) : Bool :=
  mxConverts w && (match mxOutFmt w with | some f => f.isNarrow | none => false)

/-- P × D (R112). -/
def pdOf (serial parallel : Fmt) : Nat := serial.magBits * (if parallel.bits = 8 then 2 else 1)

/-- Does a descriptor read its scales, zero points and K-group scales: it streams, or it adds outliers (R111, R139)? -/
def mxVectors (w : List Word) : Bool := decide (mxK w ≠ 0) || (mxConverts w && (wB w 23 0 || wB w 23 1))

/-- Fold interval F (R137). -/
def foldEvery (a b : Fmt) : Nat := min 448 (524287 / (8 * a.maxMag * b.maxMag))

/-- Bytes a staging tile spans: serial lines (R116) or parallel lines (R117). -/
def stageBytes (serial : Bool) (pd chunks w : Nat) : Nat :=
  if serial then (if chunks = 0 then 0 else ((chunks - 1) * pd + 128) * 128) else chunks * (128 * w)

/-! One operand of one tile. -/

/-- An operand of a tile: format, role, staging, first row and rows, scales, zero points, K-group scales. -/
structure Side where
  fmt    : Fmt
  serial : Bool
  stage  : Nat
  row0   : Nat
  rows   : Nat
  scale  : Nat
  zbase  : Nat
  grouped : Bool
  gbase  : Nat
  gpitch : Nat
deriving DecidableEq, Repr

/-- Operand A of tile-row `t`. -/
def mxSideA (w : List Word) (t : Nat) : Side :=
  { fmt := mxFmtA w, serial := !mxSerialB w, stage := (wN w 8 + t * wN w 10) * 64, row0 := t * 128,
    rows := min 128 (mxM w - t * 128), scale := wAddr w 12, zbase := wAddr w 16, grouped := wB w 4 22,
    gbase := wAddr w 18, gpitch := wF w 20 15 0 }

/-- Operand B of tile-column `t`. -/
def mxSideB (w : List Word) (t : Nat) : Side :=
  { fmt := mxFmtB w, serial := mxSerialB w, stage := (wN w 9 + t * wN w 11) * 64, row0 := t * 128,
    rows := min 128 (mxN w - t * 128), scale := wAddr w 13, zbase := wAddr w 17, grouped := wB w 4 21,
    gbase := wAddr w 19, gpitch := wF w 20 31 16 }

/-- P × D of the product. -/
def mxPd (w : List Word) : Nat := if mxSerialB w then pdOf (mxFmtB w) (mxFmtA w) else pdOf (mxFmtA w) (mxFmtB w)

/-- The sectors of a tile's staging that the array reads, as addresses: for the serial layout only those that hold a
slot of chunks below C and lanes 0 to 127 (R118). -/
def Side.sectors (d : Side) (pd k : Nat) : List Nat :=
  let c := ceilDiv k 8
  let w := d.fmt.bits
  if d.serial then
    (List.range (2 * (stageBytes true pd c w / 128))).filterMap fun q =>
      let t := q / 2
      if (List.range 128).any fun i =>
          decide (i ≤ t ∧ (t - i) % pd = 0 ∧ (t - i) / pd < c ∧ i / pd * w / 64 = q % 2) then
        some (d.stage + q * 64)
      else none
  else (List.range (stageBytes false pd c w / 64)).map fun q => d.stage + q * 64

/-- The vector areas of an operand: scales, zero points, K-group scales. -/
def Side.vectors (d : Side) (k g : Nat) : List (Nat × Nat) :=
  [(d.scale + 2 * d.row0, 2 * d.rows)] ++
  (if d.fmt.hasZp then [(d.zbase + d.row0, d.rows)] else []) ++
  (if d.grouped then (List.range d.rows).map fun r => (d.gbase + (d.row0 + r) * d.gpitch, ceilDiv k g) else [])

/-- One row or column of an operand as the cells and the promoter use it. -/
structure Lane where
  vals  : List Int
  scale : Scale
  codes : List Nat
deriving DecidableEq, Repr

/-- Lane `r` of an operand, from the staging and vectors; elements at k ≥ K are zero (R81, R86, R87, R111, R115). -/
def State.lane (s : State) (d : Side) (pd k g r : Nat) : Lane :=
  let w := d.fmt.bits
  let z := zpOf d.fmt (s.csByte (d.zbase + d.row0 + r))
  let elem := fun (i : Nat) =>
    let off := if d.serial then serialSlot r (i / 8) pd w else parallelSlot r (i / 8) w
    let b := s.csByte (d.stage + off + i % 8 * w / 8)
    intView d.fmt ((b.toNat >>> (i % 8 * w % 8)) % 2 ^ w) z
  { vals := (List.range k).map elem, scale := readScale (leNat (s.csBytes (d.scale + 2 * (d.row0 + r)) 2)),
    codes := if d.grouped then (s.csBytes (d.gbase + (d.row0 + r) * d.gpitch) (ceilDiv k g)).map BitVec.toNat else [] }

/-- Is a scale of the lane invalid (R84)? -/
def Lane.bad (l : Lane) : Bool := decide (l.scale = .invalid) || l.codes.contains 255

/-- The lane's scale with the code of K-group `j`; none when the lane contributes nothing (R83, R84, R85, R139). -/
def Lane.factor (l : Lane) (j : Nat) : Option Rat :=
  match l.scale with
  | .value sv =>
    let c := l.codes.getD j 127
    if l.bad then none else if c = 0 then some 0 else some (sv * pow2 ((c : Int) - 127))
  | _ => none

/-! Span events (R140 to R143, R155). -/

/-- The events of a step or of a tile: bits of MX_SPAN_LOG, the NEED values, and re-anchors. -/
structure Span where
  mask : Nat
  hi   : Option Int
  lo   : Option Int
  moves : Nat
deriving DecidableEq, Repr

def noSpan : Span := { mask := 0, hi := none, lo := none, moves := 0 }

def optMax : Option Int → Option Int → Option Int
  | some a, some b => some (max a b)
  | some a, none => some a
  | none, b => b

def optMin : Option Int → Option Int → Option Int
  | some a, some b => some (min a b)
  | some a, none => some a
  | none, b => b

def Span.join (a b : Span) : Span :=
  { mask := a.mask ||| b.mask, hi := optMax a.hi b.hi, lo := optMin a.lo b.lo, moves := a.moves + b.moves }

/-- Does the window of anchor `a` hold the value (R96)? -/
def windowHolds (a : Int) (x : Rat) : Bool := decide (-(pow2 (a + 1)) ≤ x ∧ x ≤ pow2 (a + 1) - pow2 (a - 126))

/-- NEED_HI of a value: the smallest anchor whose window holds it, capped at +1,023 (Table 5-6). -/
def needHi (x : Rat) : Int :=
  let e := floorLog2 (rabs x)
  let b := if windowHolds (e - 1) x then e - 1 else if windowHolds e x then e else e + 1
  max (min b 1023) (-1022)

/-- The exponent of 2 in a positive number, from `fuel` candidates. -/
def twos : Nat → Nat → Nat
  | 0, _ => 0
  | fuel + 1, n => if n % 2 = 0 ∧ n ≠ 0 then twos fuel (n / 2) + 1 else 0

/-- NEED_LO of a value: the largest anchor whose least significant weight divides it, at least −1,022. -/
def needLo (x : Rat) : Int :=
  let n := x.num.natAbs
  let v : Int := (twos (Nat.log2 n + 1) n : Int) - (Nat.log2 x.den : Int)
  max (v + 126) (-1022)

def laOut (l : Int) : Bool := decide (l < laMin ∨ laMax < l)

/-- One step: contributions to entries, tested together before any is added (R140 to R143). `det` is DETERMINISTIC. -/
def laStep (det : Bool) (g : Slot) (items : List (Nat × Rat)) : Slot × Span :=
  let items := items.filter fun e => !SMap.get false g.sat e.1
  let cur := fun (k : Nat) => SMap.get 0 g.entries k
  let unit := laUnit g.eff
  let rs := items.map fun e => (e.1, e.2, roundEven (e.2 / unit))
  let bad := rs.filter fun e => laOut e.2.2 || laOut (cur e.1 + e.2.2)
  let lows := fun (u : Rat) => (items.filter fun e => decide ((e.2 / u).den ≠ 1)).map fun e => needLo e.2
  let low := fun (u : Rat) => (lows u).foldl (fun m v => optMin m (some v)) none
  if bad.isEmpty then
    let l := low unit
    let g' := { g with entries := rs.foldl (fun m e => SMap.set 0 m e.1 (cur e.1 + e.2.2)) g.entries,
                       span := g.span || l.isSome }
    (g', { noSpan with mask := if l.isSome then 5 else 0, lo := l })
  else
    let hi := bad.foldl (fun m e =>
      let sum := (cur e.1 : Rat) * unit + e.2.1
      optMax m (some (if laOut e.2.2 then max (needHi e.2.1) (needHi sum) else needHi sum))) none
    let fits := fun (sh : Nat) =>
      let u := laUnit (g.eff + sh)
      items.all fun e =>
        let t := roundEven (e.2 / u)
        let c := roundEven ((cur e.1 : Rat) / 2 ^ sh)
        !laOut t && !laOut (c + t)
    let pick := ((List.range 257).map fun i => 8 * (i + 1)).find? fits
    match pick.filter fun sh => !det && decide (g.eff + sh ≤ 1023) with
    | some sh =>
      let u := laUnit (g.eff + sh)
      let shifted := (g.entries.map fun e => (e.1, roundEven ((e.2 : Rat) / 2 ^ sh))).filter fun e => decide (e.2 ≠ 0)
      let l := low u
      let g' := { g with eff := g.eff + sh, span := true,
                         entries := items.foldl (fun m e =>
                           SMap.set 0 m e.1 (SMap.get 0 m e.1 + roundEven (e.2 / u))) shifted }
      (g', { mask := 14 + (if l.isSome then 1 else 0), hi := hi, lo := l, moves := 1 })
    | none =>
      let l := low unit
      let ends := fun (e : Nat × Rat × Int) =>
        if laOut e.2.2 || laOut (cur e.1 + e.2.2) then
          (if (cur e.1 : Rat) * unit + e.2.1 < 0 then laMin else laMax)
        else cur e.1 + e.2.2
      let g' := { g with span := true, invalid := true,
                         entries := rs.foldl (fun m e => SMap.set 0 m e.1 (ends e)) g.entries,
                         sat := bad.foldl (fun m e => SMap.set false m e.1 true) g.sat }
      (g', { mask := 2 + (if l.isSome then 5 else 0) + (if det then 0 else 16), hi := hi, lo := l, moves := 0 })

/-! The folds of one descriptor into a slot (R130, R136 to R139). -/

/-- The K ranges of the folds: first and one beyond the last element (R136). -/
def foldRanges (k f g : Nat) (grouped : Bool) : List (Nat × Nat) :=
  let c := ceilDiv k 8
  let ends := (List.range c).filter fun j =>
    decide ((j + 1) % f = 0 ∨ j + 1 = c) || (grouped && decide (8 * (j + 1) % g = 0))
  (ends.zip (0 :: ends.map fun j => j + 1)).map fun e => (8 * e.2, min k (8 * (e.1 + 1)))

/-- Held array cycles of the folds: an interval below 64 array cycles is held to 64 (R129). -/
def foldHolds (rs : List (Nat × Nat)) (pd : Nat) : Nat :=
  rs.foldl (fun a r => a + (64 - ceilDiv (r.2 - r.1) 8 * pd)) 0

/-- Held array cycles of a tile's folds. -/
def tileFoldHolds (w : List Word) : Nat :=
  foldHolds (foldRanges (mxK w) (foldEvery (mxFmtA w) (mxFmtB w)) (mxG w) (wB w 4 22 || wB w 4 21)) (mxPd w)

/-- Σ u × w over elements `lo` to `hi - 1`: the sum that the passes over chunks of 8 form (R88 to R90, R110). -/
def dotRange (a b : List Int) (lo hi : Nat) : Int :=
  (List.zipWith (· * ·) ((a.drop lo).take (hi - lo)) ((b.drop lo).take (hi - lo))).foldl (· + ·) 0

/-- The output position of a cell of the grid (R109). -/
def cellKey (serialB : Bool) (u : CellUpset) : Nat × Nat :=
  if serialB then (u.col.val, u.row.val) else (u.row.val, u.col.val)

/-- The amount by which faults move the partial of output (r, c) in the first fold. -/
def upsetOf (serialB : Bool) (ups : List CellUpset) (r c : Nat) : Int :=
  (ups.filter fun u => decide (cellKey serialB u = (r, c))).foldl (fun a u => a + u.delta) 0

/-- Checksum accumulators: rows 0–127, columns 128–255, total 256. -/
def chkAdd (m : SMap Int) (r c : Nat) (v : Int) : SMap Int :=
  let add := fun (m : SMap Int) (k : Nat) => SMap.set 0 m k (SMap.get 0 m k + v)
  add (add (add m r) (128 + c)) 256

/-- What a fold does to the group: exact contributions, and the checksum accumulators beside them. -/
def Slot.foldIn (det : Bool) (g : Slot) (ra rb : List Lane) (nE gsz : Nat) (serialB : Bool) (ups : List CellUpset)
    (rg : Nat × Nat) : Slot × Span :=
  let j := rg.1 / gsz
  let first := decide (rg.1 = 0)
  let parts := (ra.zipIdx).flatMap fun a => (rb.zipIdx).filterMap fun b =>
    match a.1.factor j, b.1.factor j with
    | some x, some y =>
      let p := dotRange a.1.vals b.1.vals rg.1 rg.2
      let d := if first then upsetOf serialB ups a.2 b.2 else 0
      some (a.2, b.2, p, d, x * y * pow2 (-(nE : Int)))
    | _, _ => none
  let chk := parts.foldl (fun m e => chkAdd m e.1 e.2.1 (roundEven ((e.2.2.1 : Rat) * e.2.2.2.2 / laUnit g.eff))) g.chk
  let chk := if first then
      ups.foldl (fun m u =>
        let k := cellKey serialB u
        let at_ := fun (key : Nat) => SMap.set 0 m key (SMap.get 0 m key + u.delta)
        if k.1 = 128 ∧ k.2 = 128 then at_ 256 else if k.1 = 128 then at_ (128 + k.2)
        else if k.2 = 128 then at_ k.1 else m) chk
    else chk
  laStep det { g with chk := chk }
    (parts.filterMap fun e =>
      let t : Rat := ((e.2.2.1 + e.2.2.2.1 : Int) : Rat) * e.2.2.2.2
      if t = 0 then none else some (e.1 * 128 + e.2.1, t))

/-- NaN marks of the rows and columns whose scales are invalid (R139). -/
def Slot.markNan (g : Slot) (ra rb : List Lane) : Slot :=
  { g with nan := (ra.zipIdx).foldl (fun m a => (rb.zipIdx).foldl (fun m b =>
      if a.1.bad || b.1.bad then SMap.set false m (a.2 * 128 + b.2) true else m) m) g.nan }

/-- Does a scale withhold lane `i`? A lane that carries no output has no scale (R111). -/
def withheld (ls : List Lane) (i : Nat) : Bool :=
  match ls[i]? with
  | some l => (l.factor 0).isNone
  | none => false

/-- The 16,384 entries of an OPEN_LOAD (R129, R139, R148): values `v r c`, but zero where a scale withholds them. -/
def Slot.load (g : Slot) (ra rb : List Lane) (v : Nat → Nat → Int) : Slot :=
  let es := (List.range 16384).filterMap fun k =>
    if withheld ra (k / 128) || withheld rb (k % 128) then none
    else
      let x := v (k / 128) (k % 128)
      if x = 0 then none else some (k, x)
  { g with entries := es, chk := es.foldl (fun m e => chkAdd m (e.1 / 128) (e.1 % 128) e.2) g.chk }

/-- All folds of a descriptor. Each adds exactly, so the sum does not depend on how K is divided (R149, R153). -/
def Slot.folds (det : Bool) (g : Slot) (ra rb : List Lane) (nE gsz : Nat) (serialB : Bool) (ups : List CellUpset)
    (rs : List (Nat × Nat)) : Slot × Span :=
  rs.foldl (fun p rg =>
    let q := Slot.foldIn det p.1 ra rb nE gsz serialB ups rg
    (q.1, p.2.join q.2)) (g, noSpan)

/-! The comparison (R131, R132). -/

/-- How a comparison ends: skipped, passed, or failed with KIND, output row and output column. -/
inductive Compared where
  | skipped | passed | failed (kind row col : Nat)
deriving DecidableEq, Repr

def Slot.compare (g : Slot) : Compared :=
  if g.span then .skipped
  else
    let sum := fun (sel : Nat → Bool) => (g.entries.filter fun e => sel e.1).foldl (fun a e => a + e.2) 0
    let rows := (List.range 128).filter fun r =>
      decide (sum (fun k => decide (k / 128 = r)) ≠ SMap.get 0 g.chk r)
    let cols := (List.range 128).filter fun c =>
      decide (sum (fun k => decide (k % 128 = c)) ≠ SMap.get 0 g.chk (128 + c))
    let total := decide (sum (fun _ => true) ≠ SMap.get 0 g.chk 256)
    match rows, cols with
    | [], [] => if total then .failed 1 128 128 else .passed
    | [i], [j] => .failed 0 i j
    | [i], [] => if total then .failed 2 i 128 else .failed 1 i 128
    | [], [j] => if total then .failed 2 128 j else .failed 1 128 j
    | _, _ => .failed 2 (rows.headD 128) (cols.headD 128)

/-! Logs of a tile. -/

def arrLog (p a : Nat) : Nat := arrReg p a 0x4

/-- Replace a NEED field when it is empty or the new value is more extreme (R155). -/
def State.needField (s : State) (off hi lo valid : Nat) (v : Option Int) (worse : Int → Int → Bool) : State :=
  match v with
  | none => s
  | some x =>
    let w := s.reg off
    let old := signedOf 11 (field w hi lo)
    if bit w valid && !worse x old then s
    else s.setReg off (setBit (setField w hi lo (BitVec.ofInt 11 x).toNat) valid true)

/-- The span events of a descriptor of seat `n` reach the seat's span registers (R154, R155). -/
def State.logSpan (s : State) (n tag : Nat) (e : Span) : State :=
  if e.mask = 0 then s
  else
    let s := if s.reg (spanLog n) = 0 then s.setRegN (spanTag n) tag else s
    let s := s.raise (spanLog n) e.mask
    (s.needField (spanNeed n) 26 16 31 e.hi fun x y => decide (y < x)).needField (spanNeed n) 10 0 15 e.lo
      fun x y => decide (x < y)

/-- A failed comparison: CHECK_MISMATCH, the captured location in cell coordinates, and a fault event (R132, R135, R399). -/
def State.logMismatch (s : State) (n a slot tag kind row col : Nat) (serialB : Bool) : State :=
  let p := n / 16
  let rc := if serialB then (col, row) else (row, col)
  let s := s.raise (arrLog p a) 1
  let s := if bit (s.reg (arrReg p a 0x8)) 31 then s
    else (s.setRegN (arrReg p a 0x8)
      (2 ^ 31 + kind * 2 ^ 26 + slot * 2 ^ 24 + n % 16 * 2 ^ 20 + rc.1 * 2 ^ 8 + rc.2)).setRegN (arrReg p a 0xC) tag
  s.countFault p a

/-! Outlier contributions (R145, R181, R183). -/

/-- The entries of one row of an outlier list, those with a bad INDEX left out, and whether there was one. -/
def listEntries (k : Nat) : Int → List (Nat × Nat) → List (Nat × Nat) × Bool
  | _, [] => ([], false)
  | prev, e :: r =>
    let q := listEntries k (e.1 : Int) r
    if (e.1 : Int) ≤ prev ∨ k ≤ e.1 then (q.1, true) else (e :: q.1, q.2)

/-- The list of an operand at `base` for rows `row0 …`: address ranges it reads, and entries by row. -/
def State.outlierRow (s : State) (base row : Nat) : (Nat × Nat) × List (Nat × Nat) :=
  let pitch := leNat (s.csBytes base 4)
  let cap := leNat (s.csBytes (base + 4) 4)
  let a := base + 64 + row * pitch
  let count := min (leNat (s.csBytes a 4)) cap
  ((a, 8 + 8 * count), (List.range count).map fun i =>
    (leNat (s.csBytes (a + 8 + 8 * i) 4) % 2 ^ 24, leNat (s.csBytes (a + 12 + 8 * i) 2)))

/-- An outlier's VALUE as the wide path reads it for seat `n` (R93); what a non-finite one contributes is unstated and free
(log entry 1). -/
def State.outlierValue (s : State) (n v : Nat) : Rat :=
  match flushSub (s.flush n) (decodeBf16 v) with
  | .num b m => (Fp.num b m).val
  | _ => (((BitVec.ofNat 128 (leNat (s.freeBytes 16))).toInt : Int) : Rat) / 2 ^ 64

/-- The value of element `k` of a lane by R82; none for a lane that contributes nothing. -/
def Lane.valueAt (l : Lane) (fmt : Fmt) (g k : Nat) : Option Rat :=
  (l.factor (k / g)).map fun f => f * ((l.vals.getD k 0 : Int) : Rat) / (if fmt = .e2m1 then 2 else 1)

/-- The outlier contributions of one list: (index, row, value) triples sorted by index, and among equal indices by row,
which the reference leaves open (DESIGN CHOICE; log entry 67). -/
def insIdx (e : Nat × Nat × Rat) : List (Nat × Nat × Rat) → List (Nat × Nat × Rat)
  | [] => [e]
  | f :: r => if e.1 < f.1 ∨ (e.1 = f.1 ∧ e.2.1 ≤ f.2.1) then e :: f :: r else f :: insIdx e r

/-- The contributions of both lists in the order of R145: key and value. One entry's contributions go to its outputs in
rising order (DESIGN CHOICE; log entry 67). -/
def outlierTerms (ra rb : List Lane) (fa fb : Fmt) (g : Nat) (la lb : List (Nat × Nat × Rat)) : List (Nat × Rat) :=
  let live := fun (l : Lane) => (l.factor 0).isSome
  let bHat := fun (b : Lane × Nat) (k : Nat) =>
    match lb.find? fun e => decide (e.1 = k ∧ e.2.1 = b.2) with
    | some e => if live b.1 then some e.2.2 else none
    | none => b.1.valueAt fb g k
  let fromA := (la.foldr insIdx []).flatMap fun e =>
    (rb.zipIdx).filterMap fun b =>
      match ra[e.2.1]? with
      | some a => if live a then (bHat b e.1).map fun v => (e.2.1 * 128 + b.2, e.2.2 * v) else none
      | none => none
  let fromB := (lb.foldr insIdx []).flatMap fun e =>
    (ra.zipIdx).filterMap fun a =>
      match rb[e.2.1]? with
      | some b => if live b then (a.1.valueAt fa g e.1).map fun v => (a.2 * 128 + e.2.1, e.2.2 * v) else none
      | none => none
  (fromA ++ fromB).filter fun e => decide (e.2 ≠ 0)

/-! A tile (R124, R130 to R147). -/

/-- Table 5-2's step for each outlier contribution in turn. A NaN mark of an earlier descriptor withholds none (R139). -/
def Slot.addTerms (det : Bool) (g : Slot) (ts : List (Nat × Rat)) : Slot × Span :=
  ts.foldl (fun p t =>
    let q := laStep det p.1 [t]
    (q.1, p.2.join q.2)) (g, noSpan)

/-- The exact value of entry (r, c), with its NaN mark (R147). -/
def Slot.value (g : Slot) (r c : Nat) : Fp :=
  if SMap.get false g.nan (r * 128 + c) then .nan
  else Fp.ofRat (((SMap.get 0 g.entries (r * 128 + c) : Int) : Rat) * laUnit g.eff)

/-- Entry (r, c) for OUT_FMT = LA128 in the anchor named at OPEN, and whether it saturates (R139, R144). -/
def Slot.laOutput (g : Slot) (r c : Nat) : Int × Bool :=
  if SMap.get false g.nan (r * 128 + c) then (laMin, false)
  else
    let v := SMap.get 0 g.entries (r * 128 + c) * 2 ^ (g.eff - g.anchor).toNat
    if laMax < v then (laMax, true) else if v < laMin then (laMin, true) else (v, false)

def State.slotOf (s : State) (p a k : Nat) : Slot := SMap.get Slot.fresh (s.arr p a).slots k
def State.setSlot (s : State) (p a k : Nat) (g : Slot) : State :=
  s.modArr p a fun r => { r with slots := SMap.set Slot.fresh r.slots k g }

/-- The reads of a tile's operands: is any of the data poisoned (R134)? -/
def State.readTile (s : State) (n : Nat) (w : List Word) (mt nt : Nat) : Bool × State :=
  let k := mxK w
  let a := mxSideA w mt
  let b := mxSideB w nt
  let init := if mxOp w = 4 then (List.range 128).map fun r => (wAddr w 26 + r * wN w 15, 2048) else []
  let vec := if mxVectors w then a.vectors k (mxG w) ++ b.vectors k (mxG w) else []
  let stage := if k = 0 then [] else (a.sectors (mxPd w) k ++ b.sectors (mxPd w) k).map fun x => (x, 64)
  s.readAll n (stage ++ vec ++ init)

/-- The lanes of a tile. -/
def State.lanesA (s : State) (w : List Word) (mt : Nat) : List Lane :=
  let d := mxSideA w mt
  (List.range d.rows).map (s.lane d (mxPd w) (mxK w) (mxG w))
def State.lanesB (s : State) (w : List Word) (nt : Nat) : List Lane :=
  let d := mxSideB w nt
  (List.range d.rows).map (s.lane d (mxPd w) (mxK w) (mxG w))

/-- Stream a tile into a slot: marks, load, folds (R127 to R143). -/
def State.stream (s : State) (w : List Word) (mt nt : Nat) (g : Slot) (ups : List CellUpset) : Slot × Span :=
  let ra := s.lanesA w mt
  let rb := s.lanesB w nt
  let g := if mxVectors w then g.markNan ra rb else g
  let g := if mxOp w = 4 then
      g.load ra rb fun r c =>
        (BitVec.ofNat 128 (leNat (s.csBytes (wAddr w 26 + r * wN w 15 + 16 * c) 16))).toInt
    else g
  let nE := b2n (decide (mxFmtA w = .e2m1)) + b2n (decide (mxFmtB w = .e2m1))
  let grouped := wB w 4 22 || wB w 4 21
  Slot.folds s.deterministic g ra rb nE (mxG w) (mxSerialB w) ups
    (foldRanges (mxK w) (foldEvery (mxFmtA w) (mxFmtB w)) (mxG w) grouped)

/-- The array cycles for which a tile's folds and re-anchors hold the array (R129, R142). -/
def heldCycles (w : List Word) (e : Span) : Nat := tileFoldHolds w + 64 * e.moves

/-- The conversion of a MATRIX. -/
def State.mxConv (s : State) (n : Nat) (w : List Word) (rec : List Byte) : ConvCfg :=
  s.convCfg n rec ((mxOutFmt w).getD .e2m1) true (mxN w) (wN w 27)

/-- Add the outlier contributions of a tile: poisoned, the state after the reads, the group, its span events. The wide path
reads the VALUEs: a subnormal one is flushed, a non-finite one logged (R93 to R95). -/
def State.tileOutliers (s : State) (n : Nat) (w : List Word) (mt nt : Nat) (g : Slot) : Bool × State × Slot × Span :=
  let one := fun (s : State) (on : Bool) (base row0 rows : Nat) =>
    if !on then (false, s, ([] : List (Nat × Nat × Rat)), false)
    else
      let rs := (List.range rows).map fun r => s.outlierRow base (row0 + r)
      let f := s.readAll n ((base, 8) :: rs.map Prod.fst)
      let es := (rs.zipIdx).map fun e => (e.2, listEntries (mxK w) (-1) e.1.2)
      let vs := es.flatMap fun e => e.2.1.map fun v => decodeBf16 v.2
      let t := if f.1 then f.2 else
        (f.2.numLog n 0 (s.flush n && vs.any Fp.isSubnormal)).numLog n 1 (vs.any fun v => !v.isFinite)
      (f.1, t, es.flatMap (fun e => e.2.1.map fun v => (v.1, e.1, s.outlierValue n v.2)), es.any fun e => e.2.2)
  let a := mxSideA w mt
  let b := mxSideB w nt
  let x := one s (wB w 23 0) (wAddr w 21) a.row0 a.rows
  let y := one x.2.1 (wB w 23 1) (wAddr w 22) b.row0 b.rows
  let s := y.2.1.draw
  let s := if x.2.2.2 || y.2.2.2 then s.qzLog n 0x20 else s
  if x.1 || y.1 then (true, s, g, noSpan)
  else
    let q := Slot.addTerms s.deterministic g
      (outlierTerms (s.lanesA w mt) (s.lanesB w nt) a.fmt b.fmt (mxG w) x.2.2.1 y.2.2.1)
    (false, s, q.1, q.2)

/-- Convert a checked tile and write it; the status it gives (R144, R146, R147). `more` is whether the descriptor has begun
the outlier records of the tile's rows (R182). -/
def State.convertTile (s : State) (n : Nat) (w : List Word) (rec : List Byte) (mt nt : Nat) (g : Slot) (more : Bool) :
    Nat × State :=
  let rows := min 128 (mxM w - mt * 128)
  let cols := min 128 (mxN w - nt * 128)
  let r0 := mt * 128
  let c0 := nt * 128
  let base := wAddr w 14
  let pitch := wN w 15
  let vals := fun (r : Nat) => (List.range cols).map fun c => g.value r c
  let hist := fun (s : State) =>
    if mxHistEn w then s.histogram (wAddr w 24) (mxHistBase w) ((List.range rows).flatMap vals) else s
  match (mxOutFmt w).getD .fp32 with
  | .la128 =>
    let out := (List.range rows).map fun r => (List.range cols).map fun c => g.laOutput r c
    let s := (out.zipIdx).foldl (fun s e =>
      s.csWrite (base + (r0 + e.2) * pitch + c0 * 16)
        (e.1.flatMap fun v => leBytes 16 (BitVec.ofInt 128 v.1).toNat)) s
    (if out.any fun row => row.any (·.2) then 5 else 0, hist s)
  | .fp32 => (0, hist (floats s .fp32 rows cols r0 c0 base pitch 32))
  | .bf16 => (0, hist (floats s .bf16 rows cols r0 c0 base pitch 16))
  | _ =>
    let c := s.mxConv n w rec
    let o : OutPlace := { layout := mxLayout w, base := base, pitch := pitch, pd := mxOutPd w }
    let s := (List.range rows).foldl (fun s r =>
      s.convertWrite c o (mxN w) (r0 + r) c0 more (vals r)
        ((vals r).filterMap fun x => if x.isFinite then some x.val else none) none) s
    (0, hist s)
where
  /-- Rounded output in FP32 or BF16, with FLUSH_SUBN and the numeric log (R93, R95, R146). -/
  floats (s : State) (f : FpFmt) (rows cols r0 c0 base pitch bits : Nat) : State :=
    (List.range rows).foldl (fun s r =>
      let xs := (List.range cols).map fun c => rnFp f (g.value r c)
      let ys := xs.map (flushSub (s.flush n))
      let enc := fun (x : Fp) => leBytes (bits / 8) (match f with | .fp32 => encodeFp32 x | .bf16 => encodeBf16 x)
      let s := s.csWrite (base + (r0 + r) * pitch + c0 * (bits / 8)) (ys.flatMap enc)
      (s.numLog n 0 (s.flush n && xs.any Fp.isSubnormal)).numLog n 2 (ys.any fun y => !y.isFinite)) s

/-! Slots (R34, R121, R126, R401). -/


/-- The lowest slot free on every array of `as`. -/
def State.freeSlot (s : State) (p : Nat) (as : List Nat) : Option Nat :=
  (List.range 4).find? fun k => as.all fun a => (s.slotOf p a k).seat.isNone

/-- Is a unit of the shaker array `a` or its memory? -/
def unitIsArray (a : Nat) : ShakeUnit → Bool
  | .array b | .longAccumulator b => decide (b.val = a)
  | _ => false

/-- Bind a slot; handle 4 is none (a SINGLE). The seat counts as the last winner of the array also when none contended, and
for the slot of a retry (DESIGN CHOICE; log entry 67). -/
def State.bindSlot (s : State) (n a k handle : Nat) (anchor : Int) : State :=
  let p := n / 16
  let s := s.takeBack p fun u => (s.pairOf p a).any fun b => unitIsArray b u
  (s.pairOf p a).foldl (fun s b =>
    (s.setSlot p b k { Slot.fresh with seat := some n, handle := handle, anchor := anchor, eff := anchor }).modArr p b
      fun r => { r with lastWon := n % 16 }) s


def State.dropSlot (s : State) (n a k : Nat) : State :=
  (s.pairOf (n / 16) a).foldl (fun s b => s.setSlot (n / 16) b k Slot.fresh) s

/-- The slot of seat `n` and handle `h` open on array `a`. -/
def State.openSlot (s : State) (n a h : Nat) : Option Nat :=
  (List.range 4).find? fun k =>
    let g := s.slotOf (n / 16) a k
    decide (g.seat = some n ∧ g.handle = h)

/-- Does a descriptor of another seat wait for a slot of array `a`? -/
def State.slotAwaited (s : State) (p a : Nat) : Bool :=
  (List.range 16).any fun l => (s.seat (p * 16 + l)).running.any fun r =>
    match r.work with
    | .slotWait x _ _ => decide (x = a) || (decide (x = 15) && s.mayUse (p * 16 + l) a)
    | _ => false

/-- The array and slot a new tile can take now (R124, R126). -/
def State.takeSlot (s : State) (n : Nat) (w : List Word) : Option (Nat × Nat) :=
  let p := n / 16
  let as := if mxArray w = 15 then (List.range 8).filter (s.mayUse n) else [mxArray w]
  as.findSome? fun a =>
    if s.slotAwaited p a then none else (s.freeSlot p (s.pairOf p a)).map fun k => (a, k)

/-- A tile enters array `a`'s queue, on its partner too in paired mode. -/
def State.enterArray (s : State) (n a : Nat) : State := s.enterArrays n (s.pairOf (n / 16) a)

/-- The handle a new slot binds: none for SINGLE. -/
def mxHandle (w : List Word) : Nat := if mxOp w = 0 then 4 else mxGroup w

def mxTiles (w : List Word) : Nat := mxTileRows w * mxTileCols w

/-- Tile `i` of a descriptor on its slot. -/
def tileWorkAt (w : List Word) (a k i : Nat) (listed : Option Nat) : Work :=
  .tile { array := a, slot := k, tile := i, tiles := mxTiles w, retry := none, listed := listed }

/-- The first tile of a started descriptor on its slot. -/
def tileWork (w : List Word) (a k : Nat) : Work := tileWorkAt w a k 0 none

/-! Dispatch (R120 to R124, R194). -/

def mxReservedOk (w : List Word) : Bool :=
  wZ w 4 18 16 && wZ w 4 11 8 && wZ w 6 31 24 && wZ w 7 31 16 && wZ w 23 15 7 && wordsZero w 28 32

/-- The conversion record a MATRIX reads at dispatch. -/
def State.mxRecord (s : State) (w : List Word) : List Byte := s.csBytes (wAddr w 25) 64

/-- The areas a MATRIX reads. -/
def State.mxReads (s : State) (n : Nat) (w : List Word) : List (Nat × Nat) :=
  let k := mxK w
  let c := ceilDiv k 8
  let side := fun (d : Side) (rows tiles stride : Nat) =>
    (if k = 0 then [] else
      (List.range tiles).map fun t => (d.stage + t * stride * 64, stageBytes d.serial (mxPd w) c d.fmt.bits)) ++
    [(d.scale, 2 * rows)] ++ (if d.fmt.hasZp then [(d.zbase, rows)] else []) ++
    (if d.grouped && decide (k ≠ 0) then [(d.gbase, spanOf d.gpitch rows (ceilDiv k (mxG w)))] else [])
  let list := fun (on : Bool) (base rows : Nat) =>
    if on && mxConverts w then [(base, 64 + rows * leNat (s.csBytes base 4))] else []
  (if mxVectors w then
    side (mxSideA w 0) (mxM w) (mxTileRows w) (wN w 10) ++ side (mxSideB w 0) (mxN w) (mxTileCols w) (wN w 11)
   else []) ++
  list (wB w 23 0) (wAddr w 21) (mxM w) ++ list (wB w 23 1) (wAddr w 22) (mxN w) ++
  (if mxOp w = 4 then [(wAddr w 26, spanOf (wN w 15) 128 2048)] else []) ++
  (if mxNarrow w then (wAddr w 25, 64) :: convReadAreas (s.mxConv n w (s.mxRecord w)) (mxM w) (mxN w) else [])

/-- The areas it writes. -/
def State.mxWrites (s : State) (n : Nat) (w : List Word) : List (Nat × Nat) :=
  if !mxConverts w then []
  else
    let f := (mxOutFmt w).getD .fp32
    let out := if mxLayout w = 0 then spanOf (wN w 15) (mxM w) (rowBytes f.bits (mxN w))
      else spanOf (wN w 15) (mxTileRows w) (stageBytes (decide (mxLayout w = 1)) (mxOutPd w) (ceilDiv (mxN w) 8) f.bits)
    (wAddr w 14, out) :: (if mxHistEn w then [(wAddr w 24, 576)] else []) ++
      (if mxNarrow w then convWriteAreas (s.mxConv n w (s.mxRecord w)) (mxM w) (mxN w) else [])

/-- Is the format part of Table 4-7 broken? -/
def State.mxBadFormat (s : State) (w : List Word) : Bool :=
  let arr := mxArray w
  let op := mxOp w
  let lay := mxLayout w
  let f := (mxOutFmt w).getD .fp32
  !(mxFmtA w).isArray || !(mxFmtB w).isArray || decide (8 ≤ arr ∧ arr ≤ 14) || decide (4 < op) || decide (lay = 3) ||
    decide (arr = 15 ∧ op ≠ 0) ||
    (mxConverts w && (!mxOutOk (mxOutFmt w) ||
      (decide (lay = 1 ∨ lay = 2) && !f.isNarrow) || (decide (lay = 1) && decide (mxOutPd w < f.magBits)))) ||
    (mxNarrow w && (convModeBad (s.mxRecord w) f || (decide (recF (s.mxRecord w) 0 29 28 = 0) && decide (128 < mxN w))))

/-- Does a CONTINUE or CLOSE name a handle whose group a retirement has lost? It completes with GROUP_LOST (R134, R400). -/
def State.openLost (s : State) (n a : Nat) (slot : Option Nat) : Bool :=
  match slot with
  | some k => (s.pairOf (n / 16) a).any fun b => (s.arr (n / 16) b).retired && (s.slotOf (n / 16) b k).lost
  | none => false

/-- The first cause of Table 4-7 that applies. -/
def State.mxCause (s : State) (n : Nat) (w : List Word) : Option Nat :=
  let op := mxOp w
  let arr := mxArray w
  let k := mxK w
  let need := ceilDiv k (mxG w)
  let c := s.mxConv n w (s.mxRecord w)
  let slot := if arr = 15 then none else s.openSlot n arr (mxGroup w)
  let gBad := fun (on : Bool) (pitch : Nat) => on && decide (k ≠ 0) && (!aligned pitch 64 || decide (pitch < need))
  firstCause [
    (decide (k = 0 ∧ op ≠ 3) || (decide (op ≠ 0) && decide (128 < mxM w ∨ 128 < mxN w)) || decide (1 < countOf w), 0x100),
    (s.mxBadFormat w, 0x101),
    (((mxConverts w && decide (mxLayout w = 0)) || decide (op = 4)) && !aligned (wN w 15) 64 ||
      gBad (wB w 4 22) (wF w 20 15 0) || gBad (wB w 4 21) (wF w 20 31 16) ||
      (mxNarrow w && convPitchBad c (mxN w)), 0x102),
    (anchorBad (mxAnchor w) || (mxNarrow w && anchorBad c.statAnchor) ||
      (decide (op = 2 ∨ op = 3) && (match slot with
        | some i => decide ((s.slotOf (n / 16) arr i).anchor ≠ mxAnchor w)
        | none => false)), 0x103),
    (if arr = 15 then !(List.range 8).any (s.mayUse n)
     else !s.mayUse n arr && !(decide (op = 2 ∨ op = 3) && s.openLost n arr slot), 0x104),
    (decide (op = 1 ∨ op = 4) && slot.isSome || decide (op = 2 ∨ op = 3) && slot.isNone, 0x105),
    (!s.readsOk n (s.mxReads n w) || !s.writesOk n (s.mxWrites n w), 0x106)]

def State.mxChecks (s : State) (n : Nat) : Checks :=
  { reservedOk := fun w => mxReservedOk w && (!mxNarrow w || convReservedOk (s.mxRecord w)),
    cause := s.mxCause n, nondet := fun _ => false }

/-- A MATRIX descriptor starts: it takes its slot, or waits for one; a narrow one copies its conversion record. A CLOSE
closes its handle as it starts, so that a later OPEN of it may bind another slot (DESIGN CHOICE; log entry 67). -/
def State.mxStart (n : Nat) (h : Head) (g : List Region) (s : State) : State :=
  let w := h.words
  let read := if mxNarrow w then s.unitRead n (wAddr w 25) 64 else ([], s)
  let s := read.2
  let copy := if mxNarrow w && !Marked.poisoned read.1 then s.convDefaults n (Marked.bytes read.1) else []
  let run := fun (work : Work) (a : Nat) => { newRun h work 0 with record := copy, guard := g, tensor := wN w 27, unit := a }
  if mxOp w = 2 ∨ mxOp w = 3 then
    let a := mxArray w
    let k := (s.openSlot n a (mxGroup w)).getD 0
    let s := if mxOp w = 3 then
        (s.pairOf (n / 16) a).foldl (fun s b =>
          s.setSlot (n / 16) b k { s.slotOf (n / 16) b k with handle := 4 }) s
      else s
    (s.addRun n (run (tileWork w a k) a)).enterArray n a
  else
    match s.takeSlot n w with
    | some (a, k) =>
      ((s.bindSlot n a k (mxHandle w) (mxAnchor w)).addRun n (run (tileWork w a k) a)).enterArray n a
    | none => s.addRun n (run (.slotWait (mxArray w) 0 none) (mxArray w))

/-- The array a START record names. -/
def State.mxUnit (s : State) (n : Nat) (w : List Word) : Nat :=
  if mxArray w = 15 then ((s.takeSlot n w).map Prod.fst).getD 0xF else mxArray w

def State.mxDispatch (s : State) (n op : Nat) : State :=
  s.dispatch n (isOp 1 25 23 op) (s.mxChecks n) (fun w => s.guardOf n (s.mxWrites n w)) (s.mxUnit n) (State.mxStart n)

def execMatrixSingle (seat : SeatNo) (s : State) : Result := .next (s.mxDispatch seat.val 0)
def execMatrixOpen (seat : SeatNo) (s : State) : Result := .next (s.mxDispatch seat.val 1)
def execMatrixContinue (seat : SeatNo) (s : State) : Result := .next (s.mxDispatch seat.val 2)
def execMatrixClose (seat : SeatNo) (s : State) : Result := .next (s.mxDispatch seat.val 3)
def execMatrixOpenLoad (seat : SeatNo) (s : State) : Result := .next (s.mxDispatch seat.val 4)

/-! A slot frees (R126). -/

/-- The waiting seat that wins a slot of array `a`: the lowest local number above the last winner's, wrapping. -/
def State.slotWinner (s : State) (p a : Nat) : Option (Nat × Run) :=
  let last := (s.arr p a).lastWon
  ((List.range 16).map fun i => p * 16 + (last + 1 + i) % 16).findSome? fun n =>
    ((s.seat n).running.find? fun r =>
      match r.work with
      | .slotWait x _ _ => !r.void && (decide (x = a) || (decide (x = 15) && s.mayUse n a))
      | _ => false).map fun r => (n, r)

/-- A freed slot of array `a` goes to a waiting descriptor. -/
def State.slotGrant (s : State) (p a : Nat) : State :=
  match s.slotWinner p a, s.freeSlot p (s.pairOf p a) with
  | some (n, r), some k =>
    let s := s.bindSlot n a k (mxHandle r.words) (mxAnchor r.words)
    (s.modRun n r.index fun q => { q with work := grantWork q a k, unit := a }).enterArray n a
  | _, _ => s
where
  /-- The tile that a descriptor waited for. -/
  grantWork (q : Run) (a k : Nat) : Work :=
    match q.work with
    | .slotWait _ i l => tileWorkAt q.words a k i l
    | _ => tileWork q.words a k

def execGroupSlotGrant (part : PartNo) (array : ArrayNo) (s : State) : Result :=
  let p := part.val
  .next (if (s.pairOf p array.val).any (fun b => (s.arr p b).retired) || s.resetting p then s else s.slotGrant p array.val)

/-! The end of a tile (R123, R131 to R135, R397 to R402). -/

/-- The cells of arrays `as` are empty: each goes to the seat whose tile follows, the next above `n` in local number,
wrapping, that has one. The reference gives no order among the seats that share an array (DESIGN CHOICE; log entry 67). -/
def State.leaveArrays (s : State) (n : Nat) (as : List Nat) : State :=
  let p := n / 16
  as.foldl (fun s b =>
    let s := s.freeArray p b
    match ((List.range 16).map fun i => p * 16 + (n % 16 + 1 + i) % 16).find? fun m =>
        (s.seat m).running.any (s.runOn p b) with
    | some m => s.enterArrays m [b]
    | none => s) s

/-- The next tile of a SINGLE takes a slot like the first, or waits for one (R121, R126). -/
def State.nextTile (s : State) (n : Nat) (r : Run) (t : TileWork) (listed : Option Nat) (status : Nat) : State :=
  let p := n / 16
  let a := t.array
  let i := t.tile + 1
  match if s.slotAwaited p a then none else s.freeSlot p (s.pairOf p a) with
  | some k =>
    ((s.bindSlot n a k 4 (mxAnchor r.words)).modRun n r.index fun q =>
      { q with status := status, work := tileWorkAt q.words a k i listed }).enterArray n a
  | none => s.modRun n r.index fun q => { q with status := status, work := .slotWait a i listed }

/-- A descriptor's tile ended with `status`: a SINGLE frees its slot after each tile and goes on to the next, a CLOSE frees
it, and the work ends after the last tile. A void descriptor ends here; its slot stays bound until RELEASE (R404). When
several tiles fail, the descriptor reports the first one's status (DESIGN CHOICE; log entry 67). -/
def State.tileOver (s : State) (n : Nat) (r : Run) (t : TileWork) (status : Nat) : State :=
  let st := if r.status ≠ 0 then r.status else status
  let s := match t.retry with
    | some q => if q = (t.array, t.slot) then s else s.dropSlot n q.1 q.2
    | none => s
  let s := if mxConverts r.words || s.seatIs n .releasing then s.dropSlot n t.array t.slot else s
  if r.void then s.dropRun n r.index
  else if t.tile + 1 < t.tiles then
    s.nextTile n r t (if status = 0 then some (t.tile / mxTileCols r.words) else t.listed) st
  else s.endRun n r.index st

/-- The tile that was in the cells of arrays `as` ended with `status`. -/
def State.tileEnds (s : State) (n : Nat) (r : Run) (t : TileWork) (as : List Nat) (status : Nat) : State :=
  (s.tileOver n r t status).leaveArrays n as

/-- The array for a retry: the lowest other one that the seat may use and that has a free slot (R397). -/
def State.retryPlace (s : State) (n a : Nat) : Option (Nat × Nat) :=
  ((List.range 8).filter fun b => decide (b ≠ a) && s.mayUse n b).findSome? fun b =>
    (s.freeSlot (n / 16) [b]).map fun k => (b, k)

/-- The latent error that the long-accumulator SRAM of a slot shows when its entries are read (R134). -/
def State.laEcc (s : State) (p a k : Nat) (e : EccSeen) : State :=
  match e with
  | .clean => s
  | .single => (s.raise (arrLog p a) 8).countSat (arrReg p a 0x20) 1
  | .uncorrectable =>
    ((s.raise (arrLog p a) 0x10).setSlot p a k { s.slotOf p a k with lost := true }).countFault p a

/-- The outcome of the comparisons of one array or of a pair (R131, R402): the group to convert, or none; the state
after the logs. `gs` are the arrays with their groups. -/
def State.judge (s : State) (n slot tag : Nat) (serialB : Bool) (gs : List (Nat × Slot)) : Option Slot × State :=
  let p := n / 16
  let cs := gs.map fun e => (e.1, e.2, e.2.compare)
  let s := cs.foldl (fun s e =>
    match e.2.2 with
    | .skipped => s.raise (arrLog p e.1) 2
    | .passed => s
    | .failed k r c => s.logMismatch n e.1 slot tag k r c serialB) s
  let ok := cs.filter fun e => match e.2.2 with
    | .failed _ _ _ => false
    | _ => true
  match gs, ok with
  | [_, _], [x, y] =>
    if x.2.1.entries = y.2.1.entries ∧ x.2.1.nan = y.2.1.nan then (some x.2.1, s)
    else (none, s.logArray 4)
  | [_, _], [x] => (some x.2.1, s.logArray 2)
  | _, x :: _ => (some x.2.1, s)
  | _, [] => (none, s)

/-- Convert the judged group of a tile: outliers, conversion, counters (R145 to R147). -/
def State.finishTile (s : State) (n : Nat) (r : Run) (a mt nt : Nat) (g : Slot) (more : Bool) : Nat × State :=
  let p := n / 16
  let w := r.words
  if g.invalid then (5, s)
  else
    let conv := s.mxConv n w r.record
    let reads := if mxNarrow w then
        (List.range (min 128 (mxM w - mt * 128))).flatMap fun i =>
          convReads conv (mt * 128 + i) (nt * 128) (min 128 (mxN w - nt * 128))
      else []
    let f := s.readAll n reads
    if f.1 then (3, f.2.raise (arrLog p a) 4)
    else
      let o := f.2.tileOutliers n w mt nt g
      let s := o.2.1
      if o.1 then (3, s.raise (arrLog p a) 4)
      else
        let s := (s.logSpan n (tagOf w) o.2.2.2).count (arrReg p a 0x18) (64 * o.2.2.2.moves)
        if o.2.2.1.invalid then (5, s)
        else
          let q := s.convertTile n w r.record mt nt o.2.2.1 more
          let s := if q.1 = 5 then q.2.logSpan n (tagOf w) { noSpan with mask := 16 } else q.2
          (q.1, s.count (arrReg p a 0x10) 1)

/-- A tile of array `a` streams into its group on every array of `as` (paired: both); poison and loss included.
Gives a status other than 0 when the tile ends early. -/
def State.streamTile (s : State) (n : Nat) (r : Run) (t : TileWork) (as : List Nat) (k mt nt : Nat)
    (ups : List CellUpset) : Nat × State :=
  let p := n / 16
  let w := r.words
  let single := decide (mxOp w = 0)
  let poisonRec := mxNarrow w && r.record.isEmpty
  let lost := fun (s : State) (b : Nat) => (s.slotOf p b k).lost
  let live := as.filter fun b => !lost s b
  if live.isEmpty then (4, s)
  else if (s.slotOf p t.array k).poisoned && !single then (3, s)
  else
    let f := s.readTile n w mt nt
    let s := f.2
    if f.1 || poisonRec then
      let s := live.foldl (fun s b => (s.raise (arrLog p b) 4).setSlot p b k
        { s.slotOf p b k with poisoned := true }) s
      (3, s)
    else
      let bad := mxVectors w && ((s.lanesA w mt).any Lane.bad || (s.lanesB w nt).any Lane.bad)
      let was := (s.slotOf p (live.headD 0) k).invalid
      let s0 := s
      let s := live.foldl (fun s b =>
        let g := s.slotOf p b k
        let g := if single then
            { Slot.fresh with seat := g.seat, handle := g.handle, anchor := g.anchor, eff := g.anchor }
          else g
        let mine := ups.filter fun u => u.partner = decide (b ≠ as.headD b)
        let q := s0.stream w mt nt g mine
        let s := s.setSlot p b k q.1
        let s := s.count (arrReg p b 0x18) (heldCycles w q.2)
        if b = live.headD b then s.logSpan n (tagOf w) q.2 else s) s
      let s := s.numLog n 3 bad
      let now := (s.slotOf p (live.headD 0) k).invalid
      (if now && !was && !mxConverts w then 5 else 0, s)

/-- What the ECC of the long-accumulator SRAM finds on the array of a tile, and on its partner (R134, R402). -/
def State.tileEcc (s : State) (p k : Nat) (as : List Nat) (ecc partnerEcc : EccSeen) : State :=
  match as with
  | [a, b] =>
    let s := (s.laEcc p a k ecc).laEcc p b k partnerEcc
    if decide (ecc = .uncorrectable) != decide (partnerEcc = .uncorrectable) then s.logArray 2 else s
  | _ => as.foldl (fun s a => s.laEcc p a k ecc) s

/-- A tile that failed its comparison runs once more, on the lowest other array that can take it, or on the same one
(R397). -/
def State.retryTile (s : State) (n : Nat) (idx : Word) (t : TileWork) : State :=
  let s := s.bumpObj 0x60B5 0 1
  match s.retryPlace n t.array with
  | some (b, kb) =>
    let s := s.bindSlot n b kb 4 (s.slotOf (n / 16) t.array t.slot).anchor
    let s := s.modRun n idx fun q => { q with work := .tile { t with retry := some (b, kb) } }
    (s.leaveArrays n [t.array]).enterArrays n [b]
  | none => s.modRun n idx fun q => { q with work := .tile { t with retry := some (t.array, t.slot) } }

/-- The tile in the cells of arrays `as` ends streaming: its checksums are compared, and it is converted and written, or
run once more, or neither. -/
def State.runTile (s : State) (n : Nat) (r : Run) (t : TileWork) (as : List Nat) (ups : List CellUpset) : State :=
  let p := n / 16
  let w := r.words
  let a := t.place.1
  let k := t.place.2
  let mt := t.tile / mxTileCols w
  let nt := t.tile % mxTileCols w
  let f := s.streamTile n r t as k mt nt ups
  let s := as.foldl (fun s b =>
    if (s.arr p b).retired && !mxConverts w then s.setSlot p b k { s.slotOf p b k with lost := true } else s) f.2
  if f.1 ≠ 0 ∨ !mxConverts w then s.tileEnds n r t as f.1
  else
    let gs := (as.filter fun b => !(s.slotOf p b k).lost).map fun b => (b, s.slotOf p b k)
    let j := s.judge n k (tagOf w) (mxSerialB w) gs
    let s := j.2
    match j.1 with
    | some g =>
      let s := if t.retry.isSome then s.logArray 1 else s
      let q := s.finishTile n r a mt nt g (decide (t.listed = some mt))
      q.2.tileEnds n r t as q.1
    | none =>
      if mxOp w = 0 ∧ t.retry.isNone ∧ as.length = 1 ∧ r.void = false then s.retryTile n r.index t
      else s.tileEnds n r t as 2

/-- TILE_COMPLETE of the tile of index `idx`: that of a tile in the cells. A tile that waits for a retired array is not
run; its group is lost (R400). The cycles held for staging lines count in MX_STALL (R114). -/
def State.tileComplete (s : State) (n : Nat) (idx : Word) (ups : List CellUpset) (e : TileSeen) : State :=
  match s.findRun n idx with
  | none => s
  | some r =>
    match r.work with
    | .tile t =>
      let p := n / 16
      let as := s.tileArrays p t
      if s.inCells n r then
        let s := as.foldl (fun s b => s.count (arrReg p b 0x18) e.held) s
        (s.tileEcc p t.place.2 as e.own e.partner).runTile n r t as ups
      else if as.any (fun b => (s.arr p b).retired) && decide (s.firstTile n t.place.1 = some idx) then s.tileOver n r t 4
      else s
    | _ => s

def execTileComplete (seat : SeatNo) (index : Word) (upsets : List CellUpset) (ecc : TileSeen) (s : State) : Result :=
  .next (s.tileComplete seat.val index upsets ecc)

/-! Retirement and clock gating (R133, R399, R400). -/

/-- An array whose fault count reaches the limit is retired; an array of the store's record stays so. -/
def execArrayRetired (part : PartNo) (array : ArrayNo) (s : State) : Result :=
  let r := s.arr part.val array.val
  .next (if partPresent s.variant part.val && decide (s.retireLimit ≤ r.faults) && !r.retired then
    s.retireArray part.val array.val else s)

/-- The clock step of partition `p` (R488); under a LOW_V test it runs step 0 (R422). -/
def State.clockStep (s : State) (p : Nat) : Nat :=
  if (s.part p).lowV then 0
  else max (s.obj 0x4041 (p + 1) 0) (max (s.regField (pwReg 4) 1 0) (s.regField (pwReg 0) 17 16))

/-- The array clock of partition `p`, in MHz (Table 14-11). -/
def State.arrayMHz (s : State) (p : Nat) : Nat :=
  match s.clockStep p with
  | 0 => 2100
  | 1 => 1800
  | 2 => 1500
  | _ => 1200

/-- An array that has had no tile for GATE_IDLE array cycles gates its clocks (R133). -/
def State.gateArray (s : State) (p a : Nat) : State :=
  let r := s.arr p a
  let idle := r.gateIdle
  if decide (idle = 0) || r.busy.isSome || r.gated || !s.partRuns p then s
  else (s.reachUp (r.idleFrom + ceilDiv (idle * 1000) (s.arrayMHz p))).modArr p a fun r => { r with gated := true }

def execArrayClockGate (part : PartNo) (array : ArrayNo) (s : State) : Result :=
  .next (s.gateArray part.val array.val)

end Sys2Proof.Machine
end

