-- ==== Sys2Proof/Machine/Copy.lean ====
section
/-! DEFINITION. COPY and HOST_XFER: linear, skewed, transposed and filling copies with their checksums, check values
and hashes, atomics, and transfers to and from the host. -/

namespace Sys2Proof.Machine

/-! Fields (Table 8-5). -/

def cCop (w : List Word) : Nat := wF w 4 31 28
def cEng (w : List Word) : Nat := wF w 4 27 24
def cSrcHbm (w : List Word) : Bool := wB w 4 23
def cDstHbm (w : List Word) : Bool := wB w 4 22
def cFmt (w : List Word) : Fmt := (Fmt.ofCode (wF w 4 21 18)).getD .act
def cPd (w : List Word) : Nat := 2 ^ (wF w 4 17 16 + 1)
def cCsum (w : List Word) : Nat := wF w 4 15 14
def cCv (w : List Word) : Nat := wF w 4 13 12
def cHash (w : List Word) : Nat := wF w 4 11 10
def cSize (w : List Word) : Nat := wF w 5 23 0
def cPlanes (w : List Word) : Nat := wF w 6 31 24 + 1
def cRows (w : List Word) : Nat := wF w 6 23 0 + 1
def cSrc (w : List Word) : Nat := wAddr w 7
def cDst (w : List Word) : Nat := wAddr w 8
def cSrcPlane (w : List Word) : Nat := wAddr w 11
def cDstPlane (w : List Word) : Nat := wAddr w 12
/-- HASH_REC and CV_OUT of the continuation (R249). -/
def cHashRec (w : List Word) : Nat := wAddr w 16
def cCvOut (w : List Word) : Nat := wAddr w 17
/-- Words of a row for the checksums (R254). -/
def cWords (w : List Word) : Nat := ceilDiv (cSize w) 4
/-- Chunks of K elements. -/
def cChunks (k : Nat) : Nat := ceilDiv k 8

def isSkew (w : List Word) : Bool := decide (cCop w = 1 ∨ cCop w = 2)

/-- The bytes of a source row. -/
def cRowLen (w : List Word) : Nat := if isSkew w then rowBytes (cFmt w).bits (cSize w) else cSize w

/-! Checks (R262, Table 8-7). -/

/-- Fields of a COPY that are reserved (Table 8-5, R249). -/
def copyReservedOk (w : List Word) : Bool := wZ w 4 9 0 && (decide (countOf w = 0) || wordsZero w 18 32)

/-- Table 8-6: are CSUM, CV and HASH permitted? -/
def copyAllows (w : List Word) : Bool :=
  match cCop w with
  | 0 => true
  | 1 | 2 => decide (cCsum w = 0)
  | 3 | 4 => decide (cCsum w = 0 ∧ cHash w = 0)
  | _ => decide (cCsum w = 0 ∧ cCv w = 0 ∧ cHash w = 0)

def engineReserved (e : Nat) : Bool := decide (4 ≤ e ∧ e ≤ 14)

/-- A format a SKEW or TRANSPOSE may not name (Table 8-7). -/
def copyFmtBad (w : List Word) : Bool :=
  let f := Fmt.ofCode (wF w 4 21 18)
  match cCop w with
  | 1 => match f with | some f => !f.isArray || decide (cPd w < f.magBits) | none => true
  | 2 => match f with | some f => !f.isArray | none => true
  | 3 => match f with | some f => !f.isArray || f.hasZp | none => true
  | _ => false

def copyShapeBad (w : List Word) : Bool :=
  decide (1 < countOf w) || (decide (cCop w ≠ 5) && decide (cSize w = 0)) || (isSkew w && decide (128 < cRows w)) ||
  (decide (cCop w = 3) && decide (65536 < cRows w)) ||
  (decide (cCop w = 0 ∧ cCsum w ≠ 0) && decide (cPlanes w ≠ 1 ∨ 65536 < cRows w ∨ 65536 < cWords w))

/-- The address of row `r` of plane `p`, source or destination (R251). -/
def cSrcRow (w : List Word) (p r : Nat) : Nat := cSrc w + p * cSrcPlane w + r * wN w 9
def cDstRow (w : List Word) (p r : Nat) : Nat := cDst w + p * cDstPlane w + r * wN w 10

/-- Does every row of each plane of the source lie in the seat's windows? -/
def State.copySrcOk (s : State) (n : Nat) (w : List Word) : Bool :=
  match cCop w with
  | 4 => true
  | 3 => (List.range (ceilDiv (cRows w) 128)).all fun t =>
      s.mayReadRows n (cSrc w + t * cSrcPlane w) (128 * (cFmt w).bits) (cChunks (cSize w))
        (min 128 (cRows w - 128 * t) * (cFmt w).bits)
  | _ => (List.range (cPlanes w)).all fun p =>
      if cSrcHbm w then s.inHbm n (cSrcRow w p 0) (spanOf (wN w 9) (cRows w) (cRowLen w))
      else s.mayReadRows n (cSrcRow w p 0) (wN w 9) (cRows w) (cRowLen w)

/-- The bytes of a staging tile from its base to the end of the last slot of `lanes` lanes and `chunks` chunks, serial or
parallel (R116, R117): a copy leaves the other bytes of the tile alone (R252). -/
def slotSpan (serial : Bool) (pd b lanes chunks : Nat) : Nat :=
  (if serial then serialSlot (lanes - 1) (chunks - 1) pd b else parallelSlot (lanes - 1) (chunks - 1) b) + b

/-- The destination areas: base and length. -/
def cDstAreas (w : List Word) : List (Nat × Nat) :=
  let b := (cFmt w).bits
  match cCop w with
  | 1 | 2 => (List.range (cPlanes w)).map fun t =>
      (cDst w + t * cDstPlane w, slotSpan (decide (cCop w = 1)) (cPd w) b (cRows w) (cChunks (cSize w)))
  | 3 => (List.range (ceilDiv (cSize w) 128)).map fun t =>
      (cDst w + t * cDstPlane w, slotSpan false 0 b (min 128 (cSize w - 128 * t)) (cChunks (cRows w)))
  | _ => (List.range (cPlanes w)).map fun p => (cDstRow w p 0, spanOf (wN w 10) (cRows w) (cSize w))

/-- The length of a checksum record (R254). -/
def csumLen (w : List Word) : Nat := 4 * (2 + cRows w + cWords w)

/-- The Central Store areas a copy writes. -/
def copyWrites (w : List Word) : List (Nat × Nat) :=
  (if cDstHbm w then [] else cDstAreas w) ++ (if cCsum w = 1 then [(wAddr w 13, csumLen w)] else []) ++
  (if cCv w = 1 ∨ cCv w = 3 then [(cCvOut w, 4)] else []) ++ (if cHash w ≠ 0 then [(cHashRec w, 128)] else [])

def State.engineOff (s : State) (n e : Nat) : Bool :=
  let on := s.regField (ceReg (n / 16) 0) 3 0
  if e = 15 then decide (on = 0) else !on.testBit e

/-- The first cause of Table 8-7 for a copy that uses an engine, or for ATOMIC. -/
def State.copyCause (s : State) (n : Nat) (w : List Word) : Option Nat :=
  let pre : List (Bool × Nat) :=
    [(copyShapeBad w, 0x100),
     (decide (6 ≤ cCop w) || engineReserved (cEng w) || decide (cCsum w = 3) ||
        (decide (cCop w = 5) && decide (11 ≤ wF w 5 3 0)) || copyFmtBad w || !copyAllows w ||
        (decide (countOf w = 0) && decide (cHash w ≠ 0 ∨ cCv w = 1 ∨ cCv w = 3)), 0x101)]
  if cCop w = 5 then
    let len := if wB w 5 4 then 8 else 4
    firstCause (pre ++
      [(!aligned (wN64 w 7) len, 0x102),
       (cSrcHbm w || cDstHbm w, 0x103),
       (!s.mayTarget n (wF w 5 12 8) (wN64 w 7) len || !s.mayWrite n (wAddr w 13) 8, 0x104),
       (decide (s.scSize = 0), 0x105)])
  else
    let srcPitch := decide (cCop w ≤ 2)
    let dstPitch := decide (cCop w = 0 ∨ cCop w = 4)
    firstCause (pre ++
      [((srcPitch && !pitchOk (wN w 9) (cRowLen w)) || (dstPitch && !pitchOk (wN w 10) (cSize w)), 0x102),
       ((cSrcHbm w && cDstHbm w) || (cSrcHbm w && decide (2 < cCop w)) ||
          (cDstHbm w && !dstPitch), 0x103),
       (!s.copySrcOk n w || (if cDstHbm w then !(cDstAreas w).all fun a => s.inHbm n a.1 a.2 else false) ||
          !s.writesOk n (copyWrites w) || (decide (cCsum w = 2) && !s.mayRead n (wAddr w 13) (csumLen w)) ||
          (decide (cHash w = 2 ∨ cHash w = 3) && !s.mayRead n (cHashRec w) 128), 0x104),
       (s.engineOff n (cEng w), 0x106)])

/-- ATOMIC on another seat's window is refused in deterministic mode (R377). -/
def State.copyNondet (s : State) (n : Nat) (w : List Word) : Bool :=
  decide (cCop w = 5) && s.deterministic && !s.ownTarget n (wF w 5 12 8) (wN64 w 7) 1

def State.copyChecks (s : State) (n : Nat) : Checks :=
  { reservedOk := copyReservedOk, cause := s.copyCause n, nondet := s.copyNondet n }

/-! Engines (R248). -/

/-- The bytes a copy or transfer holds in its engine's queue. -/
def Run.engineBytes (r : Run) : Nat :=
  match opcodeOf r.words with
  | 9 => wN r.words 5
  | _ => if cCop r.words = 3 then cSize r.words * ceilDiv (cRows r.words * (cFmt r.words).bits) 8
         else cPlanes r.words * cRows r.words * cRowLen r.words

/-- The copies and transfers in work on engine `e` of partition `p`, with their seats. -/
def State.onEngine (s : State) (p e : Nat) : List (Nat × Run) :=
  (List.range 16).flatMap fun l => ((s.seat (p * 16 + l)).running.filter fun r =>
    !r.void && decide ((opcodeOf r.words = 4 ∨ opcodeOf r.words = 9) ∧ r.unit = e)).map fun r => (p * 16 + l, r)

/-- The engine a copy goes to: the named one, or the enabled one with the fewest queued bytes (R248). -/
def State.pickEngine (s : State) (n e : Nat) : Nat :=
  if e ≠ 15 then e
  else
    let p := n / 16
    let on := s.regField (ceReg p 0) 3 0
    let load : Nat → Nat := fun k => ((s.onEngine p k).map fun r => r.2.engineBytes).sum
    let c := (List.range 4).filter fun k => on.testBit k
    (c.find? fun k => c.all fun j => decide (load k ≤ load j)).getD 0

/-- May engine work on this copy be interrupted while its check value is formed: CV ≠ 0, more than one chunk of source
bytes, and not in deterministic mode (R248, R258, Table 13-1)? -/
def State.cvSplit (s : State) (r : Run) : Bool :=
  !s.deterministic && decide (opcodeOf r.words = 4 ∧ cCv r.words ≠ 0 ∧ 4096 < r.engineBytes)

/-- Engine `e` now has copies or transfers of several seats: it switches away from those that form a check value, which
read their destination again before they go on (R248, R258). -/
def State.cvRestarts (s : State) (p e : Nat) : State :=
  let all := s.onEngine p e
  all.foldl (fun s q =>
    match q.2.work with
    | .checkValue v _ =>
      if all.any fun o => decide (o.1 ≠ q.1) then
        (s.modRun q.1 q.2.index fun r => { r with work := .checkValue v true }).raise (ceSeatReg q.1 0xC) 8
      else s
    | _ => s) s

/-! Moving the data (R251 to R253, R260). -/

def State.wardOf (s : State) (n : Nat) : BitVec 512 := (s.seat n).wardKey.getD 0

/-- A copy's read of a source row. -/
def State.cRead (s : State) (n : Nat) (hbm : Bool) (a len : Nat) : Marked × State :=
  if hbm then s.hbmReadMarked (n / 16) a len (s.wardOf n) else s.unitRead n a len

/-- Reads of several areas, in order. -/
def State.cReadAll (s : State) (n : Nat) (hbm : Bool) : List (Nat × Nat) → List Marked × State
  | [] => ([], s)
  | a :: r =>
    let f := s.cRead n hbm a.1 a.2
    let g := f.2.cReadAll n hbm r
    (f.1 :: g.1, g.2)

def State.cWrite (s : State) (n : Nat) (hbm : Bool) (a : Nat) (bs : Marked) : State :=
  if hbm then s.hbmWriteMarked (n / 16) a bs (s.wardOf n) else s.csWriteMarked a bs

/-- The areas of the source, in the order of R251: rows of planes, or the lines of a parallel staging. -/
def cSrcAreas (w : List Word) : List (Nat × Nat) :=
  match cCop w with
  | 4 => []
  | 3 =>
    let b := (cFmt w).bits
    (List.range (ceilDiv (cRows w) 128)).flatMap fun t => (List.range (cChunks (cSize w))).map fun c =>
      (cSrc w + t * cSrcPlane w + parallelSlot 0 c b, min 128 (cRows w - 128 * t) * b)
  | _ => (List.range (cPlanes w)).flatMap fun p => (List.range (cRows w)).map fun r => (cSrcRow w p r, cRowLen w)

/-- The codes of elements of `w` bits with the marks of the bytes that hold them; beyond `k` elements, code 0. -/
def markedCode (b k : Nat) (row : Marked) (i : Nat) : Nat × Bool :=
  if i < k then (codeAt b (Marked.bytes row) i, (row.getD (i * b / 8) (0, false)).2) else (0, false)

/-- A slot of 8 codes as bytes, marked when any of its elements is. -/
def slotBytes (b : Nat) (es : List (Nat × Bool)) : Marked :=
  let bad := es.any (·.2)
  (packCodes b (es.map Prod.fst)).map fun x => (x, bad)

/-- The pieces written to the destination: address and bytes (R251 to R253). -/
def cPieces (w : List Word) (src : List Marked) : List (Nat × Marked) :=
  let b := (cFmt w).bits
  let k := cSize w
  let rows := cRows w
  match cCop w with
  | 0 => (List.range (cPlanes w)).flatMap fun p => (List.range rows).map fun r =>
      (cDstRow w p r, src.getD (p * rows + r) [])
  | 4 => (List.range (cPlanes w)).flatMap fun p => (List.range rows).map fun r =>
      (cDstRow w p r, ((List.range k).map fun i => ((leBytes 4 (wN w 7)).getD (i % 4) 0, false)))
  | 3 => (List.range k).flatMap fun j => (List.range (cChunks rows)).map fun c =>
      let es := (List.range 8).map fun e =>
        let n := 8 * c + e
        if n < rows then
          let line := src.getD (n / 128 * cChunks k + j / 8) []
          markedCode b 8 ((line.drop (n % 128 * b)).take b) (j % 8)
        else (0, false)
      (cDst w + j / 128 * cDstPlane w + parallelSlot (j % 128) c b, slotBytes b es)
  | _ => (List.range (cPlanes w)).flatMap fun t => (List.range rows).flatMap fun i =>
      (List.range (cChunks k)).map fun c =>
        let row := src.getD (t * rows + i) []
        let off := if cCop w = 1 then serialSlot i c (cPd w) b else parallelSlot i c b
        (cDst w + t * cDstPlane w + off, slotBytes b ((List.range 8).map fun e => markedCode b k row (8 * c + e)))

/-- Do source and destination overlap (R251)? -/
def cOverlap (w : List Word) (dst : List (Nat × Nat)) : Bool :=
  !cSrcHbm w && !cDstHbm w && (cSrcAreas w).any fun a => dst.any fun d =>
    overlap (a.1, a.1 + a.2) (d.1, d.1 + d.2)

/-- Source bytes of an overlapping copy: unspecified, so free values (R251, log entry 1). -/
def State.cFree (s : State) (src : List Marked) : List Marked × State :=
  (src.zipIdx.map fun r => r.1.zipIdx.map fun b => (Config.freeByte s.free (r.2 * 2 ^ 24 + b.2), b.1.2), s.draw)

/-! Checksums (R254, R255). -/

/-- Word `j` of a row, bytes beyond its end taken as zero. -/
def csumWord (row : Marked) (j : Nat) : Nat := numAt (Marked.bytes row) (4 * j) 4

/-- The words of the checksum record of the source rows. -/
def csumRecord (w : List Word) (src : List Marked) : List Nat :=
  let ws := cWords w
  [cRows w, ws] ++ (src.map fun r => ((List.range ws).map (csumWord r)).sum % 2 ^ 32) ++
    (List.range ws).map fun j => (src.map fun r => csumWord r j).sum % 2 ^ 32

/-- The first index where two lists of numbers differ. -/
def firstDiff (a b : List Nat) : Nat := ((List.zip a b).findIdx? fun p => p.1 != p.2).getD 0

/-- VERIFY: compare the sums with the record, capture the first mismatch, and say whether it failed (R255). -/
def State.csumVerify (s : State) (n : Nat) (w : List Word) (own : List Nat) : Nat × State :=
  let f := s.unitRead n (wAddr w 13) (csumLen w)
  let s := f.2
  if Marked.poisoned f.1 then (3, s.raise (ceSeatReg n 0xC) 4)
  else
    let rec_ := (wordsOf (Marked.bytes f.1)).map BitVec.toNat
    if rec_ = own then (0, s)
    else
      let p := n / 16
      let s := s.raise (ceSeatReg n 0xC) 2
      let s := if bit (s.reg (ceReg p 0x20)) 31 then s
        else
          let head := decide (rec_.take 2 ≠ own.take 2)
          let row := firstDiff ((rec_.drop 2).take (cRows w)) ((own.drop 2).take (cRows w))
          let col := firstDiff (rec_.drop (2 + cRows w)) (own.drop (2 + cRows w))
          ((s.setRegN (ceReg p 0x20) (2 ^ 31 + b2n head * 2 ^ 30 + n % 16 * 2 ^ 16 + (if head then 0 else row))).setRegN
            (ceReg p 0x24) (if head then 0 else col)).setRegN (ceReg p 0x28) (tagOf w)
      (2, s)

/-! Check values (R256, R257) and hashes (R259). -/

/-- Put a byte at its address into a list in descending address order. -/
def insByte (a : Nat) (b : Byte) : List (Nat × Byte) → List (Nat × Byte)
  | [] => [(a, b)]
  | e :: m => if e.1 < a then (a, b) :: e :: m else if e.1 = a then (a, b) :: m else e :: insByte a b m

/-- The destination bytes of a copy in ascending address order. -/
def bytesInOrder (ps : List (Nat × Marked)) : List Byte :=
  ((ps.foldl (fun m p => p.2.zipIdx.foldl (fun m b => insByte (p.1 + b.2) b.1.1 m) m) []).map Prod.snd).reverse

/-- The check value of a copy (R256). -/
def checkValue (w : List Word) (ps : List (Nat × Marked)) : Word :=
  crc32c (leBytes 4 (wN w 8) ++ leBytes 4 (wN w 14) ++ bytesInOrder ps)

/-- The check value is stored and compared: does it miss, and the state (R256, R257)? -/
def State.cvUse (s : State) (n : Nat) (w : List Word) (v : Word) : Bool × State :=
  let s := if cCv w = 1 ∨ cCv w = 3 then s.csWrite (cCvOut w) (leBytes 4 v.toNat) else s
  let miss := decide (2 ≤ cCv w) && decide (v ≠ w.getD 15 0)
  (miss, if miss then s.raise (ceSeatReg n 0xC) 1 else s)

/-- The destination areas a copy writes, piece by piece. -/
def cDstPieces (w : List Word) : List (Nat × Nat) :=
  (cPieces w ((cSrcAreas w).map fun a => List.replicate a.2 (0, false))).map fun p => (p.1, p.2.length)

/-- The check value `v` of a copy is settled at the copy's end; with `again` it describes the destination as it then
stands (R258; when the bytes are read again is the model's choice, log entry 34). -/
def State.cvSettle (s : State) (n : Nat) (r : Run) (v : Word) (again : Bool) : State :=
  let ds := cDstPieces r.words
  let f : List Marked × State := if again then s.cReadAll n (cDstHbm r.words) ds else ([], s)
  let v := if again then checkValue r.words ((ds.map Prod.fst).zip f.1) else v
  let c := f.2.cvUse n r.words v
  c.2.endRun n r.index (if r.status = 0 ∧ c.1 then 4 else r.status)

/-- A hash record as a running hash, and back (R259). -/
def shaOf (bs : List Byte) : Sha :=
  let count := numAt bs 32 8
  { h := (List.range 8).map fun i => BitVec.ofNat 32 (numAt bs (4 * i) 4), count := count,
    part := (bs.drop 40).take (count % 64) }

def shaRecord (h : Sha) : List Byte :=
  h.h.flatMap (fun w => leBytes 4 w.toNat) ++ leBytes 8 h.count ++ padTo 64 h.part ++ zeros 24

/-- HASH over the source bytes: is the record poisoned, and the state after the record is written (R259). -/
def State.copyHash (s : State) (n : Nat) (w : List Word) (src : List Marked) : Bool × State :=
  if cHash w = 0 then (false, s)
  else
    let f : Marked × State := if cHash w = 1 then ([], s) else s.unitRead n (cHashRec w) 128
    let h0 := if cHash w = 1 then shaStart else shaOf (Marked.bytes f.1)
    let h := shaUpdate h0 (src.flatMap Marked.bytes)
    let out := if cHash w = 3 then padTo 128 (shaFinish h) else shaRecord h
    let bad := Marked.poisoned f.1
    (bad, f.2.csWriteMarked (cHashRec w) (out.map fun b => (b, bad)))

/-! A whole copy. -/

/-- The effects of a copy on engine `e`, its STATUS and its check value, which with `later` is not settled yet (R251 to
R260; POISONED_OPERAND, then CHECKSUM_MISMATCH, then CHECK_VALUE_MISMATCH when several apply). -/
def State.copyRun (s : State) (n e : Nat) (w : List Word) (later : Bool) : Nat × Word × State :=
  let f := s.cReadAll n (cSrcHbm w) (cSrcAreas w)
  let g := if cOverlap w ((cPieces w f.1).map fun p => (p.1, p.2.length)) then f.2.cFree f.1 else f
  let src := g.1
  let ps := cPieces w src
  let s := ps.foldl (fun s p => s.cWrite n (cDstHbm w) p.1 p.2) g.2
  let s := s.count (ceReg (n / 16) (0x40 + e * 8)) ((ps.map fun p => p.2.length).sum)
  let h := s.copyHash n w src
  let bad := src.any Marked.poisoned || h.1
  let s := if bad then h.2.raise (ceSeatReg n 0xC) 4 else h.2
  let own := csumRecord w src
  let c : Nat × State :=
    match cCsum w with
    | 1 => (0, s.csWrite (wAddr w 13) (own.flatMap (leBytes 4)))
    | 2 => s.csumVerify n w own
    | _ => (0, s)
  let v := checkValue w ps
  let m : Bool × State := if later then (false, c.2) else c.2.cvUse n w v
  (if bad ∨ c.1 = 3 then 3 else if c.1 = 2 then 2 else if m.1 then 4 else 0, v, m.2)

/-- Dispatch of a COPY on an engine with COP `cop`. -/
def State.copyStart (s : State) (n cop : Nat) : State :=
  s.dispatch n (isOp 4 31 28 cop) (s.copyChecks n) (fun w => s.guardOf n (copyWrites w))
    (fun w => s.pickEngine n (cEng w)) fun h g s' =>
      let e := s.pickEngine n (cEng h.words)
      let run := { newRun h .done 0 with guard := g, unit := e }
      let later := s'.cvSplit run
      let q := s'.copyRun n e h.words later
      (q.2.2.addRun n { run with status := q.1, work := if later then .checkValue q.2.1 false else .done }).cvRestarts
        (n / 16) e

/-- Dispatch of an ATOMIC with operation `aop`; it waits for work before it only on a word that an earlier hasp
operation of the seat still holds (R247). -/
def State.atomicStart (s : State) (n aop : Nat) : State :=
  s.dispatch n (fun w => isOp 4 31 28 5 w && decide (wF w 5 3 0 = aop)) (s.copyChecks n)
    (fun w => s.guardRegion n (wAddr w 13) 8) (fun _ => 0xFF) fun h g s' =>
      let held := s'.wordHeld n (wF h.words 5 12 8) (wN64 h.words 7)
      let s' := s'.addRun n { newRun h .release 0 with guard := g }
      if held then s' else s'.lineStart n h.index (atomicOp h.words)
where
  /-- The line operation of an ATOMIC's words. -/
  atomicOp (w : List Word) : LineOp :=
    let m := if wB w 5 4 then 2 ^ 64 else 2 ^ 32
    { isHasp := false, op := wF w 5 3 0, part := wF w 5 12 8, addr := wN64 w 7, wide := wB w 5 4,
      operand := wN64 w 9 % m, compare := wN64 w 11 % m, result := wAddr w 13 }

def execCopyLinear (seat : SeatNo) (s : State) : Result := .next (s.copyStart seat.val 0)
def execCopySkewSerial (seat : SeatNo) (s : State) : Result := .next (s.copyStart seat.val 1)
def execCopySkewParallel (seat : SeatNo) (s : State) : Result := .next (s.copyStart seat.val 2)
def execCopyTransposeParallel (seat : SeatNo) (s : State) : Result := .next (s.copyStart seat.val 3)
def execCopyFill (seat : SeatNo) (s : State) : Result := .next (s.copyStart seat.val 4)
def execAtomicAdd (seat : SeatNo) (s : State) : Result := .next (s.atomicStart seat.val 0)
def execAtomicAnd (seat : SeatNo) (s : State) : Result := .next (s.atomicStart seat.val 1)
def execAtomicOr (seat : SeatNo) (s : State) : Result := .next (s.atomicStart seat.val 2)
def execAtomicXor (seat : SeatNo) (s : State) : Result := .next (s.atomicStart seat.val 3)
def execAtomicSmin (seat : SeatNo) (s : State) : Result := .next (s.atomicStart seat.val 4)
def execAtomicSmax (seat : SeatNo) (s : State) : Result := .next (s.atomicStart seat.val 5)
def execAtomicUmin (seat : SeatNo) (s : State) : Result := .next (s.atomicStart seat.val 6)
def execAtomicUmax (seat : SeatNo) (s : State) : Result := .next (s.atomicStart seat.val 7)
def execAtomicSwap (seat : SeatNo) (s : State) : Result := .next (s.atomicStart seat.val 8)
def execAtomicCas (seat : SeatNo) (s : State) : Result := .next (s.atomicStart seat.val 9)
def execAtomicLoad (seat : SeatNo) (s : State) : Result := .next (s.atomicStart seat.val 10)

/-! HOST_XFER (R261, R440). -/

def hxLen (w : List Word) : Nat := wN w 5
def hxHost (w : List Word) : Nat := wN64 w 6
def hxCs (w : List Word) : Nat := wAddr w 8

def hxReservedOk (w : List Word) : Bool := wZ w 4 30 28 && wZ w 4 23 0 && wordsZero w 9 16

def State.hxCause (s : State) (n : Nat) (w : List Word) : Option Nat :=
  firstCause
    [(decide (countOf w ≠ 0 ∨ hxLen w = 0), 0x100),
     (engineReserved (cEng w), 0x101),
     (!aligned (hxHost w) 64, 0x102),
     (!s.mayWrite n (hxCs w) (hxLen w), 0x104),
     (s.engineOff n (cEng w), 0x106)]

def State.hxChecks (s : State) (n : Nat) : Checks :=
  { reservedOk := hxReservedOk, cause := s.hxCause n, nondet := fun _ => false }

/-- The bound stream of a seat in RUN (R440). -/
def State.hostStream (s : State) (n : Nat) : Option (Fin 8) :=
  if (s.seat n).tdi = .run then (s.seat n).tdiStream else none

/-- A TDI whose HOST_XFER descriptors complete with HOST_ERROR (Table 15-4). -/
def State.hostDenied (s : State) (n : Nat) : Bool := decide ((s.seat n).tdi = .locked ∨ (s.seat n).tdi = .error)

/-- The lowest tag of the 256 that no read holds (R261). -/
def State.freeTag (s : State) : Option Nat :=
  (List.range 256).find? fun t => s.hostReads.all fun h => decide (h.tag ≠ t)

/-- The length of the next read of a transfer: up to 4,096 bytes, not across a 4 KiB boundary of host memory (log
entry 11). -/
def readLen (host left : Nat) : Nat := min left (4096 - host % 4096)

/-- Issue a read on the host port; in a replayed step none leaves the device (R387). -/
def State.issueRead (s : State) (n : Nat) (idx : Word) (host cs len tag : Nat) (fence : Bool) : State :=
  let s := { s with hostReads := s.hostReads ++
    [{ tag := tag, seat := n, index := idx, cs := cs, len := len, fence := fence }] }
  if !fence && s.rec_.replay && s.rec_.openStep.isSome then s
  else s.emit (.hostRead tag host len (s.hostStream n))

/-- Issue the reads that wait: of transfers, and of HOST fences whose covered work has ended, while a tag is free
(R261, R271). -/
def State.pumpReads (s : State) : State :=
  s.seatList.foldl (fun s n =>
    (s.seat n).running.foldl (fun s r =>
      match s.freeTag with
      | none => s
      | some t =>
        match r.work with
        | .hostRead host cs left none =>
          (s.issueRead n r.index host cs (readLen host left) t false).modRun n r.index fun r =>
            { r with work := .hostRead host cs left (some t) }
        | .fence 3 all dest none =>
          if s.clearBefore n r.index 3 then
            (s.issueRead n r.index 0 0 0 t true).modRun n r.index fun r => { r with work := .fence 3 all dest (some t) }
          else s
        | _ => s) s) s

/-- Dispatch of a HOST_XFER of direction `dir`; `go` moves the data. -/
def State.hxStart (s : State) (n : Nat) (dir : Bool) (go : Head → List Region → Nat → State → State) : State :=
  s.dispatch n (fun w => decide (opcodeOf w = 9) && decide (wB w 4 31 = dir)) (s.hxChecks n)
    (fun w => if dir then [] else s.guardRegion n (hxCs w) (hxLen w)) (fun w => s.pickEngine n (cEng w))
    fun h g s' =>
      let e := s.pickEngine n (cEng h.words)
      if s'.hostDenied n then s'.addRun n { newRun h .done 6 with guard := g, unit := e } else go h g e s'

/-- HOST_XFER from the host: its reads are issued one after another. -/
def execHostXferToCs (seat : SeatNo) (s : State) : Result :=
  .next (s.hxStart seat.val false fun h g e s =>
    ((s.addRun seat.val { newRun h (.hostRead (hxHost h.words) (hxCs h.words) (hxLen h.words) none) 0 with
      guard := g, unit := e }).cvRestarts (seat.val / 16) e).pumpReads)

/-- The writes of a transfer to the host, 64 bytes each; data read as poisoned leave as poisoned. -/
def State.hostWrites (s : State) (n host : Nat) (bs : Marked) : State :=
  (List.range (ceilDiv bs.length 64)).foldl (fun s i =>
    let piece := (bs.drop (64 * i)).take 64
    s.emit (.hostWrite (host + 64 * i) (Marked.bytes piece) (Marked.poisoned piece) (s.hostStream n))) s

/-- HOST_XFER to the host: it completes when its last write has been issued (R261). -/
def execHostXferToHost (seat : SeatNo) (s : State) : Result :=
  .next (s.hxStart seat.val true fun h g e s =>
    let f := s.unitRead seat.val (hxCs h.words) (hxLen h.words)
    let bad := Marked.poisoned f.1
    let s := f.2.hostWrites seat.val (hxHost h.words) f.1
    let s := s.count (ceReg (seat.val / 16) (0x40 + e * 8)) (hxLen h.words)
    let s := if bad then s.raise (ceSeatReg seat.val 0xC) 4 else s
    (s.addRun seat.val { newRun h .done (if bad then 3 else 0) with guard := g, unit := e }).cvRestarts
      (seat.val / 16) e)

/-- The end of a host-port read: data are written, a transfer goes on or ends, a fence ends (R261, R271). -/
def State.hostReadEnd (s : State) (h : HostRead) (ok : Bool) (data : List Byte) : State :=
  let s := { s with hostReads := s.hostReads.filter fun r => decide (r.tag ≠ h.tag) }
  if h.fence then s.endRun h.seat h.index (if ok then 0 else 5)
  else
    let got := data.take h.len
    let s := s.csWrite h.cs got
    match s.findRun h.seat h.index with
    | none => s
    | some r =>
      let e := r.unit
      let s := s.count (ceReg (h.seat / 16) (0x40 + e * 8)) got.length
      let s := s.record 4 { kind := 3, source := 13, round := s.curRound, tag := tagOf r.words, addr := h.cs } got
      match r.work with
      | .hostRead host cs left _ =>
        if !ok then s.endRun h.seat h.index 6
        else if left ≤ h.len then s.endRun h.seat h.index 0
        else s.modRun h.seat h.index fun r => { r with work := .hostRead (host + h.len) (cs + h.len) (left - h.len) none }
      | _ => s

/-- HOST_READ_COMPLETION: the completion of an outstanding read arrives. -/
def execHostReadCompletion (tag : Nat) (status : HostStatus) (data : List Byte) (s : State) : Result :=
  .next <|
    match s.hostReads.find? fun h => decide (h.tag = tag) with
    | none => s
    | some h => (s.hostReadEnd h (decide (status = .success))
        (if status = .success then padTo h.len data else data)).pumpReads

/-- HOST_COMPLETION_TIMEOUT: no completion arrives. -/
def execHostCompletionTimeout (tag : Nat) (s : State) : Result :=
  .next <|
    match s.hostReads.find? fun h => decide (h.tag = tag) with
    | none => s
    | some h => (s.hostReadEnd h false []).pumpReads

end Sys2Proof.Machine
end

