-- ==== Sys2Proof/Machine/Sync.lean ====
section
/-! DEFINITION. Fences, tumblers and hasps: the FENCE, TUMBLER and HASP descriptors. -/

namespace Sys2Proof.Machine

/-! FENCE (R270 to R273). -/

def fKind (w : List Word) : Nat := wF w 4 31 30
def fAll (w : List Word) : Bool := wB w 5 15
def fDest (w : List Word) : Nat := wF w 5 14 0

def fenceReservedOk (w : List Word) : Bool := wZ w 4 29 0 && wZ w 5 31 16 && wordsZero w 6 16

/-- R272. -/
def fenceCause (w : List Word) : Option Nat :=
  firstCause
    [(decide (countOf w ≠ 0), 0x100),
     ((decide (fKind w ≠ 2) && (fAll w || decide (fDest w ≠ 0))) || (fAll w && decide (fDest w ≠ 0)), 0x101)]

def fenceChecks : Checks := { reservedOk := fenceReservedOk, cause := fenceCause, nondet := fun _ => false }

/-- Does a FABRIC fence to `dest` (to every device with `all`) cover the fabric writes an earlier run still has to
post: a PUT, a REMOTE_ADD or the sending side of a collective (R274, Table 9-3)? -/
def State.postsTo (s : State) (all : Bool) (dest : Nat) (r : Run) : Bool :=
  !r.void &&
    match r.work with
    | .put _ => all || decide (wF r.words 16 14 0 = dest)
    | .release => decide (opcodeOf r.words = 7 ∧ wF r.words 4 31 28 = 2) && (all || decide (wF r.words 7 14 0 = dest))
    | .coll c => c.sends.any fun t => !t.closed && (all || decide (s.neighbour t.port = dest))
    | _ => false

/-- Is every fabric write of seat `n` that the fence covers settled (R271)? -/
def State.fabricClear (s : State) (n : Nat) (idx : Word) (all : Bool) (dest : Nat) : Bool :=
  ((s.runsBefore n idx).all fun r => !s.postsTo all dest r) &&
    s.posted.all fun w => decide (w.seat ≠ n) || !(all || decide (w.dest = dest))

/-- Has everything a fence waits for ended? A HOST fence's read has come back when its work is done. -/
def State.fenceReady (s : State) (n : Nat) (r : Run) : Bool :=
  match r.work with
  | .fence kind all dest _ =>
    decide (kind ≠ 3) && s.clearBefore n r.index kind && (decide (kind ≠ 2) || s.fabricClear n r.index all dest)
  | .done => true
  | _ => false

/-- The status of a fence, the first in table order (R41, R47, R273). -/
def State.fenceStatus (s : State) (n : Nat) (r : Run) : Nat :=
  let bad := (s.seat n).fenceBad
  let k := fKind r.words
  let covers := fun (b : Nat × Nat) => fAll r.words || decide (b.2 = fDest r.words)
  if 1 ≤ k ∧ bad.any (fun b => decide (b.1 = 0)) then 2
  else if k = 2 ∧ bad.any (fun b => decide (b.1 = 1) && covers b) then 3
  else if k = 2 ∧ bad.any (fun b => decide (b.1 = 2) && covers b) then 4
  else r.status

/-- Dispatch of a FENCE of one KIND. -/
def State.fenceStart (s : State) (n kind : Nat) : State :=
  s.dispatch n (isOp 6 31 30 kind) fenceChecks (fun _ => []) (fun _ => 0xFF) fun h _ s' =>
    (s'.addRun n (newRun h (.fence kind (fAll h.words) (fDest h.words) none) 0)).pumpReads

def execFenceLocal (seat : SeatNo) (s : State) : Result := .next (s.fenceStart seat.val 0)
def execFenceChip (seat : SeatNo) (s : State) : Result := .next (s.fenceStart seat.val 1)
def execFenceFabric (seat : SeatNo) (s : State) : Result := .next (s.fenceStart seat.val 2)
def execFenceHost (seat : SeatNo) (s : State) : Result := .next (s.fenceStart seat.val 3)

/-! TUMBLER (R278 to R280). -/

def tTop (w : List Word) : Nat := wF w 4 31 28
def tRelease (w : List Word) : Bool := wB w 4 27
def tNum (w : List Word) : Nat := wF w 5 12 0
def tDest (w : List Word) : Nat := wF w 7 14 0
def tResult (w : List Word) : Nat := wAddr w 8

/-- The seat, not FREE, whose range holds tumbler `t`. -/
def State.tumbOwner (s : State) (t : Nat) : Option Nat :=
  s.seatList.find? fun m => !s.seatIs m .free && s.ownsTumbler m t

/-- Is the tumbler in the seat's own range, or in the range of an ACTIVE seat of its JOB (R279, R280)? -/
def State.mayAdd (s : State) (n t : Nat) : Bool :=
  s.ownsTumbler n t || s.seatList.any fun m =>
    s.seatIs m .active && s.ownsTumbler m t && decide (s.job m = s.job n)

def tumblerReservedOk (w : List Word) : Bool := wZ w 4 26 0 && wZ w 5 31 13 && wordsZero w 9 16

/-- R280. -/
def State.tumblerCause (s : State) (n : Nat) (w : List Word) : Option Nat :=
  firstCause
    [(decide (countOf w ≠ 0), 0x103),
     (decide (4 ≤ tTop w) || (decide (tTop w ≠ 2) && decide (tDest w ≠ 0)) ||
        (decide (tTop w = 2) && decide (tResult w ≠ 0)) || (decide (tTop w = 3) && decide (wN w 6 ≠ 0)), 0x101),
     (match tTop w with
      | 0 | 3 => !s.ownsTumbler n (tNum w)
      | 1 => !s.mayAdd n (tNum w)
      | _ => false, 0x100),
     (decide (tResult w ≠ 0) && !s.mayWrite n (tResult w) 4, 0x102)]

def State.tumblerChecks (s : State) (n : Nat) : Checks :=
  { reservedOk := tumblerReservedOk, cause := s.tumblerCause n, nondet := fun _ => false }

/-- The old value goes to RESULT, unless it is 0 (Table 9-8). -/
def State.tumblerResult (s : State) (w : List Word) (old : Word) : State :=
  if tResult w = 0 then s else s.csWrite (tResult w) (leBytes 4 old.toNat)

/-- The effect of SET, ADD or READ on the tumbler, and the run's end (R279, R280). -/
def State.tumblerDo (s : State) (n : Nat) (idx : Word) (w : List Word) : State :=
  let t := tNum w
  let old := s.tumbler t
  match tTop w with
  | 0 => ((s.setTumbler t (w.getD 6 0)).tumblerResult w old).endRun n idx 0
  | 1 =>
    let away := match s.tumbOwner t with
      | some m => decide (m / 16 ≠ n / 16) && s.resetting (m / 16)
      | none => false
    if away then s.targetReset n idx
    else if !s.mayAdd n t then s.endRun n idx 6
    else ((s.setTumbler t (old + w.getD 6 0)).tumblerResult w old).endRun n idx 0
  | _ => (s.tumblerResult w old).endRun n idx 0

/-- May a REMOTE_ADD be handed to the router: its queue has room, and with RELEASE every earlier write of the seat to
that target is handed, and those of collectives settled (R279, R336)? -/
def State.remoteReady (s : State) (n : Nat) (idx : Word) (w : List Word) : Bool :=
  (match s.route (tDest w) with
   | some p => !s.portUp p || decide (0 < s.openRoom p)
   | none => true) &&
  (!tRelease w || (((s.runsBefore n idx).all fun r => !s.postsTo false (tDest w) r) &&
    s.posted.all fun p => decide (p.seat ≠ n ∨ p.dest ≠ tDest w) || !p.coll))

/-- REMOTE_ADD: its cell is handed to the router as a posted write (R279, R368). -/
def State.remoteDo (s : State) (n : Nat) (idx : Word) (w : List Word) : State :=
  match s.findRun n idx with
  | none => s
  | some r =>
    let id := s.nextId
    let body := openCell 1 (s.job n) (tagOf w) (tDest w) s.hallIndex 0 (tNum w) (wN w 6) (b2n (tRelease w) + 2) []
    (((s.post n r false (tDest w) 0).sendOpen (tDest w) body (some id) (some id) none)).endRun n idx 0

/-- Does the effect of a run that waits (`Work.release`) come about now: a TUMBLER or HASP with release semantics, a
REMOTE_ADD, or an atomic behind one of them (R278, R279, R284)? -/
def State.releaseReady (s : State) (n : Nat) (r : Run) : Bool :=
  if opcodeOf r.words = 7 ∧ tTop r.words = 2 then s.remoteReady n r.index r.words
  else s.clearBefore n r.index 1

/-! HASP (R282). -/

def hHop (w : List Word) : Nat := wF w 4 31 28
def hResult (w : List Word) : Nat := wAddr w 7

/-- The line operation of a HASP's words. -/
def haspOp (w : List Word) : LineOp :=
  { isHasp := true, op := hHop w, part := wF w 4 12 8, addr := wN64 w 5, wide := true, operand := 0, compare := 0,
    result := hResult w }

def haspReservedOk (w : List Word) : Bool := wordsZero w 8 16

def State.haspCause (s : State) (n : Nat) (w : List Word) : Option Nat :=
  firstCause
    [(decide (countOf w ≠ 0), 0x100),
     (decide (5 ≤ hHop w), 0x101),
     (!aligned (wN64 w 5) 8, 0x102),
     (!s.mayTarget n (wF w 4 12 8) (wN64 w 5) 8 || (decide (hResult w ≠ 0) && !s.mayWrite n (hResult w) 8), 0x104),
     (decide (s.scSize = 0), 0x105)]

def State.haspChecks (s : State) (n : Nat) : Checks :=
  { reservedOk := haspReservedOk, cause := s.haspCause n, nondet := fun _ => s.deterministic }

/-- The effect of a run that waited for earlier work (`Work.release`). -/
def State.releaseDo (s : State) (n : Nat) (r : Run) : State :=
  match opcodeOf r.words with
  | 7 => if tTop r.words = 2 then s.remoteDo n r.index r.words else s.tumblerDo n r.index r.words
  | 8 => s.lineStart n r.index (haspOp r.words)
  | _ => s.lineStart n r.index (State.atomicStart.atomicOp r.words)

/-- Dispatch of a TUMBLER with operation `top`. -/
def State.tumblerStart (s : State) (n top : Nat) : State :=
  s.dispatch n (isOp 7 31 28 top) (s.tumblerChecks n)
    (fun w => if tResult w = 0 then [] else s.guardRegion n (tResult w) 4) (fun _ => 0xFF) fun h g s' =>
      let run := { newRun h .release 0 with guard := g }
      let s' := s'.addRun n run
      if (decide (top ≠ 2) && !tRelease h.words) || s'.releaseReady n run then s'.releaseDo n run else s'

def execTumblerSet (seat : SeatNo) (s : State) : Result := .next (s.tumblerStart seat.val 0)
def execTumblerAdd (seat : SeatNo) (s : State) : Result := .next (s.tumblerStart seat.val 1)
def execTumblerRemoteAdd (seat : SeatNo) (s : State) : Result := .next (s.tumblerStart seat.val 2)
def execTumblerRead (seat : SeatNo) (s : State) : Result := .next (s.tumblerStart seat.val 3)

/-- Dispatch of a HASP with operation `hop`; RELEASE waits for the earlier work of the seat (R284). -/
def State.haspStart (s : State) (n hop : Nat) : State :=
  s.dispatch n (isOp 8 31 28 hop) (s.haspChecks n)
    (fun w => if hResult w = 0 then [] else s.guardRegion n (hResult w) 8) (fun _ => 0xFF) fun h g s' =>
      let run := { newRun h .release 0 with guard := g }
      let wait := s'.wordHeld n (wF h.words 4 12 8) (wN64 h.words 5) || decide (hop = 2)
      let s' := s'.addRun n run
      if !wait || s'.clearBefore n h.index 1 then s'.releaseDo n run else s'

def execHaspAcquire (seat : SeatNo) (s : State) : Result := .next (s.haspStart seat.val 0)
def execHaspTry (seat : SeatNo) (s : State) : Result := .next (s.haspStart seat.val 1)
def execHaspRelease (seat : SeatNo) (s : State) : Result := .next (s.haspStart seat.val 2)
def execHaspRepair (seat : SeatNo) (s : State) : Result := .next (s.haspStart seat.val 3)
def execHaspInspect (seat : SeatNo) (s : State) : Result := .next (s.haspStart seat.val 4)

/-! Retrying the waiting acquires (R284). -/

/-- The acquires that wait for the hasp at address `a` of partition `p`. -/
def State.haspWaiters (s : State) (p a : Nat) : List (Nat × Word × LineOp) :=
  s.seatList.flatMap fun n => (s.seat n).running.filterMap fun r =>
    match r.work with
    | .haspWait o _ => if !r.void && decide (o.part = p ∧ o.addr / 8 = a / 8) then some (n, r.index, o) else none
    | _ => none

/-- Every waiter ends with a status of its own, each with RESULT and log. -/
def State.haspEndAll (s : State) (ws : List (Nat × Word × LineOp)) (status : Nat) (result : Option Nat) : State :=
  ws.foldl (fun s w =>
    let s := match result with
      | some v => s.lineResult w.2.2 v
      | none => s
    (s.endRun w.1 w.2.1 status).raise (seatReg w.1 0x68) (haspLog status)) s

/-- Among several waiters, the seat with the lowest number above the last OWNER, wrapping (R284). -/
def nextOwner (last : Nat) (ws : List (Nat × Word × LineOp)) : Option (Nat × Word × LineOp) :=
  let key := fun (w : Nat × Word × LineOp) => (w.1 + 511 - last) % 512
  ws.find? fun w => ws.all fun v => decide (key w ≤ key v)

/-- A retry on a line the cache holds. -/
def State.haspTry (s : State) (a : Nat) (l : CacheLine) (ws : List (Nat × Word × LineOp)) : State :=
  let s := s.putLine l
  let base := a / 8 * 8
  if l.poisonAt base then (s.raise (csReg 0xC) 4).haspEndAll ws 7 none
  else
    let w := BitVec.ofNat 64 (leNat (l.get base 8))
    if haspField w 31 27 ≠ 0 then s.haspEndAll ws 6 (some w.toNat)
    else
      let v := s.haspSeen w
      let s := if v = w then s else s.putLine (l.set base (leBytes 8 v.toNat))
      if haspHeld v then s
      else
        match nextOwner (haspOwner v) ws with
        | none => s
        | some x => (s.putLine (l.set base (leBytes 8 (s.haspTaken x.1 v).toNat))).haspEndAll [x]
            (if haspBroken v then 2 else 0) (some w.toNat)
where
  /-- The line that a retry needs, filled when it is absent (partition `p`); with it, the operations that wait for the
  line are performed. -/
  need (s : State) (p ln : Nat) : State :=
    match s.lineOf p ln with
    | some _ => s.count (csReg 0x20) 1
    | none =>
      let s := (s.count (csReg 0x28) 1).fillLine p ln
      ({ s with fills := s.fills.filter fun f => decide (f ≠ (p, ln)) }).lineWake (s.lineWaiters p ln)

/-- A retry, with the line filled when the cache does not hold it. -/
def State.haspAgain (s : State) (p addr : Nat) (ws : List (Nat × Word × LineOp)) : State :=
  let s := State.haspTry.need s p (addr / 128)
  match s.lineOf p (addr / 128) with
  | some l => s.haspTry addr l ws
  | none => s

/-- Has an event of R284 let the acquires that wait for the hasp at address `a` of partition `p` be tried again? -/
def State.haspRetryDue (s : State) (p a : Nat) : Bool :=
  s.seatList.any fun n => (s.seat n).running.any fun r =>
    match r.work with
    | .haspWait o due => due && !r.void && decide (o.part = p ∧ o.addr / 8 = a / 8)
    | _ => false

/-- HASP_RETRY: the waiting acquires of one hasp are tried again, once for an event of R284. -/
def execHaspRetry (part : PartNo) (addr : Nat) (s : State) : Result :=
  .next <|
    let p := part.val
    if !s.haspRetryDue p addr then s
    else
      let s := s.haspDue false fun o => decide (o.part = p ∧ o.addr / 8 = addr / 8)
      let gone := (s.haspWaiters p addr).filter fun w => s.lineGone w.1 w.2.2
      let s := gone.foldl (fun s w => s.targetReset w.1 w.2.1) s
      let ws := s.haspWaiters p addr
      if ws.isEmpty then s else s.haspAgain p addr ws

end Sys2Proof.Machine
end

