-- ==== Sys2Proof/Machine/Train.lean ====
section
/-! DEFINITION. Training: the weight UPDATE with its clip factor, moments, native weights and residuals, and the WATCH
of norms and clipped shares with fall-back. -/

namespace Sys2Proof.Machine

/-- WP_TRAIN_LOG bits of a seat (Table 7-15). -/
def State.trainLog (s : State) (n mask : Nat) : State := s.raise (wpTrainLog n) mask

/-! UPDATE (R216 to R221). Fields of its record (Table 7-8). -/

def uAdam (r : List Byte) : Bool := decide (recF r 0 1 0 = 1)
def uNative (r : List Byte) : Bool := decide (recF r 0 3 2 = 0)
/-- Storage code of gradient or moments: BF16, D4, FP32. -/
def uFmt : Nat → Fmt
  | 0 => .bf16
  | 1 => .d4
  | _ => .fp32
def uG (r : List Byte) : Fmt := uFmt (recF r 0 5 4)
def uM (r : List Byte) : Fmt := uFmt (recF r 0 7 6)
def uClip (r : List Byte) : Nat := recF r 0 9 8
def uAddr (r : List Byte) (i : Nat) : Nat := recN r i * 64
def uAnchor (r : List Byte) : Int := i16 (recF r 11 15 0)
def uConst (r : List Byte) (i : Nat) : Fp := decodeFp32 (recN r i)

/-- The storage of a state tensor: format, base, pitch, block scales. -/
structure Store where
  fmt   : Fmt
  base  : Nat
  pitch : Nat
  bs    : Nat
  bsPitch : Nat
deriving DecidableEq, Repr

def uStoreG (r : List Byte) : Store :=
  { fmt := uG r, base := uAddr r 12, pitch := recN r 19, bs := uAddr r 24, bsPitch := recN r 27 }
def uStoreM (r : List Byte) : Store :=
  { fmt := uM r, base := uAddr r 13, pitch := recN r 20, bs := uAddr r 25, bsPitch := recN r 27 }
def uStoreV (r : List Byte) : Store :=
  { fmt := uM r, base := uAddr r 14, pitch := recN r 20, bs := uAddr r 26, bsPitch := recN r 27 }

/-- The areas of a stored tensor. -/
def Store.areas (t : Store) (rows cols : Nat) : List (Nat × Nat) :=
  (t.base, spanOf t.pitch rows (rowBytes t.fmt.bits cols)) ::
    (if t.fmt = .d4 then [(t.bs, spanOf t.bsPitch rows (2 * ceilDiv cols 32))] else [])

def Store.pitchBad (t : Store) (cols : Nat) : Bool :=
  !pitchOk t.pitch (rowBytes t.fmt.bits cols) || (decide (t.fmt = .d4) && !pitchOk t.bsPitch (2 * ceilDiv cols 32))

/-- The areas of the weights. -/
def uWeightAreas (r : List Byte) (rows cols : Nat) : List (Nat × Nat) :=
  if uNative r then
    ((List.range (ceilDiv rows 128)).map fun t => (uAddr r 15 + t * recN r 21, stageBytes' (ceilDiv cols 8))) ++
    [(uAddr r 16, 2 * rows), (uAddr r 17, spanOf (recN r 22) rows cols),
     (uAddr r 18, spanOf (recN r 23) rows (2 * ceilDiv cols 32))]
  else [(uAddr r 15, spanOf (recN r 21) rows (4 * cols))]
where
  /-- Bytes of a parallel staging tile of E2M1 (R117). -/
  stageBytes' (chunks : Nat) : Nat := chunks * 512

/-- The norm record of CLIP_MODE: address and length. -/
def uNorm (r : List Byte) : List (Nat × Nat) :=
  match uClip r with
  | 1 => [(uAddr r 10, 128)]
  | 2 => [(uAddr r 10, 64)]
  | _ => []

def uReads (w : List Word) (r : List Byte) : List (Nat × Nat) :=
  let rows := wRows w
  let cols := wCols w
  [(wAddr w 14, 128)] ++ uNorm r ++ (uStoreG r).areas rows cols ++ (uStoreM r).areas rows cols ++
    (if uAdam r then (uStoreV r).areas rows cols else []) ++ uWeightAreas r rows cols
def uWrites (w : List Word) (r : List Byte) : List (Nat × Nat) :=
  let rows := wRows w
  let cols := wCols w
  (uStoreM r).areas rows cols ++ (if uAdam r then (uStoreV r).areas rows cols else []) ++ uWeightAreas r rows cols

/-- The causes of Table 7-6 for UPDATE. -/
def State.uCause (s : State) (n : Nat) (w : List Word) : Option Nat :=
  let r := s.wRecord w
  let cols := wCols w
  let bad := (List.range 9).any fun i => !(uConst r (i + 1)).isFinite
  let eps := match uConst r 7 with
    | .num b m => !b && decide (m ≠ 0)
    | _ => false
  firstCause [
    (decide (countOf w ≠ 0 ∨ wK w ≠ 0) || (uNative r && decide (65536 < cols)), 0x100),
    (!wFormatOk w || decide (1 < recF r 0 1 0 ∨ 1 < recF r 0 3 2 ∨ recF r 0 5 4 = 3 ∨ recF r 0 7 6 = 3 ∨ uClip r = 3) ||
      bad || (uAdam r && !eps), 0x101),
    ((uStoreG r).pitchBad cols || (uStoreM r).pitchBad cols ||
      (if uNative r then !aligned (recN r 21) 64 || !pitchOk (recN r 22) cols || !pitchOk (recN r 23) (2 * ceilDiv cols 32)
        else !pitchOk (recN r 21) (4 * cols)), 0x102),
    (anchorBad (uAnchor r), 0x103),
    (!s.readsOk n (uReads w r) || !s.writesOk n (uWrites w r), 0x104)]

/-- What the norm record says: SUMSQ with its anchor, saturated, NONFINITE, POLICY (R217, R218). -/
structure Norm where
  sumsq  : Int
  anchor : Int
  bad    : Bool
  policy : Nat
deriving DecidableEq, Repr

def readNorm (r : List Byte) (bs : List Byte) : Norm :=
  let l := (BitVec.ofNat 128 (numAt bs 0 16)).toInt
  if uClip r = 1 then
    { sumsq := l, anchor := uAnchor r, policy := 0,
      bad := decide (numAt bs 64 8 ≠ 0 ∨ numAt bs 76 4 / 4 % 2 = 1) }
  else
    { sumsq := l, anchor := i16 (numAt bs 16 2), policy := numAt bs 32 1,
      bad := decide (numAt bs 24 8 ≠ 0 ∨ numAt bs 20 4 % 2 = 1) }

/-- The clip factor (R217). -/
def clipFactor (flush : Bool) (maxNorm : Fp) (q : Norm) : Wv :=
  let x := doneW flush (laRound .fp32 q.sumsq q.anchor)
  let n := doneW flush (sqrtRn x.v)
  let above := match n.v, maxNorm with
    | .inf false, .num _ _ => true
    | .num a m, .num b k => decide ((Fp.num b k).val < (Fp.num a m).val)
    | _, _ => false
  if above then
    let g := rnW .fp32 flush (fpDiv maxNorm n.v)
    { g with fl := x.fl || n.fl || g.fl }
  else { v := one, fl := x.fl || n.fl }

/-- Read a stored row: poisoned, exact values with the input flush, the state. -/
def State.uRead (s : State) (n : Nat) (t : Store) (r cols : Nat) : Bool × List Fp × State :=
  let m := s.unitRead n (t.base + r * t.pitch) (rowBytes t.fmt.bits cols)
  if t.fmt = .d4 then
    let c := m.2.unitRead n (t.bs + r * t.bsPitch) (2 * ceilDiv cols 32)
    let xs := d4Decode cols (Marked.bytes m.1) (Marked.bytes c.1)
    (Marked.poisoned m.1 || Marked.poisoned c.1, xs, c.2.logD4 n 1 xs)
  else
    let xs := decodeRow t.fmt 0 cols (Marked.bytes m.1)
    (Marked.poisoned m.1, xs.map (flushSub (s.flush n)), m.2.logInputs n xs)

/-- Write a row of FP32 moments in their stored format (R92, R205, R219). -/
def State.uWrite (s : State) (n : Nat) (t : Store) (stoch : Bool) (tensor step seed e0 r : Nat) (xs : List Fp) : State :=
  if t.fmt = .d4 then
    let q := d4Row stoch tensor step seed e0 xs
    ((s.csWrite (t.base + r * t.pitch) (packCodes 4 q.2)).csWrite (t.bs + r * t.bsPitch) (q.1.flatMap (leBytes 2))).logD4
      n 2 xs
  else s.wWrite n t.fmt (t.base + r * t.pitch) (xs.map (rnW (fpFmtOf t.fmt) (s.flush n)))

/-- What UPDATE computes for one element (R219). -/
structure Upd where
  m  : Fp
  v  : Fp
  t  : Fp
  fl : Bool
  kept : Bool
deriving DecidableEq, Repr

def updateElem (c : List Byte) (flush zero : Bool) (gs gIn m v w0 : Fp) : Upd :=
  let k := fun (i : Nat) => flushSub flush (uConst c i)
  let g := rnW .fp32 flush (fpMul gIn gs)
  if zero && !g.v.isFinite then { m := m, v := v, t := w0, fl := g.fl, kept := true }
  else
    let m1 := rnW .fp32 flush (fpAdd (fpMul (k 1) m) (fpMul (k 2) g.v))
    let v1 := rnW .fp32 flush (fpAdd (fpMul (k 3) v) (fpMul (fpMul (k 4) g.v) g.v))
    let h := rnW .fp32 flush (fpMul v1.v (k 6))
    let q := doneW flush (sqrtRn h.v)
    let den := rnW .fp32 flush (fpAdd q.v (k 7))
    let ua := rnW .fp32 flush (fpDiv m1.v den.v)
    let u := if uAdam c then ua.v else m1.v
    let t := fpAdd (fpAdd w0 (fpMul (k 5) u).negated) (fpMul (k 8) w0).negated
    { m := m1.v, v := if uAdam c then v1.v else v, t := t, kept := false,
      fl := g.fl || m1.fl || (uAdam c && (v1.fl || h.fl || q.fl || den.fl || ua.fl)) }

/-- A native row narrowed from its exact targets: scale, codes, block scales, residual codes (R220). -/
structure NativeRow where
  scale : Nat
  codes : List Nat
  rs    : List Nat
  res   : List Int
deriving DecidableEq, Repr

def narrowNative (ts : List Rat) : NativeRow :=
  let nb := ceilDiv ts.length 32
  if ts.all fun t => decide (t = 0) then
    { scale := 0, codes := ts.map fun _ => 0, rs := List.replicate nb 0, res := ts.map fun _ => 0 }
  else
    let sb := bf16Up (maxMag ts / 6)
    let sv := (decodeBf16 sb).val
    let codes := ts.map fun t => signedCode .e2m1 (decide (t < 0)) (roundMag .e2m1 none (min (rabs t / sv) 6))
    let rho := List.zipWith (fun t c => t - sv * e2m1Val c) ts codes
    let rs := (List.range nb).map fun b =>
      let m := maxMag ((rho.drop (32 * b)).take 32)
      if m = 0 then 0 else bf16Up (m / 127)
    let res := rho.zipIdx.map fun e =>
      let k := rs.getD (e.2 / 32) 0
      if k = 0 then 0 else max (-127) (min 127 (roundEven (e.1 / (decodeBf16 k).val)))
    { scale := sb, codes := codes, rs := rs, res := res }

/-- The exact weights of native row `r` (R202, R203): poisoned, values, state. -/
def State.nativeRead (s : State) (n : Nat) (c : List Byte) (r cols : Nat) : Bool × List Fp × State :=
  let nb := ceilDiv cols 32
  let slot := fun (j : Nat) => uAddr c 15 + r / 128 * recN c 21 + parallelSlot (r % 128) j 4
  let body := (List.range (ceilDiv cols 8)).foldl (fun (p : Marked × State) j =>
    let q := p.2.unitRead n (slot j) 4
    (p.1 ++ q.1, q.2)) ([], s)
  let sc := body.2.unitRead n (uAddr c 16 + 2 * r) 2
  let re := sc.2.unitRead n (uAddr c 17 + r * recN c 22) cols
  let rs := re.2.unitRead n (uAddr c 18 + r * recN c 23) (2 * nb)
  let sv := decodeBf16 (leNat (Marked.bytes sc.1))
  let w := (List.range cols).map fun k =>
    let code := codeAt 4 (Marked.bytes body.1) k
    let q := max (-127) (signedOf 8 (numAt (Marked.bytes re.1) k 1))
    fpAdd (fpMul sv (Fp.ofRat (e2m1Val code)))
      (fpMul (decodeBf16 (numAt (Marked.bytes rs.1) (2 * (k / 32)) 2)) (Fp.ofRat (q : Rat)))
  (Marked.poisoned body.1 || Marked.poisoned sc.1 || Marked.poisoned re.1 || Marked.poisoned rs.1, w, rs.2.logD4 n 1 w)

/-- Write a native row. -/
def State.nativeWrite (s : State) (c : List Byte) (r : Nat) (q : NativeRow) : State :=
  let slot := fun (j : Nat) => uAddr c 15 + r / 128 * recN c 21 + parallelSlot (r % 128) j 4
  let s := (List.range (ceilDiv q.codes.length 8)).foldl (fun s j =>
    s.csWrite (slot j) (packCodes 4 ((List.range 8).map fun e => q.codes.getD (8 * j + e) 0))) s
  let s := s.csWrite (uAddr c 16 + 2 * r) (leBytes 2 q.scale)
  let s := s.csWrite (uAddr c 17 + r * recN c 22) (q.res.map fun v => BitVec.ofInt 8 v)
  s.csWrite (uAddr c 18 + r * recN c 23) (q.rs.flatMap (leBytes 2))

/-- A native row whose targets are not all finite: the manual states no narrow value of it, so codes, scale and
residual are free (log entry 1), within Table 7-2: scales +0 or positive finite, residual codes −127 to 127 (R203). -/
def State.freeNative (s : State) (cols : Nat) : NativeRow :=
  let f := fun (i : Nat) => (Config.freeByte s.free i).toNat
  let scale := fun (i : Nat) => (f i + 256 * f (i + 1)) % 0x7F80
  { scale := scale 0, codes := (List.range cols).map fun i => f (2 + i) % 16,
    rs := (List.range (ceilDiv cols 32)).map fun b => scale (2 + cols + 2 * b),
    res := (List.range cols).map fun i => max (-127) (signedOf 8 (f (2 + cols + 2 * ceilDiv cols 32 + i))) }

/-- One row of UPDATE (R221). -/
def State.updateRow (s : State) (n : Nat) (w : List Word) (c : List Byte) (zero : Bool) (gs : Fp) (r : Nat) :
    Bool × State :=
  let cols := wCols w
  let g := s.uRead n (uStoreG c) r cols
  let m := g.2.2.uRead n (uStoreM c) r cols
  let v := if uAdam c then m.2.2.uRead n (uStoreV c) r cols else (false, m.2.1, m.2.2)
  let x := if uNative c then v.2.2.nativeRead n c r cols else v.2.2.wRead n .fp32 (uAddr c 15 + r * recN c 21) cols
  if g.1 || m.1 || v.1 || x.1 then (true, x.2.2)
  else
    let us := (List.range cols).map fun i =>
      updateElem c (s.flush n) zero gs (g.2.1.getD i .nan) (m.2.1.getD i .nan) (v.2.1.getD i .nan) (x.2.1.getD i .nan)
    let s := x.2.2.numLog n 0 (us.any Upd.fl)
    let s := if us.any Upd.kept then s.trainLog n 0x20 else s
    let stoch := decide (recF c 0 10 10 = 1)
    let e0 := recN c 30 + 2 ^ 32 * recN c 31 + r * cols
    let id := wN w 15
    let s := if uNative c then
        if us.all fun u => u.t.isFinite then s.nativeWrite c r (narrowNative (us.map fun u => u.t.val))
        else (s.nativeWrite c r (s.freeNative cols)).draw
      else s.wWrite n .fp32 (uAddr c 15 + r * recN c 21) (us.map fun u => rnW .fp32 (s.flush n) u.t)
    let s := s.uWrite n (uStoreM c) stoch id (recN c 28) (recN c 29) e0 r (us.map Upd.m)
    let s := if uAdam c then
        s.uWrite n (uStoreV c) stoch (id ^^^ 2 ^ 31) (recN c 28) (recN c 29) e0 r (us.map Upd.v)
      else s
    (false, s)

/-- UPDATE. -/
def State.updateRun (s : State) (n : Nat) (w : List Word) (c : List Byte) : Nat × State :=
  let a := (uNorm c).headD (0, 0)
  let f := s.unitRead n a.1 a.2
  if Marked.poisoned f.1 then (3, f.2)
  else
    let s := f.2.logInputs n ((List.range 9).map fun i => uConst c (i + 1))
    if uClip c = 0 then wRowsLoop (fun s r => s.updateRow n w c false one r) (wRows w) 0 s
    else
      let q := readNorm c (Marked.bytes f.1)
      let gs := clipFactor (s.flush n) (flushSub (s.flush n) (uConst c 9)) q
      let s := s.numLog n 0 gs.fl
      if q.bad ∧ q.policy ≠ 2 then (2, (s.trainLog n 0x10).bumpObj 0x6051 (n / 16 + 1) 1)
      else wRowsLoop (fun s r => s.updateRow n w c q.bad gs.v r) (wRows w) 0 s

def uReservedOk (r : List Byte) : Bool := decide (recF r 0 31 11 = 0)

def execWideUpdate (seat : SeatNo) (s : State) : Result :=
  let n := seat.val
  .next (s.dispatch n (isOp 2 31 28 4)
    { reservedOk := fun w => wReservedOk w && uReservedOk (s.wRecord w), cause := s.uCause n, nondet := fun _ => false }
    (fun w => s.guardOf n (uWrites w (s.wRecord w))) (fun _ => 0xFF) (wideGo n fun s w r => s.updateRun n w r))

/-! WATCH (R223 to R227). -/

def watchCount (r : List Byte) : Nat := recN r 0
def watchList (r : List Byte) : Nat := recN r 1 * 64
def watchMask (r : List Byte) : Nat := recN r 2 * 64
def watchResult (r : List Byte) : Nat := recN r 4 * 64

/-- The policy of a watcher, a default of 0 taken from object 0x2410:04. -/
def State.watchPolicy (s : State) (b : List Byte) : Nat := if numAt b 22 1 = 0 then s.obj 0x2410 4 3 else numAt b 22 1

/-- Is the POLICY code reserved (R227)? -/
def watchBad (b : List Byte) : Bool := decide (3 < numAt b 22 1)

/-- Does WATCH mode `m` evaluate, and does it apply? -/
def watchEvals (m : Nat) : Bool := decide (m ≠ 1)
def watchApplies (m : Nat) : Bool := decide (m ≠ 0)

def State.watchReads (s : State) (w : List Word) (r : List Byte) : List (Nat × Nat) :=
  [(wAddr w 14, 64), (watchList r, 64 * watchCount r)] ++
  (if watchEvals (wFunc w) then (List.range (watchCount r)).filterMap fun i =>
    let b := s.csBytes (watchList r + 64 * i) 64
    if watchBad b then none else some (numAt b 28 4 * 64, 128)
  else [(watchMask r, 512)])
def watchWrites (w : List Word) (r : List Byte) : List (Nat × Nat) :=
  [(watchList r, 64 * watchCount r)] ++ (if watchEvals (wFunc w) then [(watchMask r, 512)] else []) ++
  (if watchApplies (wFunc w) then [(watchResult r, 16)] else [])

def State.watchCause (s : State) (n : Nat) (w : List Word) : Option Nat :=
  let r := s.wRecord w
  let countBad := decide (watchCount r = 0 ∨ 4096 < watchCount r)
  firstCause [
    (decide (countOf w ≠ 0 ∨ wK w ≠ 0) || countBad, 0x100),
    (!wFormatOk w, 0x101),
    (!s.readsOk n (s.watchReads w r) || !s.writesOk n (watchWrites w r), 0x104)]

/-- The FP32 values that EVALUATE reads in a watcher record: NORM_AVG and JUMP. -/
def watchInputs (jumpDefault : Nat) (b : List Byte) : List Fp :=
  [decodeFp32 (numAt b 0 4), decodeFp32 (if numAt b 16 4 = 0 then jumpDefault else numAt b 16 4)]

/-- EVALUATE of one watcher `b` with its statistics record: the new record, NORM_ALARM, CLIP_ALARM, and the FP32 results,
each with whether a flush met it on the way (R93, R224). -/
def watchEval (flush : Bool) (jumpDefault shift warmup : Nat) (b stat : List Byte) :
    List Byte × Bool × Bool × List Wv :=
  let x := doneW flush (laRound .fp32 (BitVec.ofNat 128 (numAt stat 0 16)).toInt (i16 (numAt b 20 2)))
  let nw := doneW flush (sqrtRn x.v)
  let n := nw.v
  let ins := (watchInputs jumpDefault b).map (flushSub flush)
  let avg := ins.getD 0 .nan
  let steps := numAt b 8 4
  let jump := ins.getD 1 .nan
  let over_ := match n, fpMul jump avg with
    | .num p m, .num q k => decide ((Fp.num q k).val < (Fp.num p m).val)
    | .inf false, .num _ _ => true
    | .num _ _, .inf true => true
    | .inf false, .inf true => true
    | _, _ => false
  let na := decide (numAt stat 76 4 / 4 % 2 = 1) || (decide (warmup ≤ steps) && over_)
  let ca := decide (numAt stat 76 4 % 2 = 1)
  let f := pow2 (-(shift : Int))
  let avg' := if steps = 0 then nw else
    rnW .fp32 flush (fpAdd (fpMul (Fp.ofRat (1 - f)) avg) (fpMul (Fp.ofRat f) n))
  let st := numAt b 23 1 % 2 + 2 * b2n na + 4 * b2n ca
  let head := if na then b.take 4 else leBytes 4 (encodeFp32 avg'.v)
  let stp := if na then steps else min (steps + 1) full
  (head ++ leBytes 4 (encodeFp32 n) ++ leBytes 4 stp ++ slice b 12 11 ++ leBytes 1 st ++ slice b 24 40, na, ca,
    { nw with fl := nw.fl || x.fl } :: (if na then [] else [avg']))

/-- Set bit `i` of the mask at `a`. -/
def State.maskBit (s : State) (a i : Nat) (v : Bool) : State :=
  let old := s.csByte (a + i / 8)
  let m : Byte := BitVec.ofNat 8 (2 ^ (i % 8))
  s.csWrite (a + i / 8) [if v then old ||| m else old &&& ~~~ m]

/-- EVALUATE of watcher `i`; true when a read was poisoned. -/
def State.evalOne (s : State) (n : Nat) (r : List Byte) (i : Nat) : Bool × State :=
  let a := watchList r + 64 * i
  let f := s.unitRead n a 64
  let b := Marked.bytes f.1
  if Marked.poisoned f.1 then (true, f.2)
  else if watchBad b then (false, f.2.trainLog n 0x40)
  else
    let g := f.2.unitRead n (numAt b 28 4 * 64) 128
    if Marked.poisoned g.1 then (true, g.2)
    else
      let s := g.2
      let jump := s.obj 0x2410 1 0x40800000
      let q := watchEval (s.flush n) jump (s.obj 0x2410 2 4) (s.obj 0x2410 3 8) b (Marked.bytes g.1)
      let s := (s.logInputs n (watchInputs jump b)).logResults n q.2.2.2
      let s := s.csWrite a q.1
      let s := s.trainLog n (b2n q.2.1 + 2 * b2n q.2.2.1)
      (false, s.maskBit (watchMask r) i ((q.2.1 || q.2.2.1) && decide (2 ≤ s.watchPolicy b)))

/-- What APPLY has counted: NEED, fallen back, newly fallen back. -/
structure Applied where
  need  : Nat
  back  : Nat
  newly : Nat
deriving DecidableEq, Repr

/-- APPLY of watchers `i` to the last (R225). -/
def State.applyAll (s : State) (n : Nat) (r mask : List Byte) : Nat → Nat → Applied → Bool × Applied × State
  | 0, _, c => (false, c, s)
  | k + 1, i, c =>
    let a := watchList r + 64 * i
    let f := s.unitRead n a 64
    let b := Marked.bytes f.1
    if Marked.poisoned f.1 then (true, c, f.2)
    else if watchBad b then (f.2.trainLog n 0x40).applyAll n r mask k (i + 1) c
    else
      let s := f.2
      let set_ := (mask.getD (i / 8) 0).getLsbD (i % 8)
      let st := numAt b 23 1
      let was := decide (st % 2 = 1)
      let clean := numAt b 12 4
      let recover := numAt b 26 2
      let falls := set_ && !was && decide (s.watchPolicy b = 3)
      let clean' := if falls ∨ (set_ ∧ was) then 0 else if !set_ ∧ was then (clean + 1) % 2 ^ 32 else clean
      let returns := !set_ && was && decide (recover ≠ 0 ∧ clean' = recover)
      let now := (was || falls) && !returns
      let s := s.csWrite a (b.take 12 ++ leBytes 4 clean' ++ slice b 16 7 ++
        leBytes 1 (st % 8 / 2 * 2 + b2n now) ++ slice b 24 40)
      let s := if falls then (s.trainLog n 4).bumpObj 0x6050 (n / 16 + 1) 1 else s
      s.applyAll n r mask k (i + 1)
        { need := c.need + (if now then numAt b 24 2 else 0), back := c.back + b2n now, newly := c.newly + b2n falls }

/-- APPLY with its result record (R225, R226). -/
def State.applyRun (s : State) (n : Nat) (r : List Byte) : Nat × State :=
  let m := s.unitRead n (watchMask r) 512
  if Marked.poisoned m.1 then (3, m.2)
  else
    let q := m.2.applyAll n r (Marked.bytes m.1) (watchCount r) 0 { need := 0, back := 0, newly := 0 }
    if q.1 then (3, q.2.2)
    else
      let c := q.2.1
      let ext := c.need - recN r 3
      let s := q.2.2.csWrite (watchResult r) (leBytes 4 ext ++ leBytes 4 c.need ++ leBytes 4 c.back ++ leBytes 4 c.newly)
      (0, if ext = 0 then s else (s.trainLog n 8).bumpObj 0x6052 (n / 16 + 1) ext)

/-- A WATCH of mode `m`. -/
def State.watchRun (s : State) (n m : Nat) (r : List Byte) : Nat × State :=
  let q := if watchEvals m then wRowsLoop (fun s i => s.evalOne n r i) (watchCount r) 0 s else (0, s)
  if q.1 ≠ 0 ∨ !watchApplies m then q else q.2.applyRun n r

def State.watchDispatch (s : State) (n m : Nat) : State :=
  s.dispatch n (fun w => isOp 2 31 28 6 w && decide (wFunc w = m))
    { reservedOk := wReservedOk, cause := s.watchCause n, nondet := fun _ => false }
    (fun w => s.guardOf n (watchWrites w (s.wRecord w))) (fun _ => 0xFF) (wideGo n fun s _ r => s.watchRun n m r)

def execWatchEvaluate (seat : SeatNo) (s : State) : Result := .next (s.watchDispatch seat.val 0)
def execWatchApply (seat : SeatNo) (s : State) : Result := .next (s.watchDispatch seat.val 1)
def execWatchBoth (seat : SeatNo) (s : State) : Result := .next (s.watchDispatch seat.val 2)

end Sys2Proof.Machine
end

