-- ==== Sys2Proof/Machine/Descriptor.lean ====
section
/-! DEFINITION. The command processor: the head of a seat's queue and its checks, NOP, group queues and GROUP_LAUNCH,
and the completion of descriptors. -/

namespace Sys2Proof.Machine

/-! Group queues (R63 to R67). -/

/-- Is seat `n` a member of group queue `g`? -/
def State.gqMember (s : State) (g n : Nat) : Bool := bit (s.reg (gqReg g (0x40 + n / 32 * 4))) (n % 32)

def State.gqOwner (s : State) (g : Nat) : Nat := s.regField (gqReg g 0) 8 0

def State.gqMembers (s : State) (g : Nat) : List Nat := (List.range 512).filter fun n => s.gqMember g n

/-- MEMBER_GONE: a member or the owner is not ACTIVE (R63). -/
def State.memberGone (s : State) (g : Nat) : Bool :=
  !s.seatIs (s.gqOwner g) .active || (s.gqMembers g).any fun n => !s.seatIs n .active

/-- Entries of seat `n`'s command ring. -/
def State.ringEntries (s : State) (n : Nat) : Nat := s.ringSize n 0x18

/-- R59 for a new producer index `v` of seat `n`. -/
def State.prodOk (s : State) (n : Nat) (v : Word) : Bool :=
  decide ((v - s.reg (seatReg n 0x1C)).toNat ≤ s.ringEntries n ∧ (v - (s.seat n).prodAcc).toNat ≤ s.ringEntries n)

/-- Does a parity mismatch stop launches of group queue `g` (Table 2-11)? -/
def State.gqParityBad (s : State) (g : Nat) : Bool :=
  s.badParity.any fun o => decide (gqReg g 0 ≤ o ∧ o < gqReg (g + 1) 0)

/-- How a launch was judged (R64, R65). -/
inductive Launched where
  | accepted | refused | notOwner
deriving DecidableEq, Repr

/-- The instant of R65: the first multiple of 64 ns at least 128 ns after `t`. -/
def launchInstant (t : Nat) : Nat := (t + 128 + 63) / 64 * 64

/-- A launch of group queue `g` by `count` descriptors, from seat `n` (R64, R65). -/
def State.launch (s : State) (n g count : Nat) (asker : Option (Nat × Word)) : Launched × State :=
  if s.gqOwner g ≠ n then (.notOwner, s.raise (gqReg g 8) 2)
  else if !bit (s.reg (gqReg g 0)) 31 || s.memberGone g || s.gqParityBad g ||
      (s.gqMembers g).any (fun m => !s.prodOk m ((s.seat m).prodAcc + BitVec.ofNat 32 count)) then
    (.refused, s.raise (gqReg g 8) 1)
  else
    let l : Launch := { gq := g, count := count, due := launchInstant s.now, asker := asker }
    (.accepted, { s with launches := s.launches ++ [l] })

/-- The launch `l` takes effect at its instant: the producer index of every ACTIVE member moves on (R65, R67). The index
that a launch moves is the one RING_PROD reads and P0 of R59 names (DESIGN CHOICE, log entry 65). -/
def State.launchOne (s : State) (l : Launch) : State :=
  let s := s.reach l.due
  let s := { s with launches := s.launches.erase l }
  let s := (s.gqMembers l.gq).foldl (fun s m =>
    if s.seatIs m .active then
      (s.modSeat m fun r => { r with prodAcc := r.prodAcc + BitVec.ofNat 32 l.count }).refreshWd m
    else s) s
  match l.asker with
  | some (n, idx) => s.endRun n idx 0
  | none => s

/-- The launches accepted before the first one that `f` accepts. -/
def launchesBefore (f : Launch → Bool) (ls : List Launch) : List Launch := ls.takeWhile fun l => !f l

/-- An accepted launch of group queue `g` takes effect, after every launch accepted before it (R65). -/
def State.launchEffect (s : State) (g : Nat) : State :=
  let mine := fun (l : Launch) => decide (l.gq = g)
  match s.launches.find? mine with
  | none => s
  | some l => ((launchesBefore mine s.launches).foldl State.launchOne s).launchOne l

/-! The head of the queue (R60 to R62, R516). -/

/-- The words of the 64-byte descriptor at ring index `i` of seat `n`, whether poison came with them, and the state. -/
def State.ringRead (s : State) (n : Nat) (i : Word) : List Word × Bool × State :=
  let f := s.csRead (s.regField (seatReg n 0x14) 17 0 * unit64K + i.toNat % s.ringEntries n * 64) 64
  (wordsOf f.1, f.2.1, f.2.2)

/-- The words of `k` descriptors from ring index `i`. -/
def State.ringReadMany (s : State) (n : Nat) : Nat → Word → List Word × Bool × State
  | 0, _ => ([], false, s)
  | k + 1, i =>
    let f := s.ringRead n i
    let g := f.2.2.ringReadMany n k (i + 1)
    (f.1 ++ g.1, f.2.1 || g.2.1, g.2.2)

/-- Do the reserved fields of the header read 0 (Table 2-8)? -/
def headerOk (w : List Word) : Bool := wZ w 0 31 16 && wZ w 0 12 12 && wZ w 2 31 29 && wZ w 2 15 13

/-- The first cause of the head checks, after the read. -/
def State.headCause (s : State) (n avail : Nat) (w : List Word) : Option Nat :=
  firstCause
    [(decide (0x0A < opcodeOf w), 1),
     (decide (avail < 1 + countOf w), 2),
     ((wB w 0 13 && !s.ownsTumbler n (wF w 2 12 0)) || (wB w 0 14 && !s.ownsTumbler n (wF w 2 28 16)), 3),
     (!headerOk w, 4)]

/-- The command processor reads and checks the next descriptor. A poisoned read puts the ring index in word 0 of the
error record (R70). -/
def State.readHead (s : State) (n : Nat) : State :=
  let i := s.reg (seatReg n 0x1C)
  let avail := ((s.seat n).prodAcc - i).toNat
  let f := s.ringRead n i
  let more := min (countOf f.1) (avail - 1)
  let g := f.2.2.ringReadMany n more (i + 1)
  let w := f.1 ++ g.1
  let s := g.2.2
  if f.2.1 || g.2.1 then s.refuse n (w.set 1 i) 6
  else
    match s.headCause n avail w with
    | some k => s.refuse n w k
    | none => s.modSeat n fun r => { r with head := some { index := i, words := w } }

/-- Does the operation code of a descriptor name an operation: one with a row of its own? -/
def opNamed (w : List Word) : Bool :=
  match opcodeOf w with
  | 1 => decide (mxOp w ≤ 4)
  | 2 => decide (wOp w ≤ 6) && (decide (wOp w ≠ 1) || decide (wFunc w ≤ 5)) && (decide (wOp w ≠ 6) || decide (wFunc w ≤ 2))
  | 3 => decide (qOp w ≤ 2)
  | 4 => decide (cCop w ≤ 4) || (decide (cCop w = 5) && decide (wF w 5 3 0 ≤ 10))
  | 5 => decide (kKind w ≤ 4)
  | 7 => decide (tTop w ≤ 3)
  | 8 => decide (hHop w ≤ 4)
  | _ => true

/-- The checks of the opcode of a descriptor whose operation code is reserved. -/
def State.checksOf (s : State) (n : Nat) (w : List Word) : Checks :=
  match opcodeOf w with
  | 1 => s.mxChecks n
  | 2 => { reservedOk := wReservedOk, cause := if wOp w = 6 then s.watchCause n else s.wPlainCause n,
           nondet := fun _ => false }
  | 3 => s.qChecks n
  | 4 => s.copyChecks n
  | 5 => s.collChecks n
  | 7 => s.tumblerChecks n
  | _ => s.haspChecks n

/-- DESCRIPTOR_HEAD: the head is read and checked; one whose operation code is reserved is refused at its dispatch,
as no other command stands for it. -/
def State.descriptorHead (s : State) (n : Nat) : State :=
  let r := s.seat n
  let s := if s.coreOn && s.seatIs n .active && s.partRuns (n / 16) && !s.blocked n && r.head.isNone &&
      decide (r.prodAcc ≠ s.reg (seatReg n 0x1C)) then s.readHead n else s
  match s.readyHead n with
  | none => s
  | some h =>
    if opNamed h.words then s
    else
      let c := s.checksOf n h.words
      s.refuse n h.words (if c.reservedOk h.words then (c.cause h.words).getD 0x101 else 4)

def execDescriptorHead (seat : SeatNo) (s : State) : Result := .next (s.descriptorHead seat.val)

/-- NOP: header actions only (Table 2-9). -/
def execNop (seat : SeatNo) (s : State) : Result :=
  .next (s.dispatch seat.val (fun w => decide (opcodeOf w = 0))
    { reservedOk := fun _ => true, cause := fun _ => none, nondet := fun _ => false } (fun _ => []) (fun _ => 0xFF)
    fun h g s => s.startDone seat.val h 0 g)

def launchReservedOk (w : List Word) : Bool := wZ w 4 31 6 && wZ w 5 31 16 && wordsZero w 6 16

/-- BAD_SHAPE (R66). -/
def launchCause (w : List Word) : Option Nat := firstCause [(decide (countOf w ≠ 0 ∨ wF w 5 15 0 = 0), 0x100)]

/-- GROUP_LAUNCH (R66, R67). -/
def execGroupLaunch (seat : SeatNo) (s : State) : Result :=
  let n := seat.val
  .next (s.dispatch n (fun w => decide (opcodeOf w = 10))
    { reservedOk := launchReservedOk, cause := launchCause, nondet := fun _ => false } (fun _ => []) (fun _ => 0xFF)
    fun h _ s =>
      let l := s.launch n (wF h.words 4 5 0) (wF h.words 5 15 0) (some (n, h.index))
      match l.1 with
      | .accepted => l.2.addRun n (newRun h (.launch (wF h.words 4 5 0)) 0)
      | .refused => l.2.startDone n h 2 []
      | .notOwner => l.2.startDone n h 3 [])

/-! Completion (R68, R69). -/

/-- Does the completion of `r` wait: the completion ring is full and it writes a record, or an earlier descriptor's
completion waits (R69)? -/
def State.mustHold (s : State) (n : Nat) (r : Run) : Bool :=
  ((wB r.words 0 15 || decide (r.status ≠ 0)) && s.cqFull n) ||
    (match (s.seat n).cqHeld with
     | some j => decide (j ≠ r.index) && (s.runsBefore n r.index).any fun q => decide (q.index = j)
     | none => false)

/-- A run whose work has ended completes, or waits for the completion ring. A fence takes its status here (R273). -/
def State.endOf (s : State) (n : Nat) (r : Run) : State :=
  let fence := decide (opcodeOf r.words = 6)
  let r := if fence then { r with status := s.fenceStatus n r } else r
  if s.mustHold n r then s.modSeat n fun q => { q with cqHeld := some (q.cqHeld.getD r.index) }
  else
    let s := if fence && decide (r.status = 2) then s.raise (seatReg n 0x68) 2 else s
    let s := (s.collCount r).complete n r
    (s.sideStep n r).pumpReads

/-- What a run still does at its end: work that waited for earlier descriptors comes about when they have ended, a check
value is settled, and PUT cells go on that found no room in a queue a lost link has emptied (R336, R342). -/
def State.lastWork (s : State) (n : Nat) (r : Run) : State :=
  if r.void then s
  else
    match r.work with
    | .release => if s.releaseReady n r then s.releaseDo n r else s
    | .checkValue v again => s.cvSettle n r v again
    | .put left => s.putPump n r left
    | _ => s

/-- DESCRIPTOR_COMPLETE: the descriptor at ring index `idx` completes when nothing of its work is left. -/
def State.descriptorComplete (s : State) (n : Nat) (idx : Word) : State :=
  let s := match s.findRun n idx with
    | some r => s.lastWork n r
    | none => s
  match s.findRun n idx with
  | none => s
  | some r => if !r.void && s.fenceReady n r then s.endOf n r else s

def execDescriptorComplete (seat : SeatNo) (index : Word) (s : State) : Result :=
  .next (s.descriptorComplete seat.val index)

end Sys2Proof.Machine
end

