-- ==== Sys2Proof/Machine/Links.lean ====
section
/-! DEFINITION. Links and common time: training, IDENT, link keys, loss of a link, time exchanges, the time parent,
holdover, and the time source's reference clock. -/

namespace Sys2Proof.Machine

/-! Ports (R311 to R317, R342). -/

/-- Has firmware been verified, so that receivers and transmitters run (R316)? -/
def State.fwRuns (s : State) : Bool := s.coreOn && decide (s.fw.boot = .verified ∨ s.fw.boot = .ready)

/-- FB_CTRL.ENABLE of a present port; in a replayed step every port acts as if it were 0 (R387), and the ports of a torus
dimension with extent 1 are kept idle (R40). -/
def State.enabled (s : State) (n : Nat) : Bool := portPresent s.variant n && s.portEnabled n && !s.idlePort n

/-- Link encryption of the class of port `n`, object 0x5010 (R442). -/
def State.encrypts (s : State) (n : Nat) : Bool := decide (s.obj 0x5010 (if n < 7 then 1 else 2) 1 = 1)

/-- The delay before retry `k` (R317). -/
def retryDelay (k : Nat) : Nat := [10, 20, 40, 80].getD k 80 * 1000000

/-! The time parent (R320, R322, R323). -/

def State.role (s : State) : Nat := s.regField (tbReg 0) 1 0

/-- Does the device act as a time source? -/
def State.isSource (s : State) : Bool := decide (s.role = 1 ∨ s.role = 2) && !s.tb.followConflict

/-- May port `n` be, or stay, the time parent's port: is it UP or TIMING? -/
def State.timed (s : State) (n : Nat) : Bool := decide ((s.port n).state = .up ∨ (s.port n).state = .timing)

/-- The candidates for time parent: port, SOURCE and HOPS of its partner. -/
def State.parents (s : State) : List (Nat × Nat × Nat) :=
  s.portList.filterMap fun n =>
    match (s.port n).advert with
    | some (src, hops, true) => if s.timed n ∧ bit (s.reg (fbReg n 0)) 1 ∧ hops < 31 then some (n, src, hops) else none
    | _ => none

/-- Does candidate `a` come before `b`: lowest SOURCE, then lowest HOPS, then lowest n? -/
def parentBefore (a b : Nat × Nat × Nat) : Bool :=
  decide (a.2.1 < b.2.1 ∨ (a.2.1 = b.2.1 ∧ (a.2.2 < b.2.2 ∨ (a.2.2 = b.2.2 ∧ a.1 ≤ b.1))))

def State.bestParent (s : State) : Option (Nat × Nat × Nat) :=
  let cs := s.parents
  cs.find? fun a => cs.all fun b => parentBefore a b

/-- HOLDOVER begins, at the last rate (R323). -/
def State.enterHoldover (s : State) : State :=
  { s with tb := { s.tb with holdover := some (s.tb.holdover.getD s.uptime) } }

/-- The device takes a new time parent, and advertises its SOURCE and HOPS + 1, at most 31. -/
def State.takeParent (s : State) (c : Nat × Nat × Nat) : State :=
  { s with tb := { s.tb with parent := some c.1, source := c.2.1, hops := min 31 (c.2.2 + 1), good := 0, stepped := false } }

/-- The device takes the best candidate, if there is one. -/
def State.choose (s : State) : State :=
  match s.bestParent with
  | some b => s.takeParent b
  | none => s

/-- Does the partner of an UP or TIMING port advertise a SOURCE below `h`? -/
def State.lowerSource (s : State) (h : Nat) : Bool :=
  s.portList.any fun n => s.timed n && (match (s.port n).advert with
    | some (src, _, _) => decide (src < h)
    | none => false)

/-- Does the time parent on port `p` stay: its port has not left UP and TIMING, and its partner advertises LOCKED? -/
def State.parentStays (s : State) (p : Nat) : Bool :=
  s.timed p && (match (s.port p).advert with
    | some (_, _, locked) => locked
    | none => false)

/-- The device chooses its time parent again, only where R320 lets it: the parent is lost, or a candidate advertises a
lower SOURCE. A source that sees a lower SOURCE follows it. -/
def State.reparent (s : State) : State :=
  if s.isSource then
    if s.lowerSource s.hallIndex then (({ s with tb := { s.tb with followConflict := true } }).raise (tbReg 8) 2).choose else s
  else
    match s.tb.parent with
    | none => s.choose
    | some p =>
      if s.parentStays p then
        match s.bestParent with
        | some b => if b.2.1 < s.tb.source then s.takeParent b else s
        | none => s
      else (({ s with tb := { s.tb with parent := none, good := 0 } }).enterHoldover).choose

/-- What the partner of port `n` advertises in a MARK. -/
def State.heard (s : State) (n source hops : Nat) (locked : Bool) : State :=
  let s := s.modPort n fun r => { r with advert := some (source, hops, locked) }
  let s := if s.tb.parent = some n ∧ locked then
      { s with tb := { s.tb with source := source, hops := min 31 (hops + 1) } } else s
  s.reparent

/-- LOCKED is set, and TIME_VALID with it; HOLDOVER ends (R322). -/
def State.setLocked (s : State) : State :=
  { s with tb := { s.tb with locked := true, timeValid := true, wasLocked := true, holdover := none } }

/-- LOCKED: 16 consecutive good exchanges with a locked parent (R322). -/
def execLocked (s : State) : Result :=
  .next <|
    match s.tb.parent with
    | none => s
    | some p =>
      match (s.port p).advert with
      | some (_, _, true) => if s.coreOn && decide (16 ≤ s.tb.good) then s.setLocked else s
      | _ => s

/-- HOLDOVER has lasted 10 ms without a new lock: LOCKED clears, and a device that had it sends MARK and MAINT only (R323).
That HOLDOVER ends then is a DESIGN CHOICE (log entry 46). -/
def execHoldoverTimeout (s : State) : Result :=
  .next <|
    match s.tb.holdover with
    | none => s
    | some t =>
      let s := s.reachUp (t + 10000000)
      let off := s.tb.suppressed || s.tb.wasLocked
      ({ s with tb := { s.tb with locked := false, holdover := none, suppressed := off } }).raise (tbReg 8) 1

/-- TREF_CLK has stayed within its limits for 1 ms: a SOURCE_TREF device locks (R322). -/
def execTrefLock (s : State) : Result :=
  .next <|
    if !s.aoOn then s
    else
      let s := { s with tb := { s.tb with trefOk := true } }
      if s.role = 1 ∧ s.isSource ∧ s.tb.counting then s.setLocked else s

/-- A TREF_PPS edge records the common nanosecond of a SOURCE_TREF device (R322). -/
def execTrefPpsEdge (s : State) : Result :=
  .next (if s.aoOn && decide (s.role = 1) then
    (s.setRegN (tbReg 0x28) (s.now % 2 ^ 32)).setRegN (tbReg 0x2C) (s.now / 2 ^ 32) else s)

/-- TREF_CLK leaves its limits (R323). -/
def execTrefLost (s : State) : Result :=
  .next <|
    if !s.aoOn then s
    else
      let s := { s with tb := { s.tb with trefOk := false } }
      if s.role = 1 then
        let s := s.raise (tbReg 8) 4
        if s.isSource then s.enterHoldover else s
      else s

/-- TB_CTRL holds `v`: a role written again ends the following of a conflicting source, and a SOURCE_FREE device locks
as its time base already runs (R320, R322). ROLE 3 is a reserved code, and the write is ignored. -/
def State.tbCtrlSet (s : State) (v : Word) : State :=
  if field v 1 0 = 3 then s
  else
    let s := s.setReg (tbReg 0) v
    let s := { s with tb := { s.tb with followConflict := false } }
    let s := if s.isSource then { s with tb := { s.tb with source := s.hallIndex, hops := 0, parent := none } } else s
    let s := if s.tb.counting && (decide (s.role = 2) || (decide (s.role = 1) && s.tb.trefOk)) then s.setLocked else s
    s.reparent

/-! Training. -/

/-- Port `n` begins to train; as the time parent's port it is lost (R320). -/
def State.train (s : State) (n : Nat) : State :=
  let crypt := s.encrypts n
  let s := s.modPort n fun r =>
    { r with state := .training, trainAt := s.uptime, trained := false, retryDue := none, exchanges := 0, advert := none,
             asked := none, linkKey := none, crypt := crypt, maintQ := [] }
  if s.tb.parent = some n then s.reparent else s

/-- The delay of R317 begins before the next training of port `n`. -/
def State.retryLater (s : State) (n : Nat) (st : PortState) : State :=
  s.modPort n fun r =>
    { r with state := st, retryDue := some (s.uptime + retryDelay r.retryStep), retryStep := r.retryStep + 1 }

/-- PORT_TRAINING_START: port n begins at t_fw + 5 ms × n (R316), in a device reset after FW_READY (R417), or when it has
been enabled again. -/
def execPortTrainingStart (port : PortNo) (s : State) : Result :=
  .next <|
    let n := port.val
    let r := s.port n
    let open_ := s.ec.devReset.isNone || decide (s.fw.boot = .ready)
    if s.fwRuns && open_ && s.enabled n && decide (r.state = .down) && r.retryDue.isNone then
      (s.reachUp r.trainAt).train n else s

/-- Is the turn a MAINT one whose cells are discarded (R334)? -/
def RxTurn.maintLost (r : RxTurn) : Bool := r.missed && decide (r.mark.tkind = 3#4)

/-- Is the partner's present MAINT turn one whose cells are discarded? -/
def State.maintMissed (s : State) (n : Nat) : Bool := (s.port n).rx.any fun e => e.2.maintLost

/-- The IDENT cell of port `n`. -/
def State.identOf (s : State) (n : Nat) (port : PortNo) : Ident :=
  { pos := s.pw.pos, x := BitVec.ofNat 4 (s.coord 0), y := BitVec.ofNat 4 (s.coord 1), z := BitVec.ofNat 4 (s.coord 2),
    port := port, variant := BitVec.ofNat 8 (variantCode s.variant), encrypt := (s.port n).crypt }

/-- LINK_TRAINED: the port's bring-up rounds begin at the next multiple of 1,024 ns, and it sends IDENT in its first MAINT
turn (R315, R330, R339). -/
def execLinkTrained (port : PortNo) (s : State) : Result :=
  .next <|
    let n := port.val
    let r := s.port n
    if s.coreOn && decide (r.state = .training) && !r.trained then
      let t := ceilDiv s.now 1024 * 1024
      s.modPort n fun r =>
        { r with trained := true, upBase := t, roundNext := 0, turnNext := 0, rx := [], discards := [], prevCheck := [],
                 maintQ := [.ident (s.identOf n port)] }
    else s

/-- The hall index an IDENT cell names. -/
def identHall (i : Ident) : Nat := hallOf i.x.toNat i.y.toNat i.z.toNat i.pos.toNat

/-- KEY_FAIL of port `n`: it stays in TIMING and retrains (R442). -/
def State.keyFail (s : State) (n : Nat) : State := (s.raise (scReg 8) (2 ^ n)).retryLater n .timing

/-- IDENT_RECEIVED: TIMING when the partner matches Table 11-1, otherwise MISWIRED (R315); the encryption settings must
agree (R442). -/
def execIdentReceived (port : PortNo) (ident : Ident) (s : State) : Result :=
  .next <|
    let n := port.val
    let r := s.port n
    if s.coreOn && decide (r.state = .training) && r.trained then
      let s := s.modPort n fun r => { r with ident := some ident }
      if identHall ident = s.neighbour n ∧ ident.port.val = partnerPort n then
        let s := s.modPort n fun r => { r with state := .timing, exchanges := 0 }
        if ident.encrypt ≠ r.crypt then s.keyFail n
        else if r.crypt then s.modPort n fun r => { r with maintQ := r.maintQ ++ [.keyShare] } else s
      else (s.modPort n fun r => { r with state := .miswired, trainAt := s.uptime }).raise (fbReg n 8) 2
    else s

/-- KEY_SHARE_RECEIVED: the partner's chain and signed share, 96 bytes and their signature (R442). The first share seen
while TIMING gives the key. -/
def execKeyShareReceived (port : PortNo) (chain share : List Byte) (s : State) : Result :=
  .next <|
    let n := port.val
    let r := s.port n
    if s.coreOn && decide (r.state = .timing) && r.crypt && r.linkKey.isNone && r.retryDue.isNone && !s.maintMissed n then
      if Config.chainVerifies chain share then
        let key := (Config.ecdhAgree (Config.drbg s.sc.draws) (share.take 96)).toNat % 2 ^ 256
        let s := { s with sc := { s.sc with draws := s.sc.draws + 1 } }
        s.modPort n fun r =>
          { r with linkKey := some (BitVec.ofNat 256 key), interval := 0, txInterval := 0, txCells := [], ivCells := [],
                   ivJobs := [], ivDirty := false }
      else s.keyFail n
    else s

/-- TRAINING_TIMEOUT: an attempt not complete 40 ms after it began is abandoned (R317). -/
def execTrainingTimeout (port : PortNo) (s : State) : Result :=
  .next <|
    let n := port.val
    let r := s.port n
    if s.coreOn && decide (r.state = .training) then
      (s.reachUp (r.trainAt + 40000000)).retryLater n .down
    else s

/-- TRAINING_RETRY: the delay ends and the port trains again, while it is enabled (R317). -/
def execTrainingRetry (port : PortNo) (s : State) : Result :=
  .next <|
    let n := port.val
    match (s.port n).retryDue with
    | none => s
    | some t => if s.fwRuns && s.enabled n then (s.reachUp t).train n else s

/-- MISWIRED_RETRAIN: a MISWIRED port retrains after 1 s (R315). -/
def execMiswiredRetrain (port : PortNo) (s : State) : Result :=
  .next <|
    let n := port.val
    let r := s.port n
    if s.coreOn && decide (r.state = .miswired) then (s.reachUp (r.trainAt + 1000000000)).train n else s

/-- PORT_UP: 16 time exchanges are complete; SENT and FREED start at 0 (R315, R335), and the turns of an active schedule
start at the next round boundary (R342). -/
def execPortUp (port : PortNo) (s : State) : Result :=
  .next <|
    let n := port.val
    let r := s.port n
    if s.coreOn && decide (r.state = .timing) && decide (16 ≤ r.exchanges) && r.retryDue.isNone then
      let next := s.curRound + 1
      let act := s.tb.active.isSome
      s.modPort n fun r =>
        { r with state := .up, retryStep := 0, sent := 0, freedMine := 0, freedPeer := 0, missFired := false,
                 roundNext := if act then next else r.roundNext, turnNext := if act then 0 else r.turnNext }
    else s

/-! Loss of a link (R313, R342). -/

/-- Port `n` goes DOWN: its OPEN queue is discarded, and the writes it holds settle by R275; a time parent is lost. -/
def State.goDown (s : State) (n : Nat) : State :=
  let r := s.port n
  let s := r.openQ.foldl (fun s c =>
    let s := s.freeCell c.hold
    match c.post with
    | some id => s.setDue id
    | none => s) s
  let on := s.enabled n
  let s := if on then s.raise (fbReg n 8) 1 else s
  let due := s.uptime + retryDelay 0
  let s := s.modPort n fun r =>
    { r with state := .down, trained := false, openQ := [], rx := [], discards := [], advert := none, asked := none,
             linkKey := none, exchanges := 0, retryStep := 1, retryDue := if on then some due else none, trainAt := 0,
             maintQ := [] }
  if s.tb.parent = some n then s.reparent else s

/-- Ports of torus dimensions with extent 1 go idle (R40). -/
def State.idlePorts (s : State) : State :=
  (s.portList.filter s.idlePort).foldl (fun s n =>
    if (s.port n).state = .down then s.modPort n fun r => { r with retryDue := none } else s.goDown n) s

/-- Does a port carry codewords: has its PMA trained? -/
def State.linkRuns (s : State) (n : Nat) : Bool :=
  s.coreOn && (s.port n).trained && decide ((s.port n).state ≠ .down)

/-- LOSS_OF_SIGNAL on a lane. -/
def execLossOfSignal (port : PortNo) (lane : Fin 12) (s : State) : Result :=
  .next (if s.linkRuns port.val && decide (lane.val < 4 * groupsOf port.val) then s.goDown port.val else s)

/-- PORT_DOWN. -/
def execPortDown (port : PortNo) (s : State) : Result :=
  .next (if s.coreOn && decide ((s.port port.val).state ≠ .down) then s.goDown port.val else s)

/-- FEC_UNCORRECTABLE: a codeword that the FEC cannot correct, or with a header that is not taken, is discarded and counted;
the eighth in a row on a lane group takes the port DOWN (R313, R342). -/
def execFecUncorrectable (port : PortNo) (word : LostWord) (s : State) : Result :=
  .next <|
    let n := port.val
    if s.linkRuns n && decide (word.group.val < groupsOf n) && !word.header.any codewordOk then
      let s := (s.count (fbReg n 0x28) 1).raise (fbReg n 8) 8
      let k := if word.again then SMap.get 0 (s.port n).discards word.group.val + 1 else 1
      let s := s.modPort n fun r => { r with discards := SMap.set 0 r.discards word.group.val k, ivDirty := true }
      if 8 ≤ k then s.goDown n else s
    else s

/-- FB_CTRL of port `n` holds `v`; ENABLE = 0 takes the port DOWN without LINK_LOST (R342). -/
def State.fbCtrlSet (s : State) (n : Nat) (v : Word) : State :=
  let s := s.setReg (fbReg n 0) v
  let s := if !bit v 0 && decide ((s.port n).state ≠ .down) then s.goDown n
    else if !bit v 0 then s.modPort n fun r => { r with retryDue := none } else s
  s.reparent

/-! Time exchanges (R318 to R322). -/

/-- The asymmetry A of port `n` in units of 2^-16 ns (object 0x2701, in ps). -/
def State.asymmetry (s : State) (n : Nat) : Int := (BitVec.ofNat 32 (s.obj 0x2701 (n + 1) 0)).toInt * 65536 / 1000

/-- TIME_REQ_RECEIVED on a lane group, stamped t2: the reply leaves in a MAINT turn (R319, R339). -/
def execTimeReqReceived (port : PortNo) (group : Fin 3) (t2 : BitVec 80) (s : State) : Result :=
  .next <|
    let n := port.val
    let lost := (SMap.find? (s.port n).rx group.val).any RxTurn.maintLost
    if s.coreOn && s.timed n && decide (group.val < groupsOf n) && !lost then
      s.modPort n fun r => { r with maintQ := r.maintQ ++ [.timeReply t2] }
    else s

/-- Twice the offset o of an exchange, in units of 2^-16 ns. -/
def State.offset2 (s : State) (n : Nat) (t1 t2 t3 t4 : BitVec 80) : Int :=
  ((t4.toNat : Int) - t3.toNat) - ((t2.toNat : Int) - t1.toNat) + s.asymmetry n

/-- An exchange with the parent disciplines the time word: a step while TIME_VALID is 0, then a slew of 10 ppm. -/
def State.discipline (s : State) (o2 : Int) : State :=
  let close := decide (o2.natAbs * 1000 ≤ 2 * 20 * 65536)
  let s := { s with tb := { s.tb with good := if close then s.tb.good + 1 else 0 } }
  if !s.tb.timeValid && !s.tb.stepped then
    { s with time := BitVec.ofInt 80 ((s.time.toNat : Int) - o2 / 2),
             tb := { s.tb with stepped := true, slew := 0, slewRem := 0, acc := 0 } }
  else
    { s with tb := { s.tb with slew := if 0 < o2 then -10 else if o2 < 0 then 10 else 0, slewRem := 0, acc := -(o2 / 2) } }

/-- TIME_REPLY_RECEIVED: d and o are computed and shown; with the parent they discipline the time word. -/
def execTimeReplyReceived (port : PortNo) (t1 t2 t3 t4 : BitVec 80) (s : State) : Result :=
  .next <|
    let n := port.val
    let r := s.port n
    if s.coreOn && s.timed n && !s.maintMissed n && decide (r.asked = some t1) then
      let o2 := s.offset2 n t1 t2 t3 t4
      let d2 : Int := ((t2.toNat : Int) - t1.toNat) + ((t4.toNat : Int) - t3.toNat)
      let shown := max (-(2 ^ 31)) (min (2 ^ 31 - 1) (o2 / 2))
      let s := (s.setReg (fbReg n 0xC) (BitVec.ofInt 32 (d2 / 512))).setReg (fbReg n 0x10) (BitVec.ofInt 32 shown)
      let s := s.modPort n fun r =>
        { r with asked := none, exchanges := if r.crypt && r.linkKey.isNone then r.exchanges else r.exchanges + 1 }
      if s.tb.parent = some n ∧ ¬ s.isSource then s.discipline o2 else s
    else s

/-- TIME_SNAP: a write of `value` to TB_SNAP_CMD (R318). -/
def State.timeSnap (s : State) (value : Word) : State :=
  if s.barLive && bit value 0 then
    ((s.setRegN (tbReg 0x10) (s.now % 2 ^ 32)).setRegN (tbReg 0x14) (s.now / 2 ^ 32)).setRegN (tbReg 0x18)
      (s.time.toNat % 2 ^ 16)
  else s

def execTimeSnap (value : Word) (s : State) : Result := .next (s.timeSnap value)

end Sys2Proof.Machine
end

