-- ==== Sys2Proof/Machine/Fabric.lean ====
section
/-! DEFINITION. What arrives on the fabric: MARKs and turn misses, SCHED, OPEN and CTRL cells, forfeits, and the
authentication of an encrypted interval. -/

namespace Sys2Proof.Machine

/-! Turns of the partner (R334, R341, R406). -/

/-- The SCHED_ID of the active schedule, 0 with none. -/
def State.activeId (s : State) : Word :=
  match s.tb.active with
  | some a => a.id
  | none => 0

/-- The collectives that hold a binding on port `p`, with their seats (R350). -/
def State.portBindings (s : State) (p : Nat) : List (Nat × Run) :=
  s.collRuns.filterMap fun q => if (kPorts q.2.1.words).contains p then some (q.1, q.2.1) else none

/-- The jobs that hold a binding on port `p`, each with its lowest seat there. -/
def State.portJobs (s : State) (p : Nat) : List (Nat × Nat) :=
  let l := (s.portBindings p).map fun q => (s.job q.1, q.1)
  (l.map Prod.fst).dedup.filterMap fun j => l.find? fun q => decide (q.1 = j)

/-- TURN_MISS_LIMIT. -/
def State.missLimit (s : State) : Nat := s.regField (ecReg 0x14) 31 24

/-- The turn-miss detector of port `p` fires when its count has reached the limit while a binding is held, once for each
run of misses (R406). -/
def State.missWatch (s : State) (p : Nat) : State :=
  let r := s.port p
  if s.missLimit = 0 || decide (r.misses < s.missLimit) || r.missFired || (s.portBindings p).isEmpty then s
  else
    let s := (s.modPort p fun r => { r with missFired := true }).logFault 8
    (s.portJobs p).foldl (fun s j => s.originate j.1 5 j.2) s

def execTurnMissWatchdog (port : PortNo) (s : State) : Result := .next (if s.coreOn then s.missWatch port.val else s)

/-- A missed turn of the partner on port `p`, counted once for all lane groups (R341). -/
def State.countMiss (s : State) (p : Nat) (turn : Nat × Nat) : State :=
  if (s.port p).missed = some turn then s
  else
    let s := (s.count (fbReg p 0x18) 1).raise (fbReg p 8) 4
    s.modPort p fun r => { r with missed := some turn, misses := r.misses + 1 }

/-- Does a turn of this TKIND count when it is missed: SCHED or CTRL? -/
def missCounts (t : BitVec 4) : Bool := decide (t = 1#4 ∨ t = 4#4)

def markPlace (m : Mark) : Nat × Nat := (m.round.toNat, m.turn.toNat)

/-- Does turn `b` follow turn `a` at once? -/
def turnFollows (a b : Nat × Nat) : Bool :=
  decide ((b.1 = a.1 ∧ b.2 = a.2 + 1) ∨ (b.1 = a.1 + 1 ∧ b.2 = 0))

/-- A SIDE cell of a turn that is missed is discarded: its descriptor lacks a side value. -/
def State.loseSide (s : State) (p : Nat) (body : List Byte) : State :=
  match s.binding p (numAt body 44 2) with
  | some (n, q) => s.modColl n q.index fun k => { k with lost := true }
  | none => s

/-- The cells of a turn that turns out missed are discarded (R341); a collective that took one of them will end with
INCOMPLETE (R352, R372). The other CTRL cells have acted as they came (log entry 42). -/
def State.loseCells (s : State) (p : Nat) (r : RxTurn) : State :=
  r.cells.foldl (fun s c =>
    if c.1 = 2 then s.loseCell p r.mark.flow.toNat c.2.2
    else if c.1 = 4 ∧ numAt c.2.2 0 1 = 4 then s.loseSide p c.2.2
    else s) s

/-- The cells of a confirmed turn are recorded, those that an earlier boundary has left to the step that is open (R382). -/
def State.recordCells (s : State) (p g : Nat) (r : RxTurn) : State :=
  (r.cells.drop r.kept).foldl (fun s c =>
    s.record (if c.1 = 2 then 6 else 7)
      { kind := 7, flags := c.1, source := p, round := r.round, turn := r.mark.turn.toNat, group := g,
        cidx := c.2.1 } c.2.2) s

/-- A boundary that opens or closes a step parts the cells of the turns that are still to be confirmed: those that have come
are recorded now, in the step that closes, as their confirming MARK comes after it (DESIGN CHOICE, log entry 70). -/
def State.partCells (s : State) : State :=
  s.portList.foldl (fun s p =>
    let s := (s.port p).rx.foldl (fun s e => if e.2.missed then s else s.recordCells p e.1 e.2) s
    s.modPort p fun q => { q with rx := q.rx.map fun e => (e.1, { e.2 with kept := e.2.cells.length }) }) s

/-- The turn `r` of lane group `g` is confirmed: the run of misses ends (R406), its cells are recorded (R382), and the
transfers they complete are acknowledged and applied (R353). -/
def State.confirmTurn (s : State) (p g : Nat) (r : RxTurn) : State :=
  let s := if missCounts r.mark.tkind ∧ (s.port p).missed ≠ some (markPlace r.mark) then
      s.modPort p fun q => { q with misses := 0, missFired := false } else s
  let s := (s.recordCells p g r).modPort p fun q => { q with rx := SMap.erase q.rx g }
  match s.binding p r.mark.flow.toNat with
  | some (n, q) => if r.mark.tkind = 1#4 then s.closeTransfers n q false else s
  | none => s

/-- The next MARK judges the turn before it: a SCHED or CTRL turn is missed when PREV_CHECK does not match (R341). After a
MARK that is not that of the next turn there is no PREV_CHECK for it, and it is neither confirmed nor missed: the turns
between are missed, and those of them that are SCHED or CTRL turns are counted by their own TURN_MISS (log entry 42). -/
def State.judgeTurn (s : State) (p g : Nat) (r : RxTurn) (m : Mark) : State :=
  let next := turnFollows (markPlace r.mark) (markPlace m) || decide (m.schedId ≠ r.mark.schedId)
  if r.missed || !next then s
  else if m.prevCheck = crc32c (r.cells.flatMap fun c => c.2.2) then s.confirmTurn p g r
  else if missCounts r.mark.tkind then (s.countMiss p (markPlace r.mark)).loseCells p r
  else s

/-- The bytes of a MARK body that are not zero by rule (Table 11-3). -/
def markBytes (m : Mark) : List Byte :=
  leBytes 8 m.round.toNat ++ leBytes 2 m.turn.toNat ++ leBytes 1 (m.tkind.toNat + 16 * b2n m.suppressed) ++ zeros 1 ++
    leBytes 2 m.flow.toNat ++ leBytes 2 m.freed.toNat ++ leBytes 4 m.schedId.toNat ++ leBytes 4 m.prevCheck.toNat ++
    leBytes 2 (m.source.toNat + 2 ^ 15 * b2n m.locked) ++ leBytes 1 m.hops.toNat ++ zeros 5

/-- Does a MARK on port `p` name another schedule than the device's active one (R334)? A port that is not UP runs the
bring-up table itself, so there the bring-up table is no other (log entry 42). -/
def State.otherSchedule (s : State) (p : Nat) (m : Mark) : Bool :=
  decide (m.schedId ≠ s.activeId) && (decide ((s.port p).state = .up) || decide (m.schedId ≠ 0))

/-- MARK_RECEIVED: the turn before it is judged, and its own turn begins in the round of the present nanosecond (R314). A
turn of another schedule counts as missed whatever its TKIND (R334), a suppressed one when it is SCHED or CTRL (R341). -/
def State.markReceived (s : State) (p g : Nat) (m : Mark) (corrected : Nat) : State :=
  if !(s.coreOn && !s.replaying && s.timed p && decide (g < groupsOf p)) then s
  else
    let s := s.count (fbReg p 0x20) corrected
    let s := match SMap.find? (s.port p).rx g with
      | some r => s.judgeTurn p g r m
      | none => s
    let other := s.otherSchedule p m
    let s := if other then s.raise (fbReg p 8) 0x10 else s
    let s := if other || (m.suppressed && missCounts m.tkind) then s.countMiss p (markPlace m) else s
    let turn : RxTurn := { mark := m, cells := [], missed := m.suppressed || other, round := s.curRound, kept := 0 }
    let s := s.modPort p fun r =>
      { r with rx := SMap.insert g turn (SMap.erase r.rx g), discards := SMap.erase r.discards g, freedPeer := m.freed,
               ivCells := if r.linkKey.isSome && decide (m.tkind ≠ 3#4) then r.ivCells ++ markBytes m else r.ivCells }
    s.heard p m.source.toNat m.hops.toNat m.locked

def execMarkReceived (port : PortNo) (group : Fin 3) (mark : HeardMark) (s : State) : Result :=
  .next (s.markReceived port.val group.val mark.mark mark.corrected)

/-- TURN_MISS: the MARK of the turn after the present one does not arrive on a lane group; cells that come without it
are discarded. The turn is known to be SCHED or CTRL. -/
def execTurnMiss (port : PortNo) (group : Fin 3) (s : State) : Result :=
  .next <|
    let p := port.val
    let g := group.val
    if !(s.coreOn && s.portUp p && decide (g < groupsOf p)) then s
    else
      match SMap.find? (s.port p).rx g with
      | none => (s.modPort p fun r => { r with missed := none }).countMiss p (s.curRound, 0)
      | some r =>
        let m := { r.mark with turn := r.mark.turn + 1 }
        let turn : RxTurn := { mark := m, cells := [], missed := true, round := s.curRound, kept := 0 }
        (s.countMiss p (markPlace m)).modPort p fun q => { q with rx := SMap.insert g turn (SMap.erase q.rx g) }

/-! Reception of a cell. -/

/-- Is a codeword of KIND `kind` in a turn of TKIND `tkind` taken on an UP port: its turn's MARK came and the turn is not
missed (R313, R334, R341)? The turn keeps the cell until it is confirmed. -/
def State.rxAccept (s : State) (loc : CellAt) (kind : Nat) (tkind : BitVec 4) (body : List Byte) : Option (RxTurn × State) :=
  let p := loc.port.val
  let g := loc.group.val
  match SMap.find? (s.port p).rx g with
  | none => none
  | some r =>
    if s.coreOn && s.portUp p && !r.missed && decide (r.mark.tkind = tkind) then
      let kept := { r with cells := r.cells ++ [(kind, loc.cidx.toNat, body)] }
      some (r, s.modPort p fun q =>
        { q with rx := SMap.insert g kept (SMap.erase q.rx g), discards := SMap.erase q.discards g,
                 ivCells := if q.linkKey.isSome then q.ivCells ++ body else q.ivCells })
    else none

def execSchedCellReceived (loc : CellAt) (body : List Byte) (s : State) : Result :=
  .next <|
    match s.rxAccept loc 2 1#4 body with
    | some (r, s) => s.schedCell loc.port.val r.mark.flow.toNat body
    | none => s

/-! OPEN cells (R274, R275, R279, R335, R368, R369). -/

/-- A CTRL ACK or REFUSAL of the write of an OPEN cell, towards its source. -/
def State.ackOpen (s : State) (body : List Byte) : State :=
  s.sendCtrl (numAt body 10 2) (ctrlCell 1 (numAt body 2 2) (numAt body 4 4) (numAt body 10 2) s.hallIndex [])

def State.refuseOpen (s : State) (body : List Byte) (cause : Nat) : State :=
  s.sendCtrl (numAt body 10 2) (ctrlCell 2 (numAt body 2 2) (numAt body 4 4) (numAt body 10 2) s.hallIndex
    (leBytes 2 cause ++ zeros 6 ++ leBytes 8 s.now))

/-- Note a refused write of a source and job; `more` is whether cells of it may follow. -/
def State.noteRefusal (s : State) (body : List Byte) (more : Bool) : State :=
  { s with refusals := s.refusals ++ [{ source := numAt body 10 2, job := numAt body 2 2, tag := numAt body 4 4, more := more }] }

/-- The cause for which a PUT cell is refused, if any (Table 9-5, R414). -/
def State.putCause (s : State) (body : List Byte) (len : Nat) : Option Nat :=
  let n := numAt body 12 2 % 512
  let job := numAt body 2 2
  firstCause
    [(s.resetting (n / 16), 0x103),
     (s.ec.forfeited.contains job, 0x106),
     (!s.seatIs n .active, 0x101),
     (decide (s.job n ≠ job), 0x102),
     (!inWin (s.csWin n) (numAt body 16 8) len, 0x100)]

/-- Is the cell one of a PUT that has been refused already? -/
def State.putRefused (s : State) (body : List Byte) : Bool :=
  s.refusals.any fun f => f.more &&
    decide (f.source = numAt body 10 2 ∧ f.job = numAt body 2 2 ∧ f.tag = numAt body 4 4)

/-- The rest of a refused PUT has come. -/
def State.endRefused (s : State) (body : List Byte) : State :=
  { s with refusals := s.refusals.map fun f =>
      if f.source = numAt body 10 2 ∧ f.job = numAt body 2 2 ∧ f.tag = numAt body 4 4 then { f with more := false } else f }

/-- A PUT cell at its target: applied as it arrives, acknowledged after LAST, or refused once. -/
def State.applyPut (s : State) (body : List Byte) : State :=
  let len := min 608 (numAt body 14 2)
  let last := decide (numAt body 28 1 / 2 % 2 = 1)
  if s.putRefused body then if last then s.endRefused body else s
  else
    match s.putCause body len with
    | some c => (s.refuseOpen body c).noteRefusal body (!last)
    | none =>
      let s := s.csWrite (numAt body 16 8) (slice body 32 len)
      if last then s.ackOpen body else s

/-- The refused writes that may be of the seat that issued a REMOTE_ADD: those of its source and JOB. -/
def State.priorOf (s : State) (body : List Byte) : List PriorRefusal :=
  s.refusals.filter fun f => decide (f.source = numAt body 10 2 ∧ (f.job = numAt body 2 2 ∨ f.job = 0))

/-- Was an earlier write of the issuing seat refused after its release point (R279)? The cells name neither the seat nor
its completed fences, so which of the refused writes count is a free value (log entry 43). -/
def State.priorRefused (s : State) (body : List Byte) : Bool :=
  (s.priorOf body).zipIdx.any fun q => decide ((Config.freeByte s.free q.2).toNat % 2 = 1)

/-- The cause for which a REMOTE_ADD is refused, if any. -/
def State.addCause (s : State) (body : List Byte) : Option Nat :=
  let job := numAt body 2 2
  let release := decide (numAt body 28 1 % 2 = 1)
  match s.tumbOwner (numAt body 16 8) with
  | none => some 0x104
  | some n =>
    firstCause
      [(s.resetting (n / 16), 0x103),
       (s.ec.forfeited.contains job, 0x106),
       (!s.seatIs n .active, 0x101),
       (decide (s.job n ≠ job), 0x102),
       (release && s.priorRefused body, 0x105)]

/-- A REMOTE_ADD at its target. A refused RELEASE one is itself the release point of what follows, and so refuses no later
one (R279). -/
def State.applyAdd (s : State) (body : List Byte) : State :=
  let t := numAt body 16 8
  let release := decide (numAt body 28 1 % 2 = 1)
  let c := s.addCause body
  let s := if release then s.draw else s
  match c with
  | some k => if release then s.refuseOpen body k else (s.refuseOpen body k).noteRefusal body false
  | none => (s.setTumbler t (s.tumbler t + BitVec.ofNat 32 (numAt body 24 4))).ackOpen body

/-- An OPEN cell of kind `okind` on port `p`: for another device it is forwarded and keeps its buffer while the queue is
full; here it is applied. A cell of another or a reserved OKIND is discarded. -/
def State.takeOpen (s : State) (p okind : Nat) (body : List Byte) : State :=
  if numAt body 0 1 ≠ okind ∨ 1 < okind then s.freeCell (some p)
  else if numAt body 8 2 ≠ s.hallIndex then s.sendOpen (numAt body 8 2) body none none (some p)
  else
    let s := s.freeCell (some p)
    if okind = 0 then s.applyPut body else s.applyAdd body

/-- An OPEN cell received: with link encryption its job joins those of the interval (R444). -/
def State.openReceived (s : State) (loc : CellAt) (okind : Nat) (body : List Byte) : State :=
  match s.rxAccept loc 3 2#4 body with
  | none => s
  | some (_, s) =>
    let p := loc.port.val
    let job := numAt body 2 2
    let s := s.modPort p fun r => { r with ivJobs := if r.linkKey.isSome then (job :: r.ivJobs).dedup else r.ivJobs }
    s.takeOpen p okind body

def execPutCellReceived (loc : CellAt) (body : List Byte) (s : State) : Result := .next (s.openReceived loc 0 body)
def execRemoteAddCellReceived (loc : CellAt) (body : List Byte) (s : State) : Result := .next (s.openReceived loc 1 body)

/-! CTRL cells (R275, R363, R369, R413, R415). -/

/-- The posted write that an ACK or REFUSAL names: its SEQ_TAG, JOB, and the device that answers. -/
def State.postedOf (s : State) (body : List Byte) : Option Posted :=
  s.posted.find? fun w =>
    decide (w.tag.toNat = numAt body 4 4 ∧ w.job = numAt body 2 2 ∧ w.dest = numAt body 10 2)

/-- A FORFEIT cell (R413): recorded and sent on, unless its pair has been seen or its time is over. -/
def State.forfeitArrives (s : State) (p : Nat) (body : List Byte) : State :=
  let src := numAt body 10 2
  let tag := numAt body 4 4
  let job := numAt body 2 2
  let effect := numAt body 16 8
  if s.ec.seen.any (fun q => decide (q.source = src ∧ q.tag = tag)) || decide (effect + s.lead ≤ s.curRound) then s
  else
    let hops := numAt body 36 1 + 1
    let body' := body.take 36 ++ leBytes 1 hops ++ body.drop 37
    let late := decide (effect ≤ s.curRound)
    let at' := if late then s.curRound + 1 else effect
    let seen := addSeen s.ec.seen { source := src, tag := tag, till := effect + s.lead }
    let f : Forfeit := { job := job, effect := at', tag := tag, cause := numAt body 32 2, origin := src }
    let known := if job = 0 then s.ec.forfeits else s.ec.forfeits ++ [f]
    let s := { s with ec := { s.ec with seen := seen, forfeits := known } }
    let s := s.queueCtrlAll (s.upPorts.filter fun n => decide (n ≠ p)) body'
    let s := (s.logFault 0x100).bumpObj 0x60B3 0 1
    if late && decide (job ≠ 0) then s.logFault 0x200 else s

/-- A CTRL cell of kind `kind` on port `p`; ACK and REFUSAL for another device are sent on by R369. A cell of another or
a reserved CTRL_KIND is discarded. -/
def State.takeCtrl (s : State) (p kind : Nat) (body : List Byte) : State :=
  if numAt body 0 1 ≠ kind then s
  else
    match kind with
    | 1 =>
      if numAt body 8 2 ≠ s.hallIndex then s.sendCtrl (numAt body 8 2) body
      else
        match s.postedOf body with
        | some w => s.settle w.id
        | none => s
    | 2 =>
      if numAt body 8 2 ≠ s.hallIndex then s.sendCtrl (numAt body 8 2) body
      else
        match s.postedOf body with
        | some w => s.lateRefusal w (numAt body 16 2) (numAt body 10 2) (numAt body 24 8)
        | none => s
    | 3 => s.forfeitArrives p body
    | 4 => s.sideArrives p body
    | _ => s

def State.ctrlReceived (s : State) (loc : CellAt) (kind : Nat) (body : List Byte) : State :=
  match s.rxAccept loc 4 4#4 body with
  | some (_, s) => s.takeCtrl loc.port.val kind body
  | none => s

def execAckReceived (loc : CellAt) (body : List Byte) (s : State) : Result := .next (s.ctrlReceived loc 1 body)
def execRefusalReceived (loc : CellAt) (body : List Byte) (s : State) : Result := .next (s.ctrlReceived loc 2 body)
def execForfeitCellReceived (loc : CellAt) (body : List Byte) (s : State) : Result := .next (s.ctrlReceived loc 3 body)
def execSideCellReceived (loc : CellAt) (body : List Byte) (s : State) : Result := .next (s.ctrlReceived loc 4 body)

/-! Link authentication (R443, R444). -/

/-- The lowest seat of job `j`, 0x1FF with none. -/
def State.jobSeat (s : State) (j : Nat) : Nat :=
  (s.seatList.find? fun n => !s.seatIs n .free && decide (s.job n = j)).getD 0x1FF

/-- AUTH_FAIL of port `p`: the jobs bound on it and those of the interval's OPEN cells are forfeited, and it goes DOWN. -/
def State.authFail (s : State) (p : Nat) : State :=
  let jobs := (s.port p).ivJobs
  let limit := s.missLimit
  let s := (s.raise (scReg 8) (2 ^ (16 + p))).bumpObj 0x60C1 0 1
  let s := (s.modPort p fun r => { r with misses := max r.misses limit }).missWatch p
  let s := jobs.foldl (fun s j => s.originate j 5 (s.jobSeat j)) s
  s.goDown p

/-- AUTH_TAG_RECEIVED: the tag of the interval that ended with this MAINT turn. The IV's port number is the sender's. -/
def execAuthTagReceived (port : PortNo) (tag : BitVec 128) (s : State) : Result :=
  .next <|
    let p := port.val
    let r := s.port p
    match r.linkKey with
    | none => s
    | some k =>
      if !(s.coreOn && s.portUp p) then s
      else if !r.ivDirty && !s.maintMissed p && decide (tag ≠ Config.gcmTag k (partnerPort p) r.interval.toNat r.ivCells) then
        s.authFail p
      else s.modPort p fun q => { q with interval := q.interval + 1, ivCells := [], ivJobs := [], ivDirty := false }

end Sys2Proof.Machine
end

