-- ==== Sys2Proof/Machine/Digest.lean ====
section
/-! DEFINITION. SHA-384 (FIPS 180-4) and HMAC-SHA-384 (FIPS 198-1), by which the device is measured and its keys are
derived (R427 to R435). -/

namespace Sys2Proof.Machine

/-- A word of SHA-384. -/
abbrev Word64 := BitVec 64

def sha384K : List Word64 :=
  [0x428a2f98d728ae22, 0x7137449123ef65cd, 0xb5c0fbcfec4d3b2f, 0xe9b5dba58189dbbc, 0x3956c25bf348b538] ++
  [0x59f111f1b605d019, 0x923f82a4af194f9b, 0xab1c5ed5da6d8118, 0xd807aa98a3030242, 0x12835b0145706fbe] ++
  [0x243185be4ee4b28c, 0x550c7dc3d5ffb4e2, 0x72be5d74f27b896f, 0x80deb1fe3b1696b1, 0x9bdc06a725c71235] ++
  [0xc19bf174cf692694, 0xe49b69c19ef14ad2, 0xefbe4786384f25e3, 0x0fc19dc68b8cd5b5, 0x240ca1cc77ac9c65] ++
  [0x2de92c6f592b0275, 0x4a7484aa6ea6e483, 0x5cb0a9dcbd41fbd4, 0x76f988da831153b5, 0x983e5152ee66dfab] ++
  [0xa831c66d2db43210, 0xb00327c898fb213f, 0xbf597fc7beef0ee4, 0xc6e00bf33da88fc2, 0xd5a79147930aa725] ++
  [0x06ca6351e003826f, 0x142929670a0e6e70, 0x27b70a8546d22ffc, 0x2e1b21385c26c926, 0x4d2c6dfc5ac42aed] ++
  [0x53380d139d95b3df, 0x650a73548baf63de, 0x766a0abb3c77b2a8, 0x81c2c92e47edaee6, 0x92722c851482353b] ++
  [0xa2bfe8a14cf10364, 0xa81a664bbc423001, 0xc24b8b70d0f89791, 0xc76c51a30654be30, 0xd192e819d6ef5218] ++
  [0xd69906245565a910, 0xf40e35855771202a, 0x106aa07032bbd1b8, 0x19a4c116b8d2d0c8, 0x1e376c085141ab53] ++
  [0x2748774cdf8eeb99, 0x34b0bcb5e19b48a8, 0x391c0cb3c5c95a63, 0x4ed8aa4ae3418acb, 0x5b9cca4f7763e373] ++
  [0x682e6ff3d6b2b8a3, 0x748f82ee5defb2fc, 0x78a5636f43172f60, 0x84c87814a1f0ab72, 0x8cc702081a6439ec] ++
  [0x90befffa23631e28, 0xa4506cebde82bde9, 0xbef9a3f7b2c67915, 0xc67178f2e372532b, 0xca273eceea26619c] ++
  [0xd186b8c721c0c207, 0xeada7dd6cde0eb1e, 0xf57d4f7fee6ed178, 0x06f067aa72176fba, 0x0a637dc5a2c898a6] ++
  [0x113f9804bef90dae, 0x1b710b35131c471b, 0x28db77f523047d84, 0x32caab7b40c72493, 0x3c9ebe0a15c9bebc] ++
  [0x431d67c49c100d4c, 0x4cc5d4becb3e42b6, 0x597f299cfc657e2a, 0x5fcb6fab3ad6faec, 0x6c44198c4a475817]

/-- The standard initial value of SHA-384. -/
def sha384Init : List Word64 :=
  [0xcbbb9d5dc1059ed8, 0x629a292a367cd507, 0x9159015a3070dd17, 0x152fecd8f70e5939,
   0x67332667ffc00b31, 0x8eb44a8768581511, 0xdb0c2e0d64f98fa7, 0x47b5481dbefa4fa4]

/-- The next word of the message schedule, from the last 16 words, oldest first. -/
def sha384Next (w : List Word64) : Word64 :=
  let g := fun i => w.getD i 0
  let s0 := (g 1).rotateRight 1 ^^^ (g 1).rotateRight 8 ^^^ (g 1 >>> 7)
  let s1 := (g 14).rotateRight 19 ^^^ (g 14).rotateRight 61 ^^^ (g 14 >>> 6)
  g 0 + s0 + g 9 + s1

/-- One of the 80 rounds, on the working variables a to h and the schedule window. -/
def sha384Round (st : List Word64 × List Word64) (k : Word64) : List Word64 × List Word64 :=
  let x := fun i => st.1.getD i 0
  let sumE := (x 4).rotateRight 14 ^^^ (x 4).rotateRight 18 ^^^ (x 4).rotateRight 41
  let choose := (x 4 &&& x 5) ^^^ (~~~ (x 4) &&& x 6)
  let t := x 7 + sumE + choose + k + st.2.getD 0 0
  let sumA := (x 0).rotateRight 28 ^^^ (x 0).rotateRight 34 ^^^ (x 0).rotateRight 39
  let majority := (x 0 &&& x 1) ^^^ (x 0 &&& x 2) ^^^ (x 1 &&& x 2)
  ([t + (sumA + majority), x 0, x 1, x 2, x 3 + t, x 4, x 5, x 6], st.2.drop 1 ++ [sha384Next st.2])

/-- The 16 big-endian words of a block of 128 bytes. -/
def sha384Words (block : List Byte) : List Word64 :=
  (List.range 16).map fun i => BitVec.ofNat 64 (leNat (slice block (8 * i) 8).reverse)

def sha384Compress (h : List Word64) (block : List Byte) : List Word64 :=
  List.zipWith (· + ·) h (sha384K.foldl sha384Round (h, sha384Words block)).1

def sha384Blocks : Nat → List Word64 → List Byte → List Word64
  | 0, h, _ => h
  | n + 1, h, bs => sha384Blocks n (sha384Compress h (bs.take 128)) (bs.drop 128)

/-- The message with its padding: 0x80, zero bytes, and the length in bits in 16 bytes. -/
def sha384Pad (bs : List Byte) : List Byte :=
  bs ++ [0x80#8] ++ zeros ((239 - bs.length % 128) % 128) ++ beBytes 16 (8 * bs.length)

/-- SHA-384 of a message, as the number its 48 bytes spell. -/
def sha384 (bs : List Byte) : BitVec 384 :=
  let p := sha384Pad bs
  let h := sha384Blocks (p.length / 128) sha384Init p
  BitVec.ofNat 384 (leNat (((h.take 6).flatMap fun w => beBytes 8 w.toNat).reverse))

/-- HMAC-SHA-384 of a message under a key. -/
def hmac384 (key msg : List Byte) : BitVec 384 :=
  let k := padTo 128 (if 128 < key.length then beBytes 48 (sha384 key).toNat else key)
  let mix := fun (b : Byte) => k.map fun x => x ^^^ b
  sha384 (mix 0x5C ++ beBytes 48 (sha384 (mix 0x36 ++ msg)).toNat)

end Sys2Proof.Machine
end

