-- ==== Sys2Proof/Machine/Seats.lean ====
section
/-! DEFINITION. Seats and the host's windows: doorbells, group launches, CREATE and RELEASE, gating and wake,
BAR2 accesses, configuration requests, interrupts' hold-offs and the host port's resets. -/

namespace Sys2Proof.Machine

/-! Access under TDISP (R440). -/

/-- Is an access with these IDE attributes admitted to the resources of seat `n` (Table 15-4)? -/
def State.tdiAllows (s : State) (n : Nat) (t : Tlp) : Bool :=
  match (s.seat n).tdi with
  | .unlocked => true
  | .run => t.tbit && t.stream.isSome && decide (t.stream = (s.seat n).tdiStream)
  | _ => false

/-- BAR2_DENIED (R50, R440). -/
def State.denied (s : State) : State := s.raise (hiReg 8) 1

/-- HOST_MUTED: a write from the real host during a replayed step (R387). -/
def State.muted (s : State) : State := s.raise (ecReg 0x838) 0x20

/-! Group queues. -/

def execGroupLaunchEffect (gq : GroupNo) (s : State) : Result := .next (s.launchEffect gq.val)

/-! Doorbells (R51, R52, R59). -/

/-- A doorbell value takes effect on an ACTIVE seat; the flag says whether it was accepted. Bits 31:22 of a GQ_LAUNCH
value, which Table 2-2 does not name, play no part in the launch and read back as written (DESIGN CHOICE, log entry 65). -/
def State.ringBell (s : State) (n off : Nat) (v : Word) : Bool × State :=
  let bad := s.raise (seatReg n 0x64) 1
  let r := s.seat n
  match off with
  | 0x0 => if s.prodOk n v then (true, (s.modSeat n fun r => { r with prodAcc := v }).refreshWd n) else (false, bad)
  | 0x4 =>
    let count := v.toNat % 2 ^ 16
    if count = 0 then (false, s)
    else
      let l := s.launch n (field v 21 16) count none
      if l.1 = .accepted then (true, l.2.modSeat n fun r => { r with gqAcc := v }) else (false, l.2)
  | 0x8 =>
    let size := s.ringSize n 0x24
    if (s.reg (seatReg n 0x28) - v).toNat ≤ size ∧ (v - r.cqAcc).toNat ≤ size then
      let s := s.modSeat n fun r => { r with cqAcc := v }
      match r.cqHeld with
      | some idx =>
        if s.cqFull n then (true, s)
        else
          match s.findRun n idx with
          | some q => (true, s.endOf n q)
          | none => (true, s.modSeat n fun r => { r with cqHeld := none })
      | none => (true, s)
    else (false, bad)
  | 0xC =>
    let size := s.ringSize n 0x30
    if (s.reg (seatReg n 0x34) - v).toNat ≤ size ∧ (v - r.eqAcc).toNat ≤ size then
      (true, s.modSeat n fun r => { r with eqAcc := v })
    else (false, bad)
  | _ => (false, s)

/-- A host write to the register at `off` of doorbell page `n`. -/
def State.bell (s : State) (n off : Nat) (b : Bell) : State :=
  if !s.barLive then s
  else if !partPresent s.variant (n / 16) then s.absentAccess
  else if s.rec_.replay then s.muted
  else if !bit (s.reg (hiReg 0)) 0 then s
  else if b.size ≠ 4 then s.raise (hiReg 8) 4
  else if !s.tdiAllows n b.tlp then s.denied
  else
    match (s.seat n).state with
    | .waking => s.modSeat n fun r => { r with heldBells := r.heldBells ++ [{ offset := off, value := b.value }] }
    | .active =>
      let r := s.ringBell n off b.value
      if r.1 then r.2.recordHost 4 (n * 0x1000 + off) b.value.toNat [] else r.2
    | _ => s.raise (ctReg (n / 16) 0xC) 2

def execRingProd (seat : SeatNo) (b : Bell) (s : State) : Result := .next (s.bell seat.val 0x0 b)
def execGqLaunch (seat : SeatNo) (b : Bell) (s : State) : Result := .next (s.bell seat.val 0x4 b)
def execCqCons (seat : SeatNo) (b : Bell) (s : State) : Result := .next (s.bell seat.val 0x8 b)
def execEqCons (seat : SeatNo) (b : Bell) (s : State) : Result := .next (s.bell seat.val 0xC b)

/-- What a read of a doorbell page returns: the last accepted value (R51). -/
def State.bellRead (s : State) (n off : Nat) : Word :=
  if !partPresent s.variant (n / 16) then 0
  else match off with
    | 0x0 => (s.seat n).prodAcc
    | 0x4 => (s.seat n).gqAcc
    | 0x8 => (s.seat n).cqAcc
    | 0xC => (s.seat n).eqAcc
    | _ => 0

/-! CREATE (R55, R56, Table 2-4). -/

/-- Do a seat's ring of `bytes` bytes at the address of its BASE register lie inside its host window (R516)? -/
def State.ringInside (s : State) (n o bytes : Nat) : Bool :=
  inWin (s.hostWin n) (s.regField (seatReg n o) 17 0 * unit64K) bytes

def log2Ok (l : Nat) : Bool := decide (6 ≤ l ∧ l ≤ 16)

/-- WINDOW_INVALID (Table 2-4, R45, R265, R290). -/
def State.windowInvalid (s : State) (n : Nat) : Bool :=
  let cs := s.csWin n
  let host := s.hostWin n
  let others := s.seatList.filter fun m => decide (m ≠ n) && !s.seatIs m .free
  let ring := fun (base cfg bytes : Nat) =>
    let l := s.regField (seatReg n cfg) 4 0
    log2Ok l && !s.ringInside n base (2 ^ l * bytes)
  others.any (fun m => overlap cs (s.csWin m)) || overlap cs (s.scBase, csSize) ||
  decide (csSize < cs.2) || decide (csSize < host.2) ||
  (List.range 4).any (fun i => decide (csSize < (s.shareWin n i).2)) ||
  decide (host.1 < host.2 ∧ (host.1 < cs.1 ∨ cs.2 < host.2)) ||
  ring 0x14 0x18 64 || ring 0x20 0x24 16 || ring 0x2C 0x30 32 ||
  (List.range 4).any (fun i => others.any fun m =>
    overlap (s.shareWin n i) (s.csWin m) && decide (s.job m ≠ s.job n)) ||
  decide (hbmUnits s.variant * unit64K < (s.hbmWin n).2 ∧ (s.hbmWin n).1 < (s.hbmWin n).2) ||
  others.any fun m => decide (m / 16 = n / 16) && overlap (s.hbmWin n) (s.hbmWin m)

/-- RING_INVALID. -/
def State.ringInvalid (s : State) (n : Nat) : Bool :=
  [0x18, 0x24, 0x30].any fun o => !log2Ok (s.regField (seatReg n o) 4 0)

/-- TUMBLER_CONFLICT. -/
def State.tumblerConflict (s : State) (n : Nat) : Bool :=
  let r := s.tumbRange n
  let count := r.2 - r.1
  decide (count = 0 ∨ 8192 < count ∨ 8192 < r.2) ||
    s.seatList.any fun m => decide (m ≠ n) && !s.seatIs m .free && overlap r (s.tumbRange m)

/-- ARRAYS_UNAVAILABLE. -/
def State.arraysUnavailable (s : State) (n : Nat) : Bool :=
  let p := n / 16
  let gone := fun (a : Nat) => s.dedicatedElsewhere p n a || (s.arr p a).retired
  if bit (s.seatCfg n) 10 then (List.range 8).any fun a => bit (s.seatCfg n) a && gone a
  else (List.range 8).all gone

/-- The cause a CREATE reports: 0 when it is carried out (Table 2-4, R434). -/
def State.createCause (s : State) (n : Nat) : Nat :=
  if s.resetting (n / 16) || !s.sc.drbgOk then 7
  else if !s.seatIs n .free then 1
  else if s.windowInvalid n then 3
  else if s.ringInvalid n then 4
  else if s.tumblerConflict n then 5
  else if s.arraysUnavailable n then 6
  else 0

/-- The ward key of R434: the first 512 bits of two HMAC blocks keyed by WARD_SEED. -/
def wardKeyOf (seed : Nat) (n epoch cgen : Nat) (nonce : BitVec 128) : BitVec 512 :=
  let msg := fun (c : Nat) => leBytes 1 c ++ [0x57#8, 0x41#8, 0x52#8, 0x44#8] ++ leBytes 2 n ++ leBytes 2 epoch ++
    leBytes 1 cgen ++ leBytes 16 nonce.toNat
  let block := fun (c : Nat) => (hmac384 (beBytes 48 seed) (msg c)).toNat
  BitVec.ofNat 512 ((block 1 * 2 ^ 384 + block 2) / 2 ^ 256)

/-- The next output of the DRBG (R434). -/
def State.drbgNext (s : State) : BitVec 256 := Config.drbg s.sc.draws
def State.drbgStep (s : State) : State := { s with sc := { s.sc with draws := s.sc.draws + 1 } }

/-- The command ends with a cause; BUSY clears (R55). -/
def State.createEnds (s : State) (n cause : Nat) : State := s.seatResult (n / 16) false (n % 16) cause

/-- An accepted CREATE: generation, indices, ward key; in a partition that is not awake the seat is WAKING until the wake
completes (R56, R287). -/
def State.createSeat (s : State) (n : Nat) : State :=
  let p := n / 16
  let cgen := (s.cgen n + 1) % 256
  let s := s.setRegN (seatReg n 0x6C) cgen
  let s := ((s.setReg (seatReg n 0x1C) 0).setReg (seatReg n 0x28) 0).setReg (seatReg n 0x34) 0
  let key := wardKeyOf s.sc.wardSeed n (s.epoch p) cgen (BitVec.ofNat 128 s.drbgNext.toNat)
  let s := s.drbgStep
  let s := s.modSeat n fun r =>
    { SeatRec.fresh with state := r.state, wardKey := some key, quietTill := r.quietTill,
                         heldEvent := r.heldEvent, tdi := r.tdi, tdiStream := r.tdiStream, tdiNonce := r.tdiNonce }
  let r := s.part p
  if r.lowV then
    ((s.toState n .waking).takeBack p fun _ => true).modPart p fun r =>
      { r with lowV := false, wakeAt := some (s.uptime + 50000), creates := r.creates ++ [n] }
  else if r.gated || r.gatingAt.isSome || r.wakeAt.isSome then
    (s.toState n .waking).modPart p fun r =>
      { r with creates := r.creates ++ [n],
               wakeAt := if r.gatingAt.isSome then none else some (r.wakeAt.getD (s.uptime + 18000)) }
  else (s.toState n .active).createEnds n 0

/-- A checked CREATE is carried out or refused. -/
def State.runCreate (s : State) (n : Nat) : State :=
  let c := s.createCause n
  if c = 0 then s.createSeat n else s.createEnds n c

/-- CT_SEAT_CMD with OP = CREATE (R55, R243). -/
def State.seatCreate (s : State) (p l : Nat) : State :=
  let n := p * 16 + l
  if !s.barLive then s
  else if !partPresent s.variant p then s.absentAccess
  else if bit (s.reg (ctReg p 4)) 31 then s.raise (ctReg p 0xC) 1
  else
    let s := s.seatResult p true l 0
    if s.resize.isSome && !s.resetting p then { s with heldCreates := s.heldCreates ++ [n] } else s.runCreate n

def execSeatCreate (part : PartNo) (loc : Fin 16) (s : State) : Result := .next (s.seatCreate part.val loc.val)

/-! RELEASE (R55, R58). -/

/-- CT_SEAT_CMD with OP = RELEASE. -/
def State.seatRelease (s : State) (p l : Nat) : State :=
  let n := p * 16 + l
  if !s.barLive then s
  else if !partPresent s.variant p then s.absentAccess
  else if bit (s.reg (ctReg p 4)) 31 then s.raise (ctReg p 0xC) 1
  else if s.resetting p then s.seatResult p false l 7
  else if s.seatIs n .free then s.seatResult p false l 2
  else (s.seatResult p true l 0).startRelease n

def execSeatRelease (part : PartNo) (loc : Fin 16) (s : State) : Result := .next (s.seatRelease part.val loc.val)

/-- The clearing of the CS window ends: zeros, no ward key, tumblers 0, FREE; an empty partition gates. A tile already in
the cells completes first (R58). -/
def State.releaseDone (s : State) (n : Nat) : State :=
  if !s.seatIs n .releasing || s.resetting (n / 16) || (s.seat n).running.any fun r => r.tileWork?.isSome then s
  else
    let p := n / 16
    let s := s.voidSeat n true
    let w := s.csWin n
    let s := s.csClear w.1 (w.2 - w.1)
    let s := s.zeroTumblers n
    let s := s.modSeat n fun r => { r with wardKey := none }
    let posted := s.posted.map fun (w : Posted) => if w.seat = n then { w with seat := n + 512 } else w
    let s := { s with posted := posted }
    let s := (s.toState n .free).leaveForfeited
    let res := s.reg (ctReg p 4)
    let s := if bit res 31 && decide (field res 11 8 = n % 16) then s.seatResult p false (n % 16) 0 else s
    s.gatePart p

def execSeatReleaseComplete (seat : SeatNo) (s : State) : Result := .next (s.releaseDone seat.val)

/-! Gating and wake (R489, R490, R35). -/

/-- Gating of a partition completes; a wake that waits for it begins. -/
def State.gatingDone (s : State) (p : Nat) : State :=
  match (s.part p).gatingAt with
  | none => s
  | some t =>
    let s := (((s.reachUp t).foldPart p).dropWorking p).takeBack p fun _ => true
    let s := (List.range 8).foldl (fun s a => s.modArr p a fun r =>
      { ArrRec.fresh with faults := r.faults, retired := r.retired, gateIdle := s.gateIdleNow p }) s
    s.modPart p fun r =>
      { r with gated := true, gatingAt := none, worked := [],
               wakeAt := if r.creates.isEmpty then none else some (s.uptime + 18000) }

def execGatingComplete (part : PartNo) (s : State) : Result := .next (s.gatingDone part.val)

/-- QZ_DEFAULTS from objects 0x2400:01 and :02 (R196, R199). -/
def State.loadQzDefaults (s : State) (p : Nat) : State :=
  s.setRegN (qzReg p 0) (s.obj 0x2400 2 655 * 2 ^ 16 + s.obj 0x2400 1 6)

/-- Doorbells held during a wake take effect in the order they came (R35). -/
def State.ringHeld (s : State) (n : Nat) : State :=
  let bells := (s.seat n).heldBells
  let s := s.modSeat n fun r => { r with heldBells := [] }
  bells.foldl (fun s b =>
    let r := s.ringBell n b.offset b.value
    if r.1 then r.2.recordHost 4 (n * 0x1000 + b.offset) b.value.toNat [] else r.2) s

/-- A partition wake completes: WAKING seats are ACTIVE, held doorbells take effect, a waiting reset runs. -/
def State.wakeDone (s : State) (p : Nat) : State :=
  match (s.part p).wakeAt with
  | none => s
  | some t =>
    let s := s.reachUp t
    let seats := (s.part p).creates
    let queued := (s.part p).resetQueued
    let s := s.modPart p fun r => { r with gated := false, wakeAt := none, creates := [], resetQueued := none }
    let s := s.loadQzDefaults p
    let s := seats.foldl (fun s n =>
      if s.seatIs n .waking then ((s.toState n .active).createEnds n 0).ringHeld n else s.createEnds n 0) s
    match queued with
    | some c => s.startPartReset p c
    | none => s

def execWakeComplete (part : PartNo) (s : State) : Result := .next (s.wakeDone part.val)

/-! BAR2 (R50, R74, R75, R240, R440). -/

/-- The started descriptor of seat `n` whose guarded granules the bytes meet, if any (R73, R74). -/
def State.pendingRegion (s : State) (n a len : Nat) : Option Run :=
  (s.seat n).running.find? fun r => r.guard.any fun g => g.meets a len

/-- What a BAR2 read finds at byte `a` with the guard off: unspecified where a descriptor in work writes it, the stored
byte `b` elsewhere (R75). -/
def State.pendingOr (s : State) (n a : Nat) (b : Byte) : Byte :=
  match (s.seat n).running.find? fun r => r.guard.any fun g => g.holds a with
  | some r => Config.pendingByte n r.index.toNat a
  | none => b

/-- A BAR2 read: the bytes returned, whether the completion is poisoned, and the state after it. -/
def State.bar2Read (s : State) (a len : Nat) (t : Tlp) : List Byte × Bool × State :=
  let no := (zeros len, false, s.denied)
  if !bit (s.reg (hiReg 0)) 1 then no
  else
    match s.hostWinSeat a len with
    | none => no
    | some n =>
      if !s.tdiAllows n t then no
      else
        match s.pendingRegion n a len with
        | some _ =>
          if s.guardOn n then (List.replicate len 0xFF#8, false, s.raise (seatReg n 0x64) 2)
          else
            let f := s.csRead a len
            (f.1.mapIdx fun i b => s.pendingOr n (a + i) b, f.2)
        | none => s.csRead a len

def execBar2Read (addr len : Nat) (tlp : Tlp) (s : State) : Result :=
  if s.hostPort && decide (s.fw.boot = .failed) then .next (s.emit (.readData (zeros len) false))
  else if !s.barLive then .next s
  else
    let r := s.bar2Read addr len tlp
    .next (r.2.2.emit (.readData r.1 r.2.1))

/-- A BAR2 write. -/
def State.bar2Write (s : State) (a : Nat) (bs : List Byte) (t : Tlp) : State :=
  if s.rec_.replay then s.muted
  else if !bit (s.reg (hiReg 0)) 1 then s.denied
  else
    match s.hostWinSeat a bs.length with
    | none => s.denied
    | some n =>
      if !s.tdiAllows n t then s.denied
      else if s.guardOn n && (s.pendingRegion n a bs.length).isSome then s.raise (seatReg n 0x64) 4
      else (s.csWrite a bs).recordHost 2 a 0 bs

def execBar2Write (addr : Nat) (data : List Byte) (tlp : Tlp) (s : State) : Result :=
  .next (if s.barLive then s.bar2Write addr data tlp else s)

/-! Interrupt hold-offs (R72, R396). -/

/-- The hold-off of a seat's vector ends: one message delivers the events held. -/
def State.seatHoldoffEnd (s : State) (n : Nat) : State :=
  if (s.seat n).heldEvent then
    let s := s.reachUp (s.seat n).quietTill
    (s.modSeat n fun r => { r with heldEvent := false }).signalSeat n
  else s

def execSeatVectorHoldoffEnd (seat : SeatNo) (s : State) : Result := .next (s.seatHoldoffEnd seat.val)

def State.ecHoldoffEnd (s : State) : State :=
  if s.ec.held then
    let s := s.reachUp s.ec.holdTill
    ({ s with ec := { s.ec with held := false } }).signalEc
  else s

def execEcVectorHoldoffEnd (s : State) : Result := .next s.ecHoldoffEnd

/-! The host port (R1, R246, R428, R438, R496). -/

/-- FW_READY (Table 2-14). -/
def State.fwReady (s : State) : Bool := decide (s.fw.boot = .ready)

/-- A configuration request completes normally, or with Configuration Request Retry Status (R428, R494, R496). -/
def execConfigRequest (s : State) : Result :=
  if !s.hostPort then .next s
  else
    let normal := (s.coreOn && s.fwReady) ||
      (decide (s.fw.boot = .failed) && decide (s.fw.bootAt + 1000000000 ≤ s.uptime))
    .next (s.emit (.config normal))

/-- A PCIe AtomicOp request aimed at a BAR completes with Unsupported Request (R246). -/
def execPcieAtomicopRequest (s : State) : Result :=
  .next (if s.coreOn && !s.pw.perstLow then s.emit .unsupportedRequest else s)

/-- PERST_N resets the host port, HI_, configuration space and the IDE streams, and every TDI goes to ERROR (Table 17-5). -/
def execPerstN (s : State) : Result :=
  if !s.aoOn then .next s
  else
    let s := { s with pw := { s.pw with perstLow := true },
                      sc := { s.sc with ideLink := false, ideSel := [], ideBad := [] } }
    let s := (s.resetRegs (hiReg 0) (hiReg 0x10000)).resetRegs (msixReg 0) (msixReg 0x10000)
    .next (s.seatList.foldl State.tdiError s)

/-- Release of PERST_N: the host port trains again; the negotiated link is PCIe generation 6 at 16 lanes (log entry 10). -/
def execPerstNRelease (s : State) : Result :=
  .next (if s.aoOn then
    ({ s with pw := { s.pw with perstLow := false } }).setRegField (hiReg 4) 8 0 (16 * 16 + 6) else s)

/-- A received TLP fails its IDE integrity check: discarded, its stream insecure, its TDIs in ERROR (R438, R441). -/
def execTlpIntegrityFail (stream : IdeStream) (s : State) : Result :=
  if !s.coreOn || s.pw.perstLow then .next s
  else
    let s := s.raise (scReg 4) 0x10
    match stream with
    | .link => .next { s with sc := { s.sc with ideLink := false } }
    | .selective n =>
      let s := { s with sc := { s.sc with ideSel := s.sc.ideSel.filter fun m => decide (m ≠ n),
                                          ideBad := n :: s.sc.ideBad } }
      .next (s.seatList.foldl (fun s k => if (s.seat k).tdiStream = some n then s.tdiError k else s) s)

end Sys2Proof.Machine
end

