-- ==== Sys2Proof/Machine/Hbm.lean ====
section
/-! DEFINITION. The HBM stacks: patrol scrub, refresh and calibration, retraining, temperature and throttling, row repair,
the loss of a stack, and bring-up. -/

namespace Sys2Proof.Machine

/-- Does the controller of stack `k` run? -/
def State.hbmRuns (s : State) : Bool := decide (s.pw.state = .on)

/-! Throttling (R300, R301). -/

/-- Threshold T1, T2, T3 or T_CRIT (object 0x3021). -/
def State.hbmT (s : State) (i : Nat) : Nat := s.obj 0x3021 i ([0, 90, 95, 100, 105].getD i 0)

/-- The temperature shown in HB_TEMP, while VALID. -/
def State.stackTemp (s : State) (k : Nat) : Option Nat :=
  if bit (s.reg (hbReg k 0x10)) 8 then some (s.regField (hbReg k 0x10) 7 0) else none

def State.forceStep (s : State) (k : Nat) : Nat := s.regField (hbReg k 0) 1 0

/-- The step whose threshold a temperature reaches (Table 10-2). -/
def State.stepOf (s : State) (t : Nat) : Nat := if s.hbmT 3 ≤ t then 3 else if s.hbmT 2 ≤ t then 2 else if s.hbmT 1 ≤ t then 1 else 0

/-- Since when stack `k` has been 3 °C below the threshold of its step. -/
def State.coolCheck (s : State) (k : Nat) : State :=
  let cool := match s.stackTemp k with
    | some t => decide (s.stackStep k ≠ 0 ∧ t + 3 ≤ s.hbmT (s.stackStep k))
    | none => false
  s.modStack k fun r => { r with coolFrom := if cool then some (r.coolFrom.getD s.uptime) else none }

/-- Stack `k` goes to step `v`: THROTTLED, and the reservations are judged again. -/
def State.setStep (s : State) (k v : Nat) : State :=
  if v = s.stackStep k then s
  else
    let s := (s.setRegField (hbReg k 8) 1 0 v).raise (hbReg k 0xC) 8
    (s.modStack k fun r => { r with coolFrom := none }).shortfall k

/-- Does any stack show THERMAL_CRIT? -/
def State.anyCrit (s : State) : Bool := (List.range 12).any fun k => bit (s.reg (hbReg k 8)) 4

/-- The power step becomes `v`; a raise from 0 sets CAP_ENTERED (R491, R492). -/
def State.setPower (s : State) (v : Nat) : State :=
  let old := s.regField (pwReg 4) 1 0
  let s := s.setRegField (pwReg 4) 1 0 v
  let s := if old = 0 ∧ v ≠ 0 then s.raise (pwReg 8) 1 else s
  if old < v then { s with pw := { s.pw with lastRaise := s.uptime, calmFrom := none } } else s

/-- HBM_TEMP_READOUT of stack `k`: a stack rises at once to the step its temperature reaches; after a missing readout the
step is the temperature's again. At T_CRIT the power step is forced to 3 (R492). -/
def State.tempReadout (s : State) (k t : Nat) : State :=
  let was := (s.stackTemp k).isSome
  let s := s.setRegN (hbReg k 0x10) (256 + t)
  let s := s.modStack k fun r => { r with readAt := s.uptime }
  let want := max (s.stepOf t) (s.forceStep k)
  let s := s.setStep k (if was then max want (s.stackStep k) else want)
  let crit := decide (s.hbmT 4 ≤ t)
  let s := (s.status (hbReg k 8) 4 crit).status (hbReg k 8) 3 (decide (85 ≤ t))
  let s := s.coolCheck k
  if crit then s.setPower 3 else s

def execHbmTempReadout (stack : StackNo) (temp : Byte) (s : State) : Result :=
  .next (if s.hbmRuns then s.tempReadout stack.val temp.toNat else s)

/-- THROTTLE_STEP_FALL: after 10 ms at 3 °C below the threshold the stack falls one step, not below FORCE_STEP. -/
def execThrottleStepFall (stack : StackNo) (s : State) : Result :=
  .next <|
    let k := stack.val
    match (s.stack k).coolFrom with
    | none => s
    | some t =>
      if !s.hbmRuns || decide (s.stackStep k ≤ s.forceStep k) then s
      else
        let s := s.reachUp (t + 10000000)
        (s.setStep k (s.stackStep k - 1)).coolCheck k

/-- TEMP_READOUT_TIMEOUT: no readout for 10 ms, since the last one or since bring-up. -/
def execTempReadoutTimeout (stack : StackNo) (s : State) : Result :=
  .next <|
    let k := stack.val
    if !s.hbmRuns then s
    else
      let s := s.reachUp ((s.stack k).readAt + 10000000)
      ((s.status (hbReg k 0x10) 8 false).setStep k 3).coolCheck k

/-- HB_CTRL of stack `k` holds `v`: FORCE_STEP holds the stack at least at its step. -/
def State.hbCtrlSet (s : State) (k : Nat) (v : Word) : State :=
  let s := s.setReg (hbReg k 0) v
  (if s.hbmRuns then s.setStep k (max (s.stackStep k) (s.forceStep k)) else s).coolCheck k

/-! Refresh and calibration take channel cycles only (R296). -/

/-- HBM_REFRESH: at double rate from 85 °C on. -/
def execHbmRefresh (stack : StackNo) (s : State) : Result :=
  .next <|
    match s.stackTemp stack.val with
    | some t => if s.hbmRuns then s.status (hbReg stack.val 8) 3 (decide (85 ≤ t)) else s
    | none => s

/-- HBM_CALIBRATION: the temperature it was made at is that from which the next change of 5 °C counts. -/
def execHbmCalibration (stack : StackNo) (s : State) : Result :=
  .next <|
    match s.stackTemp stack.val with
    | some t => if s.hbmRuns then s.modStack stack.val fun r => { r with calTemp := t } else s
    | none => s

/-! Retraining, row repair and the loss of a stack (R297, R305 to R307). -/

/-- Channel `c` of stack `k` retrains (R297). -/
def State.startRetrain (s : State) (k c : Nat) : State :=
  (s.modStack k fun r => { r with retraining := c :: r.retraining.filter fun d => decide (d ≠ c) }).status (hbReg k 8) 2 true

/-- CHANNEL_RETRAIN_COMPLETE: a channel retrained after two parity failures. RETRAINING stays 1 while a channel of the stack
retrains; a failed retraining is repeated, and a second one in succession loses the stack. -/
def execChannelRetrainComplete (stack : StackNo) (chan : PartNo) (ok : Bool) (s : State) : Result :=
  .next <|
    let k := stack.val
    let c := chan.val
    if !s.hbmRuns || !partPresent s.variant c then s
    else
      let s := (s.raise (hbReg k 0xC) 0x20).startRetrain k c
      if ok then
        ((s.raise (hbReg k 0xC) 0x40).retrainEnds k c).modStack k fun r => { r with retrainFails := SMap.erase r.retrainFails c }
      else
        let n := SMap.get 0 (s.stack k).retrainFails c + 1
        let s := s.modStack k fun r => { r with retrainFails := SMap.set 0 r.retrainFails c n }
        if 2 ≤ n then (s.retrainEnds k c).retireDevice k 3 else s

/-- Rows of channel `c` in the repair list of stack `k`. -/
def StackRec.rowsOf (r : StackRec) (c : Nat) : Nat := (r.repair.filter fun x => decide (x / 2 ^ 15 = c)).length

/-- Are there more rows of channel `c` in the list than spare rows left for it? -/
def StackRec.rowsLost (r : StackRec) (c : Nat) : Bool := decide (64 < SMap.get 0 r.rowsUsed c + r.rowsOf c)

/-- ROW_REPAIR_PENDING: a row of a channel has entered the repair list with the errors of its sectors (State.hbmFetch).
ROW_REPAIR_PENDING is set while one waits, and more of them than spare rows lose the stack (R306, R307). -/
def execRowRepairPending (stack : StackNo) (chan : PartNo) (row : Nat) (s : State) : Result :=
  .next <|
    let k := stack.val
    if !s.hbmRuns || !partPresent s.variant chan.val || !(s.stack k).repair.contains (chan.val * 2 ^ 15 + row) then s
    else
      let s := s.raise (hbReg k 0xC) 0x80
      if (s.stack k).rowsLost chan.val then s.retireDevice k 2 else s

/-- HB_SPARES of stack `k`: spare rows and lanes less those that repairs have used (Table 10-9). -/
def State.spares (s : State) (k : Nat) : Nat :=
  let r := s.stack k
  let c := numParts s.variant
  (64 * c - (r.rowsUsed.map Prod.snd).sum) * 2 ^ 16 + (2 * c - (r.lanesUsed.map Prod.snd).sum)

/-- Spare lanes that channel `c` has used with those that bring-up finds failing: 2 serve each channel (R305). -/
def StackRec.lanesWith (r : StackRec) (f : BringUp) (c : Nat) : Nat := SMap.get 0 r.lanesUsed c + f.lanes.getD c 0

/-- A new pass of a scrub begins, under the PERIOD that HB_SCRUB_CFG holds now (R295). -/
def State.newPass (s : State) (k : Nat) : Option ScrubPass :=
  let v := s.regField (hbReg k 4) 7 0
  if v = 0 then none else some { start := s.uptime, period := v, pos := [] }

/-- Bring-up of one stack: lanes and rows are repaired, the scrub starts, or the stack is lost for a cause. -/
def State.bringUpStack (s : State) (k : Nat) (f : BringUp) : Option Nat × State :=
  let r := s.stack k
  let chans := List.range (numParts s.variant)
  let pass := s.newPass k
  if chans.any fun c => decide (2 < r.lanesWith f c) then (some 1, s)
  else if chans.any r.rowsLost then (some 2, s)
  else
    (none, s.modStack k fun r =>
      { r with lanesUsed := chans.foldl (fun m c => SMap.set 0 m c (r.lanesWith f c)) r.lanesUsed, repair := [], rowErrs := [],
               retraining := [], retrainFails := [],
               rowsUsed := chans.foldl (fun m c => SMap.set 0 m c (SMap.get 0 m c + r.rowsOf c)) r.rowsUsed,
               scrub := pass, coolFrom := none, readAt := s.uptime })

/-- HBM bring-up (R305, R307): with every stack usable the device is no longer retired. -/
def State.hbmBringUp (s : State) (found : List BringUp) : State :=
  let q := found.zipIdx.foldl (fun (q : List (Nat × Nat) × State) f =>
    let r := q.2.bringUpStack f.2 f.1
    match r.1 with
    | some why => (q.1 ++ [(f.2, why)], r.2)
    | none => (q.1, r.2)) ([], s)
  if q.1.isEmpty then { q.2 with ec := { q.2.ec with retiredHbm := false }, pw := { q.2.pw with state := .on, hbmReady := true } }
  else q.1.foldl (fun s f => s.retireDevice f.1 f.2) { q.2 with pw := { q.2.pw with hbmReady := true } }

/-! The patrol scrub (R295). -/

/-- A new PERIOD of stack `k`: 0 stops the scrub at once, and starts one that is stopped; a running one goes on under the
period in force to the end of its pass. -/
def State.hbScrubSet (s : State) (k : Nat) (v : Word) : State :=
  let s := s.setReg (hbReg k 4) v
  if field v 7 0 = 0 then (s.status (hbReg k 8) 6 false).modStack k fun r => { r with scrub := none }
  else
    let pass := s.newPass k
    s.modStack k fun r => { r with scrub := r.scrub.orElse fun _ => pass }

/-- Is channel `c` in self-refresh: its partition is gated or gating, absent, or the device retired (R298, R307)? -/
def State.selfRefresh (s : State) (c : Nat) : Bool :=
  !partPresent s.variant c || !s.hbmRuns || (s.part c).gated || (s.part c).wakeAt.isSome

/-- The last sector index of a channel (Table 10-1, R291). -/
def lastSector (v : Variant) : Nat := (match v with | .b28 => 1000000000 | _ => 1500000000) / 64 - 1

/-- Has the pass read every sector of the channels that are not in self-refresh? -/
def State.passDone (s : State) (q : ScrubPass) : Bool :=
  (List.range (numParts s.variant)).all fun c => s.selfRefresh c || decide (lastSector s.variant < SMap.get 0 q.pos c)

/-- When PERIOD of a pass ends. -/
def ScrubPass.due (q : ScrubPass) : Nat := q.start + q.period * 3600000000000

/-- The pass under way on stack `k`; when it is complete, the next begins at the end of its PERIOD, or at once when it was
late (R295). -/
def State.passNow (s : State) (k : Nat) : State :=
  match (s.stack k).scrub with
  | none => s
  | some q =>
    if s.passDone q then
      let s := s.reachUp q.due
      let pass := s.newPass k
      (s.status (hbReg k 8) 6 false).modStack k fun r => { r with scrub := pass }
    else s

/-- The pass reads sector `i` of channel `c`: what its ECC finds is treated by R293, and with the last sector of the pass
SCRUB_LATE ends. -/
def State.patrolRead (s : State) (k c i : Nat) (seen : EccSeen) : State :=
  let sec := hbmAddrOf k i / 64
  let m := if (s.hbmSector c sec).poison then s.hbmUpset else SMap.set EccSeen.clean s.hbmUpset (hbmTweak c sec) seen
  let s := (({ s with hbmUpset := m }).hbmFetch c sec).2
  let s := s.modStack k fun r => { r with scrub := r.scrub.map fun q => { q with pos := SMap.set 0 q.pos c (i + 1) } }
  match (s.stack k).scrub with
  | some q => if s.passDone q then s.status (hbReg k 8) 6 false else s
  | none => s

/-- HB_PATROL_SCRUB: the pass reads a sector of an idle channel, in ascending order (DESIGN CHOICE, log entry 69); sectors it
has passed are not read again. The interface's parity is judged first: a first failure is retried, a second retrains the
channel and the read waits (R297). -/
def execHbPatrolScrub (stack : StackNo) (chan : PartNo) (sector : Nat) (seen : ScrubSeen) (s : State) : Result :=
  .next <|
    let k := stack.val
    let c := chan.val
    let s' := s.passNow k
    match (s'.stack k).scrub with
    | none => s
    | some q =>
      if !s.hbmRuns || s'.selfRefresh c || (s'.stack k).retraining.contains c ||
          decide (sector < SMap.get 0 q.pos c ∨ lastSector s.variant < sector) then s
      else
        match seen.parity with
        | .good => s'.patrolRead k c sector seen.ecc
        | .retried => (s'.raise (hbReg k 0xC) 0x20).patrolRead k c sector seen.ecc
        | .failed => (s'.raise (hbReg k 0xC) 0x20).startRetrain k c

/-- SCRUB_LATE: PERIOD ends before the pass does. -/
def execScrubLate (stack : StackNo) (s : State) : Result :=
  .next <|
    match (s.stack stack.val).scrub with
    | none => s
    | some q =>
      if !s.hbmRuns || s.passDone q then s else (s.reachUp q.due).status (hbReg stack.val 8) 6 true

end Sys2Proof.Machine
end

