-- ==== Sys2Proof/Machine/Recorder.lean ====
section
/-! DEFINITION. The step recorder: BEGIN and END, the opening and closing of steps at round boundaries, STEP_END and the
recorder index; and the DETERMINISTIC bit. -/

namespace Sys2Proof.Machine

/-- CMD_REFUSED (R381, R392). -/
def State.recRefused (s : State) : State := s.raise (ecReg 0x838) 4

/-- May a step begin: the recorder is enabled, its seat ACTIVE, and the ring inside the seat's host window (R381)? -/
def State.recReady (s : State) : Bool :=
  let n := s.recorderSeat
  bit (s.reg (ecReg 0x810)) 0 && s.seatIs n .active && inWin (s.hostWin n) s.recRing.1 (s.recRing.2 * 64)

/-- EC_REC_CMD with OP = BEGIN (R381). A round that has begun gives the next boundary, with LATE_BEGIN. -/
def State.recBegin (s : State) : State :=
  if !s.barLive then s
  else if !recorderPresent s.variant then s.absentAccess
  else if !s.recReady then s.recRefused
  else
    let want := s.counter (ecReg 0x828)
    let step := s.counter (ecReg 0x820)
    let late := decide (want ≤ s.curRound)
    let next := s.curRound + 1
    let s := if late then s.raise (ecReg 0x838) 2 else s
    { s with rec_ := { s.rec_ with pendBegin := some (if late then next else want, step) } }

/-- EC_REC_CMD with OP = END: the open step closes at the next round boundary (R381). -/
def State.recEnd (s : State) : State :=
  if !s.barLive then s
  else if !recorderPresent s.variant then s.absentAccess
  else if s.rec_.openStep.isSome then { s with rec_ := { s.rec_ with pendEnd := true } } else s

def execRecBegin (s : State) : Result := .next s.recBegin
def execRecEnd (s : State) : Result := .next s.recEnd

/-- The STEP_END of a closed step is written once the ring has room for its two units, and the index
entry is appended (R384, R386). -/
def State.stepEnd (s : State) : State :=
  match s.rec_.ending with
  | [] => s
  | e :: rest =>
    if !s.coreOn || decide (s.recFree < 2) then s
    else
      let bad := b2n e.dropped
      let bs := recordBytes { kind := 8, flags := 2 * bad, round := s.curRound, value := e.count } e.step s.now e.digest
      let s := s.ringPut s.recRing.1 s.recRing.2 (s.regN (ecReg 0x818)) 2 bs
      let s := s.setReg (ecReg 0x818) (s.reg (ecReg 0x818) + 2)
      let s := s.indexEntry e.step e.first e.count (bad + 2 * b2n s.deterministic) e.digest
      let s := { s with rec_ := { s.rec_ with ending := rest } }
      (s.bumpObj 0x60A0 0 1).bumpObj 0x60A1 0 bad

/-- Every STEP_END that waits is written while the ring has room for it (R384). -/
def State.stepEnds (s : State) : State := (List.range s.rec_.ending.length).foldl (fun s _ => s.stepEnd) s

/-- The open step closes. The STEP_END of a recorded step is written at once, or waits for room in the ring (R384); a replayed
step ends. -/
def State.closeStep (s : State) : State :=
  match s.rec_.openStep with
  | none => s
  | some step =>
    let r := s.rec_
    let e : RecEnd :=
      { step := step, first := r.firstRound, count := r.count, dropped := r.dropped, digest := shaFinish r.hash }
    let closed := { r with openStep := none, replay := false, shift := 0, dropped := false, pendEnd := false }
    if r.replay then { s with rec_ := closed } else ({ s with rec_ := { closed with ending := r.ending ++ [e] } }).stepEnds

/-- The bytes of the ring from unit `i`, `k` units. -/
def State.ringGet (s : State) (base size : Nat) : Nat → Nat → List Byte × State
  | _, 0 => ([], s)
  | i, k + 1 =>
    let f := s.csRead (base + i % size * 64) 64
    let g := f.2.2.ringGet base size (i + 1) k
    (f.1 ++ g.1, g.2)

/-- The next record of a replay, header and padded payload: none when the ring holds no further unit. -/
def State.nextRecord (s : State) : Option (List Byte) × State :=
  let i := s.reg (ecReg 0x818)
  let avail := (s.reg (ecReg 0x81C) - i).toNat
  if avail = 0 then (none, s)
  else
    let h := s.ringGet s.recRing.1 s.recRing.2 i.toNat 1
    let units := 1 + ceilDiv (numAt h.1 4 4) 64
    if avail < units ∨ s.recRing.2 < units then (none, h.2)
    else
      let b := h.2.ringGet s.recRing.1 s.recRing.2 (i.toNat + 1) (units - 1)
      (some (h.1 ++ b.1), b.2)

/-- Is the CHECK of a record right (Table 13-3)? -/
def recordOk (bs : List Byte) : Bool :=
  decide (numAt bs 60 4 = (crc32c (bs.take 60 ++ bs.drop 64)).toNat)

/-- A record has been consumed. -/
def State.eatRecord (s : State) (bs : List Byte) : State :=
  s.setReg (ecReg 0x818) (s.reg (ecReg 0x818) + BitVec.ofNat 32 (bs.length / 64))

/-- Delivery ends with BAD_RECORD (R387). -/
def State.badRecord (s : State) : State :=
  ({ s with rec_ := { s.rec_ with dropped := true } }).raise (ecReg 0x838) 0x10

/-- A step opens at the boundary that begins round `n`: in RECORD mode with STEP_BEGIN, in REPLAY mode with the
round number of the STEP_BEGIN record (R382, R387). -/
def State.openStepAt (s : State) (n step : Nat) : State :=
  let replay := decide (s.regField (ecReg 0x810) 2 1 = 1)
  let s := { s with rec_ := { s.rec_ with openStep := some step, firstRound := n, count := 0, hash := shaStart,
                                          dropped := false, replay := replay, shift := 0, lastRound := 0,
                                          pendBegin := none } }
  if replay then
    let f := s.nextRecord
    let s := f.2
    match f.1 with
    | some bs =>
      if recordOk bs && decide (numAt bs 0 1 = 1) then
        let first := numAt bs 24 8
        let s := { s with rec_ := { s.rec_ with shift := (first : Int) - n, lastRound := first } }
        s.eatRecord bs
      else s.badRecord
    | none => s.badRecord
  else
    s.recWrite { kind := 1, flags := b2n s.deterministic, round := n,
                 addr := match s.tb.active with | some a => a.id.toNat | none => 0 } step []

/-- Does the boundary that begins round `n` open or close a step (R381)? -/
def State.recTurns (s : State) (n : Nat) : Bool :=
  (s.rec_.pendEnd && s.rec_.openStep.isSome) || s.rec_.pendBegin.any fun q => decide (q.1 ≤ n)

/-- What the boundary that begins round `n` does to the recorder (R381). -/
def State.recBoundary (s : State) (n : Nat) : State :=
  let s := if s.rec_.pendEnd then s.closeStep else s
  match s.rec_.pendBegin with
  | some (r, step) => if r ≤ n then s.closeStep.openStepAt n step else s
  | none => s

/-- RECORDER_STEP_END: the STEP_END of a closed step is written once the ring has room for its two units (R384). -/
def execRecorderStepEnd (s : State) : Result := .next s.stepEnd

/-- Is a step open or waiting to open or close (Table 13-8)? -/
def State.recBusy (s : State) : Bool := s.rec_.openStep.isSome || s.rec_.pendBegin.isSome

/-- A write of EC_DET_CTRL with value `v` (R375). -/
def State.detCtrlSet (s : State) (v : Word) : State :=
  if bit v 0 == s.deterministic then s.setReg (ecReg 0x800) v
  else if s.deviceFree then (s.setReg (ecReg 0x800) v).setObj 0x2800 1 (b2n (bit v 0))
  else s.raise (ecReg 0x804) 1

end Sys2Proof.Machine
end

