-- ==== Sys2Proof/Machine/Schedule.lean ====
section
/-! DEFINITION. The round schedule: turns that begin, round boundaries, the installation and swap of schedules, and the
stall windows of OPEN traffic. -/

namespace Sys2Proof.Machine

/-! Turn tables (R325 to R330). -/

/-- The bring-up table: MAINT of 2 units, CTRL of 2 and OPEN of 12 (R330). -/
def bringUpTable : List Turn :=
  [{ kind := 3, len := 2, flow := 0 }, { kind := 4, len := 2, flow := 0 }, { kind := 2, len := 12, flow := 0 }]

/-- The implicit table of a port outside PORT_MASK (R325). -/
def implicitTable (len : Nat) : List Turn :=
  [{ kind := 3, len := 2, flow := 0 }, { kind := 4, len := 2, flow := 0 }, { kind := 0, len := len / 64 - 4, flow := 0 }]

/-- The table of port `n` in a schedule. -/
def Schedule.tableOf (a : Schedule) (n : Nat) : List Turn :=
  if a.mask.testBit n then a.tables.getD n [] else implicitTable a.len

/-- The table that port `n` runs now: its turns, its SCHED_ID, and when a round of it begins. A port that is not UP runs
the bring-up table. -/
def State.running (s : State) (n : Nat) : List Turn × Word × (Nat → Nat) :=
  match s.tb.active with
  | some a => if (s.port n).state = .up then (a.tableOf n, a.id, s.roundStart)
      else (bringUpTable, 0, fun r => (s.port n).upBase + r * 1024)
  | none => (bringUpTable, 0, fun r => (s.port n).upBase + r * 1024)

/-- The round of that table at the present nanosecond. -/
def State.portRound (s : State) (n : Nat) : Nat :=
  match s.tb.active with
  | some _ => if (s.port n).state = .up then s.curRound else (s.now - (s.port n).upBase) / 1024
  | none => (s.now - (s.port n).upBase) / 1024

/-- Slots of a turn of `u` units that begins at nanosecond `t` (R328): φ = t mod 6.4 ns. -/
def turnSlots (t u : Nat) : Nat := if t * 10 % 64 ≤ 44 then 10 * u - 1 else 10 * u - 2

/-- The start, in units of 2^-16 ns, of slot `k` of a turn that begins at nanosecond `t`: slots lie at multiples of
6.4 ns from the guard of 2 ns on (R312, R328). -/
def slotStart (t k : Nat) : BitVec 80 := BitVec.ofNat 80 ((ceilDiv ((t + 2) * 10) 64 + k) * 64 * 65536 / 10)

/-! What a turn sends (R314, R323, R328, R329, R335, R339, R340, R343, R351). -/

/-- The MARK of a turn on lane group `g`. -/
def State.markOf (s : State) (n g round turn : Nat) (t : Turn) (id : Word) : Mark :=
  let src := s.isSource
  { round := BitVec.ofNat 64 round, turn := BitVec.ofNat 16 turn, tkind := BitVec.ofNat 4 t.kind,
    suppressed := s.tb.suppressed && decide (t.kind ≠ 3), flow := BitVec.ofNat 16 t.flow, freed := (s.port n).freedMine,
    schedId := id, prevCheck := SMap.get 0 (s.port n).prevCheck g,
    source := if src then BitVec.ofNat 15 s.hallIndex
      else if s.tb.parent.isSome || s.tb.locked || s.tb.holdover.isSome then BitVec.ofNat 15 s.tb.source
      else Config.noSource,
    locked := s.tb.locked,
    hops := BitVec.ofNat 8 (if src then 0 else s.tb.hops) }

/-- The MARKs of a turn leave, one on each lane group. With link encryption they join the interval, but for those of
MAINT turns, which part the intervals. -/
def State.sendMarks (s : State) (n round turn : Nat) (t : Turn) (id : Word) : State :=
  (List.range (groupsOf n)).foldl (fun s g =>
    let m := s.markOf n g round turn t id
    let s := s.modPort n fun r =>
      { r with txCells := if r.linkKey.isSome && decide (t.kind ≠ 3) then r.txCells ++ markBytes m else r.txCells }
    s.emit (.mark n g m)) s

/-- The cells of a turn leave, each at its place: place `q` is slot q / G after the MARK on lane group q mod G. CIDX counts
the cells of the lane group; the CRC of their bodies goes into the next MARK. -/
def State.sendCells (s : State) (n : Nat) (kind : BitVec 4) (cells : List (Nat × List Byte)) : State :=
  let gs := groupsOf n
  let on := fun (g : Nat) => fun (c : Nat × List Byte) => decide (c.1 % gs = g)
  let s := cells.zipIdx.foldl (fun s c =>
    let g := c.1.1 % gs
    let cidx := ((cells.take c.2).filter (on g)).length
    s.emit (.cell n g (codewordHeader kind (BitVec.ofNat 8 cidx)) c.1.2)) s
  s.modPort n fun r =>
    { r with prevCheck := (List.range gs).foldl (fun m g =>
               SMap.set 0 m g (crc32c ((cells.filter (on g)).flatMap fun c => c.2))) r.prevCheck,
             txCells := if r.linkKey.isSome then r.txCells ++ cells.flatMap fun c => c.2 else r.txCells }

/-- Bodies in the first places of a turn. -/
def inOrder (bodies : List (List Byte)) : List (Nat × List Byte) := bodies.zipIdx.map fun c => (c.2, c.1)

/-- The body of a SCHED cell (Table 12-2). -/
def flowBody (c : FlowCell) : List Byte :=
  padTo 624 c.bytes ++ leBytes 4 c.seq ++ leBytes 1 (b2n c.poison) ++ zeros 3 ++ leBytes 2 c.part ++ leBytes 2 c.rank ++
    zeros 4

/-- A SCHED cell of a descriptor has left: the last of a transfer gives its write its settlement round. -/
def State.flowSent (s : State) (c : FlowCell) : State :=
  match s.binding c.port c.flow with
  | none => s
  | some (n, r) =>
    let hit := fun (t : Transfer) => decide (t.port = c.port ∧ t.flow = c.flow ∧ t.part = c.part)
    let s := s.modColl n r.index fun k =>
      { k with sends := k.sends.map fun t => if hit t then { t with moved := t.moved + 1 } else t }
    match s.collOf n r.index with
    | none => s
    | some k =>
      match k.sends.find? fun t => hit t && decide (t.moved = t.cells) with
      | some t => s.setDue t.post
      | none => s

/-- Cells in the order in which they become ready, of equal ones the first queued first (R351). -/
def insReady (c : FlowCell) : List FlowCell → List FlowCell
  | [] => [c]
  | d :: r => if c.ready < d.ready then c :: d :: r else d :: insReady c r

/-- The places of cells, in their order, in a turn that begins at `start` with `slots` cell slots on each of `gs` lane
groups, from place `q` on: each in the earliest free slot that begins when the cell is ready, or later (R351). Cells that
find none are left. -/
def placeReady (gs start slots : Nat) : Nat → List FlowCell → List (Nat × FlowCell)
  | _, [] => []
  | q, c :: r =>
    let first := ceilDiv (c.ready * 10) 64 - (ceilDiv ((start + 2) * 10) 64 + 1)
    let at' := max q (first * gs)
    if at' < gs * slots then (at', c) :: placeReady gs start slots (at' + 1) r else []

/-- A SCHED turn: cells of its flow leave as they become ready; then side cells that waited for them are queued. -/
def State.schedTurn (s : State) (n flow slots start : Nat) : State :=
  let mine := ((s.port n).schedQ.filter fun c => decide (c.flow = flow)).foldl (fun l c => insReady c l) []
  let cells := placeReady (groupsOf n) start slots 0 mine
  let rest := cells.foldl (fun l c => l.erase c.2) (s.port n).schedQ
  let s := (s.modPort n fun r => { r with schedQ := rest }).sendCells n 2 (cells.map fun c => (c.1, flowBody c.2))
  let s := cells.foldl (fun s c => s.flowSent c.2) s
  match s.binding n flow with
  | some (k, r) => s.sidePump k r
  | none => s

/-- PUTs that waited for room in the OPEN queue of port `n` go on (R336). -/
def State.putsGoOn (s : State) (n : Nat) : State :=
  s.seatList.foldl (fun s k => (s.seat k).running.foldl (fun s r =>
    match r.work with
    | .put left => if !r.void && decide (s.route (kDest r.words) = some n) then s.putPump k r left else s
    | _ => s) s) s

/-- An OPEN turn with `cap` cell slots: cells leave while the partner's buffer has room (R335); the slots that a queued cell
lets pass for want of credit count towards the stall share (R337). -/
def State.openTurn (s : State) (n cap : Nat) : State :=
  let r := s.port n
  let k := min cap (512 - (r.sent - r.freedPeer).toNat)
  let cells := r.openQ.take k
  let stalled := if k < r.openQ.length then cap - k else 0
  let s := s.modPort n fun r =>
    { r with openQ := r.openQ.drop k, sent := r.sent + BitVec.ofNat 16 cells.length, openSlots := r.openSlots + cap,
             stallSlots := r.stallSlots + stalled }
  let s := s.sendCells n 3 (inOrder (cells.map QCell.body))
  let s := cells.foldl (fun s c =>
    let s := s.freeCell c.hold
    match c.post with
    | some id => s.setDue id
    | none => s) s
  (s.promoteOpen n).putsGoOn n

/-- A CTRL turn. When more cells are queued than it holds, they keep the order in which they were queued, and a forfeit may
so wait for a later CTRL turn (DESIGN CHOICE, log entry 68: R340 asks for both). -/
def State.ctrlTurn (s : State) (n cap : Nat) : State :=
  let cells := (s.port n).ctrlQ.take cap
  let s := s.modPort n fun r => { r with ctrlQ := r.ctrlQ.drop cap }
  s.sendCells n 4 (inOrder (cells.map QCell.body))

/-- A MAINT cell leaves in the slot that starts at `t`. -/
def State.sendMaint (s : State) (n : Nat) (c : MaintCell) (t : BitVec 80) : State :=
  match c with
  | .ident i => s.emit (.ident n i)
  | .timeReply t2 => s.emit (.timeReply n t2 t)
  | .keyShare => s.emit (.keyShare n)

/-- A MAINT turn with `cap` cell slots: a time exchange starts in the slot after the MARK, the tag of the interval that ends
here leaves, and then the MAINT cells that wait (R319, R339, R443). The bodies of MAINT cells, and so the next PREV_CHECK,
are open (log entry 1). -/
def State.maintTurn (s : State) (n start cap : Nat) : State :=
  let slot := fun (q : Nat) => slotStart start (1 + q / groupsOf n)
  let up := decide ((s.port n).state = .up)
  let s := if s.timed n then (s.modPort n fun r => { r with asked := some (slot 0) }).emit (.timeReq n (slot 0)) else s
  let s := match (s.port n).linkKey with
    | some k =>
      if up then
        let r := s.port n
        let tag := Config.gcmTag k n r.txInterval.toNat r.txCells
        (s.modPort n fun r => { r with txInterval := r.txInterval + 1, txCells := [] }).emit (.authTag n tag)
      else s
    | none => s
  let waiting := (s.port n).maintQ
  let s := s.modPort n fun r => { r with maintQ := waiting.drop (cap - 2) }
  let s := (waiting.take (cap - 2)).zipIdx.foldl (fun (s : State) c => s.sendMaint n c.1 (slot (c.2 + 2))) s
  let bs := s.freeBytes 12
  (s.modPort n fun r =>
    { r with prevCheck := (List.range (groupsOf n)).foldl (fun m g =>
               SMap.set 0 m g (BitVec.ofNat 32 (numAt bs (4 * g) 4))) r.prevCheck }).draw

/-- CELL_READY: time passes until the next cell of port `n` that is not ready becomes so, 160 ns after it arrived (R351). -/
def execCellReady (port : PortNo) (s : State) : Result :=
  .next <|
    let n := port.val
    let later := (s.port n).schedQ.filter fun c => decide (s.now < c.ready)
    match later.find? fun c => later.all fun d => decide (c.ready ≤ d.ready) with
    | none => s
    | some c => s.reach c.ready

/-! Installation, arming, cancelling (R331, R332). -/

/-- Bytes of a schedule image. -/
def imageSize : Nat := 64 + 13 * 16384

/-- A turn-table entry, and whether it obeys Table 11-6. -/
def turnOf (w : Nat) : Turn := { kind := w / 2 ^ 28, len := w / 2 ^ 16 % 4096, flow := w % 4096 }
def entryOk (w : Nat) : Bool :=
  let t := turnOf w
  decide (t.kind ≤ 4 ∧ t.len ≠ 0 ∧ w / 2 ^ 12 % 16 = 0 ∧ (t.kind = 1 ∨ t.flow = 0))

/-- TURNS of port `n` in an image. -/
def turnsOf (im : List Byte) (n : Nat) : Nat := numAt im (24 + n / 2 * 4 + n % 2 * 2) 2

/-- The used entries of port `n`'s table in an image. -/
def entriesOf (im : List Byte) (n : Nat) : List Nat :=
  let base := im.drop (64 + n * 16384)
  (List.range (turnsOf im n)).map fun i => numAt base (4 * i) 4

/-- The first cause of Table 11-7 that an image gives, after its address (R14 for an absent port). -/
def State.imageCause (s : State) (im : List Byte) : Nat :=
  let w := fun (i : Nat) => numAt im (4 * i) 4
  let mask := w 5 % 2 ^ 13
  let ports := (List.range 13).filter fun n => mask.testBit n
  let tabs := ports.map fun n => (n, entriesOf im n)
  let torus := fun (n : Nat) => decide (7 ≤ n) && decide (s.extent ((n - 7) / 2) = 1)
  (firstCause
    [(decide (numAt im 60 4 ≠ (crc32c (im.take 60 ++ im.drop 64)).toNat), 2),
     (decide (w 0 ≠ 1 ∨ w 2 < 1000 ∨ 1000000 < w 2 ∨ w 1 = 0 ∨ 2 ^ 13 ≤ w 5 ∨ w 13 ≠ 0 ∨ w 14 ≠ 0) ||
        ports.any fun n => decide (turnsOf im n = 0 ∨ 4096 < turnsOf im n), 3),
     (ports.any fun n => !portPresent s.variant n, 4),
     (tabs.any fun q => torus q.1 && q.2.any fun e => decide ((turnOf e).kind ≠ 0), 5),
     (tabs.any fun q => decide (w 2 < 64 * (q.2.map fun e => (turnOf e).len).sum), 6),
     (tabs.any fun q => !(q.2.any fun e => decide ((turnOf e).kind = 3 ∧ 2 ≤ (turnOf e).len)) ||
        !(q.2.any fun e => decide ((turnOf e).kind = 4)), 7),
     (tabs.any fun q => q.2.any fun e => !entryOk e, 8)]).getD 0

/-- The schedule of a valid image. -/
def scheduleOf (im : List Byte) : Schedule :=
  let mask := numAt im 20 4 % 2 ^ 13
  { id := BitVec.ofNat 32 (numAt im 4 4), len := numAt im 8 4, origin := numAt im 12 8, mask := mask,
    tables := (List.range 13).map fun n => if mask.testBit n then (entriesOf im n).map turnOf else [] }

/-- A command of TB_SCHED_CMD ends with a cause (Table 11-14). -/
def State.schedResult (s : State) (cause : Nat) : State := s.setRegN (tbReg 0x38) cause

def State.schedBusy (s : State) : Bool := bit (s.reg (tbReg 0x38)) 31

/-- TB_SCHED_CMD with OP = INSTALL. -/
def State.schedInstall (s : State) : State :=
  if !s.barLive || s.schedBusy then s
  else
    let install := some (s.regN (tbReg 0x30), s.uptime)
    ({ s with tb := { s.tb with install := install } }).setRegN (tbReg 0x38) (2 ^ 31)

def execSchedInstall (s : State) : Result := .next s.schedInstall

/-- Validation ends: the image is copied into the standing bank, or refused (Table 11-7). -/
def State.installDone (s : State) : State :=
  match s.tb.install with
  | none => s
  | some (u, _) =>
    let s := { s with tb := { s.tb with install := none } }
    let refuse := fun (s : State) (c : Nat) => (s.schedResult c).raise (tbReg 8) 8
    if !s.tb.locked then refuse s 1
    else if s.tb.armed.isSome then refuse s 0xC
    else if csSize < u * 64 + imageSize ∨ s.scBase < u * 64 + imageSize then refuse s 9
    else
      let f := s.csRead (u * 64) imageSize
      let s := f.2.2
      let c := s.imageCause f.1
      if c ≠ 0 then refuse s c
      else
        let standing := some (scheduleOf f.1)
        ({ s with tb := { s.tb with standing := standing } }).schedResult 0

def execInstallComplete (s : State) : Result := .next (if s.coreOn then s.installDone else s)

/-- The current round for ARM (R332): of the active schedule, or of the standing one, −1 before its ORIGIN. -/
def State.armRound (s : State) (b : Schedule) : Int :=
  match s.tb.active with
  | some _ => s.curRound
  | none => if s.now < b.origin then -1 else ((s.now - b.origin) / b.len : Nat)

/-- TB_SCHED_CMD with OP = ARM. -/
def State.schedArm (s : State) : State :=
  if !s.barLive || s.schedBusy then s
  else
    let refuse := fun (c : Nat) => (s.schedResult c).raise (tbReg 8) 0x10
    let n := s.counter (tbReg 0x3C)
    if !s.tb.locked then refuse 1
    else
      match s.tb.standing with
      | none => refuse 0xB
      | some b =>
        if (n : Int) ≤ s.armRound b + 1 then refuse 0xA
        else ({ s with tb := { s.tb with armed := some n } }).schedResult 0

def execSchedArm (s : State) : Result := .next s.schedArm

/-- TB_SCHED_CMD with OP = CANCEL. -/
def State.schedCancel (s : State) : State :=
  if !s.barLive || s.schedBusy then s
  else
    let tb := if s.tb.armed.isSome then { s.tb with armed := none } else { s.tb with standing := none }
    ({ s with tb := tb }).schedResult 0

def execSchedCancel (s : State) : Result := .next s.schedCancel

/-! Round boundaries (R327, R332, R372, R414). -/

/-- Rounds are renumbered by `d`: what waits for a round keeps its distance (log entry 8). -/
def State.renumber (s : State) (d : Int) : State :=
  let f := fun (r : Nat) => ((r : Int) + d).toNat
  let forfeits := s.ec.forfeits.map fun (q : Forfeit) => { q with effect := f q.effect }
  let seen := s.ec.seen.map fun (q : SeenPair) => { q with till := f q.till }
  let posted := s.posted.map fun (w : Posted) => if w.due = 0 then w else { w with due := max 1 (f w.due) }
  { s with ec := { s.ec with forfeits := forfeits, seen := seen }, posted := posted,
           tb := { s.tb with round := f s.tb.round } }

/-- Every UP port starts the turns of round `n`. -/
def State.portsAt (s : State) (n : Nat) : State :=
  s.portList.foldl (fun s p =>
    if (s.port p).state = .up then s.modPort p fun r => { r with roundNext := n, turnNext := 0 } else s) s

/-- No schedule is active or standing any more (R417): rounds are numbered as without one. -/
def State.emptyBanks (s : State) : State :=
  let old := s.curRound
  let act := s.tb.active.isSome
  let s := { s with tb := { s.tb with active := none, standing := none, armed := none, install := none } }
  if act then s.renumber ((s.curRound : Int) - old) else s

/-- The swap armed for round `n` or before takes place at the boundary that begins round `n` (R327, R332). -/
def State.swap (s : State) (n : Nat) : State :=
  match s.tb.armed, s.tb.standing, s.tb.active with
  | some k, some b, some a =>
    if n < k then s
    else
      let t := s.roundStart k
      let tb := { s.tb with active := some b, standing := some a, armed := none, baseRound := k, baseTime := t }
      (({ s with tb := tb }).portsAt n).collSwap
  | _, _, _ => s

/-- The first activation: round `k` of the standing schedule begins at ORIGIN + k × ROUND_LEN. -/
def State.activate (s : State) (k : Nat) (b : Schedule) : State :=
  let s := s.reach (b.origin + k * b.len)
  let old := s.curRound
  let tb := { s.tb with active := some b, standing := none, armed := none, baseRound := 0, baseTime := b.origin }
  ((({ s with tb := tb }).renumber ((k : Int) - old)).portsAt k)

/-- The forfeit of job `f.job` takes effect at boundary `t` (R414). No record is written for a seat of a partition
under reset (Table 14-4). -/
def State.forfeitEffect (s : State) (t : Nat) (f : Forfeit) : State :=
  let seats := s.seatList.filter fun n =>
    decide (s.job n = f.job) && (s.seatIs n .waking || s.seatIs n .active || s.seatIs n .faulted)
  let s := { s with ec := { s.ec with forfeits := s.ec.forfeits.filter fun g => decide (g.job ≠ f.job) } }
  let s := seats.foldl (fun s n =>
    let s := (s.toState n .faulted).voidSeat n false
    if s.resetting (n / 16) then s else s.errorRecord n f.tag f.cause 4 f.origin t) s
  if seats.isEmpty then s
  else { s with ec := { s.ec with forfeited := (f.job :: s.ec.forfeited).dedup } }

/-- Of the forfeits of one job, the one whose effect round is the earliest. -/
def State.firstForfeit (s : State) (j : Nat) : Option Forfeit :=
  let l := s.ec.forfeits.filter fun f => decide (f.job = j)
  l.find? fun f => l.all fun g => decide (f.effect ≤ g.effect)

/-- The forfeits of the jobs that `sel` names whose effect round is `n` or before take effect. -/
def State.forfeitsOf (s : State) (n : Nat) (sel : Nat → Bool) : State :=
  let t := s.roundStart n
  let jobs := ((s.ec.forfeits.map Forfeit.job).dedup).filter sel
  jobs.foldl (fun s j =>
    match s.firstForfeit j with
    | some f => if f.effect ≤ n then s.forfeitEffect t f else s
    | none => s) s

/-- Does the device send no CTRL cell, having lost LOCKED (R323, R409)? -/
def State.ctrlBlocked (s : State) : Bool := s.tb.wasLocked && !s.tb.locked

/-- Is a forfeit of job `j`, for which a partition under reset waits, kept from taking effect (R409)? -/
def State.forfeitHeld (s : State) (j : Nat) : Bool :=
  s.ctrlBlocked && s.forfeitKnown j && s.partList.any fun p =>
    match (s.part p).resetting with
    | some r => r.jobs.contains j
    | none => false

/-- The forfeits whose effect round is `n` or before take effect, unless R409 keeps them from it. -/
def State.forfeitsAt (s : State) (n : Nat) : State := s.forfeitsOf n fun j => !s.forfeitHeld j

/-- While a port is DOWN each round counts as one missed turn (R406). -/
def State.downMisses (s : State) : State :=
  s.portList.foldl (fun s p =>
    if (s.port p).state = .up then s else s.modPort p fun r => { r with misses := r.misses + 1 }) s

/-- What comes about at the boundary that begins round `n`: collectives whose round LAST has passed end, then forfeits take
effect, then a swap, and then the round's own work begins (R350, R372). -/
def State.boundary (s : State) (n : Nat) : State :=
  let s := { s with tb := { s.tb with round := n, suppressed := s.tb.suppressed && !s.tb.locked } }
  let s := (s.collEnds n).forfeitsAt n
  let s := { s with ec := { s.ec with seen := s.ec.seen.filter fun q => decide (n < q.till) } }
  let s := ((s.swap n).collBegins n).downMisses
  let s := (if s.recTurns n then s.partCells else s).recBoundary n
  if s.replaying then s.portList.foldl (fun s p => if (s.port p).state = .down then s else s.goDown p) s else s

/-- ROUND_BOUNDARY: the next boundary that has not been taken. With no schedule active, an armed standing schedule is
activated when its round begins no later than the next boundary. -/
def State.roundBoundary (s : State) : State :=
  if !(s.coreOn && s.tb.counting) then s
  else
    let n := max (s.tb.round + 1) s.curRound
    match s.tb.active, s.tb.armed, s.tb.standing with
    | none, some k, some b =>
      if b.origin + k * b.len ≤ max s.now (s.roundStart n) then (s.activate k b).boundary k
      else (s.reach (s.roundStart n)).boundary n
    | _, _, _ => (s.reach (s.roundStart n)).boundary n

def execRoundBoundary (s : State) : Result := .next s.roundBoundary

/-! Turns that begin (R328, R332). -/

/-- Round and index of the next turn of port `n`. Turns whose round has passed are gone. -/
def State.nextTurn (s : State) (n : Nat) : Nat × Nat :=
  let r := s.port n
  let past := decide ((s.running n).1.length ≤ r.turnNext)
  let now := s.portRound n
  if decide (r.roundNext < now) || past then (max now (r.roundNext + b2n past), 0) else (r.roundNext, r.turnNext)

/-- The turn with that round and index, and when it begins. -/
def State.turnAt (s : State) (n round turn : Nat) : Turn × Nat :=
  let tab := s.running n
  (tab.1.getD turn { kind := 0, len := 1, flow := 0 }, tab.2.2 round + 64 * ((tab.1.take turn).map Turn.len).sum)

/-- Does a round boundary not taken yet, or the first activation of an armed schedule, lie at or before `t`? -/
def State.boundaryDue (s : State) (t : Nat) : Bool :=
  s.coreOn && s.tb.counting && (decide (s.roundStart (s.tb.round + 1) ≤ t) ||
    (match s.tb.active, s.tb.armed, s.tb.standing with
     | none, some k, some b => decide (b.origin + k * b.len ≤ t)
     | _, _, _ => false))

/-- The boundaries up to `t` are taken, so that no turn of a swap's round or a later one runs under the old schedule
(R332). -/
def State.catchUp (s : State) (t : Nat) : State :=
  if !s.boundaryDue t then s
  else
    let s := s.roundBoundary
    if s.boundaryDue t then (s.reach t).roundBoundary else s

/-- The present turn of port `n` runs: its MARKs leave, and then its cells. -/
def State.runTurn (s : State) (n : Nat) : State :=
  let q := s.nextTurn n
  let t := s.turnAt n q.1 q.2
  let st := (s.port n).state
  let s := s.reach t.2
  let s := s.sendMarks n q.1 q.2 t.1 (s.running n).2.1
  let slots := turnSlots t.2 t.1.len - 1
  let last := decide ((s.running n).1.length ≤ q.2 + 1)
  let s := s.modPort n fun r =>
    { r with roundNext := if last then q.1 + 1 else q.1, turnNext := if last then 0 else q.2 + 1, prevCheck := [] }
  let sends := decide (st = .up) && !s.tb.suppressed
  match t.1.kind with
  | 3 => if st = .miswired then s else s.maintTurn n t.2 (groupsOf n * slots)
  | 1 => if sends then s.schedTurn n t.1.flow slots t.2 else s
  | 2 => if sends then s.openTurn n (groupsOf n * slots) else s
  | 4 => if sends then s.ctrlTurn n (groupsOf n * slots) else s
  | _ => s

/-- TURN_BEGIN of port `n`: the boundaries up to the turn's start are taken, time reaches it, and the turn runs. -/
def State.turnBegin (s : State) (n : Nat) : State :=
  let r := s.port n
  if !(s.coreOn && portPresent s.variant n && r.trained && decide (r.state ≠ .down) && !s.replaying) then s
  else
    let q := s.nextTurn n
    let s := s.catchUp (s.turnAt n q.1 q.2).2
    if (s.port n).state = .down then s else s.runTurn n

def execTurnBegin (port : PortNo) (s : State) : Result := .next (s.turnBegin port.val)

/-! Stall windows (R337, R338). -/

/-- The share of source `i`, `stalled` of `slots`, is judged: its bit of TB_OVERSUB, FB_STALL, and its run of windows. -/
def State.stallShare (s : State) (i stalled slots : Nat) : State :=
  let bad := decide (slots < 10 * stalled)
  let s := s.status (tbReg 0x4C) i bad
  if i = 13 then
    { s with tb := { s.tb with hostRun := if bad then s.tb.hostRun + 1 else 0, hostSlips := if bad then s.tb.hostSlips else 0 } }
  else
    (s.setRegN (fbReg i 0x14) (min 0xFFFF (stalled * 65536 / slots))).modPort i fun r =>
      { r with stallRun := if bad then r.stallRun + 1 else 0, slips := if bad then r.slips else 0, openSlots := 0,
               stallSlots := 0 }

/-- STALL_WINDOW_END: the shares of the ports as their OPEN turns have measured them, and of the host port, whose credits were
withheld in `withheld` of the 15,625 periods of the window (R337). -/
def execStallWindowEnd (withheld : Nat) (s : State) : Result :=
  .next (if !s.coreOn then s
    else
      let s := s.reach ((s.now / 1000000 + 1) * 1000000)
      (s.portList.foldl (fun s i => s.stallShare i (s.port i).stallSlots (s.port i).openSlots) s).stallShare 13 withheld 15625)

/-- The thousands of windows of a source's run, and how many of them SLIP has counted. -/
def State.slipRun (s : State) (source : StallSource) : Nat × Nat :=
  match source with
  | .port n => ((s.port n.val).stallRun / 1000, (s.port n.val).slips)
  | .host => (s.tb.hostRun / 1000, s.tb.hostSlips)

/-- SLIP: 1,000 consecutive windows above 10%; each further 1,000 counts once in object 0x6082 (R338). -/
def execSlip (source : StallSource) (s : State) : Result :=
  .next <|
    let q := s.slipRun source
    if !s.coreOn || decide (q.1 ≤ q.2) then s
    else
      let i := match source with
        | .port n => n.val
        | .host => 13
      let s := match source with
        | .port n => s.modPort n.val fun r => { r with slips := q.1 }
        | .host => { s with tb := { s.tb with hostSlips := q.1 } }
      let s := (s.raise (tbReg 8) 0x20).raise (tbReg 0x50) (2 ^ i)
      let more := q.1 - max 1 q.2
      if more = 0 then s else s.bumpObj 0x6082 0 more

end Sys2Proof.Machine
end

