-- ==== Sys2Proof/Machine/Reliability.lean ====
section
/-! DEFINITION. Watchdogs, partition and device resets, forfeits on command, pairing and the shaker. -/

namespace Sys2Proof.Machine

/-! Watchdogs, on the common nanosecond (R44, R403 to R405). -/

/-- SEQ_TAG of the oldest pending descriptor of seat `n`: in work, at the head, or still in the ring. -/
def State.oldestTag (s : State) (n : Nat) : Nat :=
  let r := s.seat n
  match r.running.find? fun q => !q.void with
  | some q => tagOf q.words
  | none =>
    match r.head with
    | some h => tagOf h.words
    | none =>
      numAt (s.csBytes (s.regField (seatReg n 0x14) 17 0 * unit64K + s.regN (seatReg n 0x1C) % s.ringEntries n * 64) 8) 4 4

/-- The seat watchdog of seat `n` fires (R403, R404). -/
def State.seatStall (s : State) (n : Nat) : State :=
  match (s.seat n).wdStart with
  | none => s
  | some t =>
    if !s.coreOn || !s.seatIs n .active || s.resetting (n / 16) then s
    else
      let s := s.reach (t + s.regField (ecReg 0x14) 15 0 * 1000000)
      let s := s.errorRecord n (s.oldestTag n) 1 3 s.hallIndex s.now
      let s := (s.toState n .faulted).voidSeat n false
      let s := s.modSeat n fun r => { r with drainDue := some (s.now + 100000000) }
      (s.logFault 1).originate (s.job n) 2 n

def execSeatWatchdogExpiry (seat : SeatNo) (s : State) : Result := .next (s.seatStall seat.val)

/-- 100 ms after the watchdog a descriptor that has not stopped resets the partition (R404). -/
def State.seatDrain (s : State) (n : Nat) : State :=
  match (s.seat n).drainDue with
  | none => s
  | some t =>
    if !s.coreOn || s.resetting (n / 16) then s
    else
      let s := (s.reach t).modSeat n fun r => { r with drainDue := none }
      if (s.seat n).running.isEmpty then s else (s.logFault 4).startPartReset (n / 16) .seatDrain

def execSeatDrainExpiry (seat : SeatNo) (s : State) : Result := .next (s.seatDrain seat.val)

/-- The partition watchdog fires (R405). -/
def State.partStall (s : State) (p : Nat) : State :=
  match (s.part p).wdStart with
  | none => s
  | some t =>
    if !s.coreOn || s.resetting p then s
    else
      let s := s.reach (t + s.regField (ecReg 0x14) 23 16 * 1000000000)
      (s.logFault 2).startPartReset p .partWatchdog

def execPartWatchdogExpiry (part : PartNo) (s : State) : Result := .next (s.partStall part.val)

/-! Partition reset (R407 to R409). -/

/-- Reset every partition whose bit is 1, for a host command. -/
def State.resetParts (s : State) (v : Nat) : State :=
  (s.partList.filter fun p => v.testBit p).foldl (fun s p => s.startPartReset p .hostCmd) s

def execPartitionResetCmd (value : Word) (s : State) : Result :=
  .next (if s.barLive then s.resetParts value.toNat else s)

/-- PARTITION_RESET: the cause arises, and the reset runs; one that already runs goes on (R395). -/
def execPartitionReset (part : PartNo) (cause : ResetCause) (s : State) : Result :=
  .next (if s.coreOn then s.startPartReset part.val cause else s)

/-- A partition reset ends at the instant the conditions of R286 hold and its self-test is over (R408, R409). While LOCKED is
0, the forfeits it waits for cannot take effect, and it is late. -/
def State.partResetEnd (s : State) (p : Nat) : State :=
  match (s.part p).resetting with
  | none => s
  | some r =>
    if !s.coreOn || s.ec.retiredHbm || (s.ec.devReset.isSome && !s.ec.devDone) ||
        s.ec.shakeUnits.any fun u => decide (u.1 = p) then s
    else if !s.oldEpochGone p then
      if r.jobs.any s.forfeitHeld then s.logFault 0x400 else s
    else s.finishPartReset p

def execPartitionResetEnd (part : PartNo) (s : State) : Result := .next (s.partResetEnd part.val)

/-! Boot (R428, R434, R476). -/

/-- The boot ROM chooses a slot from the selector (R476). -/
def State.selectSlot (s : State) : State :=
  let f := s.fw
  let back := fun (st : Nat) => { f with running := f.committed, bootState := st, fell := false, trial := none }
  let f' := match f.trial with
    | none => back (if f.fell then 2 else 0)
    | some t =>
      if f.trialCount < 3 then
        { f with running := t, bootState := 1, trialCount := f.trialCount + 1, selSeq := f.selSeq + 1, fell := false }
      else { back 2 with trialCount := 0, selSeq := f.selSeq + 1 }
  { s with fw := f' }

/-- The boot ROM starts; times of the boot count from the reset it is part of (R477). -/
def State.romStart (s : State) : State :=
  ({ s with fw := { s.fw with boot := .rom, bootAt := s.ec.devReset.getD s.uptime, segField := none, segHost := none, windowEnd := none,
                              healthOk := false } }).selectSlot

/-- A new WARD_SEED of 384 bits, and a healthy DRBG (R434). -/
def State.newSeed (s : State) : State :=
  let seed := ((Config.drbg s.sc.draws).toNat * 2 ^ 256 + (Config.drbg (s.sc.draws + 1)).toNat) / 2 ^ 128
  { s with sc := { s.sc with wardSeed := seed, drbgOk := true, draws := s.sc.draws + 2 } }

/-- TB_CTRL takes ROLE and TREF_FREQ from object 0x2702 (R345). -/
def State.loadTime (s : State) : State :=
  let freq := if s.obj 0x2702 2 10 = 25 then 4 else 0
  s.tbCtrlSet (BitVec.ofNat 32 (freq + s.obj 0x2702 1 0))

/-! Device reset (R416 to R419). -/

/-- Registers that a device reset keeps (R418): MG_, PW_, EC_LOG_FAULT, EC_RESET_CAUSE, EC_CFG_ERR; and HI_STATUS, as the link
and its configuration stay, and CT_PART_STATUS, whose EPOCH only a partition reset changes. -/
def deviceKept (off : Nat) : Bool :=
  match blockOf off with
  | .mg | .pw => true
  | .ec => decide (off = ecReg 0x8 ∨ off = ecReg 0x10 ∨ (ecReg 0x40 ≤ off ∧ off < ecReg 0x50))
  | .hi => decide (off = hiReg 4)
  | .ct _ => decide (off % 0x10000 = 8)
  | _ => false

/-- Fold every register counter into its 0x6000 object (R470). -/
def State.foldDevice (s : State) : State :=
  let s := s.partList.foldl State.foldPart s
  let s := ((s.foldNarrow 0x6060 0 (csReg 0x14)).foldWide 0x6061 0 (csReg 0x20)).foldWide 0x6062 0 (csReg 0x28)
  let s := (List.range 12).foldl (fun s k => s.foldNarrow 0x6071 (k + 1) (hbReg k 0x18)) s
  s.portList.foldl (fun s n => (s.foldWide 0x6080 (n + 1) (fbReg n 0x18)).foldWide 0x6081 (n + 1) (fbReg n 0x28)) s

/-- The registers that `keep` names stay; every other returns to its reset value. -/
def State.keepRegs (s : State) (keep : Nat → Bool) : State :=
  { s with regs := s.regs.filter fun (e : Nat × Word) => keep e.1, badParity := s.badParity.filter keep }

/-- Every seat that is not FREE becomes FREE, and is then as after a reset, but for the hold-off of its vector with the event
it holds (R72). -/
def State.clearSeats (s : State) : State :=
  let s := s.seatList.foldl (fun s n => s.toState n .free) s
  { s with seats := s.seats.filterMap fun (e : Nat × SeatRec) =>
      let r := { SeatRec.fresh with quietTill := e.2.quietTill, heldEvent := e.2.heldEvent }
      if r = SeatRec.fresh then none else some (e.1, r) }

/-- Everything of the core domains is as after a reset, with the schedule banks empty and no link; the registers of the
always-on domain, the time base, EC_ and SC_ stay, and the firmware store (R344, R399, Table 17-5). -/
def State.clearCore (s : State) : State :=
  let s := s.emptyBanks
  let arrays := s.arrays.filterMap fun (e : Nat × ArrRec) =>
    let r := { ArrRec.fresh with faults := e.2.faults, retired := e.2.retired }
    if r = ArrRec.fresh then none else some (e.1, r)
  let s := (s.keepRegs fun o => alwaysOn o || deviceKept o).clearSeats
  { s with objs := s.objs.filter fun (e : Nat × Nat) => decide (e.1 < 0x260000 ∨ 0x262000 ≤ e.1), arrays := arrays,
           hbmStacks := s.hbmStacks.map fun (e : Nat × StackRec) => (e.1, { e.2 with shortFrom := [], coolFrom := none }),
           launches := [], csMem := [], csPoison := [], csUpset := [], cache := [], fills := [], resize := none,
           heldCreates := [], csScrub := true, posted := [], refusals := [], hostReads := [], ports := [],
           ec := { s.ec with shakeUnits := [], forfeited := [] } }

/-- EC_, TB_ and SC_ are as after a reset, but for what R418 names, the fuses and the firmware store, the SPDM sessions and the
IDE streams of a host link that stays trained. -/
def State.clearAlways (s : State) : State :=
  let s := s.keepRegs fun o => !alwaysOn o || deviceKept o
  { s with tb := { TimeBase.fresh with counting := s.tb.counting, trefOk := s.tb.trefOk, round := s.tb.round },
           ec := { ErrorControl.fresh with holdTill := s.ec.holdTill, held := s.ec.held, devReset := s.ec.devReset,
                                           devDone := s.ec.devDone, retiredHbm := s.ec.retiredHbm },
           rec_ := { Recorder.fresh with index := s.rec_.index },
           sc := { s.sc with signing := none, signVia := [], signCount := 0 } }

/-- The forfeit cells that wait on port `n` leave: its turns run up to and with its next CTRL turn (R413). -/
def State.ctrlOut (s : State) (n : Nat) : State :=
  (List.range (2 * (s.running n).1.length)).foldl (fun s _ => if (s.port n).ctrlQ.isEmpty then s else s.turnBegin n) s

/-- The forfeits under way leave on every UP port, unless no CTRL cell may be sent, and take effect, each at its boundary
(Table 14-8, second step). -/
def State.allForfeits (s : State) : State :=
  if s.ec.forfeits.isEmpty then s
  else
    let s := if s.ctrlBlocked || s.tb.suppressed then s else s.upPorts.foldl State.ctrlOut s
    let last := (s.ec.forfeits.map Forfeit.effect).foldl max s.tb.round
    let s := (s.reach (s.roundStart last)).forfeitsOf last fun _ => true
    { s with tb := { s.tb with round := last } }

/-- The partition resets that are part of a device reset end, unless a lost stack holds them (R307, R419). -/
def State.endDeviceParts (s : State) : State :=
  if s.ec.retiredHbm then s
  else s.partList.foldl (fun s p => if (s.part p).resetting.isSome then s.finishPartReset p else s) s

/-- The steps of Table 14-8 from the forfeits' effect to HBM bring-up, and the start of the boot ROM; with the core off, in
BOOT_FAILED or after a core loss, the always-on domain and the ROM alone. -/
def State.deviceSteps (s : State) (found : List BringUp) : State :=
  if !s.coreOn then
    let s := s.clearAlways
    ({ s with ec := { s.ec with devDone := true } }).romStart
  else
    let s := s.partList.foldl State.wakeDone s
    let s := s.allForfeits
    let s := (s.foldDevice.clearCore.clearAlways).newSeed
    let s := { s with ec := { s.ec with devDone := true }, pw := { s.pw with csReady := true } }
    ((s.hbmBringUp found).endDeviceParts).romStart

/-- A write of 0xA5 to EC_DEV_RESET_CMD or of 1 to object 0x4050:01; ignored during a device reset (R395). -/
def State.hostDeviceReset (s : State) : State := if s.ec.devReset.isSome then s else s.startDeviceReset true

def execDeviceResetCmd (value : Word) (s : State) : Result :=
  .next (if s.barLive && decide (value.toNat % 256 = 0xA5) then s.hostDeviceReset else s)

/-- DEVICE_RESET: the reset begins, unless a detected cause has begun it, and runs its steps. A cause that arises when they
have been taken restarts it; a host command does not (R395). -/
def State.deviceReset (s : State) (cause : DeviceCause) (found : List BringUp) : State :=
  let runs := s.ec.devReset.isSome
  if !(s.coreOn || (runs && !s.ec.devDone)) || (runs && s.ec.devDone && decide (cause = .hostCmd)) then s
  else
    let begun := runs && !s.ec.devDone && decide (cause ≠ .tagOrTumblerUncorr)
    (if begun then s else s.startDeviceReset (decide (cause ≠ .firmware))).deviceSteps found

def execDeviceReset (cause : DeviceCause) (found : List BringUp) (s : State) : Result :=
  .next (s.deviceReset cause found)

/-- DEV_RESETTING clears when the device is ready and LOCKED again. -/
def execDeviceResetEnd (s : State) : Result :=
  .next (if s.ec.devReset.isSome && s.ec.devDone && s.fwReady && s.tb.locked then
    { s with ec := { s.ec with devReset := none, devDone := false } } else s)

/-! EC_FORFEIT_CMD (R410) and EC_PAIR_MASK (R401). -/

def State.forfeitCmd (s : State) (value : Word) : State :=
  if s.barLive && bit value 31 then s.originate (field value 15 0) 7 0x1FF else s

def execForfeitCmd (value : Word) (s : State) : Result := .next (s.forfeitCmd value)

/-- EC_PAIR_MASK takes the bits of partitions whose seats are all FREE; any other change sets PAIR_LOCKED. -/
def State.pairMaskSet (s : State) (v : Word) : State :=
  let old := s.regN (ecReg 0x20)
  let changed := s.partList.filter fun p => v.toNat.testBit p != old.testBit p
  let s := s.setRegN (ecReg 0x20)
    ((changed.filter fun p => s.allFree p).foldl (fun m p => m ^^^ 2 ^ p) old)
  if changed.all fun p => s.allFree p then s else s.logConfig 8

/-! The shaker (R421 to R423). -/

/-- The unit a test is for (Table 14-10). -/
def testFits : ShakeTest → ShakeUnit → Bool
  | .arrayKat, .array _ | .arrayInject, .array _ | .laMarch, .longAccumulator _ | .wpKat, .widePath
  | .qzKat, .quantiser | .ceKat, .copyEngine _ => true
  | _, _ => false

/-- Is a unit of partition `p` present, in use and idle (R400, R421)? -/
def State.unitIdle (s : State) (p : Nat) (u : ShakeUnit) : Bool :=
  match u with
  | .array a | .longAccumulator a =>
    let r := s.arr p a.val
    !r.retired && r.busy.isNone && r.slots.all fun q => q.2.seat.isNone
  | _ => (List.range 16).all fun l => (s.seat (p * 16 + l)).running.all fun r => !usesUnit (opcodeOf r.words) r.unit u

/-- May a test start now under its condition? -/
def State.shakeOk (s : State) (p : Nat) (cond : ShakeCond) (hottest : Nat) : Bool :=
  let ctrl := s.reg (ecReg 0x1C)
  let r := s.part p
  let awake := !r.gated && r.wakeAt.isNone && r.gatingAt.isNone && !r.lowV
  match cond with
  | .nominal => r.resetting.isSome || (bit ctrl 0 && awake)
  | .hot => bit ctrl 0 && bit ctrl 2 && awake && r.resetting.isNone && decide (90 ≤ hottest)
  | .lowV => bit ctrl 0 && bit ctrl 1 && r.resetting.isNone && s.allFree p && r.wakeAt.isNone && r.gatingAt.isNone

/-- SHAKER_TEST: a test starts on an idle unit; outside a reset's self-test each once per PERIOD. -/
def State.shake (s : State) (p : Nat) (u : ShakeUnit) (test : ShakeTest) (cond : ShakeCond) (hottest : Nat) : State :=
  let key := (p, u, test, cond)
  if !s.hbmRuns || !partPresent s.variant p || !testFits test u || !s.unitIdle p u || !s.shakeOk p cond hottest ||
      s.ec.shakeUnits.any (fun q => decide (q.1 = p ∧ q.2.1 = u)) then s
  else
    let due := match s.ec.shakeSeen.find? fun q => decide (q.1 = key) with
      | some q => if (s.part p).resetting.isSome then 0 else q.2 + s.regField (ecReg 0x1C) 31 16 * 1000000000
      | none => 0
    let s := s.reachUp due
    let seen := (key, s.uptime) :: s.ec.shakeSeen.filter fun q => decide (q.1 ≠ key)
    let s := { s with ec := { s.ec with shakeUnits := s.ec.shakeUnits ++ [key], shakeSeen := seen } }
    if cond = .lowV then s.modPart p fun r => { r with lowV := true, gated := false } else s

def execShakerTest (part : PartNo) (unit : ShakeUnit) (test : ShakeTest) (cond : ShakeCond) (hottest : Nat)
    (s : State) : Result := .next (s.shake part.val unit test cond hottest)

/-- What a failed test does (R423). -/
def State.shakeFailed (s : State) (p : Nat) (u : ShakeUnit) (cond : ShakeCond) : State :=
  let s := s.logArray 0x10
  if cond = .lowV then
    (s.logArray 0x20).setObj 0x4041 (p + 1) (min 3 (s.obj 0x4041 (p + 1) 0 + 1))
  else
    match u with
    | .array a | .longAccumulator a => s.countFault p a.val
    | .copyEngine e => s.status (ceReg p 0) e.val false
    | _ => s.bumpObj 0x60B4 (p + 1) 1

/-- SHAKER_TEST_END: a test that was not abandoned ends; with the last LOW_V test the partition gates again. -/
def State.shakeEnd (s : State) (p : Nat) (u : ShakeUnit) (passed : Bool) : State :=
  match s.ec.shakeUnits.find? fun q => decide (q.1 = p ∧ q.2.1 = u) with
  | none => s
  | some q =>
    let s := s.takeBack p fun v => decide (v = u)
    let s := if passed then s else s.shakeFailed p u q.2.2.2
    if (s.part p).lowV && !(s.ec.shakeUnits.any fun r => decide (r.1 = p)) then
      (s.modPart p fun r => { r with lowV := false }).gatePart p
    else s

def execShakerTestEnd (part : PartNo) (unit : ShakeUnit) (passed : Bool) (s : State) : Result :=
  .next (s.shakeEnd part.val unit passed)

end Sys2Proof.Machine
end

