-- ==== Sys2Proof/Machine/FieldNet.lean ====
section
/-! DEFINITION. The CAN FD field network: frames and error counters, LONELY, key-chain addresses, elections, heartbeats,
alarms, and the SPDM tunnel. -/

namespace Sys2Proof.Machine

/-! The controller (R449 to R452). -/

/-- Does the controller run: enabled by firmware or the boot ROM? -/
def State.fnRuns (s : State) : Bool := s.aoOn && s.fn.enabled

/-- Does the device hold a node address? -/
def State.hasAddress (s : State) : Bool := s.fnRuns && decide (s.fn.state = .active ∨ s.fn.state = .lonely)

def fnCode : FnState → Nat
  | .listen => 0 | .electing => 1 | .active => 2 | .lonely => 3

/-- Error-passive, as ISO 11898-1 has it: an error count of 128 or more (PRESUMED, log entry 13). -/
def FieldNet.passive (f : FieldNet) : Bool := decide (128 ≤ f.tec ∨ 128 ≤ f.rxErr)

/-- New error counts; ERROR_PASSIVE_ENTERED when they make the controller error-passive. -/
def State.setErrs (s : State) (tec rx : Nat) : State :=
  let was := s.fn.passive
  let s := { s with fn := { s.fn with tec := tec, rxErr := rx } }
  if !was && s.fn.passive then s.raise (mgReg 0x104) 8 else s

/-- A frame received without error lowers the receive count; from 128 on it becomes 127 (PRESUMED, log entry 13). -/
def State.frameIn (s : State) : State :=
  (s.bumpObj 0x60D1 0 1).setErrs s.fn.tec (if 128 ≤ s.fn.rxErr then 127 else s.fn.rxErr - 1)

def canIdent (code node : Nat) : BitVec 11 := BitVec.ofNat 11 (code * 128 + node)

/-- The function code of an identifier (Table 16-1). -/
def frameCode (ident : BitVec 11) : Nat := ident.toNat / 128

/-- Queue a frame of the device; in LONELY only a heartbeat (R452). -/
def State.queueFrame (s : State) (code : Nat) (data : List Byte) : State :=
  if s.hasAddress && (decide (s.fn.state = .active) || decide (code = 0xE)) then
    { s with fn := { s.fn with pending := s.fn.pending ++ [(canIdent code s.fn.address, data)] } }
  else s

/-- CAN_FRAME_SENT: a transmission of the first pending frame ends. Unacknowledged it is sent again, but for a BID. -/
def State.frameSent (s : State) (acked : Bool) : State :=
  if !s.fnRuns || s.fn.busOff || decide (s.fn.state = .listen) then s
  else
    match s.fn.pending with
    | [] => s
    | (ident, data) :: rest =>
      let bid := decide (frameCode ident = 0xF)
      let s := s.emit (.can ident data)
      let s := if acked || bid then (s.bumpObj 0x60D0 0 1) else s
      let s := if acked || bid then { s with fn := { s.fn with pending := rest } } else s
      if acked then
        let st := if s.fn.state = .lonely then .active else s.fn.state
        ({ s with fn := { s.fn with state := st, unacked := 0 } }).setErrs (s.fn.tec - 1) s.fn.rxErr
      else
        ({ s with fn := { s.fn with unacked := s.fn.unacked + 1 } }).setErrs
          (if s.fn.tec < 128 then s.fn.tec + 8 else s.fn.tec) s.fn.rxErr

def execCanFrameSent (acked : Bool) (s : State) : Result := .next (s.frameSent acked)

/-- LONELY: 16 consecutive frames without acknowledgement; all but heartbeats are withdrawn. -/
def execLonely (s : State) : Result :=
  .next (if s.fnRuns && decide (s.fn.state = .active ∧ 16 ≤ s.fn.unacked) then
    let kept := s.fn.pending.filter fun (f : BitVec 11 × List Byte) => decide (frameCode f.1 = 0xE)
    (({ s with fn := { s.fn with state := .lonely, pending := kept } }).raise (mgReg 0x104) 1).bumpObj 0x60D3 0 1
  else s)

/-- BUS_OFF_RECOVERY: the counts start from 0 and the address stays (R451). -/
def execBusOffRecovery (s : State) : Result :=
  .next (if s.fnRuns && s.fn.busOff then { s with fn := { s.fn with busOff := false, tec := 0, rxErr := 0 } } else s)

/-- CAN_RECEIVE_ERROR raises the receive count by 1 or 8. -/
def execCanReceiveError (amount : Nat) (s : State) : Result :=
  .next (if s.fnRuns then s.setErrs s.fn.tec (min 255 (s.fn.rxErr + amount)) else s)

/-- DATA_PHASE_RATE_CHANGE: 100 ms after the write of object 0x1012:01 (R469). -/
def execDataPhaseRateChange (s : State) : Result :=
  .next <|
    match s.fn.rateDue with
    | none => s
    | some t =>
      let s := s.reachUp t
      { s with fn := { s.fn with rateDue := none, rateNow := s.obj 0x1012 1 2 } }

/-! Node addresses (R453 to R456). -/

/-- The device listens for the key chain; ADDR_BASE in force is that of object 0x1010:01. -/
def State.listen (s : State) : State :=
  { s with fn := { s.fn with state := .listen, source := 0, address := 0, base := s.obj 0x1010 1 0x20, lastCount := none,
                             noted := [], listened := false, contending := false, listenFrom := s.uptime,
                             pending := [], tunnel := none } }

/-- The device begins an election: it holds no address, and listens for 1.1 s. -/
def State.elect (s : State) : State :=
  { s with fn := { s.fn with state := .electing, source := 0, address := 0, noted := [], listened := false,
                             contending := false, listenFrom := s.uptime, pending := [], tunnel := none } }

/-- CHAIN_FALLBACK: the key chain gives no address. -/
def State.chainFallback (s : State) : State := (s.raise (mgReg 0x104) 4).elect

/-- The device takes an address and sends its CLAIM (Table 16-1). -/
def State.takeAddress (s : State) (addr source index : Nat) : State :=
  let s := { s with fn := { s.fn with state := .active, source := source, address := addr, chainIndex := index,
                                      contending := false, unacked := 0, hbLast := s.uptime, chainLast := s.uptime } }
  s.queueFrame 7 (leBytes 8 s.serial.toNat ++ leBytes 1 source ++ leBytes 1 s.pw.pos.toNat ++ zeros 2)

/-- The chain gives index `k`. -/
def State.takeIndex (s : State) (k : Nat) : State :=
  if 0x5F < s.fn.base + k then s.chainFallback else s.takeAddress (s.fn.base + k) 1 k

/-- The controller is enabled, listen-only (R450). -/
def State.enableNet (s : State) : State :=
  if s.fn.enabled then s
  else ({ s with fn := { s.fn with enabled := true, rateNow := s.obj 0x1012 1 2 } }).listen

def State.listening (s : State) : Bool := s.fnRuns && decide (s.fn.state = .listen)

/-- CHAIN_IN_FRAME: two consecutive frames of the same count give the index. -/
def execChainInFrame (count : Nat) (s : State) : Result :=
  .next (if !s.listening then s
    else if s.fn.lastCount = some count then s.takeIndex count
    else { s with fn := { s.fn with lastCount := some count } })

/-- CHAIN_IN_HIGH_TIMEOUT: high for 250 ms without a frame. -/
def execChainInHighTimeout (s : State) : Result :=
  .next (if s.listening then (s.reachUp (s.fn.listenFrom + 250000000)).takeIndex 0 else s)

/-- CHAIN_IN_LOW_TIMEOUT: low for 500 ms. -/
def execChainInLowTimeout (s : State) : Result :=
  .next (if s.listening then (s.reachUp (s.fn.listenFrom + 500000000)).chainFallback else s)

/-- CHAIN_OUT_FRAME: every 100 ms a device with a chain address of index k sends k pulses. -/
def execChainOutFrame (s : State) : Result :=
  .next (if s.hasAddress && decide (s.fn.source = 1) then
    let s := s.reachUp (s.fn.chainLast + 100000000)
    ({ s with fn := { s.fn with chainLast := s.uptime } }).emit (.chainOut s.fn.chainIndex)
  else s)

def State.electing (s : State) : Bool := s.fnRuns && decide (s.fn.state = .electing)

/-- ELECTION_LISTEN_END. -/
def execElectionListenEnd (s : State) : Result :=
  .next (if s.electing && !s.fn.listened then
    let s := s.reachUp (s.fn.listenFrom + 1100000000)
    { s with fn := { s.fn with listened := true } }
  else s)

/-- The digit D of round `r` of serial number `n` (R455). -/
def bidDigit (n r : Nat) : Nat := if r = 10 then n % 16 * 4 else n / 2 ^ (58 - 6 * r) % 64

/-- The contender's BID of round `r` is queued. -/
def State.bid (s : State) (r : Nat) : State :=
  { s with fn := { s.fn with contending := true, round := r,
                             pending := [(canIdent 0xF (bidDigit s.serial.toNat r), [])] } }

/-- ELECTION_OPEN: 20 ms without a BID on the bus. -/
def execElectionOpen (s : State) : Result :=
  .next (if s.electing && s.fn.listened && !s.fn.contending then (s.reachUp (s.fn.bidLast + 20000000)).bid 0 else s)

/-- The lowest address of 0x60 to 0x7E that has not been noted. -/
def State.freeAddress (s : State) : Option Nat :=
  ((List.range 31).map (· + 0x60)).find? fun a => !s.fn.noted.contains a

/-- BID_RECEIVED: a BID the bus carried. A contender whose own digit it is goes on, or after round 10 claims; any other
withdraws until the next election. -/
def State.bidSeen (s : State) (digit : Nat) : State :=
  let s := { s with fn := { s.fn with bidLast := s.uptime } }
  if !s.fn.contending then s.frameIn
  else if digit ≠ bidDigit s.serial.toNat s.fn.round then
    ({ s with fn := { s.fn with contending := false, pending := [] } }).frameIn
  else if s.fn.round < 10 then s.bid (s.fn.round + 1)
  else
    match s.freeAddress with
    | some a => ({ s with fn := { s.fn with pending := [] } }).takeAddress a 2 0
    | none => { s with fn := { s.fn with contending := false, pending := [] } }

def execBidReceived (digit : BitVec 6) (s : State) : Result := .next (if s.fnRuns then s.bidSeen digit.toNat else s)

/-- A frame of another device from address `a`: noted, or, from the device's own address, ADDR_CONFLICT (R456). -/
def State.hearFrom (s : State) (a : Nat) : State :=
  let s := s.frameIn
  if s.hasAddress && decide (a = s.fn.address) then
    let s := s.raise (mgReg 0x104) 2
    if s.fn.source = 2 then s.elect else s
  else { s with fn := { s.fn with noted := if s.fn.noted.contains a then s.fn.noted else s.fn.noted ++ [a] } }

def execClaimReceived (addr : BitVec 7) (_serial : BitVec 64) (s : State) : Result :=
  .next (if s.fnRuns then s.hearFrom addr.toNat else s)

def execHeartbeatReceived (addr : BitVec 7) (s : State) : Result :=
  .next (if s.fnRuns then s.hearFrom addr.toNat else s)

/-- READDRESS: addressed to the device or to all, it drops the address and restarts the key chain. -/
def execReaddress (target : BitVec 7) (s : State) : Result :=
  .next (if !s.fnRuns then s
    else
      let s := s.frameIn
      if target.toNat = 0 ∨ (s.hasAddress ∧ target.toNat = s.fn.address) then s.listen else s)

/-! Heartbeats and alarms (R458, R459). -/

/-- EC_STATUS bits 3:0 (Table 14-13). -/
def State.ecStatus (s : State) : Nat :=
  8 * b2n (!s.ec.shakeUnits.isEmpty) + 4 * b2n (!s.ec.forfeits.isEmpty) + 2 * b2n s.ec.devReset.isSome +
    b2n s.ec.retiredHbm

/-- HEARTBEAT_SEND: every period of object 0x1013:01, or every second in LONELY. -/
def execHeartbeatSend (s : State) : Result :=
  .next <|
    let period := if s.fn.state = .lonely then 1000 else s.obj 0x1013 1 1000
    if !s.hasAddress || decide (period = 0) then s
    else
      let s := s.reachUp (s.fn.hbLast + period * 1000000)
      let s := { s with fn := { s.fn with hbLast := s.uptime } }
      s.queueFrame 0xE (leBytes 1 (fnCode s.fn.state) ++ leBytes 1 s.fw.bootState ++ leBytes 1 s.ecStatus ++
        leBytes 1 s.fn.source ++ leBytes 4 (s.uptime / 1000000000))

/-- ALARM_SEND: the bits gathered since the last ALARM, not within 100 ms of it. -/
def execAlarmSend (s : State) : Result :=
  .next <|
    if !(s.hasAddress && decide (s.fn.state = .active)) || s.fn.alarmFrom.isNone then s
    else
      let s := match s.fn.alarmLast with
        | some t => s.reachUp (t + 100000000)
        | none => s
      let ns := if s.tb.timeValid then s.now else 0
      let data := leBytes 4 s.fn.alarmFault.toNat ++ leBytes 4 s.fn.alarmArray.toNat ++ leBytes 8 ns
      ({ s with fn := { s.fn with alarmFault := 0, alarmArray := 0, alarmFrom := none,
                                  alarmLast := some s.uptime } }).queueFrame 1 data

/-! The SPDM tunnel (R463). -/

/-- A segment of a message: in sequence it is added; a message out of sequence, or above 4 KiB, is discarded. -/
def State.tunnelIn (s : State) (first last : Bool) (counter : Nat) (data : List Byte) : State :=
  let got := if first then some data
    else
      match s.fn.tunnel with
      | some (c, d) => if counter = (c + 1) % 256 then some (d ++ data) else none
      | none => none
  match got with
  | none => { s with fn := { s.fn with tunnel := none } }
  | some d =>
    if 4096 < d.length then { s with fn := { s.fn with tunnel := none } }
    else if last then { s with fn := { s.fn with tunnel := none, message := some d } }
    else { s with fn := { s.fn with tunnel := some (counter, d) } }

def execTunnelReq (first last : Bool) (counter : Byte) (data : List Byte) (s : State) : Result :=
  .next (if s.hasAddress then s.frameIn.tunnelIn first last counter.toNat data else s)

/-- A response leaves as TUNNEL_RSP frames of up to 62 message bytes. -/
def State.tunnelOut (s : State) (msg : List Byte) : State :=
  let n := max 1 (ceilDiv msg.length 62)
  (List.range n).foldl (fun s i =>
    let flags := b2n (decide (i = 0)) + 2 * b2n (decide (i + 1 = n))
    s.queueFrame 9 (leBytes 1 flags ++ leBytes 1 (i % 256) ++ (msg.drop (62 * i)).take 62)) s

end Sys2Proof.Machine
end

