-- ==== Sys2Proof/Machine/Power.lean ====
section
/-! DEFINITION. Power: power-on reset and its release, the position straps, the power step and its measurements, thermal
trips, and the loss and restart of the core. -/

namespace Sys2Proof.Machine

/-! Power-on reset (R485, R496, R507). -/

/-- What a power-on reset keeps: the part's fuses and firmware store, with the repair lists, array fault counts, recorder
index and retirement record kept there. -/
def State.powerOn (s : State) : State :=
  let arrays := s.arrays.filterMap fun (e : Nat × ArrRec) =>
    let r := { ArrRec.fresh with faults := e.2.faults, retired := e.2.retired }
    if r = ArrRec.fresh then none else some (e.1, r)
  let st := s.hbmStacks.filterMap fun (e : Nat × StackRec) =>
    let r := { StackRec.fresh with repair := e.2.repair, lanesUsed := e.2.lanesUsed, rowsUsed := e.2.rowsUsed }
    if r = StackRec.fresh then none else some (e.1, r)
  let objs := s.objs.filter fun (e : Nat × Nat) => decide (e.1 / 256 = 0x4020)
  let f := s.fw
  { State.reset with
    pending := s.pending, variant := s.variant, stepping := s.stepping, serial := s.serial, out := s.out,
    free := s.free, arrays := arrays, hbmStacks := st, objs := objs,
    rec_ := { Recorder.fresh with index := s.rec_.index },
    sc := { Security.fresh with svnFused := s.sc.svnFused, revoked := s.sc.revoked, draws := s.sc.draws },
    fw := { Firmware.fresh with images := f.images, blocks := f.blocks, selSeq := f.selSeq, committed := f.committed,
                                trial := f.trial, trialCount := f.trialCount, trialSeq := f.trialSeq, fell := f.fell } }

def execPowerOnReset (s : State) : Result := .next s.powerOn

/-- SYS_RESET_RELEASE: t = 0 of Table 17-6; the boot ROM starts in the always-on domain. -/
def execSysResetRelease (s : State) : Result :=
  .next (if s.pw.state = .reset then ({ s with uptime := 0, pw := { s.pw with state := .aoOnly } }).romStart else s)

/-- POS_SAMPLE: the straps are sampled once, 2 ms after the release (R507). -/
def execPosSample (pos : BitVec 3) (s : State) : Result :=
  .next (if s.aoOn && !s.pw.posTaken then
    let s := s.reachUp 2000000
    { s with pw := { s.pw with pos := pos, posTaken := true } }
  else s)

/-! The power step (R491, R492). -/

def State.tAlert (s : State) : Nat := s.obj 0x3010 1 100
def State.tTrip (s : State) : Nat := s.obj 0x3010 2 110

/-- The measurements of one evaluation, and the energy and time since the one before. -/
def State.measure (s : State) (vin iin power tj part : Nat) : State :=
  let dt := s.uptime - s.pw.lastEval
  let step := s.regField (pwReg 4) 1 0
  let e := s.pw.energy + power * dt
  let capped := s.pw.cappedNs + (if step = 0 then 0 else dt)
  let s := { s with pw := { s.pw with lastEval := s.uptime, energy := e, cappedNs := capped } }
  let mj := e / 1000000 % 2 ^ 64
  ((((s.setRegN (pwReg 0xC) (iin * 2 ^ 16 + vin)).setRegN (pwReg 0x10) power).setRegN (pwReg 0x14) (part * 256 + tj)).setRegN
    (pwReg 0x20) (mj % 2 ^ 32)).setRegN (pwReg 0x24) (mj / 2 ^ 32)

/-- POWER_STEP_EVALUATION: VIN in mV, its current in 0.01 A, P in W, and the hottest die sensor (R491, R492). -/
def State.evalPower (s : State) (vin iin power tj part : Nat) : State :=
  let s := (s.reachUp (s.pw.lastEval + 100000)).measure vin iin power tj part
  let lim := s.regField (pwReg 0) 11 0
  let high := decide (lim < power ∨ 26000 < iin ∨ s.tAlert ≤ tj)
  let calm := decide (power * 10 < lim * 9 ∧ iin < 23400 ∧ tj + 5 < s.tAlert)
  let step := s.regField (pwReg 4) 1 0
  let since := fun (b : Bool) (o : Option Nat) => if b then some (o.getD s.uptime) else none
  let cool := since (s.pw.hot && decide (tj + 10 < s.tTrip)) s.pw.coolFrom
  let ok := since (s.pw.lost && decide (11500 ≤ vin ∧ vin ≤ 13000 ∧ tj < 90)) s.pw.okFrom
  let s := { s with pw := { s.pw with calmFrom := since calm s.pw.calmFrom, coolFrom := cool, okFrom := ok } }
  if s.anyCrit || decide (s.tTrip ≤ tj) then s.setPower 3
  else if high && decide (step < 3 ∧ s.pw.lastRaise + 1000000 ≤ s.uptime) then s.setPower (step + 1)
  else
    match s.pw.calmFrom with
    | some t =>
      if 0 < step ∧ t + 10000000 ≤ s.uptime then
        let s := s.setPower (step - 1)
        { s with pw := { s.pw with calmFrom := some s.uptime } }
      else s
    | none => s

def execPowerStepEvaluation (vin iin : BitVec 16) (power : BitVec 12) (tjMax : Byte) (part : PartNo) (s : State) :
    Result :=
  .next (if s.aoOn then s.evalPower vin.toNat iin.toNat power.toNat tjMax.toNat part.val else s)

/-! Thermal trips (R493). -/

/-- THERMAL_TRIP: a die sensor of a partition reads at or above T_TRIP. -/
def execThermalTrip (temp : Byte) (part : PartNo) (s : State) : Result :=
  .next (if s.aoOn && decide (s.tTrip ≤ temp.toNat) then
    let s := (s.setRegN (pwReg 0x14) (part.val * 256 + temp.toNat)).raise (pwReg 8) 2
    let s := if s.pw.hot then s else s.emit (.thermAlert true)
    ({ s with pw := { s.pw with hot := true, coolFrom := none } }).setPower 3
  else s)

/-- THERM_ALERT_RELEASE: every sensor has been below T_TRIP − 10 °C for 1 s. -/
def execThermAlertRelease (s : State) : Result :=
  .next <|
    match s.pw.coolFrom with
    | none => s
    | some t =>
      if s.pw.hot then
        let s := s.reachUp (t + 1000000000)
        ({ s with pw := { s.pw with hot := false, coolFrom := none } }).emit (.thermAlert false)
      else s

/-! Core loss and restart (R494, R495). -/

/-- CORE_LOSS: every domain but the always-on one is switched off, so that the time parent is lost; each partition stands in
reset until the restart. What the HBM holds afterwards is open. -/
def State.coreLoss (s : State) (cause : CoreLoss) : State :=
  let s := s.raise (pwReg 8) (match cause with | .thermal => 4 | .vin => 8)
  let s := s.recorderLost.clearCore.reparent
  let s := s.partList.foldl (fun s p =>
    (s.captureCause p .device).setPart p
      { PartRec.fresh with resetting := some { cause := .device, start := s.uptime, jobs := [] } }) s
  { s with hbm := [], hbmUpset := [],
           pw := { s.pw with state := .aoOnly, lost := true, okFrom := none, csReady := false, hbmReady := false },
           fw := { s.fw with boot := if s.fw.boot = .ready then .verified else s.fw.boot } }

def execCoreLoss (cause : CoreLoss) (s : State) : Result := .next (if s.coreOn then s.coreLoss cause else s)

/-- CORE_RESTART: VIN and sensors have been good for 1 s; the core is powered and a device reset runs from its bring-up on.
In a trial, DEV_FAULT fails a health check (R477). -/
def State.coreRestart (s : State) (t : Nat) (found : List BringUp) : State :=
  let s := ((s.reachUp (t + 1000000000)).bumpObj 0x6012 0 1).newSeed
  let s := { s with pw := { s.pw with lost := false, okFrom := none, csReady := true },
                    ec := { s.ec with devReset := some s.uptime, devDone := true } }
  let s := ((s.logFault 0x20).hbmBringUp found).endDeviceParts
  if s.inTrial then s.trialFails.startDeviceReset false else s

def execCoreRestart (found : List BringUp) (s : State) : Result :=
  .next <|
    match s.pw.okFrom with
    | some t => if s.pw.lost then s.coreRestart t found else s
    | none => s

end Sys2Proof.Machine
end

