-- ==== Sys2Proof/Machine/Dictionary.lean ====
section
/-! DEFINITION. The object dictionary's tables: which entries exist, their types, access, defaults and ranges, those of
absent units, and the bytes of a settings block. -/

namespace Sys2Proof.Machine

/-- Object types (Table 16-3); `uint n` and `sint n` have n bytes, `domain` a greatest length for a write. -/
inductive ObjType where
  | bool | uint (n : Nat) | sint (n : Nat) | f32 | vstr | domain (most : Nat)
deriving DecidableEq, Repr

/-- Object access (R465). -/
inductive ObjAccess where
  | const | ro | wo | rw | rwp
deriving DecidableEq, Repr

/-- An entry: type, access, and the default value of a scalar. -/
structure ObjInfo where
  type : ObjType
  acc  : ObjAccess
  dflt : Nat
deriving DecidableEq, Repr

/-- The size of a scalar type. -/
def ObjType.size : ObjType → Nat
  | .bool => 1
  | .uint n | .sint n => n
  | .f32 => 4
  | _ => 0

def ObjType.scalar : ObjType → Bool
  | .vstr | .domain _ => false
  | _ => true

def objU (n : Nat) (acc : ObjAccess) (dflt : Nat) : Option ObjInfo := some { type := .uint n, acc := acc, dflt := dflt }
def objB (acc : ObjAccess) (dflt : Nat) : Option ObjInfo := some { type := .bool, acc := acc, dflt := dflt }
def objT (t : ObjType) (acc : ObjAccess) : Option ObjInfo := some { type := t, acc := acc, dflt := 0 }

/-- An entry at sub-indices `lo` to `hi`. -/
def objAt (sub lo hi : Nat) (o : Option ObjInfo) : Option ObjInfo := if lo ≤ sub ∧ sub ≤ hi then o else none

/-- An I16 or I32 value of −1 as stored. -/
def minus1 (n : Nat) : Nat := 2 ^ (8 * n) - 1

/-- Entries 0x1000 to 0x2FFF (Tables 0-5, 16-6, 6-16, 7-16, 8-21, 10-10, 11-16, 12-12, 13-9, 14-18). -/
def objLow (index sub : Nat) : Option ObjInfo :=
  match index with
  | 0x1001 => objAt sub 0 0 (objU 8 .const 0)
  | 0x1008 => objAt sub 0 0 (objT .vstr .const)
  | 0x1010 => match sub with
    | 1 => objU 1 .rwp 0x20
    | 2 | 3 => objU 1 .ro 0
    | _ => none
  | 0x1011 => match sub with
    | 1 => objU 1 .rwp 1
    | 2 => objB .rwp 1
    | _ => none
  | 0x1012 => objAt sub 1 1 (objU 1 .rwp 2)
  | 0x1013 => objAt sub 1 1 (objU 2 .rwp 1000)
  | 0x1014 => objAt sub 1 3 (objU 1 .ro 0)
  | 0x1015 => objAt sub 1 1 (objU 4 .rwp 115200)
  | 0x1020 => objAt sub 1 3 (objU 4 .const 0)
  | 0x2400 => match sub with
    | 1 => objU 1 .rwp 6
    | 2 => objU 2 .rwp 655
    | _ => none
  | 0x2410 => match sub with
    | 1 => some { type := .f32, acc := .rwp, dflt := 0x40800000 }
    | 2 => objU 1 .rwp 4
    | 3 => objU 2 .rwp 8
    | 4 => objU 1 .rwp 3
    | 5 => objU 2 .rwp 0
    | _ => none
  | 0x2411 => objAt sub 1 1 (objU 1 .rwp 0x0F)
  | 0x2500 => match sub with
    | 1 => objU 1 .rwp 4
    | 2 => objU 1 .rwp 16
    | _ => none
  | 0x2620 => objAt sub 1 1 (objU 1 .rwp 12)
  | 0x2700 =>
    if sub = 7 then objU 2 .ro 0 else if 4 ≤ sub then objAt sub 4 6 (objU 1 .rwp 1) else objAt sub 1 3 (objU 1 .rwp 0)
  | 0x2701 => objAt sub 1 13 (some { type := .sint 4, acc := .rwp, dflt := 0 })
  | 0x2702 => match sub with
    | 1 => objU 1 .rwp 0
    | 2 => objU 1 .rwp 10
    | _ => none
  | 0x2710 => objAt sub 1 1 (objU 1 .rwp 0)
  | 0x2800 => objAt sub 1 1 (objB .rwp 0)
  | 0x2810 => match sub with
    | 1 => objU 2 .rwp 2000
    | 2 => objU 1 .rwp 10
    | 3 => objU 1 .rwp 16
    | 4 => objU 1 .rwp 0
    | _ => none
  | 0x2811 => match sub with
    | 1 => objU 1 .rwp 7
    | 2 => objU 2 .rwp 600
    | 3 => objU 1 .rwp 30
    | _ => none
  | _ => if 0x2600 ≤ index ∧ index < 0x2620 then objAt sub 1 16 (objU 2 .rw 0) else none

/-- Entries 0x3000 to 0x5FFF and 0x7000 on (Tables 17-10, 10-10, 13-9, 14-18, 15-13, 16-9). -/
def objMid (index sub : Nat) : Option ObjInfo :=
  match index with
  | 0x3000 => match sub with
    | 1 => objU 2 .rwp 3100
    | 2 => objU 1 .rw 0
    | _ => none
  | 0x3001 => match sub with
    | 1 | 2 => objU 2 .ro 0
    | 3 => objT (.sint 2) .ro
    | _ => none
  | 0x3010 => match sub with
    | 1 => objU 1 .rwp 100
    | 2 => objU 1 .rwp 110
    | 3 => objU 1 .const 125
    | _ => none
  | 0x3020 => objAt sub 1 12 (some { type := .sint 2, acc := .ro, dflt := minus1 2 })
  | 0x3021 => objAt sub 1 4 (objU 1 .rwp ([0, 90, 95, 100, 105].getD sub 0))
  | 0x4020 => match sub with
    | 1 | 3 => objU 1 .ro 0
    | 2 => objU 2 .ro 0
    | 4 => objB .wo 0
    | 5 => objU 8 .ro 0
    | _ => none
  | 0x4030 => match sub with
    | 1 => objU 2 .ro 0
    | 2 => objT (.domain 0) .ro
    | _ => none
  | 0x4040 => match sub with
    | 1 => objU 1 .rwp 3
    | 2 => objB .wo 0
    | 3 => objT (.domain 0) .ro
    | _ => none
  | 0x4041 => objAt sub 1 32 (objU 1 .rwp 0)
  | 0x4050 => match sub with
    | 1 => objB .wo 0
    | 2 => objU 4 .wo 0
    | _ => none
  | 0x5000 => objAt sub 1 2 (objT (.domain 0) .ro)
  | 0x5001 => objAt sub 1 6 (objT (.domain 0) .ro)
  | 0x5010 => objAt sub 1 2 (objB .rwp 1)
  | 0x5020 => objAt sub 1 2 (objU 1 .ro 0)
  | 0x7000 => objAt sub 1 3 (objU 1 .ro 0)
  | 0x7001 => match sub with
    | 1 | 2 => objT .vstr .ro
    | 3 | 4 => objU 1 .ro 0xFF
    | _ => none
  | 0x7002 => match sub with
    | 1 => objT (.domain (31 * 2 ^ 20)) .wo
    | 2 | 3 | 4 => objB .wo 0
    | _ => none
  | 0x7003 => match sub with
    | 1 | 2 => objU 2 .ro 0
    | 3 => objB .ro 0
    | _ => none
  | 0x7004 => objAt sub 1 1 (objU 2 .rwp 300)
  | _ => none

/-- The sub-indices of a counter object (the 0x6000 entries): first and last. -/
def counterSubs (index : Nat) : Option (Nat × Nat) :=
  if [0x6010, 0x6011, 0x6012, 0x6060, 0x6061, 0x6062, 0x6082, 0x6090, 0x6091, 0x6092, 0x60A0, 0x60A1, 0x60A2, 0x60B1,
      0x60B2, 0x60B3, 0x60B5, 0x60C0, 0x60C1, 0x60D0, 0x60D1, 0x60D2, 0x60D3, 0x60D4].contains index then some (0, 0)
  else if [0x6040, 0x6041, 0x6042, 0x6050, 0x6051, 0x6052, 0x6070, 0x60B0, 0x60B4].contains index then some (1, 32)
  else if index = 0x6071 then some (1, 12)
  else if index = 0x6080 ∨ index = 0x6081 then some (1, 13)
  else none

/-- The entry at INDEX:SUB. -/
def objInfo (index sub : Nat) : Option ObjInfo :=
  match counterSubs index with
  | some q => objAt sub q.1 q.2 (objU 8 .ro 0)
  | none => if index < 0x3000 then objLow index sub else objMid index sub

/-- Does any ET4 define the index? -/
def indexDefined (index : Nat) : Bool := (List.range 3).any fun k => (objInfo index k).isSome

/-- The partition or port an entry belongs to, if it belongs to one (R12, R199, R233, R309, R345, R426). -/
def objPart (index sub : Nat) : Option Nat :=
  if 0x2600 ≤ index ∧ index < 0x2620 then some (index - 0x2600)
  else if index = 0x4041 ∨ counterSubs index = some (1, 32) then some (sub - 1)
  else none

def objPort (index sub : Nat) : Option Nat :=
  if index = 0x2701 ∨ index = 0x6080 ∨ index = 0x6081 then some (sub - 1) else none

/-- Does the entry belong to an absent unit (R12)? That 0x5010:02, the setting for torus links, belongs to none and so answers
on the -B parts too, which have no torus port, is a DESIGN CHOICE (log entry 68): no rule says. -/
def objAbsent (v : Variant) (index sub : Nat) : Bool :=
  (match objPart index sub with | some p => !partPresent v p | none => false) ||
  (match objPort index sub with | some n => !portPresent v n | none => false) ||
  (!recorderPresent v && decide (index = 0x4030 ∨ index = 0x60A0 ∨ index = 0x60A1))

/-- The range of a writable value, apart from what other values it must agree with. -/
def rangeOk (index sub v : Nat) : Bool :=
  let within := fun (lo hi : Nat) => decide (lo ≤ v ∧ v ≤ hi)
  match index, sub with
  | 0x1010, 1 => within 2 0x57
  | 0x1011, 1 => within 1 0x7F
  | 0x1012, 1 => [1, 2, 4, 5, 8].contains v
  | 0x1013, 1 => decide (v = 0) || within 100 60000
  | 0x1015, 1 => within 115200 3000000
  | 0x2400, 1 => within 1 15
  | 0x2410, 1 => within 0x3F800000 0x44800000
  | 0x2410, 2 => within 1 8
  | 0x2410, 4 => within 1 3
  | 0x2411, 1 => within 0 15
  | 0x2500, 1 => within 0 16
  | 0x2701, _ =>
    let i := (BitVec.ofNat 32 v).toInt
    decide (-100000 ≤ i ∧ i ≤ 100000)
  | 0x2702, 1 | 0x2710, 1 => within 0 2
  | 0x2702, 2 => [10, 25].contains v
  | 0x2810, 1 => within 100 60000
  | 0x2810, 2 => within 2 60
  | 0x2811, 1 => within 0 7
  | 0x2811, 2 => within 1 65535
  | 0x2811, 3 => within 10 100
  | 0x3000, 1 => within 2200 3100
  | 0x3000, 2 | 0x4041, _ => within 0 3
  | 0x3010, 1 => within 85 110
  | 0x3010, 2 => within 90 115
  | 0x3021, _ => within 70 105
  | 0x4040, 1 => within 1 255
  | 0x7004, 1 => within 60 3600
  | 0x2700, k => if k ≤ 3 then within 0 15 else within 1 16
  | _, _ => if 0x2600 ≤ index ∧ index < 0x2620 then within 0 672 else true

/-- Is a value of a type a permitted encoding: a BOOL 0 or 1, an F32 finite (R464)? -/
def encodingOk (t : ObjType) (v : Nat) : Bool :=
  match t with
  | .bool => decide (v ≤ 1)
  | .f32 => decide (v / 2 ^ 23 % 256 ≠ 255)
  | _ => true

/-! Settings blocks (R478). -/

/-- Is the key of an object that of an RWP entry? -/
def keyRwp (k : Nat) : Bool :=
  match objInfo (k / 256) (k % 256) with
  | some o => decide (o.acc = .rwp)
  | none => false

/-- The bytes of a settings block; LENGTH counts those of the entries (log entry 14). -/
def Settings.bytes (b : Settings) : List Byte :=
  let entries := b.entries.flatMap fun e =>
    let size := match objInfo (e.1 / 256) (e.1 % 256) with | some o => o.type.size | none => 0
    leBytes 2 (e.1 / 256) ++ leBytes 1 (e.1 % 256) ++ leBytes 1 size ++ leBytes size e.2
  let body := leBytes 4 0x48534554 ++ leBytes 2 b.schema ++ leBytes 1 (if b.committed then 2 else 1) ++ zeros 1 ++
    leBytes 4 b.seq ++ leBytes 4 entries.length ++ leBytes 4 b.trialSeq ++ entries
  body ++ leBytes 4 (crc32c body).toNat

/-! Identity (R8). -/

/-- MG_IDENT. -/
def State.mgIdent (s : State) : Nat := 0xE7040000 + s.stepping.toNat * 256 + variantCode s.variant

def orderingNumber : Variant → String
  | .h32 => "ET4-32H" | .b32 => "ET4-32B" | .b28 => "ET4-28B"

/-- The bytes of a string. -/
def utf8 (t : String) : List Byte := t.toList.map fun c => BitVec.ofNat 8 c.toNat

end Sys2Proof.Machine
end

