-- ==== Sys2Proof/Machine/Security.lean ====
section
/-! DEFINITION. Identity and measurements, the SPDM responder, IDE keys, TDISP device interfaces, and signed provenance
records. The encodings of SPDM, IDE_KM and TDISP messages are those of the DMTF and PCIe specifications (PRESUMED, log
entry 15). -/

namespace Sys2Proof.Machine

/-! Identity and measurements (R431, R432). -/

def be48 (v : BitVec 384) : List Byte := beBytes 48 v.toNat

/-- CDI_ROM, CDI_FW and CDI_PROV (Table 15-2). -/
def cdiRom : BitVec 384 := hmac384 (be48 Config.uds) (be48 Config.romDigest)

def State.runningImage (s : State) : Image := s.fw.images.getD s.fw.running .blank

def State.cdiFw (s : State) : BitVec 384 :=
  hmac384 (be48 cdiRom) (beBytes 48 s.runningImage.digest ++ leBytes 1 s.runningImage.svn)

def State.cdiProv (s : State) : BitVec 384 := hmac384 (be48 s.cdiFw) (utf8 "PROV")

/-- EC_ARR_RETIREDw (Table 14-17). -/
def State.arrRetired (s : State) (w : Nat) : Nat :=
  ((List.range 32).map fun b => if (SMap.get ArrRec.fresh s.arrays (32 * w + b)).retired then 2 ^ b else 0).sum

/-- The TDISP bits of every SC_SEAT_ATTR, seat 0 in bit 0 of the first byte (log entry 15). -/
def State.tdispBits (s : State) : List Byte :=
  leBytes 64 ((List.range 512).map fun n => if bit (s.reg (seatAttr n)) 1 then 2 ^ n else 0).sum

/-- Measurement `i` of Table 15-3; 3 and 4 as they were at boot. -/
def State.measurement (s : State) (i : Nat) : List Byte :=
  match i with
  | 1 => be48 Config.romDigest
  | 2 => beBytes 48 s.runningImage.digest
  | 3 => be48 (sha384 (leBytes 1 s.runningImage.svn ++ leBytes 1 s.fw.bootFused ++ leBytes 1 s.fw.running))
  | 4 => be48 (sha384 s.fw.bootBlock)
  | 5 => be48 (sha384 (leBytes 1 (s.obj 0x2800 1 0) ++ leBytes 1 (s.obj 0x5010 1 1) ++
      leBytes 1 (s.obj 0x5010 2 1) ++ s.tdispBits))
  | _ => be48 (sha384 (leBytes 4 s.mgIdent ++ leBytes 4 (partMask s.variant) ++ leBytes 4 (unitPresent s.variant) ++
      (List.range 8).flatMap fun w => leBytes 4 (s.arrRetired w)))

/-- Measurements in index order. -/
def State.measurements (s : State) (is : List Nat) : List Byte := is.flatMap s.measurement

def certBytes (key : BitVec 384) (k : Nat) : List Byte := (List.range (Config.certLength key k)).map (Config.certByte key k)

/-- What the Alias certificate certifies: the key and measurements 1 to 4. -/
def State.aliasName (s : State) : BitVec 384 := sha384 (be48 s.cdiFw ++ s.measurements [1, 2, 3, 4])

/-- Certificate slot 0: the chain from the Hynen root through DeviceID to Alias. -/
def State.certChain (s : State) : List Byte := certBytes cdiRom 0 ++ certBytes s.aliasName 1

/-- The PROV certificate. -/
def State.provCert (s : State) : List Byte := certBytes s.cdiProv 2

/-- An ECDSA signature under the key of a CDI. -/
def signed (cdi : BitVec 384) (msg : List Byte) : List Byte := (List.range 96).map (Config.ecdsaSign cdi msg)

/-! The SPDM responder (R433). -/

/-- Does the responder answer on a path: the host mailbox once configuration requests complete, the field network with a
message that the tunnel has delivered? -/
def State.spdmOpen (s : State) (path : Path) : Bool :=
  s.sc.attest &&
    match path with
    | .hostMailbox => s.hostPort && s.coreOn && s.fwReady
    | .fieldNetwork => s.hasAddress && s.fn.message.isSome

/-- A response leaves on its path; the request of the tunnel is consumed. -/
def State.respond (s : State) (path : Path) (msg : List Byte) : State :=
  match path with
  | .hostMailbox => s.emit (.spdm path msg)
  | .fieldNetwork => ({ s with fn := { s.fn with message := none } }).tunnelOut msg

def spdmHead (code p1 p2 : Nat) : List Byte := leBytes 1 0x13 ++ leBytes 1 code ++ leBytes 1 p1 ++ leBytes 1 p2

/-- ERROR of a code: 1 InvalidRequest, 6 DecryptError, 0x0A SessionLimitExceeded. -/
def spdmError (code : Nat) : List Byte := spdmHead 0x7F code 0

/-- Answer on a path while the responder is open there. -/
def State.spdm (s : State) (path : Path) (go : State → List Byte × State) : Result :=
  .next (if s.spdmOpen path then
    let r := go s
    r.2.respond path r.1
  else s)

def execSpdmGetVersion (path : Path) (s : State) : Result :=
  s.spdm path fun s => (leBytes 1 0x10 ++ leBytes 1 4 ++ zeros 3 ++ leBytes 1 1 ++ leBytes 2 0x1300, s)

/-- CAPABILITIES: the flags and sizes are open (log entry 15). -/
def execSpdmGetCapabilities (path : Path) (s : State) : Result :=
  s.spdm path fun s => (spdmHead 0x61 0 0 ++ s.freeBytes 16, s.draw)

/-- ALGORITHMS: ECDSA P-384, SHA-384, ECDHE secp384r1 and AES-256-GCM. -/
def execSpdmNegotiateAlgorithms (path : Path) (request : List Byte) (s : State) : Result :=
  s.spdm path fun s =>
    if request = [] then (spdmError 1, s)
    else
      (spdmHead 0x63 2 0 ++ leBytes 2 44 ++ leBytes 1 1 ++ zeros 1 ++ leBytes 4 4 ++ leBytes 4 0x80 ++ leBytes 4 2 ++
        zeros 16 ++ leBytes 2 0x2002 ++ leBytes 2 0x10 ++ leBytes 2 0x2003 ++ leBytes 2 2, s)

def State.chainHash (s : State) : List Byte := be48 (sha384 s.certChain)

def execSpdmGetDigests (path : Path) (s : State) : Result :=
  s.spdm path fun s => (spdmHead 1 0 1 ++ s.chainHash, s)

/-- CERTIFICATE: a portion of the chain of slot 0. -/
def execSpdmGetCertificate (path : Path) (slot offset length : Nat) (s : State) : Result :=
  s.spdm path fun s =>
    let c := s.certChain
    if slot ≠ 0 ∨ c.length < offset then (spdmError 1, s)
    else
      let part := (c.drop offset).take length
      (spdmHead 2 0 0 ++ leBytes 2 part.length ++ leBytes 2 (c.length - offset - part.length) ++ part, s)

/-- A nonce of 32 bytes from the DRBG. -/
def State.nonce (s : State) : List Byte := leBytes 32 s.drbgNext.toNat

/-- CHALLENGE_AUTH, signed with the Alias key over the requester's nonce and the response. -/
def execSpdmChallenge (path : Path) (slot : Nat) (nonce : List Byte) (s : State) : Result :=
  s.spdm path fun s =>
    if slot ≠ 0 then (spdmError 1, s)
    else
      let body := spdmHead 3 0 1 ++ s.chainHash ++ s.nonce ++ zeros 2
      (body ++ signed s.cdiFw (nonce ++ body), s.drbgStep)

/-- A measurement block: index, DMTF, size, type, value. -/
def State.measureBlock (s : State) (i : Nat) : List Byte :=
  leBytes 1 i ++ leBytes 1 1 ++ leBytes 2 51 ++ leBytes 1 0 ++ leBytes 2 48 ++ s.measurement i

/-- MEASUREMENTS: index 0 asks for their number, 0xFF for all. -/
def execSpdmGetMeasurements (path : Path) (index : Byte) (nonce : List Byte) (s : State) : Result :=
  s.spdm path fun s =>
    let i := index.toNat
    if 6 < i ∧ i ≠ 0xFF then (spdmError 1, s)
    else
      let is := if i = 0 then [] else if i = 0xFF then [1, 2, 3, 4, 5, 6] else [i]
      let rec_ := is.flatMap s.measureBlock
      let body := spdmHead 0x60 (if i = 0 then 6 else 0) 0 ++ leBytes 1 is.length ++ leBytes 3 rec_.length ++ rec_ ++
        s.nonce ++ zeros 2
      (body ++ signed s.cdiFw (nonce ++ body), s.drbgStep)

/-! Sessions. -/

def State.session (s : State) (k : Nat) : Option Session := s.sc.sessions.find? fun x => decide (x.number = k)

/-- KEY_EXCHANGE opens the lowest free session of 4; a fifth gets SessionLimitExceeded. -/
def execSpdmKeyExchange (path : Path) (share : List Byte) (s : State) : Result :=
  s.spdm path fun s =>
    match (List.range 4).find? fun k => (s.session k).isNone with
    | none => (spdmError 0x0A, s)
    | some k =>
      let d := s.sc.draws
      let mine := (List.range 96).map (Config.ecdhShare (Config.drbg d))
      let body := spdmHead 0x64 0 0 ++ leBytes 2 k ++ zeros 2 ++ mine ++ zeros 2
      let sessions := s.sc.sessions ++ [{ number := k, path := path, draw := d, secured := false }]
      (body ++ signed s.cdiFw (share ++ body), ({ s with sc := { s.sc with sessions := sessions } }).drbgStep)

def State.dropSession (s : State) (k : Nat) : State :=
  { s with sc := { s.sc with sessions := s.sc.sessions.filter fun x => decide (x.number ≠ k) } }

/-- FINISH ends the handshake of a session; verify data that do not fit end the session. -/
def execSpdmFinish (path : Path) (session : Fin 4) (verifyData : List Byte) (s : State) : Result :=
  s.spdm path fun s =>
    match s.session session.val with
    | none => (spdmError 1, s)
    | some x =>
      if x.secured then (spdmError 1, s)
      else if Config.finishVerifies x.draw verifyData then
        let sessions := s.sc.sessions.map fun (y : Session) =>
          if y.number = session.val then { y with secured := true } else y
        (spdmHead 0x65 0 0, { s with sc := { s.sc with sessions := sessions } })
      else (spdmError 6, s.dropSession session.val)

def execSpdmEndSession (path : Path) (session : Fin 4) (s : State) : Result :=
  s.spdm path fun s =>
    match s.session session.val with
    | some x => if x.secured then (spdmHead 0x6C 0 0, s.dropSession session.val) else (spdmError 1, s)
    | none => (spdmError 1, s)

/-- A vendor-defined request inside a secured session, answered on the session's path. -/
def State.inSession (s : State) (k : Nat) (go : State → List Byte × State) : Result :=
  match s.session k with
  | none => .next s
  | some x => s.spdm x.path fun s => if x.secured then go s else (spdmError 1, s)

/-- VENDOR_DEFINED_RESPONSE of the PCI-SIG with a protocol: 0 IDE_KM, 1 TDISP. -/
def vendorRsp (protocol : Nat) (payload : List Byte) : List Byte :=
  spdmHead 0x7E 0 0 ++ leBytes 2 3 ++ leBytes 1 2 ++ leBytes 2 1 ++ leBytes 2 (payload.length + 1) ++
    leBytes 1 protocol ++ payload

/-! IDE (R438, R441). -/

/-- A selective stream is no longer secure: every TDI bound to it goes to ERROR. -/
def State.streamLost (s : State) (n : Fin 8) : State :=
  let sel := s.sc.ideSel.filter fun m => decide (m ≠ n)
  let s := { s with sc := { s.sc with ideSel := sel } }
  s.seatList.foldl (fun s k => if (s.seat k).tdiStream = some n then s.tdiError k else s) s

/-- IDE_KM keys a stream, or stops it, in a secured session. -/
def State.ideSet (s : State) : IdeAction → State
  | .setLink => { s with sc := { s.sc with ideLink := true } }
  | .setSelective n =>
    let sel := if s.sc.ideSel.contains n then s.sc.ideSel else s.sc.ideSel ++ [n]
    { s with sc := { s.sc with ideSel := sel, ideBad := s.sc.ideBad.filter fun m => decide (m ≠ n) } }
  | .stopLink => { s with sc := { s.sc with ideLink := false } }
  | .stopSelective n => s.streamLost n

def execIdeKm (session : Fin 4) (action : IdeAction) (_key : List Byte) (s : State) : Result :=
  s.inSession session.val fun s => (vendorRsp 0 (leBytes 1 3), s.ideSet action)

/-! TDISP (R439 to R441). -/

/-- A TDISP message: version 1.0, type, and the INTERFACE_ID of function 0 and seat `n`. -/
def tdispMsg (type n : Nat) (payload : List Byte) : List Byte :=
  vendorRsp 1 (leBytes 1 0x10 ++ leBytes 1 type ++ zeros 2 ++ zeros 4 ++ leBytes 8 n ++ payload)

/-- TDISP_ERROR: 4 INVALID_INTERFACE_STATE, 0x101 INVALID_INTERFACE, 0x102 INVALID_NONCE. -/
def tdispError (n code : Nat) : List Byte := tdispMsg 0x7F n (leBytes 4 code ++ zeros 4)

/-- A TDISP request about seat `n`, which must be a TDI. -/
def State.tdisp (s : State) (k n : Nat) (go : State → List Byte × State) : Result :=
  s.inSession k fun s =>
    if partPresent s.variant (n / 16) && bit (s.reg (seatAttr n)) 1 then go s else (tdispError n 0x101, s)

def execTdispGetVersion (session : Fin 4) (seat : SeatNo) (s : State) : Result :=
  s.tdisp session.val seat.val fun s => (tdispMsg 1 seat.val (leBytes 1 1 ++ leBytes 1 0x10), s)

/-- TDISP_CAPABILITIES: what the PCIe specification leaves to the device is open (log entry 15). -/
def execTdispGetCapabilities (session : Fin 4) (seat : SeatNo) (s : State) : Result :=
  s.tdisp session.val seat.val fun s => (tdispMsg 2 seat.val (s.freeBytes 28), s.draw)

/-- LOCK_INTERFACE: an ACTIVE seat whose TDI is unlocked is bound to a keyed selective stream. -/
def execLockInterface (session : Fin 4) (seat : SeatNo) (stream : Fin 8) (s : State) : Result :=
  s.tdisp session.val seat.val fun s =>
    let n := seat.val
    if s.seatIs n .active && decide ((s.seat n).tdi = .unlocked) && s.sc.ideSel.contains stream then
      let nonce := s.drbgNext
      let s := s.drbgStep.modSeat n fun r => { r with tdi := .locked, tdiStream := some stream, tdiNonce := nonce }
      (tdispMsg 3 n (leBytes 32 nonce.toNat), s)
    else (tdispError n 4, s)

/-- DEVICE_INTERFACE_REPORT: the seat's host window in BAR2, BAR4 page and MSI-X vector. -/
def execGetInterfaceReport (session : Fin 4) (seat : SeatNo) (s : State) : Result :=
  s.tdisp session.val seat.val fun s =>
    let n := seat.val
    if (s.seat n).tdi = .locked ∨ (s.seat n).tdi = .run then
      let w := s.hostWin n
      (tdispMsg 4 n (leBytes 8 w.1 ++ leBytes 8 (w.2 - w.1) ++ leBytes 4 n ++ leBytes 4 n), s)
    else (tdispError n 4, s)

def tdiCode : TdiState → Nat
  | .unlocked => 0 | .locked => 1 | .run => 2 | .error => 3

def execGetInterfaceState (session : Fin 4) (seat : SeatNo) (s : State) : Result :=
  s.tdisp session.val seat.val fun s => (tdispMsg 5 seat.val (leBytes 1 (tdiCode (s.seat seat.val).tdi)), s)

/-- START_INTERFACE moves a locked TDI to RUN, with the nonce of its LOCK_INTERFACE. -/
def execStartInterface (session : Fin 4) (seat : SeatNo) (nonce : BitVec 256) (s : State) : Result :=
  s.tdisp session.val seat.val fun s =>
    let n := seat.val
    if (s.seat n).tdi ≠ .locked then (tdispError n 4, s)
    else if (s.seat n).tdiNonce ≠ nonce then (tdispError n 0x102, s)
    else (tdispMsg 6 n [], s.modSeat n fun r => { r with tdi := .run })

/-- STOP_INTERFACE: a seat that is not FREE is released first, and the TDI is CONFIG_UNLOCKED. -/
def execStopInterface (session : Fin 4) (seat : SeatNo) (s : State) : Result :=
  s.tdisp session.val seat.val fun s =>
    let n := seat.val
    let s := if s.seatIs n .free || s.seatIs n .releasing || s.resetting (n / 16) then s else s.startRelease n
    (tdispMsg 7 n [], s.modSeat n fun r => { r with tdi := .unlocked, tdiStream := none, tdiNonce := 0 })

/-! Signed provenance records (R446). -/

/-- Did a write reach SC_ for seat `n` as its TDI requires? -/
def State.signVia (s : State) (n : Nat) (t : Tlp) : Bool := decide ((s.seat n).tdi ≠ .run) || s.tdiAllows n t

/-- The cause found at GO, 0 for none (Table 15-7). -/
def State.signCause (s : State) (t : Tlp) : Nat :=
  let n := s.regField (scReg 0x10) 8 0
  let w := s.csWin n
  if !s.seatIs n .active then 1
  else if !(inWin w (s.regN (scReg 0x14) * 64) 32 && inWin w (s.regN (scReg 0x18) * 64) 256) then 2
  else if !(s.signVia n t && s.sc.signVia.all fun q => s.signVia n q.2) then 4
  else 0

/-- SIGN: GO written to SC_SIGN_CMD. -/
def State.signGo (s : State) (t : Tlp) : State :=
  if s.sc.signing.isSome then s.raise (scReg 4) 4
  else
    let n := s.regField (scReg 0x10) 8 0
    let x : Signing := { cause := s.signCause t, seat := n, cgen := s.cgen n, epoch := s.epoch (n / 16) }
    ({ s with sc := { s.sc with signing := some x } }).setRegN (scReg 0x20) (2 ^ 31)

def execSign (tlp : Tlp) (s : State) : Result := .next (if s.barLive then s.signGo tlp else s)

/-- The record of Table 15-6 for a root, `count` signatures with it included. -/
def State.signRecord (s : State) (n count : Nat) (root : List Byte) : List Byte :=
  let head := leBytes 1 1 ++ zeros 1 ++ leBytes 2 n ++ leBytes 2 (s.job n) ++ leBytes 1 (s.cgen n) ++ zeros 1 ++
    leBytes 2 (s.epoch (n / 16)) ++ zeros 6 ++ leBytes 8 s.now ++ leBytes 8 count ++ root ++
    be48 (sha384 (s.measurements [1, 2, 3, 4, 5, 6])) ++ zeros 16
  head ++ signed s.cdiProv (3#8 :: head) ++ zeros 32

/-- SIGN_COMPLETE: the record is written, or a cause reported. -/
def State.signEnd (s : State) (x : Signing) : State :=
  let s := { s with sc := { s.sc with signing := none } }
  let n := x.seat
  if x.cause ≠ 0 then s.setRegN (scReg 0x20) x.cause
  else if !(s.seatIs n .active && decide (s.cgen n = x.cgen ∧ s.epoch (n / 16) = x.epoch)) then s.setRegN (scReg 0x20) 3
  else
    let f := s.csRead (s.regN (scReg 0x14) * 64) 32
    let count := f.2.2.sc.signCount + 1
    let s := { f.2.2 with sc := { f.2.2.sc with signCount := count } }
    let s := (s.bumpObj 0x60C0 0 1).csWrite (s.regN (scReg 0x18) * 64) (s.signRecord n count f.1)
    s.setRegN (scReg 0x20) 0

def execSignComplete (s : State) : Result :=
  .next <|
    match s.sc.signing with
    | some x => if s.coreOn then s.signEnd x else s
    | none => s

end Sys2Proof.Machine
end

