-- ==== Sys2Proof/Machine/Store.lean ====
section
/-! DEFINITION. The Central Store's own work: the resize of the shared cache and the patrol scrub. -/

namespace Sys2Proof.Machine

/-! The shared cache's size (R243). -/

/-- Every dirty line is written back, in rising order of use, and every line is invalidated. -/
def State.flushCache (s : State) : State :=
  { s.cache.foldl State.writeBack s with cache := [] }

/-- A new SIZE, written to CS_SC_CFG or to object 0x2500:01: whether it is taken, and the state after it. A SIZE in force
is no resize; one at a wrong time, or a reserved one, is refused. -/
def State.scResize (s : State) (size : Nat) : Bool × State :=
  if size = s.scSize then (true, s)
  else if 16 < size || !s.deviceFree then (false, s.raise (csReg 0xC) 8)
  else
    let s := s.flushCache
    let s := s.setRegN (csReg 0) size
    let s := s.csClear s.scBase (csSize - s.scBase)
    (true, { s with resize := some s.uptime })

/-- The resize completes: a CREATE that waited is checked against the new region. -/
def State.resizeDone (s : State) : State :=
  if s.resize.isNone then s
  else
    let held := s.heldCreates
    held.foldl State.runCreate { s with resize := none, heldCreates := [] }

def execScResizeComplete (s : State) : Result := .next (if s.coreOn then s.resizeDone else s)

/-! The patrol scrub (R241). -/

/-- A new PERIOD: 0 stops the scrub, any other value starts a stopped one at once. -/
def State.csScrubSet (s : State) (v : Word) : State :=
  let s := s.setReg (csReg 4) v
  { s with csScrub := decide (field v 7 0 ≠ 0) }

/-- CS_PATROL_SCRUB: the pass reads a sector and treats what its ECC finds by R239. A pass that ends is followed by the
next while PERIOD is not 0. -/
def execCsPatrolScrub (sector : Nat) (seen : EccSeen) (s : State) : Result :=
  .next (if s.coreOn && s.csScrub then
    let m := if s.csPoisoned sector then s.csUpset else SMap.set EccSeen.clean s.csUpset sector seen
    (({ s with csUpset := m }).csFetch sector).2
  else s)

end Sys2Proof.Machine
end

