-- ==== Sys2Proof/Machine/Objects.lean ====
section
/-! DEFINITION. Object access: the value of every object, settings blocks, the checks and effects of writes, segments,
firmware downloads and commands, and the answers to requests. -/

namespace Sys2Proof.Machine

/-! Values (R464, R468). -/

/-- A counter object and the register that has counted since the last fold (R470). -/
def State.counterNow (s : State) (index sub : Nat) : Nat :=
  let live := match index with
    | 0x6040 => s.counter (qzReg (sub - 1) 0x18)
    | 0x6041 => s.counter (qzReg (sub - 1) 0x20)
    | 0x6042 => s.counter (qzReg (sub - 1) 0x28)
    | 0x6060 => s.regN (csReg 0x14)
    | 0x6061 => s.counter (csReg 0x20)
    | 0x6062 => s.counter (csReg 0x28)
    | 0x6071 => s.regN (hbReg (sub - 1) 0x18)
    | 0x6080 => s.counter (fbReg (sub - 1) 0x18)
    | 0x6081 => s.counter (fbReg (sub - 1) 0x28)
    | 0x6010 => s.pw.energy / 1000000000
    | 0x6011 => s.pw.cappedNs / 1000000
    | _ => 0
  min (s.obj index sub 0 + live) (2 ^ 64 - 1)

/-- SVN of the image in a slot; 0xFF without a valid image. -/
def Image.svnShown (i : Image) : Nat := if i.valid then i.svn else 0xFF

/-- The present value of a scalar object; 0x1020 mirrors the MG_ registers (R9). -/
def State.objNat (s : State) (index sub dflt : Nat) : Nat :=
  match index, sub with
  | 0x1001, _ => s.serial.toNat
  | 0x1010, 2 => if s.hasAddress then s.fn.address else 0
  | 0x1010, 3 => s.fn.source
  | 0x1014, 1 => fnCode s.fn.state
  | 0x1014, 2 => s.fn.tec
  | 0x1014, 3 => s.fn.rxErr
  | 0x1020, 1 => s.mgIdent
  | 0x1020, 2 => partMask s.variant
  | 0x1020, 3 => unitPresent s.variant
  | 0x2700, 7 => s.hallIndex
  | 0x3001, 1 => s.regField (pwReg 0xC) 15 0
  | 0x3001, 2 => s.regN (pwReg 0x10)
  | 0x3001, 3 => s.regField (pwReg 0x14) 7 0
  | 0x3020, k => (s.stackTemp (k - 1)).getD (minus1 2)
  | 0x4030, 1 => s.rec_.index.length
  | 0x5020, 1 => s.sc.svnFused
  | 0x5020, 2 => s.runningImage.svn
  | 0x7000, 1 => s.fw.running
  | 0x7000, 2 => s.fw.bootState
  | 0x7000, 3 => s.fw.trialCount
  | 0x7001, 3 => (s.fw.images.getD 0 .blank).svnShown
  | 0x7001, 4 => (s.fw.images.getD 1 .blank).svnShown
  | 0x7003, 1 => s.runningImage.schema
  | 0x7003, 2 => s.fw.inUse.getD 0
  | 0x7003, 3 => b2n s.fw.orphaned
  | _, _ => if 0x6000 ≤ index ∧ index < 0x7000 then s.counterNow index sub else s.obj index sub dflt

/-- Has a boot derived the identity (R431)? -/
def State.derived (s : State) : Bool := s.sc.attest || decide (s.fw.boot = .verified)

/-- The present value of a VSTR or DOMAIN object. Certificates and measurements are empty until a boot has derived them. -/
def State.objText (s : State) (index sub : Nat) : List Byte :=
  match index, sub with
  | 0x1008, _ => utf8 (orderingNumber s.variant)
  | 0x4030, _ => s.rec_.index.flatten
  | 0x4040, _ => (List.range 256).map fun i => BitVec.ofNat 8 (SMap.get ArrRec.fresh s.arrays i).faults
  | 0x5000, 1 => if s.derived then s.certChain else []
  | 0x5000, _ => if s.derived then s.provCert else []
  | 0x5001, i => if s.derived then s.measurement i else []
  | 0x7001, 1 => utf8 (s.fw.images.getD 0 .blank).version
  | 0x7001, _ => utf8 (s.fw.images.getD 1 .blank).version
  | _, _ => []

/-- The bytes of an object's present value. -/
def State.objBytes (s : State) (index sub : Nat) (o : ObjInfo) : List Byte :=
  if o.type.scalar then leBytes o.type.size (s.objNat index sub o.dflt) else s.objText index sub

/-! Which entries can be reached (Table 16-4). -/

/-- An entry of the dictionary on this part, or the abort code. -/
def State.entry (s : State) (i : ObjId) : Except Nat ObjInfo :=
  let index := i.index.toNat
  let sub := i.sub.toNat
  if !indexDefined index then .error 0x101
  else
    match objInfo index sub with
    | none => .error 0x103
    | some o => if objAbsent s.variant index sub then .error 0x102 else .ok o

/-- A readable entry's value, or the abort code. -/
def State.readable (s : State) (i : ObjId) : Except Nat (List Byte) :=
  match s.entry i with
  | .error c => .error c
  | .ok o => if o.acc = .wo then .error 0x202 else .ok (s.objBytes i.index.toNat i.sub.toNat o)

/-- May the requester write (R465)? -/
def State.writeAllowed (s : State) (f : ReqFrame) : Bool :=
  match f.path with
  | .fieldNetwork => decide (f.requester.toNat = s.obj 0x1011 1 1)
  | .hostMailbox => decide (s.obj 0x1011 2 1 = 1)

/-- Is a length permitted for a write to a type (R465)? -/
def lengthOk (t : ObjType) (n : Nat) : Bool :=
  match t with
  | .vstr => decide (n ≤ 255)
  | .domain most => decide (n ≤ most)
  | _ => decide (n = t.size)

/-- An entry that the requester may write, or the abort code. -/
def State.writable (s : State) (f : ReqFrame) : Except Nat ObjInfo :=
  match s.entry f.obj with
  | .error c => .error c
  | .ok o =>
    if o.acc = .const ∨ o.acc = .ro then .error 0x201
    else if !s.writeAllowed f then .error 0x203
    else .ok o

/-! Settings blocks (R466, R478, R479). -/

/-- The block with the highest SEQ. -/
def newest (l : List Settings) : Option Settings := l.find? fun b => l.all fun c => decide (c.seq ≤ b.seq)

/-- The newest TRIAL block of a schema that the trial `ts` wrote. -/
def trialBlock (l : List Settings) (schema ts : Nat) : Option Settings :=
  newest (l.filter fun b => !b.committed && decide (b.schema = schema ∧ b.trialSeq = ts))

/-- The newest COMMITTED block of a schema. -/
def committedBlock (l : List Settings) (schema : Nat) : Option Settings :=
  newest (l.filter fun b => b.committed && decide (b.schema = schema))

/-- The block that firmware of a schema uses, in the trial `ts` if one runs (R479). -/
def pickBlock (l : List Settings) (schema : Nat) (ts : Option Nat) : Option Settings :=
  let first := match ts with
    | some t => trialBlock l schema t
    | none => none
  match first with
  | some b => some b
  | none =>
    match committedBlock l schema with
    | some b => some b
    | none => newest (l.filter fun b => b.committed && decide (b.schema < schema) && Config.migrates b.schema schema)

/-- SEQ of the trial that runs. -/
def State.trialNow (s : State) : Option Nat := if s.fw.bootState = 1 then some s.fw.trialSeq else none

/-- Blocks that are not erased: the newest COMMITTED block of each slot's schema, the current trial's block, and, in a trial,
what an image of the committed slot would read. -/
def State.keptBlocks (s : State) : List Settings :=
  let l := s.fw.blocks
  let back := pickBlock l (s.fw.images.getD s.fw.committed .blank).schema none
  (s.fw.images.filterMap fun i => committedBlock l i.schema) ++
    match s.trialNow with
    | some t => (trialBlock l s.runningImage.schema t).toList ++ back.toList
    | none => []

/-- The blocks after an erasure, when no sector of the 8 is free: the oldest block that is not kept goes. -/
def State.roomForBlock (s : State) : List Settings :=
  let l := s.fw.blocks
  if l.length < 8 then l
  else
    let free := l.filter fun b => !s.keptBlocks.contains b
    match free.find? fun b => free.all fun c => decide (b.seq ≤ c.seq) with
    | some b => l.erase b
    | none => l

/-- The settings block in which the RWP values `objs` hold; its STATE is COMMITTED outside a trial or with `commit`. -/
def State.nextBlock (s : State) (objs : SMap Nat) (commit : Bool) : Settings :=
  let seq := (s.fw.blocks.map Settings.seq).foldl max 0 + 1
  { schema := s.runningImage.schema, committed := commit || s.trialNow.isNone, seq := seq,
    trialSeq := if commit then 0 else s.trialNow.getD 0, entries := objs.filter fun e => keyRwp e.1 }

/-- Write a settings block. -/
def State.writeBlock (s : State) (b : Settings) : State :=
  { s with fw := { s.fw with blocks := s.roomForBlock ++ [b], inUse := some b.schema } }

/-! What a write must find (R199 to R500), and what it does. -/

/-- No schedule is active and no seat is ACTIVE (R345, R448). -/
def State.quietDevice (s : State) : Bool := s.tb.active.isNone && s.seatList.all fun n => !s.seatIs n .active

/-- The thresholds of object 0x3021 with the one at `sub` replaced rise. -/
def State.risingT (s : State) (sub v : Nat) : Bool :=
  let t := fun (i : Nat) => if i = sub then v else s.hbmT i
  decide (t 1 < t 2 ∧ t 2 < t 3 ∧ t 3 < t 4)

/-- Does another path hold a download, or a firmware command's reset still run (BUSY)? -/
def State.firmwareBusy (s : State) (path : Path) : Bool :=
  let other := match path with
    | .fieldNetwork => s.fw.segHost
    | .hostMailbox => s.fw.segField
  (match other with
   | some b => decide (b.obj = { index := 0x7002, sub := 1 })
   | none => false) || (s.ec.devReset.isSome && !s.ec.devDone)

/-- The other slot than the running one. -/
def State.otherSlot (s : State) : Nat := 1 - s.fw.running

/-- The abort code that a scalar value meets in the present state; 0 for none. A WO command written 0 asks for nothing. -/
def State.stateCause (s : State) (path : Path) (index sub v : Nat) : Nat :=
  let seat := (index - 0x2600) * 16 + (sub - 1)
  let old := s.obj index sub 0
  if index < 0x2620 ∧ 0x2600 ≤ index then
    if v < old then 0
    else if !s.seatIs seat .active then 0x401
    else if 672 + old < s.reserved (index - 0x2600) + v then 0x402
    else 0
  else
    match index, sub with
    | 0x2500, 1 => if v ≠ s.scSize ∧ !s.deviceFree then 0x401 else 0
    | 0x2700, _ | 0x5010, _ => if s.quietDevice then 0 else 0x401
    | 0x2800, _ => if decide (v = 1) != s.deterministic && !s.deviceFree then 0x401 else 0
    | 0x3010, 1 => if v < s.tTrip then 0 else 0x302
    | 0x3010, 2 => if s.tAlert < v then 0 else 0x302
    | 0x3021, _ => if s.risingT sub v then 0 else 0x302
    | 0x4040, 2 => if v = 1 ∧ !s.deviceFree then 0x401 else 0
    | 0x7002, 2 =>
      if v = 0 then 0
      else if s.firmwareBusy path then 0x403
      else if s.fw.bootState = 1 ∨ !(s.fw.images.getD s.otherSlot .blank).valid then 0x401
      else 0
    | 0x7002, 3 =>
      if v = 0 then 0
      else if s.firmwareBusy path then 0x403
      else if s.fw.bootState = 1 ∧ s.fw.healthOk ∧ s.fw.windowEnd.isNone then 0
      else 0x401
    | 0x7002, 4 => if v = 0 then 0 else if s.firmwareBusy path then 0x403 else if s.fw.bootState = 1 then 0 else 0x401
    | _, _ => 0

/-! Effects. -/

/-- START_TRIAL: the selector names the other slot for trial, and firmware performs a device reset (R481). -/
def State.startTrial (s : State) : State :=
  let seq := s.fw.selSeq + 1
  let other := s.otherSlot
  ({ s with fw := { s.fw with trial := some other, trialCount := 0, selSeq := seq, trialSeq := seq,
                              fell := false } }).startDeviceReset false

/-- Raise the fused SVN to that of the running image (R430). -/
def State.raiseSvn (s : State) : State :=
  let v := s.runningImage.svn
  if v ≤ s.sc.svnFused then s
  else if Config.fuseFails s.free then s.draw.raise (scReg 4) 1
  else { s.draw with sc := { s.sc with svnFused := v } }

/-- COMMIT: a COMMITTED block of the values in force, the selector, the fused SVN, and no orphaned settings (R480). -/
def State.commitTrial (s : State) : State :=
  let s := s.writeBlock (s.nextBlock s.objs true)
  let s := { s with fw := { s.fw with committed := s.fw.running, trial := none, trialCount := 0, selSeq := s.fw.selSeq + 1,
                                      bootState := 0 } }
  let s := s.raiseSvn
  { s with fw := { s.fw with orphaned := false } }

/-- Clear the retirement record, object 0x4020 (R307). -/
def State.clearRetirement (s : State) : State := { s with objs := s.objs.filter fun e => decide (e.1 / 256 ≠ 0x4020) }

/-- Clear every array's fault count and retirement (R399). -/
def State.clearArrays (s : State) : State :=
  let arrays := s.arrays.filterMap fun (e : Nat × ArrRec) =>
    let r := { e.2 with faults := 0, retired := false }
    if r = ArrRec.fresh then none else some (e.1, r)
  { s with arrays := arrays }

/-- EC_WDOG_CFG, EC_FORFEIT_CFG and EC_SHAKE_CTRL from objects 0x2810 and 0x2811 (R426). -/
def State.loadEc (s : State) : State :=
  let wd := s.obj 0x2810 3 16 * 2 ^ 24 + s.obj 0x2810 2 10 * 2 ^ 16 + s.obj 0x2810 1 2000
  let sh := s.obj 0x2811 2 600 * 2 ^ 16 + s.obj 0x2811 3 30 * 2 ^ 8 + s.obj 0x2811 1 7
  ((s.setRegN (ecReg 0x14) wd).setRegN (ecReg 0x18) (s.obj 0x2810 4 0)).setRegN (ecReg 0x1C) sh

/-- PERIOD of every stack's patrol scrub, from object 0x2620:01 (R309). -/
def State.loadHbScrub (s : State) : State :=
  (List.range 12).foldl (fun s k => s.hbScrubSet k (BitVec.ofNat 32 (s.obj 0x2620 1 12))) s

/-- The field of EC_WDOG_CFG, EC_FORFEIT_CFG or EC_SHAKE_CTRL that an entry of object 0x2810 or 0x2811 sets (R426). -/
def State.ecEntry (s : State) (index sub v : Nat) : State :=
  match index, sub with
  | 0x2810, 1 => s.setRegField (ecReg 0x14) 15 0 v
  | 0x2810, 2 => s.setRegField (ecReg 0x14) 23 16 v
  | 0x2810, 3 => s.setRegField (ecReg 0x14) 31 24 v
  | 0x2810, _ => s.setRegField (ecReg 0x18) 7 0 v
  | _, 1 => s.setRegField (ecReg 0x1C) 2 0 v
  | _, 2 => s.setRegField (ecReg 0x1C) 31 16 v
  | _, _ => s.setRegField (ecReg 0x1C) 15 8 v

/-- The field of QZ_DEFAULTS of every present partition that an entry of object 0x2400 sets (R199). -/
def State.qzEntry (s : State) (sub v : Nat) : State :=
  s.partList.foldl (fun s p =>
    if sub = 1 then s.setRegField (qzReg p 0) 3 0 v else s.setRegField (qzReg p 0) 31 16 v) s

/-- The field of TB_CTRL that an entry of object 0x2702 sets (R345). -/
def State.tbEntry (s : State) (sub v : Nat) : State :=
  if sub = 1 then s.tbCtrlSet (setField (s.reg (tbReg 0)) 1 0 v)
  else s.setRegField (tbReg 0) 2 2 (if v = 25 then 1 else 0)

/-- The effect of a written value in the core's registers. -/
def State.coreEffect (s : State) (index sub v : Nat) : State :=
  match index, sub with
  | 0x2400, _ => s.qzEntry sub v
  | 0x2500, 1 => (s.scResize v).2
  | 0x2500, 2 => s.csScrubSet (BitVec.ofNat 32 v)
  | 0x2620, _ => s.loadHbScrub
  | 0x2700, _ => s.idlePorts
  | 0x2702, _ => s.tbEntry sub v
  | 0x2800, _ => s.detCtrlSet (BitVec.ofNat 32 v)
  | 0x2810, _ | 0x2811, _ => s.ecEntry index sub v
  | 0x4050, 2 => s.resetParts v
  | _, _ => s

/-- The effect of a written value, once it is stored. -/
def State.objEffect (s : State) (index sub v : Nat) : State :=
  match index, sub with
  | 0x1012, _ => { s with fn := { s.fn with rateDue := some (s.uptime + 100000000) } }
  | 0x1015, _ => { s with uart := { s.uart with rateNext := some v } }
  | 0x3000, 1 => s.setRegField (pwReg 0) 11 0 v
  | 0x3000, _ => s.setRegField (pwReg 0) 17 16 v
  | 0x4020, _ => if v = 1 then s.clearRetirement else s
  | 0x4040, 2 => if v = 1 then s.clearArrays else s
  | 0x4050, 1 => if v = 1 then s.hostDeviceReset else s
  | 0x7002, 2 => if v = 1 then s.startTrial else s
  | 0x7002, 3 => if v = 1 then s.commitTrial else s
  | 0x7002, 4 => if v = 1 then (s.trialFails).startDeviceReset false else s
  | _, _ =>
    if 0x2600 ≤ index ∧ index < 0x2620 then s.reserve ((index - 0x2600) * 16 + (sub - 1)) v
    else if s.coreOn then s.coreEffect index sub v else s

/-- Is the value also written to the firmware store: an RWP value, or a commit? -/
def storesBlock (o : ObjInfo) (index sub v : Nat) : Bool := decide (o.acc = .rwp ∨ (index = 0x7002 ∧ sub = 3 ∧ v = 1))

/-- The record of an accepted object write (Table 13-2). -/
def State.recordObject (s : State) (index sub : Nat) (data : List Byte) : State :=
  s.record 5 { kind := 6, source := 14, round := s.curRound, addr := objKey index sub } data

/-- Write a scalar value: its range, the present state, the store, the record, the value, its effect. The answer is an abort
code, 0 for OK. -/
def State.writeScalar (s : State) (path : Path) (i : ObjId) (o : ObjInfo) (data : List Byte) : Nat × State :=
  let index := i.index.toNat
  let sub := i.sub.toNat
  let v := leNat data
  if !encodingOk o.type v || !rangeOk index sub v then (0x302, s)
  else
    let c := s.stateCause path index sub v
    if c ≠ 0 then (c, if index = 0x2500 ∧ sub = 1 ∧ s.coreOn then (s.scResize v).2 else s)
    else if storesBlock o index sub v && Config.storeFails s.free then (0x601, s.draw)
    else
      let s := if storesBlock o index sub v then s.draw else s
      let s := s.recordObject index sub data
      let s := match o.acc with
        | .rwp =>
          let s := s.setObj index sub v
          s.writeBlock (s.nextBlock s.objs false)
        | _ => if index = 0x3000 then s.setObj index sub v else s
      (0, s.objEffect index sub v)

/-! Downloads (R428, R481). -/

/-- Is the image in a slot acceptable to the boot ROM (R428)? -/
def State.imageOk (s : State) (i : Image) (c : ImageCheck) : Bool :=
  i.valid && c.signatureOk && !s.sc.revoked.contains c.keyIndex.val && decide (s.sc.svnFused ≤ i.svn) &&
    decide (i.variant = variantCode s.variant)

/-- The image that downloaded bytes are. -/
def imageOf (bs : List Byte) : Image :=
  { valid := true, svn := min (Config.imageSvn bs) 64, variant := Config.imageVariant bs, schema := Config.imageSchema bs,
    version := Config.imageVersion bs, digest := (sha384 bs).toNat }

/-- A complete image is checked, and written to the slot that does not run; a write that is not refused is recorded. -/
def State.download (s : State) (bs : List Byte) (c : ImageCheck) : Nat × State :=
  let i := imageOf bs
  let ok := s.imageOk i c
  let s := if ok then s.recordObject 0x7002 1 bs else s
  let images := s.fw.images.set s.otherSlot (if ok then i else .blank)
  (if ok then 0 else 0x602, { s with fw := { s.fw with images := images } })

/-- May a download go on: not in a trial, nor beside another? -/
def State.downloadCause (s : State) (path : Path) : Nat :=
  if s.fw.bootState = 1 then 0x401 else if s.firmwareBusy path then 0x403 else 0

/-- Apply a whole value. -/
def State.writeValue (s : State) (f : ReqFrame) (o : ObjInfo) (data : List Byte) (c : ImageCheck) : Nat × State :=
  if !lengthOk o.type data.length then (0x301, s)
  else if o.type.scalar then s.writeScalar f.path f.obj o data
  else
    let k := s.downloadCause f.path
    if k ≠ 0 then (k, s) else s.download data c

/-! Answers (R460, R461). -/

/-- The bytes of a RSP (Table 16-2). -/
def rspBytes (f : ReqFrame) (abort : Bool) (word : Nat) (data : List Byte) : List Byte :=
  [f.op ||| 0x80#8] ++ [f.tag] ++ leBytes 2 f.obj.index.toNat ++ [f.obj.sub] ++ leBytes 1 (b2n abort) ++
    leBytes 1 data.length ++ [f.requester] ++ leBytes 4 f.offset.toNat ++ leBytes 4 word ++ padTo 48 data

/-- A RSP leaves on the path of its request. -/
def State.reply (s : State) (path : Path) (bs : List Byte) : State :=
  match path with
  | .fieldNetwork => s.queueFrame 6 bs
  | .hostMailbox => s.emit (.mailbox bs)

/-- The answer to a write: OK, or an abort code. -/
def State.answer (s : State) (f : ReqFrame) (code : Nat) : State :=
  s.reply f.path (rspBytes f (decide (code ≠ 0)) code [])

/-- A frame that reaches the device: to its address, or in the mailbox once it answers. -/
def State.frameArrives (s : State) (path : Path) (go : State → State) : State :=
  match path with
  | .fieldNetwork =>
    if !s.fnRuns then s
    else
      let s := s.frameIn
      if s.hasAddress then go s else s
  | .hostMailbox => if s.hostPort && s.coreOn && s.fwReady then go s else s

/-- A request whose OP is `op`. A reserved OP has no command of its own: whichever brings it, the answer is BAD_COMMAND
(R462). -/
def State.request (s : State) (op : Nat) (f : ReqFrame) (go : State → State) : State :=
  if f.op.toNat = op then s.frameArrives f.path go
  else if f.op.toNat = 0 ∨ 3 < f.op.toNat then s.frameArrives f.path fun s => s.answer f 1
  else s

/-- READ (R462). -/
def State.readObject (s : State) (f : ReqFrame) : State :=
  if f.reserved || decide (f.len ≠ 0 ∨ f.arg = 0 ∨ 48 < f.arg.toNat) then s.answer f 1
  else
    match s.readable f.obj with
    | .error c => s.answer f c
    | .ok v => s.reply f.path (rspBytes f false v.length ((v.drop f.offset.toNat).take f.arg.toNat))

/-- No check of an image has been made: 48 bytes hold no signed image. -/
def noCheck : ImageCheck := { signatureOk := false, keyIndex := 0 }

/-- WRITE (R462, R465, R466). -/
def State.writeObject (s : State) (f : ReqFrame) : State :=
  if f.reserved || decide (f.offset ≠ 0 ∨ f.arg ≠ 0 ∨ 48 < f.len) then s.answer f 1
  else
    match s.writable f with
    | .error c => s.answer f c
    | .ok o =>
      let r := s.writeValue f o f.data noCheck
      r.2.answer f r.1

def State.segOf (s : State) (path : Path) : Option SegBuf :=
  match path with
  | .fieldNetwork => s.fw.segField
  | .hostMailbox => s.fw.segHost

def State.setSeg (s : State) (path : Path) (b : Option SegBuf) : State :=
  match path with
  | .fieldNetwork => { s with fw := { s.fw with segField := b } }
  | .hostMailbox => { s with fw := { s.fw with segHost := b } }

/-- The buffer that a segment continues or opens; none for a SEGMENT_ERROR. -/
def State.segment (s : State) (f : ReqFrame) : Option SegBuf :=
  let total := f.arg.toNat
  let at_ := f.offset.toNat
  let buf := if at_ = 0 then some { obj := f.obj, total := total, data := [] } else s.segOf f.path
  match buf with
  | none => none
  | some b =>
    if b.obj = f.obj ∧ b.total = total ∧ b.data.length = at_ ∧ at_ + f.data.length ≤ total then
      some { b with data := b.data ++ f.data }
    else none

/-- WRITE_SEG (R462): `check` is what the check of a complete image finds. -/
def State.writeSegment (s : State) (f : ReqFrame) (check : ImageCheck) : State :=
  if f.reserved || decide (f.len = 0 ∨ 48 < f.len ∨ f.arg = 0) then s.answer f 1
  else
    let s := if f.offset = 0 then s.setSeg f.path none else s
    match s.writable f with
    | .error c => s.answer f c
    | .ok o =>
      let k := if o.type.scalar then 0 else s.downloadCause f.path
      if k ≠ 0 then s.answer f k
      else
        match s.segment f with
        | none => (s.setSeg f.path none).answer f 0x501
        | some b =>
          if b.data.length < b.total then (s.setSeg f.path (some b)).answer f 0
          else
            let r := (s.setSeg f.path none).writeValue f o b.data check
            r.2.answer f r.1

def execObjectRead (f : ReqFrame) (s : State) : Result := .next (s.request 1 f fun s => s.readObject f)

def execObjectWrite (f : ReqFrame) (s : State) : Result := .next (s.request 2 f fun s => s.writeObject f)

def execObjectWriteSeg (f : ReqFrame) (check : ImageCheck) (s : State) : Result :=
  .next (s.request 3 f fun s => s.writeSegment f check)

/-- A write to the object that a row of its own names. -/
def State.namedWrite (s : State) (index sub : Nat) (f : ReqFrame) : State :=
  if f.obj.index.toNat = index ∧ f.obj.sub.toNat = sub then s.request 2 f fun s => s.writeObject f else s

def execStartTrial (f : ReqFrame) (s : State) : Result := .next (s.namedWrite 0x7002 2 f)
def execCommit (f : ReqFrame) (s : State) : Result := .next (s.namedWrite 0x7002 3 f)
def execFallBack (f : ReqFrame) (s : State) : Result := .next (s.namedWrite 0x7002 4 f)
def execClearRetirementRecord (f : ReqFrame) (s : State) : Result := .next (s.namedWrite 0x4020 4 f)
def execClearArrayCounts (f : ReqFrame) (s : State) : Result := .next (s.namedWrite 0x4040 2 f)

end Sys2Proof.Machine
end

