-- ==== Sys2Proof/Machine/Service.lean ====
section
/-! DEFINITION. The boot's end and firmware trials, the service UART, and the trace's lost records. -/

namespace Sys2Proof.Machine

/-! FIRMWARE_VERIFIED (R428, R431, R479, R497). -/

/-- The RWP values that a settings block gives firmware of a schema; a block of an older schema is migrated, and a value the
migration leaves outside its range is the default. -/
def blockValues (b : Settings) (schema : Nat) : SMap Nat :=
  if b.schema = schema then b.entries
  else
    (b.entries.map fun e => (e.1, Config.migrated b.schema schema e.1 e.2)).filter fun e =>
      match objInfo (e.1 / 256) (e.1 % 256) with
      | some o => encodingOk o.type e.2 && rangeOk (e.1 / 256) (e.1 % 256) e.2 && decide (e.2 < 2 ^ (8 * o.type.size))
      | none => false

/-- The settings of the boot: RWP values from the block of R479, or defaults with SETTINGS_ORPHANED. -/
def State.loadSettings (s : State) : State :=
  let schema := s.runningImage.schema
  let b := pickBlock s.fw.blocks schema s.trialNow
  let values := match b with
    | some b => blockValues b schema
    | none => []
  let kept := s.objs.filter fun e => !keyRwp e.1
  let objs := values.foldl (fun (m : SMap Nat) e => SMap.insert e.1 e.2 m) kept
  let block := match b with
    | some b => b.bytes
    | none => []
  { s with objs := objs, fw := { s.fw with inUse := b.map Settings.schema, bootBlock := block, orphaned := b.isNone } }

/-- The first boot after a power-on reset powers the core, clears the Central Store, rotates the ward seed and brings the HBM
up. -/
def State.firstBringUp (s : State) (found : List BringUp) : State :=
  if s.pw.hbmReady || s.pw.lost then s
  else
    let s := { s with pw := { s.pw with state := .on, csReady := true }, csScrub := true }
    ((s.newSeed).hbmBringUp found).endDeviceParts

/-- Ports begin to train 5 ms apart, in order of n (R316). -/
def State.planTraining (s : State) : State :=
  let t := s.uptime
  s.portList.foldl (fun s n => s.modPort n fun r => { r with trainAt := t + 5000000 * n }) s

/-- The image of the running slot is accepted. -/
def State.accepted (s : State) (found : List BringUp) : State :=
  let fw := { s.fw with boot := .verified, bootFused := s.sc.svnFused }
  let s := ({ s with fw := fw, tb := { s.tb with counting := true } }).loadSettings
  let s := (((s.firstBringUp found).planTraining).enableNet).loadTime
  if s.fw.bootState = 1 then
    let till := s.fw.bootAt + s.obj 0x7004 1 300 * 1000000000
    { s with fw := { s.fw with windowEnd := some till } }
  else if s.fw.running = s.fw.committed then s.raiseSvn else s

/-- FIRMWARE_VERIFIED: a refused image leads to the other slot, a refused trial slot to FALLEN_BACK, and two refused images to
BOOT_FAILED. -/
def State.verifyBoot (s : State) (a b : ImageCheck) (found : List BringUp) : State :=
  if !s.aoOn || decide (s.fw.boot ≠ .rom) then s
  else
    let ok := fun (n : Nat) => s.imageOk (s.fw.images.getD n .blank) (if n = 0 then a else b)
    if ok s.fw.running then s.accepted found
    else if ok s.otherSlot then
      let other := s.otherSlot
      let s := if s.fw.bootState = 1 then
          { s with fw := { s.fw with bootState := 2, trial := none, trialCount := 0, selSeq := s.fw.selSeq + 1 } }
        else s
      ({ s with fw := { s.fw with running := other } }).accepted found
    else
      ({ s with fw := { s.fw with boot := .failed }, sc := { s.sc with attest := false } }).enableNet

def execFirmwareVerified (checkA checkB : ImageCheck) (found : List BringUp) (s : State) : Result :=
  .next (s.verifyBoot checkA checkB found)

/-! FW_READY (R497, R375, R426, R477). -/

/-- The settings reach their registers. -/
def State.applySettings (s : State) : State :=
  let s := s.setRegN (csReg 0) (s.obj 0x2500 1 4)
  let s := s.csScrubSet (BitVec.ofNat 32 (s.obj 0x2500 2 16))
  let s := (s.partList.foldl State.loadQzDefaults s).loadHbScrub.loadEc
  let s := s.setRegN (ecReg 0x800) (s.obj 0x2800 1 0)
  s.setRegField (pwReg 0) 11 0 (s.obj 0x3000 1 3100)

/-- FW_READY is set once the firmware runs and the Central Store and HBM are up; in a trial it must be within 3.5 s. -/
def State.becomeReady (s : State) : State :=
  if !(s.coreOn && s.pw.csReady && s.pw.hbmReady && decide (s.fw.boot = .verified)) then s
  else
    let s := s.applySettings
    let healthy := decide (s.fw.bootState = 1 ∧ s.uptime ≤ s.fw.bootAt + 3500000000)
    let s := { s with fw := { s.fw with boot := .ready, healthOk := healthy }, sc := { s.sc with attest := true } }
    if s.ec.devReset.isSome then s.planTraining else s

def execFwReady (s : State) : Result := .next s.becomeReady

/-! Trials (R477). -/

/-- A health check fails: the trial is cleared, and a device reset boots the committed slot. -/
def State.failTrial (s : State) : State := s.trialFails.startDeviceReset false

/-- TRIAL_READY_TIMEOUT: 3.5 s after the reset, FW_READY is not set. -/
def execTrialReadyTimeout (s : State) : Result :=
  .next (if s.inTrial && decide (s.fw.boot = .verified) then (s.reachUp (s.fw.bootAt + 3500000000)).failTrial else s)

/-- TRIAL_WINDOW_END. -/
def execTrialWindowEnd (s : State) : Result :=
  .next <|
    match s.fw.windowEnd with
    | none => s
    | some t =>
      if s.fw.bootState ≠ 1 then s
      else
        let s := s.reachUp t
        if s.fw.healthOk then { s with fw := { s.fw with windowEnd := none } } else s.failTrial

/-! The service UART (R471, R472). The layout of a reply beyond what R471 states is the model's (log entry 16). -/

def hexByte (b : Byte) : String := hexDigits 2 b.toNat

/-- An abort code as the UART writes it. -/
def codeText (c : Nat) : String := hexDigits 4 (c / 65536) ++ "_" ++ hexDigits 4 (c % 65536)

def State.uartLine (s : State) (line : String) : State := if s.aoOn && decide (s.fw.boot ≠ .held) then s.emit (.uart line) else s

def State.uartErr (s : State) (c : Nat) : State := s.uartLine ("ERR " ++ codeText c)

def objName (i : ObjId) : String := hexDigits 4 i.index.toNat ++ ":" ++ hexDigits 2 i.sub.toNat

def bytesText (bs : List Byte) : String := bs.foldl (fun t b => t ++ hexByte b) ""

/-- A value in hex: a scalar with its most significant digit first, other values byte by byte. -/
def valueText (o : ObjInfo) (v : List Byte) : String := bytesText (if o.type.scalar then v.reverse else v)

/-- R iiii:ss. -/
def State.uartRead (s : State) (i : ObjId) : State :=
  match s.entry i, s.readable i with
  | .ok o, .ok v => s.uartLine ("OK " ++ objName i ++ " " ++ valueText o v)
  | .error c, _ => s.uartErr c
  | _, .error c => s.uartErr c

def execUartReadObject (obj : ObjId) (s : State) : Result := .next (s.uartRead obj)

/-- R iiii:ss oooooooo: 48 bytes of a DOMAIN or VSTR object from an offset; any other object makes it another line. -/
def State.uartReadAt (s : State) (i : ObjId) (offset : Nat) : State :=
  match s.entry i, s.readable i with
  | .ok o, .ok v =>
    if o.type.scalar then s.uartErr 1
    else s.uartLine ("OK " ++ objName i ++ " " ++ bytesText ((v.drop offset).take 48))
  | .error c, _ => s.uartErr c
  | _, .error c => s.uartErr c

def execUartReadOffset (obj : ObjId) (offset : Word) (s : State) : Result := .next (s.uartReadAt obj offset.toNat)

/-- S: the address, STATE, boot state and EC_STATUS. -/
def execUartStatus (s : State) : Result :=
  .next (s.uartLine (hexDigits 2 (s.objNat 0x1010 2 0) ++ " " ++ hexDigits 1 (fnCode s.fn.state) ++ " " ++
    hexDigits 1 s.fw.bootState ++ " " ++ hexDigits 8 s.ecStatus))

/-- V. -/
def execUartVersion (s : State) : Result := .next (s.uartLine s.runningImage.version)

def State.traceText (s : State) (b : Bool) : State := if s.aoOn then { s with uart := { s.uart with text := b } } else s

def execTraceTextStart (s : State) : Result := .next (s.traceText true)
def execTraceTextStop (s : State) : Result := .next (s.traceText false)

def execUartBadLine (s : State) : Result := .next (s.uartErr 1)

/-- UART_OVERRUN: the line is discarded. -/
def execUartOverrun (s : State) : Result := .next (if s.aoOn then s.raise (mgReg 0x104) 0x40 else s)

/-- UART_FRAMING: a character is discarded. -/
def execUartFraming (s : State) : Result :=
  .next (if s.aoOn then (s.raise (mgReg 0x104) 0x10).bumpObj 0x60D2 0 1 else s)

/-- UART_BREAK: the partial line is discarded; it counts as a framing error. -/
def execUartBreak (s : State) : Result :=
  .next (if s.aoOn then (s.raise (mgReg 0x104) 0x20).bumpObj 0x60D2 0 1 else s)

/-- UART_RATE_CHANGE: the written rate takes effect (R469). -/
def execUartRateChange (s : State) : Result :=
  .next <|
    match s.uart.rateNext with
    | some v => { s with uart := { s.uart with rateNow := v, rateNext := none } }
    | none => s

/-! The trace (R474). -/

/-- TRACE_RECORD_DROP: the newest record of the ring found no background cycle. It is not written, and what its place holds is
open (log entry 1). -/
def execTraceRecordDrop (s : State) : Result :=
  .next <|
    let dev := s.reg (mgReg 0x118)
    if !s.coreOn || !bit (s.reg (mgReg 0x110)) 0 || decide (dev = s.reg (mgReg 0x11C)) then s
    else
      let size := 2 ^ s.regField (mgReg 0x114) 28 24
      let a := s.regField (mgReg 0x114) 17 0 * unit64K + (dev - 1).toNat % size * 32
      (((s.csWrite a (s.freeBytes 32)).draw).setReg (mgReg 0x118) (dev - 1)).bumpObj 0x60D4 0 1

end Sys2Proof.Machine
end

