-- ==== Sys2Proof/WellFormed.lean ====
section
/-! DEFINITION. Well-formed commands: the operands a command can have in the hardware. A cell body has 640 bytes, a
register write lies in BAR0 and names the register of its row, a sector exists. A command that is not well formed
cannot arise. -/

namespace Sys2Proof

/-- A register access inside the 64 MiB of BAR0, of 1 to 8 bytes. -/
def accessOk (offset size : Nat) : Bool := decide (offset < 0x4000000 ∧ 1 ≤ size ∧ size ≤ 8)

/-- A register write to the register at `reg` of the 64 KiB block `block`, at its base or an alias (R22). -/
def writes (block reg : Nat) (w : RegWrite) : Bool :=
  accessOk w.offset w.size && decide (w.offset / 0x10000 = block ∧ w.offset % 0x4000 = reg)

/-- A cell body has 640 bytes (R313). -/
def cellOk (body : List Byte) : Bool := decide (body.length = 640)

/-- A REQ frame has as many data bytes as LEN says, at most 48 (Table 16-2). -/
def reqOk (f : ReqFrame) : Bool := decide (f.len < 256 ∧ f.data.length = min f.len 48)

/-- A doorbell write has 1 to 8 bytes. -/
def bellOk (b : Bell) : Bool := decide (1 ≤ b.size ∧ b.size ≤ 8)

/-- A byte range of the Central Store, of at most the 4,096 bytes of one PCIe packet. -/
def bar2Ok (addr len : Nat) : Bool := decide (1 ≤ len ∧ len ≤ 4096 ∧ addr + len ≤ 2 ^ 34)

/-- The findings of a bring-up name each stack once, in the order S0 to S11. -/
def bringUpOk (found : List BringUp) : Bool := decide (found.length = 12) && found.all fun f => decide (f.lanes.length ≤ 32)

/-- Well-formedness of a command. -/
def wellFormed (i : Instr) : Bool :=
  match i with
  | .registerWrite w => accessOk w.offset w.size
  | .parityCheckedRead offset size _ => accessOk offset size
  | .paritySweep upsets => upsets.all fun o => decide (o < 0x4000000 ∧ o % 4 = 0)
  | .bar2Read addr len _ => bar2Ok addr len
  | .bar2Write addr data _ => bar2Ok addr data.length
  | .ringProd _ b => bellOk b
  | .gqLaunch _ b => bellOk b
  | .cqCons _ b => bellOk b
  | .eqCons _ b => bellOk b
  | .groupLaunchEffect _ => true
  | .seatCreate _ _ => true
  | .seatRelease _ _ => true
  | .seatReleaseComplete _ => true
  | .gatingComplete _ => true
  | .wakeComplete _ => true
  | .descriptorHead _ => true
  | .nop _ => true
  | .matrixSingle _ => true
  | .matrixOpen _ => true
  | .matrixContinue _ => true
  | .matrixClose _ => true
  | .matrixOpenLoad _ => true
  | .tileComplete _ _ upsets _ => upsets.all fun u => decide (u.delta ≠ 0)
  | .arrayRetired _ _ => true
  | .groupSlotGrant _ _ => true
  | .arrayClockGate _ _ => true
  | .quantNarrow _ => true
  | .quantRestore _ => true
  | .quantStats _ => true
  | .wideDot _ => true
  | .ewiseAdd _ => true
  | .ewiseMul _ => true
  | .ewiseAxpby _ => true
  | .ewiseRelu _ => true
  | .ewiseSilu _ => true
  | .ewiseSiluMul _ => true
  | .wideRmsnorm _ => true
  | .wideSoftmax _ => true
  | .wideUpdate _ => true
  | .wideCast _ => true
  | .watchEvaluate _ => true
  | .watchApply _ => true
  | .watchBoth _ => true
  | .copyLinear _ => true
  | .copySkewSerial _ => true
  | .copySkewParallel _ => true
  | .copyTransposeParallel _ => true
  | .copyFill _ => true
  | .atomicAdd _ => true
  | .atomicAnd _ => true
  | .atomicOr _ => true
  | .atomicXor _ => true
  | .atomicSmin _ => true
  | .atomicSmax _ => true
  | .atomicUmin _ => true
  | .atomicUmax _ => true
  | .atomicSwap _ => true
  | .atomicCas _ => true
  | .atomicLoad _ => true
  | .lineFillComplete _ line => decide (line < 2 ^ 28)
  | .hostXferToCs _ => true
  | .hostXferToHost _ => true
  | .hostReadCompletion _ _ data => decide (data.length ≤ 4096)
  | .hostCompletionTimeout _ => true
  | .fenceLocal _ => true
  | .fenceChip _ => true
  | .fenceFabric _ => true
  | .fenceHost _ => true
  | .tumblerSet _ => true
  | .tumblerAdd _ => true
  | .tumblerRemoteAdd _ => true
  | .tumblerRead _ => true
  | .tumblerHostWrite w =>
    accessOk w.offset w.size && decide (w.offset / 0x10000 = 6 ∨ w.offset / 0x10000 = 7)
  | .haspAcquire _ => true
  | .haspTry _ => true
  | .haspRelease _ => true
  | .haspRepair _ => true
  | .haspInspect _ => true
  | .haspRetry _ addr => decide (addr % 64 = 0)
  | .groupLaunch _ => true
  | .collectiveAllreduce _ => true
  | .collectiveReduceScatter _ => true
  | .collectiveAllgather _ => true
  | .collectiveBroadcast _ => true
  | .collectivePut _ => true
  | .descriptorComplete _ _ => true
  | .seatVectorHoldoffEnd _ => true
  | .scResize w => writes 0x8 0x0 w
  | .scResizeComplete => true
  | .csScrubCfgWrite w => writes 0x8 0x4 w
  | .csPatrolScrub sector _ => decide (sector < 2 ^ 28)
  | .configRequest => true
  | .pcieAtomicopRequest => true
  | .perstN => true
  | .tlpIntegrityFail _ => true
  | .markReceived _ _ _ => true
  | .schedCellReceived _ body => cellOk body
  | .cellReady _ => true
  | .putCellReceived _ body => cellOk body
  | .remoteAddCellReceived _ body => cellOk body
  | .ackReceived _ body => cellOk body
  | .refusalReceived _ body => cellOk body
  | .noAck _ => true
  | .forfeitCellReceived _ body => cellOk body
  | .sideCellReceived _ body => cellOk body
  | .identReceived _ _ => true
  | .timeReqReceived _ _ _ => true
  | .timeReplyReceived _ _ _ _ _ => true
  | .locked => true
  | .portUp _ => true
  | .keyShareReceived _ chain share => decide (chain.length ≤ 65536 ∧ share.length = 192)
  | .authTagReceived _ _ => true
  | .fecUncorrectable _ _ => true
  | .lossOfSignal _ _ => true
  | .portDown _ => true
  | .portTrainingStart _ => true
  | .linkTrained _ => true
  | .trainingTimeout _ => true
  | .trainingRetry _ => true
  | .miswiredRetrain _ => true
  | .turnBegin _ => true
  | .roundBoundary => true
  | .turnMiss _ _ => true
  | .turnMissWatchdog _ => true
  | .holdoverTimeout => true
  | .trefLock => true
  | .trefPpsEdge => true
  | .trefLost => true
  | .timeSnap _ => true
  | .schedInstall => true
  | .installComplete => true
  | .schedArm => true
  | .schedCancel => true
  | .stallWindowEnd withheld => decide (withheld ≤ 15625)
  | .slip _ => true
  | .fbCtrlWrite port w => writes (0x20 + port.val) 0x0 w
  | .tbCtrlWrite w => writes 0xA 0x0 w
  | .detCtrlWrite w => writes 0x3 0x800 w
  | .recBegin => true
  | .recEnd => true
  | .recorderStepEnd => true
  | .replayRecordApply => true
  | .seatWatchdogExpiry _ => true
  | .seatDrainExpiry _ => true
  | .partWatchdogExpiry _ => true
  | .partitionResetCmd _ => true
  | .partitionReset _ _ => true
  | .partitionResetEnd _ => true
  | .deviceResetCmd _ => true
  | .deviceReset _ found => bringUpOk found
  | .deviceResetEnd => true
  | .forfeitCmd _ => true
  | .ecVectorHoldoffEnd => true
  | .pairMaskWrite w => writes 0x3 0x20 w
  | .shakerTest _ _ _ _ hottest => decide (hottest < 256)
  | .shakerTestEnd _ _ _ => true
  | .hbmRefresh _ => true
  | .hbmCalibration _ => true
  | .channelRetrainComplete _ _ _ => true
  | .hbmTempReadout _ _ => true
  | .throttleStepFall _ => true
  | .tempReadoutTimeout _ => true
  | .hbScrubCfgWrite stack w => writes (0x10 + stack.val) 0x4 w
  | .hbPatrolScrub _ _ sector _ => decide (sector < 2 ^ 25)
  | .rowRepairPending _ _ row => decide (row < 2 ^ 15)
  | .spdmGetVersion _ => true
  | .spdmGetCapabilities _ => true
  | .spdmNegotiateAlgorithms _ request => decide (request.length ≤ 4096)
  | .spdmGetDigests _ => true
  | .spdmGetCertificate _ slot offset length => decide (slot < 8 ∧ offset < 65536 ∧ length < 65536)
  | .spdmChallenge _ slot nonce => decide (slot < 8 ∧ nonce.length = 32)
  | .spdmGetMeasurements _ _ nonce => decide (nonce.length = 32)
  | .spdmKeyExchange _ share => decide (share.length = 96)
  | .spdmFinish _ _ verifyData => decide (verifyData.length = 48)
  | .spdmEndSession _ _ => true
  | .ideKm _ _ key => decide (key.length = 32)
  | .tdispGetVersion _ _ => true
  | .tdispGetCapabilities _ _ => true
  | .lockInterface _ _ _ => true
  | .getInterfaceReport _ _ => true
  | .getInterfaceState _ _ => true
  | .startInterface _ _ _ => true
  | .stopInterface _ _ => true
  | .sign _ => true
  | .signComplete => true
  | .firmwareVerified _ _ found => bringUpOk found
  | .fwReady => true
  | .objectRead f => reqOk f
  | .objectWrite f => reqOk f
  | .objectWriteSeg f _ => reqOk f
  | .startTrial f => reqOk f
  | .commit f => reqOk f
  | .fallBack f => reqOk f
  | .trialReadyTimeout => true
  | .trialWindowEnd => true
  | .clearRetirementRecord f => reqOk f
  | .clearArrayCounts f => reqOk f
  | .readdress _ => true
  | .tunnelReq _ _ _ data => decide (data.length ≤ 62)
  | .claimReceived _ _ => true
  | .heartbeatReceived _ => true
  | .bidReceived _ => true
  | .canFrameSent _ => true
  | .lonely => true
  | .busOffRecovery => true
  | .heartbeatSend => true
  | .alarmSend => true
  | .chainOutFrame => true
  | .chainInFrame _ => true
  | .chainInHighTimeout => true
  | .chainInLowTimeout => true
  | .electionListenEnd => true
  | .electionOpen => true
  | .uartReadObject _ => true
  | .uartReadOffset _ _ => true
  | .uartStatus => true
  | .uartVersion => true
  | .traceTextStart => true
  | .traceTextStop => true
  | .uartBadLine => true
  | .uartOverrun => true
  | .uartFraming => true
  | .uartBreak => true
  | .traceCtrlWrite w => writes 0x0 0x110 w || writes 0x0 0x114 w
  | .traceRecordDrop => true
  | .powerOnReset => true
  | .sysResetRelease => true
  | .posSample _ => true
  | .powerStepEvaluation _ _ _ _ _ => true
  | .thermalTrip _ _ => true
  | .thermAlertRelease => true
  | .coreLoss _ => true
  | .coreRestart found => bringUpOk found
  | .perstNRelease => true
  | .canReceiveError amount => decide (amount = 1 ∨ amount = 8)
  | .scrubLate _ => true
  | .dataPhaseRateChange => true
  | .uartRateChange => true

end Sys2Proof
end

