-- ==== Sys2Proof/Machine/Registers.lean ====
section
/-! DEFINITION. BAR0: what a register reads as, parity and its faults, and host writes under the access codes, at the base
and at the aliases. -/

namespace Sys2Proof.Machine

/-! Status registers (R20): they follow their cause. -/

/-- A mask of the partitions of 0 to 31 for which `f` holds. -/
def partBits (f : Nat → Bool) : Nat := ((List.range 32).map fun p => if f p then 2 ^ p else 0).sum

/-- MG_FN_STATUS (Table 16-11). -/
def State.mgFnStatus (s : State) : Nat :=
  let f := s.fn
  min f.tec 255 * 2 ^ 24 + min f.rxErr 255 * 2 ^ 16 + b2n f.passive * 2 ^ 15 + fnCode f.state * 2 ^ 12 +
    f.source * 2 ^ 10 + (if s.hasAddress then f.address else 0)

/-- MG_FW_STATUS (Table 16-11). -/
def State.mgFwStatus (s : State) : Nat :=
  s.runningImage.schema % 2 ^ 16 * 2 ^ 16 + s.fw.trialCount * 2 ^ 8 + b2n s.fw.orphaned * 8 + s.fw.bootState * 2 +
    s.fw.running

/-- PW_STATUS (Table 17-8). -/
def State.pwStatus (s : State) : Nat :=
  let step := s.regField (pwReg 4) 1 0
  b2n s.pw.hot * 64 + b2n (decide (step ≠ 0)) * 32 + b2n s.coreOn * 16 + b2n (decide (s.pw.state = .retired)) * 8 + step

/-- SC_STATUS and SC_TDI_STATE (Tables 15-9 and 15-12). -/
def State.scStatus (s : State) : Nat :=
  s.sc.svnFused * 2 ^ 24 + s.runningImage.svn * 2 ^ 16 + b2n s.sc.drbgOk * 4 + s.fw.running

def State.tdiStateReg (s : State) (n : Nat) : Nat :=
  let r := s.seat n
  (match r.tdiStream with | some k => 2 ^ 11 + k.val * 2 ^ 8 | none => 0) + tdiCode r.tdi

/-- FULL: the ring has no room for the next record that the recorder writes, a STEP_END that waits or one of a single unit;
while records are replayed it writes none (R384, R387). -/
def State.recFull (s : State) : Bool :=
  decide (s.regField (ecReg 0x810) 2 1 = 0 ∧ s.recFree < if s.rec_.ending.isEmpty then 1 else 2)

/-- EC_REC_STATUS (Table 13-8). -/
def State.recStatus (s : State) : Nat :=
  b2n s.rec_.replay * 8 + b2n s.recFull * 4 + b2n (s.rec_.pendBegin.isSome || s.rec_.pendEnd) * 2 +
    b2n s.rec_.openStep.isSome

/-- HI_STATUS (Table 2-14); width and speed of the link are stored. -/
def State.hiStatus (s : State) : Nat :=
  b2n s.fwReady * 2 ^ 11 + (b2n s.sc.ideLink + 2 * b2n (!s.sc.ideSel.isEmpty)) * 2 ^ 9 + s.regField (hiReg 4) 8 0

/-- CS_STATUS (Table 8-12). -/
def State.csStatus (s : State) : Nat :=
  b2n (s.seatList.any fun n => s.seatIs n .releasing) * 4 + b2n s.csScrub * 2 + b2n s.resize.isSome

/-- TB_STATUS (Table 11-14). -/
def State.tbStatus (s : State) : Nat :=
  let t := s.tb
  b2n t.armed.isSome * 2 ^ 27 + b2n t.standing.isSome * 2 ^ 26 + b2n t.active.isSome * 2 ^ 25 +
    (if s.isSource then 0 else t.hops) % 32 * 2 ^ 16 + t.parent.getD 15 * 2 ^ 12 + b2n t.trefOk * 16 + b2n s.isSource * 8 +
    b2n t.holdover.isSome * 4 + b2n t.locked * 2 + b2n t.timeValid

/-- TB_ROUND: 0 while no schedule is active (R344). -/
def State.tbRound (s : State) : Nat := if s.tb.active.isSome then s.shownRound s.curRound else 0

def bankId (b : Option Schedule) : Nat := match b with | some a => a.id.toNat | none => 0

def portCode : PortState → Nat
  | .down => 0 | .training => 1 | .timing => 2 | .up => 3 | .miswired => 4

/-- FB_STATUS (Table 11-9). -/
def State.fbStatus (s : State) (n : Nat) : Nat :=
  let r := s.port n
  (match r.ident with | some i => 2 ^ 31 + identHall i * 2 ^ 16 + i.port.val * 2 ^ 12 | none => 0) +
    b2n (decide (s.tb.parent = some n)) * 32 + b2n (bit (s.reg (tbReg 0x4C)) n) * 16 + portCode r.state

/-- The SEAT and operation fields of an engine's status register with no descriptor in progress: their reset value 0
until the engine has worked, and from then on a free value that stays until it works again (R25, log entry 20). -/
def State.stale (s : State) (p off : Nat) : Nat :=
  match SMap.find? (s.part p).worked off with
  | some t => (Config.staleStatus off t).toNat
  | none => 0

/-- MX_PART_STATUS (Table 4-12). -/
def State.mxStatus (s : State) (p : Nat) : Nat :=
  ((List.range 8).map fun a =>
    b2n (s.arr p a).gated * 2 ^ (8 + a) + b2n (s.arr p a).busy.isSome * 2 ^ a).sum

/-- May the tile of seat `n` in the cells of array `a` hold for the promoter: folds below 64 array cycles (R129), or
re-anchors (R142)? -/
def State.mayFoldStall (s : State) (n a : Nat) : Bool :=
  match (s.seat n).running.find? (s.runOn (n / 16) a) with
  | some r => decide (tileFoldHolds r.words ≠ 0) || !s.deterministic
  | none => false

/-- FOLD_STALL, LINE_STALL and STATE while the tile of seat `n` is in the cells of array `a`. When it ends streaming and when
it holds are timing, free values (log entry 67). -/
def State.tilePhase (s : State) (p a n : Nat) : Nat :=
  let off := arrReg p a 0
  if Config.streamEnd off (s.arr p a).since ≤ s.uptime then 3
  else
    let h := (Config.arrayHolds off s.uptime).toNat
    2 + h % 2 * 2 ^ 9 + b2n (s.mayFoldStall n a) * (h / 2) * 2 ^ 10

/-- Does the tile of seat `n` in the cells of array `a` add outliers (R145)? -/
def State.hasOutliers (s : State) (n a : Nat) : Bool :=
  match (s.seat n).running.find? (s.runOn (n / 16) a) with
  | some r => mxConverts r.words && (wB r.words 23 0 || wB r.words 23 1)
  | none => false

/-- MX_ARR_STATUS (Table 4-13). -/
def State.arrStatus (s : State) (p a : Nat) : Nat :=
  let r := s.arr p a
  let bound := ((List.range 4).map fun k => b2n (SMap.get Slot.fresh r.slots k).seat.isSome * 2 ^ (16 + k)).sum
  bound + (match r.busy with
    | some n => n % 16 * 2 ^ 12 + 2 ^ 11 + s.tilePhase p a n
    | none => (if r.idleFrom = 0 then 0 else (Config.staleStatus (arrReg p a 0) r.idleFrom).toNat / 16 * 2 ^ 12) +
        (if r.gated then 0 else 1))

/-- The first descriptor of partition `p` in work that `f` accepts, with its local seat. -/
def State.workOf (s : State) (p : Nat) (f : Run → Bool) : Option (Nat × Run) :=
  ((List.range 16).filterMap fun l =>
    ((s.seat (p * 16 + l)).running.find? fun r => !r.void && f r).map fun r => (l, r)).head?

/-- WP_STATUS, QZ_STATUS and CE_ENG_STATUS (Tables 7-14, 6-12 and 8-17). -/
def State.wpStatus (s : State) (p : Nat) : Nat :=
  outlierBusy s p * 2 ^ 9 +
  match s.workOf p fun r => decide (opcodeOf r.words = 2) with
  | some (l, r) => l * 2 ^ 12 + 2 ^ 11 + 2 ^ 10 + wOp r.words
  | none => let v := s.stale p (wpReg p 4); v / 16 * 2 ^ 12 + v % 16
where
  /-- OUTLIER_BUSY: free timing while a tile with outliers drains (log entry 67). -/
  outlierBusy (s : State) (p : Nat) : Nat :=
    if (List.range 8).any fun a =>
      match (s.arr p a).busy with
      | some n => decide (s.tilePhase p a n = 3) && s.hasOutliers n a
      | none => false
    then (Config.arrayHolds (wpReg p 4) s.uptime).toNat % 2 else 0

def State.qzStatus (s : State) (p : Nat) : Nat :=
  match s.workOf p fun r => decide (opcodeOf r.words = 3) with
  | some (l, _) => l * 2 ^ 12 + 2 ^ 11 + 2 ^ 10
  | none => s.stale p (qzReg p 4) / 16 * 2 ^ 12

def State.ceStatus (s : State) (p e : Nat) : Nat :=
  match s.workOf p fun r => decide ((opcodeOf r.words = 4 ∨ opcodeOf r.words = 9) ∧ r.unit = e) with
  | some (l, r) => reread s p e * 2 ^ 6 + l * 2 ^ 8 + 2 ^ 7 + 2 ^ 5 + (if opcodeOf r.words = 4 then cCop r.words else 0)
  | none => let v := s.stale p (ceReg p (0x10 + 4 * e)); v / 16 * 2 ^ 8 + v % 16
where
  /-- CV_REREAD: free timing while a copy of the engine is to read its destination again (log entry 34). -/
  reread (s : State) (p e : Nat) : Nat :=
    if (s.onEngine p e).any fun q => match q.2.work with | .checkValue _ again => again | _ => false
    then (Config.arrayHolds (ceReg p (0x10 + 4 * e)) s.uptime).toNat % 2 else 0

/-- CT_PART_STATUS (Table 2-3). -/
def State.ctPartStatus (s : State) (p : Nat) : Nat :=
  b2n (s.part p).wakeAt.isSome * 2 ^ 17 + b2n (s.part p).gated * 2 ^ 16 + s.epoch p

def seatCode : SeatState → Nat
  | .free => 0 | .waking => 1 | .active => 2 | .faulted => 3 | .releasing => 4

/-- Does the head descriptor of seat `n` wait for its tumbler? -/
def State.tumblerWaits (s : State) (n : Nat) : Bool :=
  match (s.seat n).head with
  | some h => bit (h.words.getD 0 0) 13 && !waitMet (s.tumbler (field (h.words.getD 2 0) 12 0)) (h.words.getD 3 0)
  | none => false

/-- CT_SEAT_STATUS (Table 2-6). A status register reads as its reset value while the partition is gated, a WAKING seat's
too (R489). -/
def State.ctSeatStatus (s : State) (n : Nat) : Nat :=
  if (s.part (n / 16)).gated then 0 else
  b2n (s.tumblerWaits n) * 2 ^ 10 + b2n (s.eqFull n) * 2 ^ 9 + b2n (s.cqFull n) * 2 ^ 8 + seatCode (s.seat n).state

/-- HB_CH_SR of stack k is the same for every stack. -/
def State.hbChSr (s : State) : Nat := partBits s.selfRefresh

/-- A register that follows its cause; none for a stored register. -/
def State.derivedReg (s : State) (off : Nat) : Option Nat :=
  let o := off % 0x10000
  match blockOf off with
  | .mg => match o with
    | 0x0 => some s.mgIdent
    | 0x10 => some (partMask s.variant)
    | 0x14 => some (unitPresent s.variant)
    | 0x100 => some s.mgFnStatus
    | 0x120 => some s.mgFwStatus
    | _ => none
  | .pw => match o with
    | 0x4 => some s.pwStatus
    | 0x18 => some (partBits fun p => !partPresent s.variant p || (s.part p).gated)
    | 0x1C => some (partBits fun p => (s.part p).wakeAt.isSome)
    | _ => none
  | .sc =>
    if o = 0 then some s.scStatus
    else if 0x1800 ≤ o ∧ o < 0x2000 then some (s.tdiStateReg ((o - 0x1800) / 4)) else none
  | .ec =>
    if o = 0 then some s.ecStatus
    else if o = 0x24 then some (partBits fun p => partPresent s.variant p && s.resetting p)
    else if 0x60 ≤ o ∧ o < 0x80 then some (s.arrRetired ((o - 0x60) / 4))
    else if o = 0x834 then some s.recStatus else none
  | .hi => if o = 4 then some s.hiStatus else none
  | .ctDev => if o < 0x2000 ∧ o % 0x80 = 4 then some (b2n (s.memberGone (o / 0x80))) else none
  | .cs => if o = 8 then some s.csStatus else none
  | .tb => match o with
    | 0x4 => some s.tbStatus
    | 0x20 => some (s.tbRound % 2 ^ 32)
    | 0x24 => some (s.tbRound / 2 ^ 32)
    | 0x44 => some (bankId s.tb.active)
    | 0x48 => some (bankId s.tb.standing)
    | _ => none
  | .hb k => match o with
    | 0x1C => some s.hbChSr
    | 0x20 => some (s.spares k)
    | _ => none
  | .fb n => if o = 4 then some (s.fbStatus n) else none
  | .mx p =>
    if o = 4 then some (s.mxStatus p)
    else if 0x100 ≤ o ∧ o < 0x300 ∧ o % 0x40 = 0 then some (s.arrStatus p ((o - 0x100) / 0x40)) else none
  | .wp p => if o = 4 then some (s.wpStatus p) else none
  | .qz p => if o = 4 then some (s.qzStatus p) else none
  | .ce p => if 0x10 ≤ o ∧ o < 0x20 then some (s.ceStatus p ((o - 0x10) / 4)) else none
  | .ct p =>
    if o = 8 then some (s.ctPartStatus p)
    else if 0x100 ≤ o ∧ o < 0x1100 ∧ o % 0x100 = 0x60 then some (s.ctSeatStatus (p * 16 + (o - 0x100) / 0x100)) else none
  | _ => none

/-- What the register at an aligned BAR0 offset reads as, at its base or an alias (R11, R18, R22, R24). -/
def State.readReg (s : State) (off : Nat) : Word :=
  let b := baseOf off
  let i := regInfo s.variant b
  if absentUnit s.variant off || decide (i.acc = .none ∨ i.acc = .wo) then 0
  else
    match s.derivedReg b with
    | some v => BitVec.ofNat 32 v
    | none => s.reg b

/-- The bytes of a BAR0 read: each from the register that holds it (R17). -/
def State.readBytes (s : State) (off n : Nat) : List Byte :=
  (List.range n).map fun i =>
    let a := off + i
    BitVec.ofNat 8 ((s.readReg (a - a % 4)).toNat / 2 ^ (8 * (a % 4)))

/-! Parity (R18, R19, R76, Table 2-11). -/

/-- Is the offset that of a RW/P register of a present unit? -/
def State.hasParity (s : State) (off : Nat) : Bool :=
  !absentUnit s.variant off && decide ((regInfo s.variant off).acc = .rwp)

/-- An upset of one stored bit of a RW/P register, or of its parity bit: which one is open (log entry 17). A register that
firmware will restore keeps its value. -/
def State.upsetReg (s : State) (off : Nat) : State :=
  if !s.hasParity off then s
  else
    let k := (Config.freeByte s.free 0).toNat % 33
    let m := (regInfo s.variant off).mask
    let v := if k < 32 ∧ m.testBit k ∧ !firmwareKept off then s.reg off ^^^ BitVec.ofNat 32 (2 ^ k) else s.reg off
    let s := s.draw.setReg off v
    { s with badParity := s.badParity ++ [off] }

/-- A mismatch is found: CFG_PARITY, the offset of the first, and the halt that the register's place calls for. -/
def State.parityFault (s : State) (off : Nat) : State :=
  let s := s.logConfig 2
  let s := if bit (s.reg (ecReg 0x10)) 31 then s else s.setRegN (ecReg 0x10) (2 ^ 31 + off)
  let o := off % 0x10000
  match blockOf off with
  | .mg | .pw | .sc | .ec => ({ s with badParity := s.badParity.filter fun b => b != off }).logConfig 4
  | .ctDev | .msix | .reserved => s
  | .ct p =>
    if 0x100 ≤ o then
      let n := p * 16 + (o - 0x100) / 0x100
      (s.raise (seatReg n 0x64) 0x20).seatFault n
    else s.startPartReset p .cfgParity
  | .mx p | .wp p | .qz p | .ce p => s.startPartReset p .cfgParity
  | _ => s.startDeviceReset true

/-- The parity check of the register at `off`. -/
def State.checkParity (s : State) (off : Nat) : State := if s.badParity.contains off then s.parityFault off else s

/-- The registers that an access touches. -/
def regsOf (off n : Nat) : List Nat :=
  ((List.range n).map fun i => baseOf (off + i - (off + i) % 4)).dedup

/-- PARITY_CHECKED_READ: a host read of BAR0 of `size` bytes; `upset` is whether parity of the RW/P registers read has come
to differ. In BOOT_FAILED it reads zero (R428). -/
def State.bar0Read (s : State) (off size : Nat) (upset : Bool) : State :=
  if s.hostPort && decide (s.fw.boot = .failed) then s.emit (.readData (zeros size) false)
  else if !s.barLive then s
  else
    let rs := regsOf off size
    let s := if upset then rs.foldl State.upsetReg s else s
    let s := s.emit (.readData (s.readBytes off size) false)
    rs.foldl State.checkParity s

def execParityCheckedRead (offset size : Nat) (upset : Bool) (s : State) : Result := .next (s.bar0Read offset size upset)

/-- PARITY_SWEEP: upsets have come about at `upsets`, and every RW/P register is checked; with the core off, those of the
always-on domain. -/
def execParitySweep (upsets : List Nat) (s : State) : Result :=
  .next (if s.aoOn then
    let hit := (upsets.map baseOf).filter fun o => s.coreOn || alwaysOn o
    let s := hit.foldl State.upsetReg s
    (s.badParity.filter fun o => s.coreOn || alwaysOn o).foldl State.checkParity s
  else s)

/-! Writes of configuration (R57, R265, R277, R392, R425, R447, R482, R499). -/

/-- A host write to tumbler `t` that would make it `v`; `off` and `raw` are the access as it came. -/
def State.hostTumbler (s : State) (t off : Nat) (raw v : Word) (tlp : Tlp) : State :=
  if s.rec_.replay then s.muted
  else
    match s.seatList.find? fun n => s.seatIs n .active && s.ownsTumbler n t with
    | none => s
    | some n =>
      if !s.tdiAllows n tlp then s.denied
      else (s.setTumbler t v).recordHost 5 off raw.toNat []

/-- A configuration register of seat `n`, written only while the seat is FREE. -/
def State.seatConfig (s : State) (n off : Nat) (v : Word) : State :=
  if s.seatIs n .free then s.setReg off v else s.raise (seatReg n 0x64) 0x10

/-- MG_TRACE_CTRL and MG_TRACE_BASE (R482). -/
def State.traceCtrl (s : State) (v : Word) : State :=
  let on := bit (s.reg (mgReg 0x110)) 0
  if !bit v 0 then s.setReg (mgReg 0x110) v
  else if on then s
  else
    let n := field v 24 16
    let ring := s.regField (mgReg 0x114) 17 0 * unit64K
    let ok := s.seatIs n .active && inWin (s.hostWin n) ring (2 ^ s.regField (mgReg 0x114) 28 24 * 32)
    s.setReg (mgReg 0x110) (if ok then v else setBit v 0 false)

def State.traceBase (s : State) (v : Word) : State :=
  if bit (s.reg (mgReg 0x110)) 0 || decide (field v 28 24 < 10 ∨ 24 < field v 28 24) then s else s.setReg (mgReg 0x114) v

/-- EC_REC_CTRL and EC_REC_BASE (R392). -/
def State.recConfig (s : State) (off : Nat) (v : Word) : State :=
  if s.recBusy then s.recRefused
  else if off = ecReg 0x810 then (if 2 ≤ field v 2 1 then s else s.setReg off v)
  else if field v 28 24 < 10 ∨ 26 < field v 28 24 then s
  else s.setReg off v

/-- EC_WDOG_CFG, EC_SHAKE_CTRL and the other EC_ configuration: a field outside its range makes the write ignored. -/
def State.ecConfig (s : State) (o : Nat) (v : Word) : State :=
  let within := fun (hi lo a b : Nat) => decide (a ≤ field v hi lo ∧ field v hi lo ≤ b)
  match o with
  | 0x14 => if within 15 0 100 60000 && within 23 16 2 60 then s.setReg (ecReg o) v else s
  | 0x1C => if within 31 16 1 65535 && within 15 8 10 100 then s.setReg (ecReg o) v else s
  | 0x20 => s.pairMaskSet v
  | 0x800 => s.detCtrlSet v
  | 0x810 | 0x814 => s.recConfig (ecReg o) v
  | 0x81C => (s.setReg (ecReg o) v).stepEnds
  | _ => s.setReg (ecReg o) v

/-- The MSI-X table follows the PCIe base specification: a vector whose mask is cleared delivers what is pending. -/
def State.msixWrite (s : State) (off : Nat) (v : Word) : State :=
  let s := s.setReg off v
  let vec := off % 0x10000 / 16
  let pend := msixReg (0x8000 + vec / 32 * 4)
  if off % 16 = 12 && !bit v 0 && bit (s.reg pend) (vec % 32) then (s.status pend (vec % 32) false).msix vec else s

/-- SC_SIGN_SEAT, SC_SIGN_ROOT and SC_SIGN_OUT keep the IDE attributes they were written with (R446). -/
def State.scWrite (s : State) (off : Nat) (v : Word) (tlp : Tlp) : State :=
  let o := off % 0x10000
  if 0x1000 ≤ o then s.seatConfig ((o - 0x1000) / 4) off v
  else
    let via := (o, tlp) :: s.sc.signVia.filter fun q => decide (q.1 ≠ o)
    ({ s with sc := { s.sc with signVia := via } }).setReg off v

/-- The value `v` that a write gives the RW or RW/P register at base offset `off`. -/
def State.configWrite (s : State) (off acc : Nat) (raw v : Word) (tlp : Tlp) : State :=
  let o := off % 0x10000
  match blockOf off with
  | .mg => if o = 0x110 then s.traceCtrl v else if o = 0x114 then s.traceBase v else s.setReg off v
  | .pw => if 2200 ≤ field v 11 0 ∧ field v 11 0 ≤ 3100 then s.setReg off v else s
  | .sc => s.scWrite off v tlp
  | .ec => s.ecConfig o v
  | .tumblerLo => s.hostTumbler (o / 4) acc raw v tlp
  | .tumblerHi => s.hostTumbler (4096 + o / 4) acc raw v tlp
  | .cs => if o = 0 then (s.scResize v.toNat).2 else s.csScrubSet v
  | .tb => if o = 0 then s.tbCtrlSet v else s.setReg off v
  | .msix => s.msixWrite off v
  | .hb k => if o = 0 then s.hbCtrlSet k v else s.hbScrubSet k v
  | .fb n => s.fbCtrlSet n v
  | .ce p => if 0x100 ≤ o then s.seatConfig (p * 16 + (o - 0x100) / 0x10) off v else s.setReg off v
  | .ct p => s.seatConfig (p * 16 + (o - 0x100) / 0x100) off v
  | _ => s.setReg off v

/-- The command of a WO register (R22). -/
def State.commandWrite (s : State) (off : Nat) (v : Word) (tlp : Tlp) : State :=
  let o := off % 0x10000
  match blockOf off with
  | .sc => if bit v 0 then s.signGo tlp else s
  | .ec => match o with
    | 0x28 => s.resetParts v.toNat
    | 0x2C => if v.toNat % 256 = 0xA5 then s.hostDeviceReset else s
    | 0x30 => s.forfeitCmd v
    | _ => match field v 1 0 with
      | 1 => s.recBegin
      | 2 => s.recEnd
      | _ => s
  | .tb =>
    if o = 0xC then s.timeSnap v
    else match field v 1 0 with
      | 1 => s.schedInstall
      | 2 => s.schedArm
      | 3 => s.schedCancel
      | _ => s
  | .ct p => match field v 1 0 with
    | 1 => s.seatCreate p (field v 7 4)
    | 2 => s.seatRelease p (field v 7 4)
    | _ => s
  | _ => s

/-- A register's value after a write of `v` at an alias (Table 0-8). -/
def aliased (al : Nat) (old v : Word) : Word :=
  match al with
  | 0 => v
  | 1 => old ||| v
  | 2 => old &&& ~~~ v
  | _ => old ^^^ v

/-- An aligned 32-bit write to BAR0 (R11, R18, R22 to R24). -/
def State.writeWord (s : State) (off : Nat) (v : Word) (tlp : Tlp) : State :=
  if absentUnit s.variant off then s.absentAccess
  else
    let b := baseOf off
    let al := aliasOf off
    let i := regInfo s.variant b
    match i.acc with
    | .rw | .rwp => s.configWrite b off v (aliased al (s.reg b) v &&& BitVec.ofNat 32 i.mask) tlp
    | .sl => if al = 2 then s.setReg b (s.reg b &&& ~~~ v) else s
    | .wo => if al = 0 then s.commandWrite b v tlp else s
    | _ => s

/-- A host write to BAR0 (R17): one or two words, or nothing but ABSENT_UNIT. -/
def State.bar0Write (s : State) (w : RegWrite) : State :=
  if !s.barLive then s
  else if w.size = 4 ∧ w.offset % 4 = 0 then s.writeWord w.offset (w.value.truncate 32) w.tlp
  else if w.size = 8 ∧ w.offset % 8 = 0 then
    (s.writeWord w.offset (w.value.truncate 32) w.tlp).writeWord (w.offset + 4) ((w.value >>> 32).truncate 32) w.tlp
  else if (List.range w.size).any fun i => absentUnit s.variant (w.offset + i) then s.absentAccess
  else s

def execRegisterWrite (w : RegWrite) (s : State) : Result := .next (s.bar0Write w)

/-- A write to the register that a row of its own names. -/
def State.ownWrite (s : State) (block reg : Nat) (w : RegWrite) : State := if writes block reg w then s.bar0Write w else s

def execTumblerHostWrite (w : RegWrite) (s : State) : Result :=
  .next (if w.offset / 0x10000 = 6 ∨ w.offset / 0x10000 = 7 then s.bar0Write w else s)

def execScResize (w : RegWrite) (s : State) : Result := .next (s.ownWrite 0x8 0x0 w)
def execCsScrubCfgWrite (w : RegWrite) (s : State) : Result := .next (s.ownWrite 0x8 0x4 w)
def execFbCtrlWrite (port : PortNo) (w : RegWrite) (s : State) : Result := .next (s.ownWrite (0x20 + port.val) 0x0 w)
def execTbCtrlWrite (w : RegWrite) (s : State) : Result := .next (s.ownWrite 0xA 0x0 w)
def execDetCtrlWrite (w : RegWrite) (s : State) : Result := .next (s.ownWrite 0x3 0x800 w)
def execHbScrubCfgWrite (stack : StackNo) (w : RegWrite) (s : State) : Result := .next (s.ownWrite (0x10 + stack.val) 0x4 w)
def execPairMaskWrite (w : RegWrite) (s : State) : Result := .next (s.ownWrite 0x3 0x20 w)
def execTraceCtrlWrite (w : RegWrite) (s : State) : Result :=
  .next (if writes 0x0 0x110 w || writes 0x0 0x114 w then s.bar0Write w else s)

end Sys2Proof.Machine
end

