-- ==== Sys2Proof/Machine/Replay.lean ====
section
/-! DEFINITION. The replay of a recorded step: its records are applied in order. -/

namespace Sys2Proof.Machine

/-- A HOST_WRITE, DOORBELL, TUMBLER or OBJECT record is applied (R387). -/
def State.replayHost (s : State) (kind addr value : Nat) (data : List Byte) : State :=
  match kind with
  | 2 => s.csWrite addr data
  | 4 =>
    let n := addr / 0x1000
    if s.seatIs n .active then (s.ringBell n (addr % 0x1000) (BitVec.ofNat 32 value)).2 else s
  | 5 =>
    let o := addr % 0x4000
    let t := if addr / 0x10000 = 6 then o / 4 else 4096 + o / 4
    s.setTumbler t (aliased (aliasOf addr) (s.tumbler t) (BitVec.ofNat 32 value))
  | _ =>
    let i : ObjId := { index := BitVec.ofNat 16 (addr / 256), sub := BitVec.ofNat 8 addr }
    match s.entry i with
    | .ok o =>
      let check : ImageCheck := { signatureOk := Config.imageSigned data, keyIndex := Config.imageKey data }
      (s.writeValue { path := .hostMailbox, op := 2, tag := 0, obj := i, requester := 0, offset := 0, len := 0, arg := 0,
                      reserved := false, data := [] } o data check).2
    | .error _ => s

/-- The flow on port `p` whose collective awaits the cell; the record names none (log entry 18). -/
def State.replayFlow (s : State) (p : Nat) (body : List Byte) : Option Nat :=
  let part := numAt body 632 2
  let sq := numAt body 624 4
  let open_ := s.collRuns.flatMap fun q => q.2.2.recvs.filter fun t =>
    decide (t.port = p ∧ t.part = part ∧ sq < t.cells) && !q.2.2.got.contains (p, t.flow, part, sq)
  (open_.map Transfer.flow).head?

/-- A CELL record reaches the receive path of its port: codeword KIND 2 SCHED, 3 OPEN, 4 CTRL (Table 11-2). -/
def State.replayCell (s : State) (p kind : Nat) (body : List Byte) : State :=
  match kind with
  | 2 =>
    match s.replayFlow p body with
    | some f => s.schedCell p f body
    | none => s
  | 3 => s.takeOpen p (numAt body 0 1) body
  | 4 => s.takeCtrl p (numAt body 0 1) body
  | _ => s

/-- The outstanding read of the HOST_XFER with SEQ_TAG `tag`, which HOST_DATA serves. -/
def State.replayRead (s : State) (tag : Nat) : Option HostRead :=
  s.hostReads.find? fun h => !h.fence &&
    (match s.findRun h.seat h.index with
     | some r => decide (tagOf r.words = tag)
     | none => false)

/-- When a turn of a port begins in a round, by the table of the device's own port (log entry 18). -/
def State.turnTime (s : State) (p round turn : Nat) : Nat :=
  let table := match s.tb.active with
    | some a => a.tableOf p
    | none => bringUpTable
  s.roundStart round + 64 * ((table.take turn).map Turn.len).sum

/-- The next record, `bs`, is applied, no earlier than its round, a cell no earlier than its turn; a HOST_DATA record waits
for its HOST_XFER. -/
def State.applyRecord (s : State) (bs : List Byte) : State :=
  let kind := numAt bs 0 1
  let round := numAt bs 24 8
  let data := (bs.drop 64).take (numAt bs 4 4)
  if !recordOk bs || decide (kind = 0 ∨ 9 ≤ kind ∨ round < s.rec_.lastRound) then s.badRecord
  else
    let at' := ((round : Int) - s.rec_.shift).toNat
    let s := s.reach (if kind = 7 then s.turnTime (numAt bs 2 2) at' (numAt bs 32 2) else s.roundStart at')
    let eaten := fun (s : State) => ({ s with rec_ := { s.rec_ with lastRound := round } }).eatRecord bs
    match kind with
    | 1 => eaten s
    | 3 =>
      match s.replayRead (numAt bs 36 4) with
      | some h => ((eaten s).hostReadEnd h (decide (data.length = h.len)) data).pumpReads
      | none => s
    | 7 => (eaten s).replayCell (numAt bs 2 2) (numAt bs 1 1) data
    | 8 => (eaten s).closeStep
    | _ => (eaten s).replayHost kind (numAt bs 40 8) (numAt bs 48 8) data

/-- REPLAY_RECORD_APPLY. -/
def execReplayRecordApply (s : State) : Result :=
  .next (if !s.coreOn || !s.replaying || s.rec_.dropped then s
    else
      let f := s.nextRecord
      match f.1 with
      | some bs => f.2.applyRecord bs
      | none => f.2)

end Sys2Proof.Machine
end

