-- ==== Sys2Proof/Machine/Dispatch.lean ====
section
/-! DEFINITION. The dispatch: one arm per command. -/

namespace Sys2Proof.Machine

/-- The effect of a command on everything but the queue. -/
def exec (i : Instr) (s : State) : Host.Outcome State Fault Refusal :=
  match i with
  | .registerWrite w => Sys2Proof.Machine.execRegisterWrite w s
  | .parityCheckedRead offset size upset => Sys2Proof.Machine.execParityCheckedRead offset size upset s
  | .paritySweep upsets => Sys2Proof.Machine.execParitySweep upsets s
  | .bar2Read addr len tlp => Sys2Proof.Machine.execBar2Read addr len tlp s
  | .bar2Write addr data tlp => Sys2Proof.Machine.execBar2Write addr data tlp s
  | .ringProd seat b => Sys2Proof.Machine.execRingProd seat b s
  | .gqLaunch seat b => Sys2Proof.Machine.execGqLaunch seat b s
  | .cqCons seat b => Sys2Proof.Machine.execCqCons seat b s
  | .eqCons seat b => Sys2Proof.Machine.execEqCons seat b s
  | .groupLaunchEffect gq => Sys2Proof.Machine.execGroupLaunchEffect gq s
  | .seatCreate part loc => Sys2Proof.Machine.execSeatCreate part loc s
  | .seatRelease part loc => Sys2Proof.Machine.execSeatRelease part loc s
  | .seatReleaseComplete seat => Sys2Proof.Machine.execSeatReleaseComplete seat s
  | .gatingComplete part => Sys2Proof.Machine.execGatingComplete part s
  | .wakeComplete part => Sys2Proof.Machine.execWakeComplete part s
  | .descriptorHead seat => Sys2Proof.Machine.execDescriptorHead seat s
  | .nop seat => Sys2Proof.Machine.execNop seat s
  | .matrixSingle seat => Sys2Proof.Machine.execMatrixSingle seat s
  | .matrixOpen seat => Sys2Proof.Machine.execMatrixOpen seat s
  | .matrixContinue seat => Sys2Proof.Machine.execMatrixContinue seat s
  | .matrixClose seat => Sys2Proof.Machine.execMatrixClose seat s
  | .matrixOpenLoad seat => Sys2Proof.Machine.execMatrixOpenLoad seat s
  | .tileComplete seat index upsets ecc => Sys2Proof.Machine.execTileComplete seat index upsets ecc s
  | .arrayRetired part array => Sys2Proof.Machine.execArrayRetired part array s
  | .groupSlotGrant part array => Sys2Proof.Machine.execGroupSlotGrant part array s
  | .arrayClockGate part array => Sys2Proof.Machine.execArrayClockGate part array s
  | .quantNarrow seat => Sys2Proof.Machine.execQuantNarrow seat s
  | .quantRestore seat => Sys2Proof.Machine.execQuantRestore seat s
  | .quantStats seat => Sys2Proof.Machine.execQuantStats seat s
  | .wideDot seat => Sys2Proof.Machine.execWideDot seat s
  | .ewiseAdd seat => Sys2Proof.Machine.execEwiseAdd seat s
  | .ewiseMul seat => Sys2Proof.Machine.execEwiseMul seat s
  | .ewiseAxpby seat => Sys2Proof.Machine.execEwiseAxpby seat s
  | .ewiseRelu seat => Sys2Proof.Machine.execEwiseRelu seat s
  | .ewiseSilu seat => Sys2Proof.Machine.execEwiseSilu seat s
  | .ewiseSiluMul seat => Sys2Proof.Machine.execEwiseSiluMul seat s
  | .wideRmsnorm seat => Sys2Proof.Machine.execWideRmsnorm seat s
  | .wideSoftmax seat => Sys2Proof.Machine.execWideSoftmax seat s
  | .wideUpdate seat => Sys2Proof.Machine.execWideUpdate seat s
  | .wideCast seat => Sys2Proof.Machine.execWideCast seat s
  | .watchEvaluate seat => Sys2Proof.Machine.execWatchEvaluate seat s
  | .watchApply seat => Sys2Proof.Machine.execWatchApply seat s
  | .watchBoth seat => Sys2Proof.Machine.execWatchBoth seat s
  | .copyLinear seat => Sys2Proof.Machine.execCopyLinear seat s
  | .copySkewSerial seat => Sys2Proof.Machine.execCopySkewSerial seat s
  | .copySkewParallel seat => Sys2Proof.Machine.execCopySkewParallel seat s
  | .copyTransposeParallel seat => Sys2Proof.Machine.execCopyTransposeParallel seat s
  | .copyFill seat => Sys2Proof.Machine.execCopyFill seat s
  | .atomicAdd seat => Sys2Proof.Machine.execAtomicAdd seat s
  | .atomicAnd seat => Sys2Proof.Machine.execAtomicAnd seat s
  | .atomicOr seat => Sys2Proof.Machine.execAtomicOr seat s
  | .atomicXor seat => Sys2Proof.Machine.execAtomicXor seat s
  | .atomicSmin seat => Sys2Proof.Machine.execAtomicSmin seat s
  | .atomicSmax seat => Sys2Proof.Machine.execAtomicSmax seat s
  | .atomicUmin seat => Sys2Proof.Machine.execAtomicUmin seat s
  | .atomicUmax seat => Sys2Proof.Machine.execAtomicUmax seat s
  | .atomicSwap seat => Sys2Proof.Machine.execAtomicSwap seat s
  | .atomicCas seat => Sys2Proof.Machine.execAtomicCas seat s
  | .atomicLoad seat => Sys2Proof.Machine.execAtomicLoad seat s
  | .lineFillComplete part line => Sys2Proof.Machine.execLineFillComplete part line s
  | .hostXferToCs seat => Sys2Proof.Machine.execHostXferToCs seat s
  | .hostXferToHost seat => Sys2Proof.Machine.execHostXferToHost seat s
  | .hostReadCompletion tag status data => Sys2Proof.Machine.execHostReadCompletion tag status data s
  | .hostCompletionTimeout tag => Sys2Proof.Machine.execHostCompletionTimeout tag s
  | .fenceLocal seat => Sys2Proof.Machine.execFenceLocal seat s
  | .fenceChip seat => Sys2Proof.Machine.execFenceChip seat s
  | .fenceFabric seat => Sys2Proof.Machine.execFenceFabric seat s
  | .fenceHost seat => Sys2Proof.Machine.execFenceHost seat s
  | .tumblerSet seat => Sys2Proof.Machine.execTumblerSet seat s
  | .tumblerAdd seat => Sys2Proof.Machine.execTumblerAdd seat s
  | .tumblerRemoteAdd seat => Sys2Proof.Machine.execTumblerRemoteAdd seat s
  | .tumblerRead seat => Sys2Proof.Machine.execTumblerRead seat s
  | .tumblerHostWrite w => Sys2Proof.Machine.execTumblerHostWrite w s
  | .haspAcquire seat => Sys2Proof.Machine.execHaspAcquire seat s
  | .haspTry seat => Sys2Proof.Machine.execHaspTry seat s
  | .haspRelease seat => Sys2Proof.Machine.execHaspRelease seat s
  | .haspRepair seat => Sys2Proof.Machine.execHaspRepair seat s
  | .haspInspect seat => Sys2Proof.Machine.execHaspInspect seat s
  | .haspRetry part addr => Sys2Proof.Machine.execHaspRetry part addr s
  | .groupLaunch seat => Sys2Proof.Machine.execGroupLaunch seat s
  | .collectiveAllreduce seat => Sys2Proof.Machine.execCollectiveAllreduce seat s
  | .collectiveReduceScatter seat => Sys2Proof.Machine.execCollectiveReduceScatter seat s
  | .collectiveAllgather seat => Sys2Proof.Machine.execCollectiveAllgather seat s
  | .collectiveBroadcast seat => Sys2Proof.Machine.execCollectiveBroadcast seat s
  | .collectivePut seat => Sys2Proof.Machine.execCollectivePut seat s
  | .descriptorComplete seat index => Sys2Proof.Machine.execDescriptorComplete seat index s
  | .seatVectorHoldoffEnd seat => Sys2Proof.Machine.execSeatVectorHoldoffEnd seat s
  | .scResize w => Sys2Proof.Machine.execScResize w s
  | .scResizeComplete => Sys2Proof.Machine.execScResizeComplete s
  | .csScrubCfgWrite w => Sys2Proof.Machine.execCsScrubCfgWrite w s
  | .csPatrolScrub sector seen => Sys2Proof.Machine.execCsPatrolScrub sector seen s
  | .configRequest => Sys2Proof.Machine.execConfigRequest s
  | .pcieAtomicopRequest => Sys2Proof.Machine.execPcieAtomicopRequest s
  | .perstN => Sys2Proof.Machine.execPerstN s
  | .tlpIntegrityFail stream => Sys2Proof.Machine.execTlpIntegrityFail stream s
  | .markReceived port group mark => Sys2Proof.Machine.execMarkReceived port group mark s
  | .schedCellReceived loc body => Sys2Proof.Machine.execSchedCellReceived loc body s
  | .cellReady port => Sys2Proof.Machine.execCellReady port s
  | .putCellReceived loc body => Sys2Proof.Machine.execPutCellReceived loc body s
  | .remoteAddCellReceived loc body => Sys2Proof.Machine.execRemoteAddCellReceived loc body s
  | .ackReceived loc body => Sys2Proof.Machine.execAckReceived loc body s
  | .refusalReceived loc body => Sys2Proof.Machine.execRefusalReceived loc body s
  | .noAck id => Sys2Proof.Machine.execNoAck id s
  | .forfeitCellReceived loc body => Sys2Proof.Machine.execForfeitCellReceived loc body s
  | .sideCellReceived loc body => Sys2Proof.Machine.execSideCellReceived loc body s
  | .identReceived port ident => Sys2Proof.Machine.execIdentReceived port ident s
  | .timeReqReceived port group t2 => Sys2Proof.Machine.execTimeReqReceived port group t2 s
  | .timeReplyReceived port t1 t2 t3 t4 => Sys2Proof.Machine.execTimeReplyReceived port t1 t2 t3 t4 s
  | .locked => Sys2Proof.Machine.execLocked s
  | .portUp port => Sys2Proof.Machine.execPortUp port s
  | .keyShareReceived port chain share => Sys2Proof.Machine.execKeyShareReceived port chain share s
  | .authTagReceived port tag => Sys2Proof.Machine.execAuthTagReceived port tag s
  | .fecUncorrectable port word => Sys2Proof.Machine.execFecUncorrectable port word s
  | .lossOfSignal port lane => Sys2Proof.Machine.execLossOfSignal port lane s
  | .portDown port => Sys2Proof.Machine.execPortDown port s
  | .portTrainingStart port => Sys2Proof.Machine.execPortTrainingStart port s
  | .linkTrained port => Sys2Proof.Machine.execLinkTrained port s
  | .trainingTimeout port => Sys2Proof.Machine.execTrainingTimeout port s
  | .trainingRetry port => Sys2Proof.Machine.execTrainingRetry port s
  | .miswiredRetrain port => Sys2Proof.Machine.execMiswiredRetrain port s
  | .turnBegin port => Sys2Proof.Machine.execTurnBegin port s
  | .roundBoundary => Sys2Proof.Machine.execRoundBoundary s
  | .turnMiss port group => Sys2Proof.Machine.execTurnMiss port group s
  | .turnMissWatchdog port => Sys2Proof.Machine.execTurnMissWatchdog port s
  | .holdoverTimeout => Sys2Proof.Machine.execHoldoverTimeout s
  | .trefLock => Sys2Proof.Machine.execTrefLock s
  | .trefPpsEdge => Sys2Proof.Machine.execTrefPpsEdge s
  | .trefLost => Sys2Proof.Machine.execTrefLost s
  | .timeSnap value => Sys2Proof.Machine.execTimeSnap value s
  | .schedInstall => Sys2Proof.Machine.execSchedInstall s
  | .installComplete => Sys2Proof.Machine.execInstallComplete s
  | .schedArm => Sys2Proof.Machine.execSchedArm s
  | .schedCancel => Sys2Proof.Machine.execSchedCancel s
  | .stallWindowEnd withheld => Sys2Proof.Machine.execStallWindowEnd withheld s
  | .slip source => Sys2Proof.Machine.execSlip source s
  | .fbCtrlWrite port w => Sys2Proof.Machine.execFbCtrlWrite port w s
  | .tbCtrlWrite w => Sys2Proof.Machine.execTbCtrlWrite w s
  | .detCtrlWrite w => Sys2Proof.Machine.execDetCtrlWrite w s
  | .recBegin => Sys2Proof.Machine.execRecBegin s
  | .recEnd => Sys2Proof.Machine.execRecEnd s
  | .recorderStepEnd => Sys2Proof.Machine.execRecorderStepEnd s
  | .replayRecordApply => Sys2Proof.Machine.execReplayRecordApply s
  | .seatWatchdogExpiry seat => Sys2Proof.Machine.execSeatWatchdogExpiry seat s
  | .seatDrainExpiry seat => Sys2Proof.Machine.execSeatDrainExpiry seat s
  | .partWatchdogExpiry part => Sys2Proof.Machine.execPartWatchdogExpiry part s
  | .partitionResetCmd value => Sys2Proof.Machine.execPartitionResetCmd value s
  | .partitionReset part cause => Sys2Proof.Machine.execPartitionReset part cause s
  | .partitionResetEnd part => Sys2Proof.Machine.execPartitionResetEnd part s
  | .deviceResetCmd value => Sys2Proof.Machine.execDeviceResetCmd value s
  | .deviceReset cause found => Sys2Proof.Machine.execDeviceReset cause found s
  | .deviceResetEnd => Sys2Proof.Machine.execDeviceResetEnd s
  | .forfeitCmd value => Sys2Proof.Machine.execForfeitCmd value s
  | .ecVectorHoldoffEnd => Sys2Proof.Machine.execEcVectorHoldoffEnd s
  | .pairMaskWrite w => Sys2Proof.Machine.execPairMaskWrite w s
  | .shakerTest part unit test cond hottest => Sys2Proof.Machine.execShakerTest part unit test cond hottest s
  | .shakerTestEnd part unit passed => Sys2Proof.Machine.execShakerTestEnd part unit passed s
  | .hbmRefresh stack => Sys2Proof.Machine.execHbmRefresh stack s
  | .hbmCalibration stack => Sys2Proof.Machine.execHbmCalibration stack s
  | .channelRetrainComplete stack chan ok => Sys2Proof.Machine.execChannelRetrainComplete stack chan ok s
  | .hbmTempReadout stack temp => Sys2Proof.Machine.execHbmTempReadout stack temp s
  | .throttleStepFall stack => Sys2Proof.Machine.execThrottleStepFall stack s
  | .tempReadoutTimeout stack => Sys2Proof.Machine.execTempReadoutTimeout stack s
  | .hbScrubCfgWrite stack w => Sys2Proof.Machine.execHbScrubCfgWrite stack w s
  | .hbPatrolScrub stack chan sector seen => Sys2Proof.Machine.execHbPatrolScrub stack chan sector seen s
  | .rowRepairPending stack chan row => Sys2Proof.Machine.execRowRepairPending stack chan row s
  | .spdmGetVersion path => Sys2Proof.Machine.execSpdmGetVersion path s
  | .spdmGetCapabilities path => Sys2Proof.Machine.execSpdmGetCapabilities path s
  | .spdmNegotiateAlgorithms path request => Sys2Proof.Machine.execSpdmNegotiateAlgorithms path request s
  | .spdmGetDigests path => Sys2Proof.Machine.execSpdmGetDigests path s
  | .spdmGetCertificate path slot offset length => Sys2Proof.Machine.execSpdmGetCertificate path slot offset length s
  | .spdmChallenge path slot nonce => Sys2Proof.Machine.execSpdmChallenge path slot nonce s
  | .spdmGetMeasurements path index nonce => Sys2Proof.Machine.execSpdmGetMeasurements path index nonce s
  | .spdmKeyExchange path share => Sys2Proof.Machine.execSpdmKeyExchange path share s
  | .spdmFinish path session verifyData => Sys2Proof.Machine.execSpdmFinish path session verifyData s
  | .spdmEndSession path session => Sys2Proof.Machine.execSpdmEndSession path session s
  | .ideKm session action key => Sys2Proof.Machine.execIdeKm session action key s
  | .tdispGetVersion session seat => Sys2Proof.Machine.execTdispGetVersion session seat s
  | .tdispGetCapabilities session seat => Sys2Proof.Machine.execTdispGetCapabilities session seat s
  | .lockInterface session seat stream => Sys2Proof.Machine.execLockInterface session seat stream s
  | .getInterfaceReport session seat => Sys2Proof.Machine.execGetInterfaceReport session seat s
  | .getInterfaceState session seat => Sys2Proof.Machine.execGetInterfaceState session seat s
  | .startInterface session seat nonce => Sys2Proof.Machine.execStartInterface session seat nonce s
  | .stopInterface session seat => Sys2Proof.Machine.execStopInterface session seat s
  | .sign tlp => Sys2Proof.Machine.execSign tlp s
  | .signComplete => Sys2Proof.Machine.execSignComplete s
  | .firmwareVerified checkA checkB found => Sys2Proof.Machine.execFirmwareVerified checkA checkB found s
  | .fwReady => Sys2Proof.Machine.execFwReady s
  | .objectRead f => Sys2Proof.Machine.execObjectRead f s
  | .objectWrite f => Sys2Proof.Machine.execObjectWrite f s
  | .objectWriteSeg f check => Sys2Proof.Machine.execObjectWriteSeg f check s
  | .startTrial f => Sys2Proof.Machine.execStartTrial f s
  | .commit f => Sys2Proof.Machine.execCommit f s
  | .fallBack f => Sys2Proof.Machine.execFallBack f s
  | .trialReadyTimeout => Sys2Proof.Machine.execTrialReadyTimeout s
  | .trialWindowEnd => Sys2Proof.Machine.execTrialWindowEnd s
  | .clearRetirementRecord f => Sys2Proof.Machine.execClearRetirementRecord f s
  | .clearArrayCounts f => Sys2Proof.Machine.execClearArrayCounts f s
  | .readdress target => Sys2Proof.Machine.execReaddress target s
  | .tunnelReq first last counter data => Sys2Proof.Machine.execTunnelReq first last counter data s
  | .claimReceived addr serial => Sys2Proof.Machine.execClaimReceived addr serial s
  | .heartbeatReceived addr => Sys2Proof.Machine.execHeartbeatReceived addr s
  | .bidReceived digit => Sys2Proof.Machine.execBidReceived digit s
  | .canFrameSent acked => Sys2Proof.Machine.execCanFrameSent acked s
  | .lonely => Sys2Proof.Machine.execLonely s
  | .busOffRecovery => Sys2Proof.Machine.execBusOffRecovery s
  | .heartbeatSend => Sys2Proof.Machine.execHeartbeatSend s
  | .alarmSend => Sys2Proof.Machine.execAlarmSend s
  | .chainOutFrame => Sys2Proof.Machine.execChainOutFrame s
  | .chainInFrame count => Sys2Proof.Machine.execChainInFrame count s
  | .chainInHighTimeout => Sys2Proof.Machine.execChainInHighTimeout s
  | .chainInLowTimeout => Sys2Proof.Machine.execChainInLowTimeout s
  | .electionListenEnd => Sys2Proof.Machine.execElectionListenEnd s
  | .electionOpen => Sys2Proof.Machine.execElectionOpen s
  | .uartReadObject obj => Sys2Proof.Machine.execUartReadObject obj s
  | .uartReadOffset obj offset => Sys2Proof.Machine.execUartReadOffset obj offset s
  | .uartStatus => Sys2Proof.Machine.execUartStatus s
  | .uartVersion => Sys2Proof.Machine.execUartVersion s
  | .traceTextStart => Sys2Proof.Machine.execTraceTextStart s
  | .traceTextStop => Sys2Proof.Machine.execTraceTextStop s
  | .uartBadLine => Sys2Proof.Machine.execUartBadLine s
  | .uartOverrun => Sys2Proof.Machine.execUartOverrun s
  | .uartFraming => Sys2Proof.Machine.execUartFraming s
  | .uartBreak => Sys2Proof.Machine.execUartBreak s
  | .traceCtrlWrite w => Sys2Proof.Machine.execTraceCtrlWrite w s
  | .traceRecordDrop => Sys2Proof.Machine.execTraceRecordDrop s
  | .powerOnReset => Sys2Proof.Machine.execPowerOnReset s
  | .sysResetRelease => Sys2Proof.Machine.execSysResetRelease s
  | .posSample pos => Sys2Proof.Machine.execPosSample pos s
  | .powerStepEvaluation vin iin power tjMax part => Sys2Proof.Machine.execPowerStepEvaluation vin iin power tjMax part s
  | .thermalTrip temp part => Sys2Proof.Machine.execThermalTrip temp part s
  | .thermAlertRelease => Sys2Proof.Machine.execThermAlertRelease s
  | .coreLoss cause => Sys2Proof.Machine.execCoreLoss cause s
  | .coreRestart found => Sys2Proof.Machine.execCoreRestart found s
  | .perstNRelease => Sys2Proof.Machine.execPerstNRelease s
  | .canReceiveError amount => Sys2Proof.Machine.execCanReceiveError amount s
  | .scrubLate stack => Sys2Proof.Machine.execScrubLate stack s
  | .dataPhaseRateChange => Sys2Proof.Machine.execDataPhaseRateChange s
  | .uartRateChange => Sys2Proof.Machine.execUartRateChange s

end Sys2Proof.Machine
end

