-- ==== Sys2Proof/Safety.lean ====
section
/-! DEFINITION. What a safe run is, and the predicates in which statements about the block are written: a run that
never stops, the invariant of the memories, a descriptor that can start, and what two states share. -/

namespace Sys2Proof.Machine

/-- A run of `k` steps that neither faults nor is refused. -/
def safeRun : Nat → State → Prop
  | 0, _ => True
  | k + 1, s => ∃ t, step s = .next t ∧ safeRun k t

/-- Both memories have their canonical form. -/
def State.memoryOk (s : State) : Prop := Memory.wf s.csMem = true ∧ hbmWf s.hbm = true

/-- The identity of the part: ordering number, stepping and serial number (R5, R8). -/
def State.samePart (s t : State) : Prop := t.variant = s.variant ∧ t.stepping = s.stepping ∧ t.serial = s.serial

/-- Every byte of the Central Store outside `len` bytes at `a` reads as before. -/
def State.storeOnly (s t : State) (a len : Nat) : Prop := ∀ x, (x < a ∨ a + len ≤ x) → t.csByte x = s.csByte x

/-- Every byte of the Central Store reads as before. -/
def State.storeSame (s t : State) : Prop := ∀ x, t.csByte x = s.csByte x

/-- Every register but those named reads as before. -/
def State.regsOnly (s t : State) (offs : List Nat) : Prop := ∀ o, o ∉ offs → t.reg o = s.reg o

/-- The head descriptor `h` of seat `n` passes these checks and can start now: it is read and its wait is satisfied (R60),
none of its causes of refusal holds (R62), and the read guard has room for it (R73). -/
def State.canStart (s : State) (n : Nat) (c : Checks) (g : List Region) (h : Head) : Prop :=
  s.readyHead n = some h ∧ c.reservedOk h.words = true ∧ c.cause h.words = none ∧ c.nondet h.words = false ∧
    (s.guardOn n && !g.isEmpty && decide (32 ≤ s.guardCount n)) = false

/-- No descriptor in work has the ring index of `h`: indices of descriptors in work differ (R516). -/
def State.newIndex (s : State) (n : Nat) (h : Head) : Prop := ∀ r ∈ (s.seat n).running, r.index ≠ h.index

/-- Seat `n` has the descriptor `h` in work, with this work and status. -/
def State.inWork (t : State) (n : Nat) (h : Head) (work : Work) (status : Nat) : Prop :=
  ∃ r ∈ (t.seat n).running, r.index = h.index ∧ r.words = h.words ∧ r.work = work ∧ r.status = status

/-- A RW or RW/P register whose write has no effect beside the new value: GQ_CTRL and GQ_MEMBERS, MX_CTRL, QZ_DEFAULTS,
CE_ENG, and the schedule registers of the TB_ block. -/
def plainRegister (off : Nat) : Bool :=
  match blockOf off with
  | .ctDev | .mx _ | .qz _ => true
  | .ce _ => decide (off % 0x10000 < 0x100)
  | .tb => decide (off % 0x10000 ≠ 0)
  | _ => false

/-- An aligned 32-bit access that writes `v` at `off`. -/
def wordWrite (off : Nat) (v : Word) (tlp : Tlp) : RegWrite :=
  { offset := off, size := 4, value := v.zeroExtend 64, tlp := tlp }

/-- A host write of `v` to the register at `off`, at alias `al` (Table 0-8). -/
def hostWrite (off al : Nat) (v : Word) (tlp : Tlp) : Instr := .registerWrite (wordWrite (off + al * 0x4000) v tlp)

/-- The bits of `v` that the register at `off` has: reserved bits read 0 (R24). -/
def State.maskedTo (s : State) (off : Nat) (v : Word) : Word := v &&& BitVec.ofNat 32 (regInfo s.variant off).mask

/-- A cell at `loc` comes in a turn of TKIND `kind` whose MARK `r` was taken, on an UP port (R313, R341). -/
def State.turnTakes (s : State) (loc : CellAt) (kind : BitVec 4) (r : RxTurn) : Prop :=
  s.coreOn = true ∧ s.portUp loc.port.val = true ∧ SMap.find? (s.port loc.port.val).rx loc.group.val = some r ∧
    r.missed = false ∧ r.mark.tkind = kind

/-- Doorbells of seat `n` reach it: BAR accesses are live, its partition is present, BAR4 is enabled, no step is being
replayed, and TDISP admits the access (R51, R387, R440). -/
def State.bellOpen (s : State) (n : Nat) (b : Bell) : Prop :=
  s.barLive = true ∧ partPresent s.variant (n / 16) = true ∧ bit (s.reg (hiReg 0)) 0 = true ∧ b.size = 4 ∧
    s.rec_.replay = false ∧ s.tdiAllows n b.tlp = true

/-- The trace ring is off (R482). -/
def State.traceOff (s : State) : Prop := bit (s.reg (mgReg 0x110)) 0 = false

/-- The `len` bytes stored at `a` are `bs`. -/
def State.holds (t : State) (a : Nat) (bs : List Byte) : Prop := ∀ i < bs.length, t.csByte (a + i) = bs.getD i 0

/-- The sectors that `n` bytes at `a` touch carry neither poison nor an ECC error still to be found. -/
def State.clean (s : State) (a n : Nat) : Prop :=
  ∀ sec ∈ sectorsOf a n, s.csPoisoned sec = false ∧ SMap.get EccSeen.clean s.csUpset sec = .clean

/-- Where the descriptor at ring index `i` of seat `n` lies (R53). -/
def State.ringAddr (s : State) (n : Nat) (i : Word) : Nat :=
  s.regField (seatReg n 0x14) 17 0 * unit64K + i.toNat % 2 ^ s.regField (seatReg n 0x18) 4 0 * 64

/-- The words of `k` descriptors from ring index `i`. -/
def State.ringWords (s : State) (n : Nat) (i : Word) (k : Nat) : List Word :=
  (List.range k).flatMap fun j => wordsOf (s.csBytes (s.ringAddr n (i + BitVec.ofNat 32 j)) 64)

/-- MSI-X vector `v` is not masked. -/
def State.vectorOpen (s : State) (v : Nat) : Prop := s.regN (msixReg (v * 16 + 12)) % 2 = 0

/-- The MSI-X message of vector `v`. -/
def State.vectorMessage (s : State) (v : Nat) : Emission :=
  .msix v (s.regN (msixReg (v * 16)) + 2 ^ 32 * s.regN (msixReg (v * 16 + 4))) (s.regN (msixReg (v * 16 + 8)))

/-- Does the device answer object requests on a path (R460, R463): on the field network with an address, in the host mailbox
once it is ready? -/
def State.answers (s : State) : Path → Bool
  | .fieldNetwork => s.hasAddress
  | .hostMailbox => s.hostPort && s.coreOn && s.fwReady

/-- The state in which a request on a path is carried out: a frame of the field network has been counted. -/
def State.heardOn (s : State) : Path → State
  | .fieldNetwork => s.frameIn
  | .hostMailbox => s

/-- A WRITE of `data` with no field out of form (Table 16-2). -/
def plainWrite (f : ReqFrame) (data : List Byte) : Prop :=
  f.op = 2 ∧ f.reserved = false ∧ f.offset = 0 ∧ f.arg = 0 ∧ f.len = data.length ∧ f.data = data

end Sys2Proof.Machine
end

