-- ==== Sys2Proof/Certificates/Slice0/Obligations.lean ====
section
/-! DEFINITION. The statements for the provers. Each says, for the commands it names, what the numbered rules of the
specification say of them; a docstring that names a log entry says that the point is the model's own choice. -/

open Sys2Proof Sys2Proof.Machine

/-! The block as a machine. -/

/-- A step takes the command at the front of the queue and carries it out with the rest of the queue left. -/
def Obligations.StepRunsTheFrontCommand : Prop :=
  ∀ (c : Instr) (rest : List Instr) (s : State), s.pending = c :: rest →
    step s = exec c { s with pending := rest }

/-- On an empty queue one nanosecond of the local clock passes and nothing else changes; the time word counts it once
the time base counts and owes no correction. The tick is the model's choice (log entry 2). -/
def Obligations.EmptyQueueTicks : Prop :=
  ∀ s : State, s.pending = [] →
    ∃ t, step s = .next t ∧ t.uptime = s.uptime + 1 ∧
      t = { s with uptime := t.uptime, time := t.time, tb := t.tb } ∧
      t.tb = { s.tb with acc := t.tb.acc, slewRem := t.tb.slewRem } ∧
      (s.tb.counting = false → t.time = s.time ∧ t.tb = s.tb) ∧
      (s.tb.counting = true → s.tb.acc = 0 → t.time = s.time + 65536 ∧ t.tb.acc = 0)

/-- Every command runs in every state, and a run of any length is safe from every state: nothing stops the block. -/
def Obligations.EveryCommandHasANextState : Prop :=
  (∀ (c : Instr) (s : State), ∃ t, exec c s = .next t) ∧
  (∀ (k : Nat) (s : State), safeRun k s)

/-- A step removes exactly the command it took, and no command changes the ordering number, the stepping or the
serial number (R5, R8). -/
def Obligations.StepTakesOneCommand : Prop :=
  ∀ s t : State, step s = .next t → t.pending = s.pending.tail ∧ s.samePart t

/-- Every step keeps the canonical form of the Central Store and of HBM. -/
def Obligations.EveryStepKeepsMemoryForm : Prop :=
  ∀ s t : State, s.memoryOk → step s = .next t → t.memoryOk

/-- The memories have their canonical form at reset. -/
def Obligations.ResetMemoryForm : Prop := State.reset.memoryOk

/-- At reset every register reads as its reset value, every seat is FREE and outside TDISP, every partition gated, every
port DOWN, time invalid, the device held in power-on reset, and every Central Store byte 0 (log entry 4 for the last). -/
def Obligations.ResetState : Prop :=
  let r := State.reset
  (∀ off, r.reg off = regReset r.variant off) ∧
  (∀ n, (r.seat n).state = .free ∧ (r.seat n).tdi = .unlocked ∧ (r.seat n).wardKey = none ∧ (r.seat n).running = []) ∧
  (∀ p : PartNo, (r.part p.val).gated = true ∧ r.epoch p.val = 0) ∧ (∀ k, (r.port k).state = .down) ∧
  r.tb.timeValid = false ∧ r.tb.active = none ∧ r.pw.state = .reset ∧ r.fw.boot = .held ∧ r.barLive = false ∧
  (∀ a, r.csByte a = 0) ∧ (∀ sec, r.csPoisoned sec = false) ∧ r.cache = [] ∧ r.posted = [] ∧ r.pending = []

/-! Registers (R17 to R25). -/

/-- Writes at the base and at the three aliases of a RW or RW/P register: the new value, reserved bits 0, and nothing
else changed (R22, R23, R24, Table 0-8). A log register is cleared through its CLR alias only: a 1 written there
clears its bit, and writes at the base and at the other aliases change nothing (R21, R22). -/
def Obligations.RegisterAliases : Prop :=
  (∀ (s : State) (off : Nat) (v : Word) (tlp : Tlp), s.barLive = true → absentUnit s.variant off = false →
     plainRegister off = true → off % 0x10000 < 0x4000 → off % 4 = 0 →
     ((regInfo s.variant off).acc = .rw ∨ (regInfo s.variant off).acc = .rwp) →
     ∀ al new, (al = 0 ∧ new = v) ∨ (al = 1 ∧ new = s.reg off ||| v) ∨ (al = 2 ∧ new = s.reg off &&& ~~~ v) ∨
         (al = 3 ∧ new = s.reg off ^^^ v) →
       ∃ t, exec (hostWrite off al v tlp) s = .next t ∧
         t.reg off = new &&& BitVec.ofNat 32 (regInfo s.variant off).mask ∧ s.regsOnly t [off] ∧
         t = { s with regs := t.regs, badParity := s.badParity.filter fun o => o != off }) ∧
  (∀ (s : State) (off al : Nat) (v : Word) (tlp : Tlp), s.barLive = true → absentUnit s.variant off = false →
     blockOf off ≠ .msix → off % 0x10000 < 0x4000 → off % 4 = 0 → al < 4 → (regInfo s.variant off).acc = .sl →
     ∃ t, exec (hostWrite off al v tlp) s = .next t ∧
       t.reg off = (if al = 2 then s.reg off &&& ~~~ v else s.reg off) ∧ s.regsOnly t [off] ∧
       t = { s with regs := t.regs, badParity := t.badParity })

/-- Access sizes of BAR0 (R17): an aligned 64-bit write is two 32-bit writes, the lower offset first; any other write
that is not aligned 32-bit is ignored; a read of any size returns each byte from the register that holds it and
changes nothing. The register space of an absent unit (R11): reads return zero in every byte, and a write of any size
or alignment is ignored and sets ABSENT_UNIT. A parity mismatch in a register of the always-on blocks, whose copy
firmware keeps: CFG_PARITY and CFG_REWRITTEN are set, the place of the first is captured, and the register keeps its
value (R19, Table 2-11). -/
def Obligations.RegisterAccessAndParity : Prop :=
  (((∀ (s : State) (off : Nat) (v : BitVec 64) (tlp : Tlp), off % 8 = 0 →
      ∃ t u, exec (.registerWrite { offset := off, size := 4, value := v, tlp := tlp }) s = .next t ∧
        exec (.registerWrite { offset := off + 4, size := 4, value := v >>> 32, tlp := tlp }) t = .next u ∧
        (t.barLive = s.barLive → exec (.registerWrite { offset := off, size := 8, value := v, tlp := tlp }) s = .next u)) ∧
    (∀ (s : State) (w : RegWrite), ¬ (w.size = 4 ∧ w.offset % 4 = 0) → ¬ (w.size = 8 ∧ w.offset % 8 = 0) →
      (∀ i < w.size, absentUnit s.variant (w.offset + i) = false) → exec (.registerWrite w) s = .next s) ∧
    (∀ (s : State) (off size : Nat), s.barLive = true → s.fw.boot ≠ .failed → s.badParity = [] →
      ∃ bs, exec (.parityCheckedRead off size false) s = .next (s.emit (.readData bs false)) ∧ bs.length = size ∧
        ∀ i < size, bs.getD i 0 = BitVec.ofNat 8 ((s.readReg ((off + i) / 4 * 4)).toNat / 2 ^ (8 * ((off + i) % 4))))) ∧
   ((∀ (s : State) (off : Nat), absentUnit s.variant off = true → s.readReg off = 0) ∧
    (∀ (s : State) (w : RegWrite), s.barLive = true → 1 ≤ w.size →
      (∀ i < w.size, absentUnit s.variant (w.offset + i) = true) →
      exec (.registerWrite w) s = .next s.absentAccess ∧ bit (s.absentAccess.reg (ecReg 0x4)) 0 = true))) ∧
  (∀ (s : State) (off : Nat), s.aoOn = true → off % 0x10000 < 0x4000 → firmwareKept off = true → s.hasParity off = true →
     s.badParity = [] →
     ∃ t, exec (.paritySweep [off]) s = .next t ∧ t.reg off = s.reg off ∧ t.badParity = [] ∧
       t.reg (ecReg 0x4) = s.reg (ecReg 0x4) ||| 6 ∧
       (bit (s.reg (ecReg 0x10)) 31 = false → t.reg (ecReg 0x10) = BitVec.ofNat 32 (2 ^ 31 + off)) ∧
       (bit (s.reg (ecReg 0x10)) 31 = true → t.reg (ecReg 0x10) = s.reg (ecReg 0x10)) ∧ s.storeSame t)

/-! Doorbells and group queues (R51, R52, R59, R64, R65). -/

/-- A doorbell write to a seat that is neither ACTIVE nor WAKING is ignored and sets DOORBELL_IDLE; one to a WAKING
seat is held (R52, R35). RING_PROD of an ACTIVE seat (R59): accepted within the ring, else DOORBELL_BAD and nothing
more. CQ_CONS and EQ_CONS of an ACTIVE seat (R59): a consumer index never passes its producer and never moves back; a
refused value sets DOORBELL_BAD and nothing more. -/
def Obligations.RingDoorbells : Prop :=
  (∀ (s : State) (n : SeatNo) (b : Bell), s.bellOpen n.val b →
     ∀ c, c = Instr.ringProd n b ∨ c = Instr.gqLaunch n b ∨ c = Instr.cqCons n b ∨ c = Instr.eqCons n b →
       ((s.seat n.val).state ≠ .active → (s.seat n.val).state ≠ .waking →
         exec c s = .next (s.raise (ctReg (n.val / 16) 0xC) 2)) ∧
       ((s.seat n.val).state = .waking →
         ∃ t off, exec c s = .next t ∧
           (t.seat n.val).heldBells = (s.seat n.val).heldBells ++ [{ offset := off, value := b.value }] ∧
           t = { s with seats := t.seats })) ∧
  ((∀ (s : State) (n : SeatNo) (b : Bell), s.bellOpen n.val b → (s.seat n.val).state = .active →
      let size := 2 ^ s.regField (seatReg n.val 0x18) 4 0
      let ok := (b.value - s.reg (seatReg n.val 0x1C)).toNat ≤ size ∧ (b.value - (s.seat n.val).prodAcc).toNat ≤ size
      (ok → ∃ t, exec (.ringProd n b) s = .next t ∧ (t.seat n.val).prodAcc = b.value ∧
        (t.seat n.val).head = (s.seat n.val).head ∧ (t.seat n.val).running = (s.seat n.val).running) ∧
      (¬ ok → exec (.ringProd n b) s = .next (s.raise (seatReg n.val 0x64) 1))) ∧
   (∀ (s : State) (n : SeatNo) (b : Bell), s.bellOpen n.val b → (s.seat n.val).state = .active →
      (let size := 2 ^ s.regField (seatReg n.val 0x24) 4 0
       let ok := (s.reg (seatReg n.val 0x28) - b.value).toNat ≤ size ∧ (b.value - (s.seat n.val).cqAcc).toNat ≤ size
       (ok → ∃ t, exec (.cqCons n b) s = .next t ∧ (t.seat n.val).cqAcc = b.value ∧
          ((s.seat n.val).cqHeld = none → (t.seat n.val).prodAcc = (s.seat n.val).prodAcc)) ∧
       (¬ ok → exec (.cqCons n b) s = .next (s.raise (seatReg n.val 0x64) 1))) ∧
      (let size := 2 ^ s.regField (seatReg n.val 0x30) 4 0
       let ok := (s.reg (seatReg n.val 0x34) - b.value).toNat ≤ size ∧ (b.value - (s.seat n.val).eqAcc).toNat ≤ size
       (ok → ∃ t, exec (.eqCons n b) s = .next t ∧ (t.seat n.val).eqAcc = b.value ∧
          (t.seat n.val).cqAcc = (s.seat n.val).cqAcc) ∧
       (¬ ok → exec (.eqCons n b) s = .next (s.raise (seatReg n.val 0x64) 1)))))

/-- GQ_LAUNCH of an ACTIVE seat (R51, R64, R65): accepted, it waits for the first multiple of 64 ns at least 128 ns
away and becomes the value read, and at that instant the producer index of every member moves by COUNT; refused as a
whole it sets GQ_REFUSED; from a seat that is not OWNER it sets NOT_OWNER. A launch of a group queue takes effect after
every launch accepted before it (R65): the producer index of each ACTIVE seat moves by the COUNT of each of these
launches that names it a member, in their order, every other seat's stays, and the launches are gone; the descriptor that
asked for it has ended its work with status 0 (R67). -/
def Obligations.GroupLaunchDoorbell : Prop :=
  (∀ (s : State) (n : SeatNo) (b : Bell), s.bellOpen n.val b → (s.seat n.val).state = .active →
     let g := field b.value 21 16
     let count := b.value.toNat % 2 ^ 16
     let good := bit (s.reg (gqReg g 0)) 31 = true ∧ s.memberGone g = false ∧ s.gqParityBad g = false ∧
       ∀ m ∈ s.gqMembers g, s.prodOk m ((s.seat m).prodAcc + BitVec.ofNat 32 count) = true
     (count = 0 → exec (.gqLaunch n b) s = .next s) ∧
     (count ≠ 0 → s.gqOwner g ≠ n.val → exec (.gqLaunch n b) s = .next (s.raise (gqReg g 8) 2)) ∧
     (count ≠ 0 → s.gqOwner g = n.val → ¬ good → exec (.gqLaunch n b) s = .next (s.raise (gqReg g 8) 1)) ∧
     (count ≠ 0 → s.gqOwner g = n.val → good →
       ∃ t l, exec (.gqLaunch n b) s = .next t ∧ t.launches = s.launches ++ [l] ∧ l.gq = g ∧ l.count = count ∧
         s.now + 128 ≤ l.due ∧ l.due < s.now + 192 ∧ l.due % 64 = 0 ∧ l.asker = none ∧
         (t.seat n.val).gqAcc = b.value ∧
         ∀ gq : GroupNo, gq.val = g → s.launches = [] → ∃ u, exec (.groupLaunchEffect gq) t = .next u ∧ u.launches = [] ∧
           ∀ m ∈ s.gqMembers g, (u.seat m).prodAcc = (s.seat m).prodAcc + BitVec.ofNat 32 count)) ∧
  (∀ (s : State) (g : GroupNo) (l : Launch), (s.launches.find? fun x => decide (x.gq = g.val)) = some l →
     let taken := (s.launches.takeWhile fun x => !decide (x.gq = g.val)) ++ [l]
     ∃ t, exec (.groupLaunchEffect g) s = .next t ∧ t.launches = s.launches.drop taken.length ∧
       (∀ m, (s.seat m).state = .active → (t.seat m).prodAcc =
         (taken.filter fun x => (s.gqMembers x.gq).contains m).foldl (fun v x => v + BitVec.ofNat 32 x.count) (s.seat m).prodAcc) ∧
       (∀ m, (s.seat m).state ≠ .active → (t.seat m).prodAcc = (s.seat m).prodAcc) ∧
       (∀ n idx, l.asker = some (n, idx) → ∀ r ∈ (s.seat n).running, r.index = idx →
         ∃ q ∈ (t.seat n).running, q.index = idx ∧ q.words = r.words ∧ q.work = .done ∧ q.status = 0) ∧
       (s.tb.counting = true → s.tb.acc = 0 → l.due < 2 ^ 64 → l.due ≤ t.now) ∧ s.storeSame t)

/-! The host's window on the Central Store (R50, R74, R240). -/

/-- A BAR2 read of the host window of an ACTIVE seat: stored data where no output is pending, all ones and EARLY_READ
where one is and the read guard is on, and with the guard off the stored byte wherever no pending output lies (R75);
anywhere else zeros and BAR2_DENIED (R50, R74). A BAR2 write of the host window
of an ACTIVE seat stores its bytes and no others; a guarded granule takes none and sets GUARD_WRITE; anywhere else the
write is ignored and sets BAR2_DENIED (R50, R74). -/
def Obligations.HostWindow : Prop :=
  (∀ (s : State) (a len : Nat) (tlp : Tlp), s.barLive = true → s.fw.boot ≠ .failed → bit (s.reg (hiReg 0)) 1 = true →
     (s.hostWinSeat a len = none → exec (.bar2Read a len tlp) s = .next (s.denied.emit (.readData (zeros len) false))) ∧
     (∀ n, s.hostWinSeat a len = some n → s.tdiAllows n tlp = false →
       exec (.bar2Read a len tlp) s = .next (s.denied.emit (.readData (zeros len) false))) ∧
     (∀ n, s.hostWinSeat a len = some n → s.tdiAllows n tlp = true → s.pendingRegion n a len = none →
       s.clean a len →
       exec (.bar2Read a len tlp) s = .next (s.emit (.readData (s.csBytes a len) false))) ∧
     (∀ n r, s.hostWinSeat a len = some n → s.tdiAllows n tlp = true → s.pendingRegion n a len = some r →
       s.guardOn n = true →
       exec (.bar2Read a len tlp) s = .next ((s.raise (seatReg n 0x64) 2).emit (.readData (List.replicate len 0xFF) false))) ∧
     (∀ n r, s.hostWinSeat a len = some n → s.tdiAllows n tlp = true → s.pendingRegion n a len = some r →
       s.guardOn n = false → s.clean a len →
       ∃ bs, exec (.bar2Read a len tlp) s = .next (s.emit (.readData bs false)) ∧ bs.length = len ∧
         ∀ i < len, (∀ q ∈ (s.seat n).running, ∀ g ∈ q.guard, g.holds (a + i) = false) →
           bs.getD i 0 = s.csByte (a + i))) ∧
  (∀ (s : State) (a : Nat) (bs : List Byte) (tlp : Tlp), s.barLive = true → bit (s.reg (hiReg 0)) 1 = true →
     s.rec_.replay = false →
     (s.hostWinSeat a bs.length = none → exec (.bar2Write a bs tlp) s = .next s.denied) ∧
     (∀ n, s.hostWinSeat a bs.length = some n → s.tdiAllows n tlp = false →
       exec (.bar2Write a bs tlp) s = .next s.denied) ∧
     (∀ n r, s.hostWinSeat a bs.length = some n → s.tdiAllows n tlp = true → s.guardOn n = true →
       s.pendingRegion n a bs.length = some r → exec (.bar2Write a bs tlp) s = .next (s.raise (seatReg n 0x64) 4)) ∧
     (∀ n, s.hostWinSeat a bs.length = some n → s.tdiAllows n tlp = true →
       (s.guardOn n = false ∨ s.pendingRegion n a bs.length = none) → s.recording = false →
       ∃ t, exec (.bar2Write a bs tlp) s = .next t ∧ t.holds a bs ∧
         s.storeOnly t a bs.length ∧ t = { s with csMem := t.csMem, csPoison := t.csPoison, csUpset := t.csUpset }))


/-! Seats, partitions and interrupts (R55 to R58, R72, R489, R490). -/

/-- CREATE: a refused one reports its cause and changes nothing else; an accepted one of an awake partition makes the
seat ACTIVE with its indices at 0, a new generation and a ward key; one of a gated partition wakes it in 18 µs, the
seat WAKING and BUSY still set (R35, R55, R56, R287, R434). CREATE and RELEASE while BUSY is 1 are ignored and set
CMD_DROPPED (R55). A CREATE that no cause of Table 2-4 stops: the seat is FREE, its partition not under reset; its CS
window lies in the Central Store, outside the shared cache and every other seat's window; its host window lies inside
its CS window; its tumblers are 1 to 8,192 of its own; its HBM window meets no other seat's of the partition. -/
def Obligations.CreateOfASeat : Prop :=
  ((∀ (s : State) (p : PartNo) (l : Fin 16), s.barLive = true → partPresent s.variant p.val = true →
      bit (s.reg (ctReg p.val 4)) 31 = false → s.resize = none →
      let n := p.val * 16 + l.val
      let b := s.seatResult p.val true l.val 0
      let r := s.part p.val
      (b.createCause n ≠ 0 → ∃ t, exec (.seatCreate p l) s = .next t ∧
        t.reg (ctReg p.val 4) = BitVec.ofNat 32 (l.val * 2 ^ 8 + b.createCause n) ∧ s.regsOnly t [ctReg p.val 4] ∧
        t.seats = s.seats ∧ t.parts = s.parts ∧ t.csMem = s.csMem) ∧
      (b.createCause n = 0 → r.gated = false → r.gatingAt = none → r.wakeAt = none → r.lowV = false →
        ∃ t, exec (.seatCreate p l) s = .next t ∧ (t.seat n).state = .active ∧ (t.seat n).prodAcc = 0 ∧
          (t.seat n).running = [] ∧ (t.seat n).wardKey.isSome = true ∧ t.reg (seatReg n 0x1C) = 0 ∧
          t.reg (seatReg n 0x28) = 0 ∧ t.reg (seatReg n 0x34) = 0 ∧ t.cgen n = (s.cgen n + 1) % 256 ∧
          t.reg (ctReg p.val 4) = BitVec.ofNat 32 (l.val * 2 ^ 8) ∧ t.csMem = s.csMem) ∧
      (b.createCause n = 0 → r.gated = true → r.gatingAt = none → r.wakeAt = none → r.lowV = false →
        ∃ t, exec (.seatCreate p l) s = .next t ∧ (t.seat n).state = .waking ∧ (t.seat n).wardKey.isSome = true ∧
          (t.part p.val).wakeAt = some (s.uptime + 18000) ∧ n ∈ (t.part p.val).creates ∧
          bit (t.reg (ctReg p.val 4)) 31 = true ∧ t.csMem = s.csMem)) ∧
   (∀ (s : State) (p : PartNo) (l : Fin 16), s.barLive = true → partPresent s.variant p.val = true →
      bit (s.reg (ctReg p.val 4)) 31 = true →
      exec (.seatCreate p l) s = .next (s.raise (ctReg p.val 0xC) 1) ∧
      exec (.seatRelease p l) s = .next (s.raise (ctReg p.val 0xC) 1))) ∧
  (∀ (s : State) (n : Nat), s.createCause n = 0 →
     s.resetting (n / 16) = false ∧ (s.seat n).state = .free ∧ (s.csWin n).2 ≤ csSize ∧
     overlap (s.csWin n) (s.scBase, csSize) = false ∧
     ((s.hostWin n).1 < (s.hostWin n).2 → (s.csWin n).1 ≤ (s.hostWin n).1 ∧ (s.hostWin n).2 ≤ (s.csWin n).2) ∧
     (s.tumbRange n).1 < (s.tumbRange n).2 ∧ (s.tumbRange n).2 ≤ 8192 ∧
     (∀ o ∈ [0x18, 0x24, 0x30], 6 ≤ s.regField (seatReg n o) 4 0 ∧ s.regField (seatReg n o) 4 0 ≤ 16) ∧
     ∀ m ∈ s.seatList, m ≠ n → (s.seat m).state ≠ .free →
       overlap (s.csWin n) (s.csWin m) = false ∧ overlap (s.tumbRange n) (s.tumbRange m) = false ∧
       (m / 16 = n / 16 → overlap (s.hbmWin n) (s.hbmWin m) = false))

/-- RELEASE: PARTITION_RESETTING and SEAT_NOT_IN_USE in that order; otherwise the seat is RELEASING, BUSY is set, no
descriptor waits and what is still in work is void (R55, R58). The end of a RELEASE, which a tile in the cells delays: the
seat is FREE without work or ward key, its CS window and tumblers are zero, and, with the trace off, no other byte of the
Central Store has changed (R58). -/
def Obligations.ReleaseOfASeat : Prop :=
  (∀ (s : State) (p : PartNo) (l : Fin 16), s.barLive = true → partPresent s.variant p.val = true →
     bit (s.reg (ctReg p.val 4)) 31 = false →
     let n := p.val * 16 + l.val
     (s.resetting p.val = true → exec (.seatRelease p l) s = .next (s.seatResult p.val false l.val 7)) ∧
     (s.resetting p.val = false → (s.seat n).state = .free →
       exec (.seatRelease p l) s = .next (s.seatResult p.val false l.val 2)) ∧
     (s.resetting p.val = false → (s.seat n).state ≠ .free →
       ∃ t, exec (.seatRelease p l) s = .next t ∧ (t.seat n).state = .releasing ∧ (t.seat n).head = none ∧
         (∀ r ∈ (t.seat n).running, r.void = true) ∧ bit (t.reg (ctReg p.val 4)) 31 = true)) ∧
  (∀ (s : State) (n : SeatNo), (s.seat n.val).state = .releasing → (∃ r ∈ (s.seat n.val).running, r.tileWork?.isSome = true) →
     exec (.seatReleaseComplete n) s = .next s) ∧
  (∀ (s : State) (n : SeatNo), (s.seat n.val).state = .releasing → s.resetting (n.val / 16) = false →
     (∀ r ∈ (s.seat n.val).running, r.tileWork?.isSome = false) →
     ∃ t, exec (.seatReleaseComplete n) s = .next t ∧ (t.seat n.val).state = .free ∧ (t.seat n.val).wardKey = none ∧
       (t.seat n.val).running = [] ∧
       (∀ x, (s.csWin n.val).1 ≤ x → x < (s.csWin n.val).2 → t.csByte x = 0) ∧
       (s.traceOff → ∀ x, (x < (s.csWin n.val).1 ∨ (s.csWin n.val).2 ≤ x) → t.csByte x = s.csByte x) ∧
       ∀ i, (s.tumbRange n.val).1 ≤ i → i < (s.tumbRange n.val).2 → t.tumbler i = 0)

/-- Power gating of a partition and its wake end (R35, R489, R490): not before they are due; a wake that waits for the
gating starts then; a wake makes the seat that waits ACTIVE and clears BUSY. A vector's hold-off ends: one message, if
the vector is not masked, delivers the events held (R72, R396). -/
def Obligations.GatingWakeAndHoldoffs : Prop :=
  ((∀ (s : State) (p : PartNo) (due : Nat), (s.part p.val).gatingAt = some due →
     ∃ t, exec (.gatingComplete p) s = .next t ∧ (t.part p.val).gated = true ∧ (t.part p.val).gatingAt = none ∧
       due ≤ t.uptime ∧ s.uptime ≤ t.uptime ∧ s.storeSame t ∧
       (t.part p.val).wakeAt = if (s.part p.val).creates.isEmpty then none else some (t.uptime + 18000)) ∧
   (∀ (s : State) (p : PartNo) (due : Nat), (s.part p.val).wakeAt = some due → (s.part p.val).resetQueued = none →
     ∀ n, (s.part p.val).creates = [n] → n / 16 = p.val → (s.seat n).state = .waking → (s.seat n).heldBells = [] →
     ∃ t, exec (.wakeComplete p) s = .next t ∧ (t.part p.val).gated = false ∧ (t.part p.val).wakeAt = none ∧
       due ≤ t.uptime ∧ (t.seat n).state = .active ∧ bit (t.reg (ctReg p.val 4)) 31 = false ∧ s.storeSame t)) ∧
  ((∀ (s : State) (n : SeatNo), (s.seat n.val).heldEvent = true → s.vectorOpen n.val →
     ∃ t, exec (.seatVectorHoldoffEnd n) s = .next t ∧ (t.seat n.val).heldEvent = false ∧
       (s.seat n.val).quietTill ≤ t.uptime ∧ t.out = s.vectorMessage n.val :: s.out ∧ t.regs = s.regs) ∧
   (∀ s : State, s.ec.held = true → s.vectorOpen 512 →
     ∃ t, exec .ecVectorHoldoffEnd s = .next t ∧ t.ec.held = false ∧ s.ec.holdTill ≤ t.uptime ∧
       t.out = s.vectorMessage 512 :: s.out ∧ t.regs = s.regs))

/-- The host port: configuration requests are answered, normally once FW_READY; a PCIe AtomicOp gets Unsupported Request;
PERST_N resets the HI_ block, ends every IDE stream and turns a locked or running TDI to ERROR; its release trains the
host port again; a failed integrity check of a selective stream ends it (R246, R428, R438, R496; the generation and
width after a release are the model's, log entry 10). -/
def Obligations.HostPortEvents : Prop :=
  (∀ s : State, s.hostPort = true → s.coreOn = true →
    (s.fw.boot = .ready → exec .configRequest s = .next (s.emit (.config true))) ∧
    (s.fw.boot = .rom ∨ s.fw.boot = .verified → exec .configRequest s = .next (s.emit (.config false))) ∧
    exec .pcieAtomicopRequest s = .next (s.emit .unsupportedRequest)) ∧
  (∀ s : State, s.aoOn = true →
    (∃ t, exec .perstN s = .next t ∧ t.hostPort = false ∧ t.sc.ideLink = false ∧ t.sc.ideSel = [] ∧
      (∀ o < 0x4000, t.reg (hiReg o) = regReset s.variant (hiReg o)) ∧
      (∀ n ∈ s.seatList, (s.seat n).tdi = .locked ∨ (s.seat n).tdi = .run → (t.seat n).tdi = .error) ∧ t.csMem = s.csMem) ∧
    (∃ t, exec .perstNRelease s = .next t ∧ t.hostPort = true ∧ s.regsOnly t [hiReg 4] ∧ t.seats = s.seats)) ∧
  (∀ (s : State) (n : Fin 8), s.coreOn = true → s.pw.perstLow = false →
    ∃ t, exec (.tlpIntegrityFail (.selective n)) s = .next t ∧ n ∉ t.sc.ideSel ∧ bit (t.reg (scReg 4)) 4 = true ∧
      ∀ k ∈ s.seatList, (s.seat k).tdiStream = some n → (s.seat k).tdi = .locked ∨ (s.seat k).tdi = .run →
        (t.seat k).tdi = .error) ∧
  (∀ s : State, s.coreOn = true → s.pw.perstLow = false →
    ∃ t, exec (.tlpIntegrityFail .link) s = .next t ∧ t.sc.ideLink = false ∧ t.sc.ideSel = s.sc.ideSel ∧
      t.reg (scReg 4) = s.reg (scReg 4) ||| 16 ∧ s.regsOnly t [scReg 4])

/-! Descriptors: head, start and completion (R60 to R62, R68 to R71, R516). -/

/-- The command processor reads the next descriptor of an ACTIVE seat. With the ring clean and no cause of R62, its
words and those of its continuations become the head; with a cause, it is refused. A refused descriptor writes an
error record of KIND 0x01 with its cause and makes the seat FAULTED; RING_CONS stays (R62, R70, R71). -/
def Obligations.HeadOfTheQueue : Prop :=
  (∀ (s : State) (n : SeatNo), s.coreOn = true → (s.seat n.val).state = .active → s.partRuns (n.val / 16) = true →
     s.blocked n.val = false → (s.seat n.val).head = none → (s.seat n.val).prodAcc ≠ s.reg (seatReg n.val 0x1C) →
     let i := s.reg (seatReg n.val 0x1C)
     let avail := ((s.seat n.val).prodAcc - i).toNat
     let k := 1 + min (countOf (s.ringWords n.val i 1)) (avail - 1)
     let w := s.ringWords n.val i k
     (∀ j < k, s.clean (s.ringAddr n.val (i + BitVec.ofNat 32 j)) 64) →
     (∀ c, s.headCause n.val avail w = some c → exec (.descriptorHead n) s = .next (s.refuse n.val w c)) ∧
     (s.headCause n.val avail w = none → opNamed w = true →
       ∃ t, exec (.descriptorHead n) s = .next t ∧ (t.seat n.val).head = some { index := i, words := w } ∧
         t = { s with seats := t.seats } ∧ ∀ m, m ≠ n.val → t.seat m = s.seat m)) ∧
  (∀ (s : State) (n : Nat) (w : List Word) (cause : Nat), s.traceOff → (s.seat n).state = .active → s.job n = 0 →
     let t := s.refuse n w cause
     let i := s.regN (seatReg n 0x34)
     let a := s.regN (seatReg n 0x2C) * 0x10000 + i % 2 ^ s.regField (seatReg n 0x30) 4 0 * 32
     (t.seat n).state = .faulted ∧ (t.seat n).head = none ∧ t.reg (seatReg n 0x1C) = s.reg (seatReg n 0x1C) ∧
     (s.eqFull n = false →
       t.holds a (leBytes 4 (tagOf w) ++ leBytes 2 cause ++ [1#8, 0#8] ++ leBytes 4 s.hallIndex ++ zeros 4 ++
         leBytes 8 s.now ++ zeros 8) ∧ s.storeOnly t a 32 ∧ t.reg (seatReg n 0x34) = BitVec.ofNat 32 (i + 1)) ∧
     (s.eqFull n = true → s.storeSame t ∧ bit (t.reg (seatReg n 0x64)) 3 = true))

/-- NOP starts and its work has ended: RING_CONS moves past it and its continuations, and no other seat and no byte of
the Central Store changes (R516, Table 2-9). A GROUP_LAUNCH by the owner: accepted, it waits for its instant, at which
the producer index of every member moves by COUNT and its work ends with status 0; refused, it ends with status 2; by
another seat it ends with status 3 (R64 to R67). -/
def Obligations.NopAndGroupLaunchStart : Prop :=
  (∀ (s : State) (n : SeatNo) (h : Head), s.readyHead n.val = some h → opcodeOf h.words = 0 → s.traceOff →
     ∃ t, exec (.nop n) s = .next t ∧ t.inWork n.val h .done 0 ∧ (t.seat n.val).head = none ∧
       t.reg (seatReg n.val 0x1C) = h.index + BitVec.ofNat 32 (1 + countOf h.words) ∧
       s.regsOnly t [seatReg n.val 0x1C] ∧ t.csMem = s.csMem ∧ ∀ m, m ≠ n.val → t.seat m = s.seat m) ∧
  (∀ (s : State) (n : SeatNo) (h : Head), s.readyHead n.val = some h → opcodeOf h.words = 10 →
     launchReservedOk h.words = true → launchCause h.words = none →
     let g := wF h.words 4 5 0
     let count := wF h.words 5 15 0
     let good := bit (s.reg (gqReg g 0)) 31 = true ∧ s.memberGone g = false ∧ s.gqParityBad g = false ∧
       ∀ m ∈ s.gqMembers g, (s.start n.val h 0xFF).prodOk m ((s.seat m).prodAcc + BitVec.ofNat 32 count) = true
     (s.gqOwner g = n.val → good →
       ∃ t, exec (.groupLaunch n) s = .next t ∧ t.inWork n.val h (.launch g) 0 ∧
         (∃ l, t.launches = s.launches ++ [l] ∧ l.gq = g ∧ l.count = count ∧ l.due = launchInstant s.now ∧
           l.asker = some (n.val, h.index)) ∧
         ∀ gq : GroupNo, gq.val = g → s.launches = [] → ∃ u, exec (.groupLaunchEffect gq) t = .next u ∧ u.launches = [] ∧
           u.inWork n.val h .done 0 ∧
           ∀ m ∈ s.gqMembers g, (u.seat m).prodAcc = (s.seat m).prodAcc + BitVec.ofNat 32 count) ∧
     (s.gqOwner g = n.val → ¬ good →
       ∃ t, exec (.groupLaunch n) s = .next t ∧ t.inWork n.val h .done 2 ∧ bit (t.reg (gqReg g 8)) 0 = true ∧
         t.launches = s.launches) ∧
     (s.gqOwner g ≠ n.val →
       ∃ t, exec (.groupLaunch n) s = .next t ∧ t.inWork n.val h .done 3 ∧ bit (t.reg (gqReg g 8)) 1 = true ∧
         t.launches = s.launches))

/-- A descriptor whose work has ended completes (R68, R69): it leaves the seat; ADVANCE adds 1 to its tumbler where its
status lets it; INTERRUPT or a status other than 0 writes the 16-byte record; with neither, no byte changes. A status that
faults the seat makes it FAULTED. -/
def Obligations.DescriptorCompletes : Prop :=
  ∀ (s : State) (n : SeatNo) (idx : Word) (r : Run), s.findRun n.val idx = some r → r.void = false → r.work = .done →
    opcodeOf r.words ≠ 6 → s.mustHold n.val r = false → s.traceOff →
    let op := opcodeOf r.words
    let i := s.regN (seatReg n.val 0x28)
    let a := s.regN (seatReg n.val 0x20) * 0x10000 + i % 2 ^ s.regField (seatReg n.val 0x24) 4 0 * 16
    ∃ t, exec (.descriptorComplete n idx) s = .next t ∧ t.findRun n.val idx = none ∧
      ((statusEffect op r.status).1 = true → wB r.words 0 14 = true →
        t.tumbler (wF r.words 2 28 16) = s.tumbler (wF r.words 2 28 16) + 1) ∧
      ((statusEffect op r.status).2 = false →
        (wB r.words 0 15 = true ∨ r.status ≠ 0 →
          t.holds a (leBytes 4 (tagOf r.words) ++ leBytes 1 r.status ++ leBytes 1 op ++ zeros 2 ++ leBytes 8 s.now) ∧
          s.storeOnly t a 16 ∧ t.reg (seatReg n.val 0x28) = BitVec.ofNat 32 (i + 1)) ∧
        (wB r.words 0 15 = false → r.status = 0 → s.storeSame t)) ∧
      ((statusEffect op r.status).2 = true → (s.seat n.val).state = .active → (t.seat n.val).state = .faulted)

/-! Matrix arrays (R119 to R142, R397 to R402). -/

/-- SINGLE, OPEN and OPEN_LOAD start: the seat takes a free group slot of its array and the array enters work on the
first tile, or the descriptor waits for a slot (R121, R126). CONTINUE and CLOSE start on the open group of their
handle (R121, R127), on a retired array too, where the group is lost (R400). -/
def Obligations.MatrixStarts : Prop :=
  (∀ (s : State) (n : SeatNo) (h : Head) (c : Instr) (op : Nat),
     (c = .matrixSingle n ∧ op = 0) ∨ (c = .matrixOpen n ∧ op = 1) ∨ (c = .matrixOpenLoad n ∧ op = 4) →
     isOp 1 25 23 op h.words = true →
     s.canStart n.val (s.mxChecks n.val) (s.guardOf n.val (s.mxWrites n.val h.words)) h →
     ∃ t r, exec c s = .next t ∧ r ∈ (t.seat n.val).running ∧ r.index = h.index ∧ r.words = h.words ∧ r.status = 0 ∧
       r.void = false ∧ t.reg (seatReg n.val 0x1C) = h.index + BitVec.ofNat 32 (1 + countOf h.words) ∧
       (r.work = .slotWait (mxArray h.words) 0 none ∨
         ∃ a k, r.work = tileWork h.words a k ∧ k < 4 ∧ (s.slotOf (n.val / 16) a k).seat = none ∧
           (t.slotOf (n.val / 16) a k).seat = some n.val ∧ (t.slotOf (n.val / 16) a k).entries = [] ∧
           (t.arr (n.val / 16) a).busy.isSome = true ∧ (t.arr (n.val / 16) a).gated = false)) ∧
  (∀ (s : State) (n : SeatNo) (h : Head) (c : Instr) (op : Nat),
     (c = .matrixContinue n ∧ op = 2) ∨ (c = .matrixClose n ∧ op = 3) → isOp 1 25 23 op h.words = true →
     s.canStart n.val (s.mxChecks n.val) (s.guardOf n.val (s.mxWrites n.val h.words)) h →
     ∀ k, s.openSlot n.val (mxArray h.words) (mxGroup h.words) = some k →
     ∃ t, exec c s = .next t ∧ t.inWork n.val h (tileWork h.words (mxArray h.words) k) 0 ∧
       (t.slotOf (n.val / 16) (mxArray h.words) k).entries = (s.slotOf (n.val / 16) (mxArray h.words) k).entries ∧
       ((∀ b ∈ s.pairOf (n.val / 16) (mxArray h.words), (s.arr (n.val / 16) b).retired = false) →
         (t.arr (n.val / 16) (mxArray h.words)).busy.isSome = true))

/-- The tile in the cells ends. One that is not converted (OPEN, CONTINUE, OPEN_LOAD): its products are in the group, and
the descriptor's work has ended when it was the last (R123, R138). One that is converted (SINGLE, CLOSE), on an array by
itself: one that could not be streamed ends with its status; where the checksums agree it is converted and written, with
the status of that; where they do not, nothing is written, and a CLOSE ends with status 2 while a SINGLE runs once more
(R123, R131, R145, R397). A tile that is not in the cells, of an array that is not retired, does not end (R33). -/
def Obligations.TilesEnd : Prop :=
  (∀ (s : State) (n : SeatNo) (idx : Word) (ups : List CellUpset) (held : Nat) (r : Run) (w : TileWork),
     s.findRun n.val idx = some r → r.work = .tile w → r.void = false → w.retry = none → mxConverts r.words = false →
     s.inCells n.val r = true → (s.seat n.val).state ≠ .releasing →
     (∀ b ∈ s.pairOf (n.val / 16) w.array, (s.arr (n.val / 16) b).retired = false) → w.tile + 1 = w.tiles →
     let as := s.pairOf (n.val / 16) w.array
     let u := as.foldl (fun v b => v.count (arrReg (n.val / 16) b 0x18) held) s
     let f := u.streamTile n.val r w as w.slot (w.tile / mxTileCols r.words) (w.tile % mxTileCols r.words) ups
     ∃ t, exec (.tileComplete n idx ups ⟨.clean, .clean, held⟩) s = .next t ∧ t.csMem = f.2.csMem ∧
       (t.slotOf (n.val / 16) w.array w.slot).entries = (f.2.slotOf (n.val / 16) w.array w.slot).entries ∧
       ∃ q, t.findRun n.val idx = some q ∧ q.work = .done ∧ q.status = if r.status = 0 then f.1 else r.status) ∧
  (∀ (s : State) (n : SeatNo) (idx : Word) (ups : List CellUpset) (held : Nat) (r : Run) (w : TileWork),
     s.findRun n.val idx = some r → r.work = .tile w → r.void = false → w.retry = none → mxConverts r.words = true →
     s.inCells n.val r = true → (s.arr (n.val / 16) w.array).retired = false → w.tile + 1 = w.tiles →
     s.paired (n.val / 16) = false →
     let mt := w.tile / mxTileCols r.words
     let nt := w.tile % mxTileCols r.words
     let u := s.count (arrReg (n.val / 16) w.array 0x18) held
     let f := u.streamTile n.val r w [w.array] w.slot mt nt ups
     let j := f.2.judge n.val w.slot (tagOf r.words) (mxSerialB r.words)
       [(w.array, f.2.slotOf (n.val / 16) w.array w.slot)]
     ∃ t q, exec (.tileComplete n idx ups ⟨.clean, .clean, held⟩) s = .next t ∧ t.findRun n.val idx = some q ∧
       (f.1 ≠ 0 → t.csMem = f.2.csMem ∧ q.work = .done ∧ q.status = if r.status = 0 then f.1 else r.status) ∧
       (f.1 = 0 → (f.2.slotOf (n.val / 16) w.array w.slot).lost = false →
         (∀ g, j.1 = some g →
           let e := j.2.finishTile n.val r w.array mt nt g (decide (w.listed = some mt))
           t.csMem = e.2.csMem ∧ q.work = .done ∧ q.status = if r.status = 0 then e.1 else r.status) ∧
         (j.1 = none → mxOp r.words ≠ 0 →
           t.csMem = f.2.csMem ∧ q.work = .done ∧ q.status = if r.status = 0 then 2 else r.status) ∧
         (j.1 = none → mxOp r.words = 0 →
           t.csMem = f.2.csMem ∧ ∃ x, q.work = .tile { w with retry := some x }))) ∧
  (∀ (s : State) (n : SeatNo) (idx : Word) (ups : List CellUpset) (e : TileSeen) (r : Run) (w : TileWork),
     s.findRun n.val idx = some r → r.work = .tile w → s.inCells n.val r = false →
     (∀ b ∈ s.tileArrays (n.val / 16) w, (s.arr (n.val / 16) b).retired = false) →
     exec (.tileComplete n idx ups e) s = .next s)

/-- The folds are exact (R138, R140): where every contribution is a multiple of the least significant weight and no entry
leaves the window, each entry moves by exactly its contributions, no other entry moves, and no event is logged. -/
def Obligations.AccumulationIsExact : Prop :=
  ∀ (det : Bool) (g : Slot) (items : List (Nat × Rat)),
    (items.map Prod.fst).Nodup → (∀ e ∈ items, SMap.get false g.sat e.1 = false) →
    (∀ e ∈ items, (e.2 / laUnit g.eff).den = 1) →
    (∀ e ∈ items, laMin ≤ (e.2 / laUnit g.eff).num ∧ (e.2 / laUnit g.eff).num ≤ laMax ∧
      laMin ≤ SMap.get 0 g.entries e.1 + (e.2 / laUnit g.eff).num ∧
      SMap.get 0 g.entries e.1 + (e.2 / laUnit g.eff).num ≤ laMax) →
    let q := laStep det g items
    q.2.mask = 0 ∧ q.1.span = g.span ∧ q.1.eff = g.eff ∧ q.1.invalid = g.invalid ∧
    (∀ e ∈ items, ((SMap.get 0 q.1.entries e.1 : Int) : Rat) * laUnit g.eff =
      ((SMap.get 0 g.entries e.1 : Int) : Rat) * laUnit g.eff + e.2) ∧
    ∀ k, k ∉ items.map Prod.fst → SMap.get 0 q.1.entries k = SMap.get 0 g.entries k

/-- Arrays: one whose fault count has reached the limit is retired and logged; a freed slot goes to the descriptor that
wins it, which goes on with the tile it waited for; one idle for the GATE_IDLE cycles in force at its last tile boundary
gates its clocks, not before (R126, R133, R399, R400). -/
def Obligations.ArrayEvents : Prop :=
  (∀ (s : State) (p : PartNo) (a : ArrayNo), partPresent s.variant p.val = true → s.retireLimit ≤ (s.arr p.val a.val).faults →
    (s.arr p.val a.val).retired = false →
    ∃ t, exec (.arrayRetired p a) s = .next t ∧ (t.arr p.val a.val).retired = true ∧
      bit (t.reg (ecReg 0xC)) 3 = true ∧ ∀ q b, q * 8 + b ≠ p.val * 8 + a.val → t.arr q b = s.arr q b) ∧
  (∀ (s : State) (p : PartNo) (a : ArrayNo) (n k : Nat) (r : Run),
    (∀ b ∈ s.pairOf p.val a.val, (s.arr p.val b).retired = false) →
    s.resetting p.val = false → s.slotWinner p.val a.val = some (n, r) →
    s.freeSlot p.val (s.pairOf p.val a.val) = some k → n / 16 = p.val → s.findRun n r.index = some r →
    ∃ t q x i l, exec (.groupSlotGrant p a) s = .next t ∧ t.findRun n r.index = some q ∧ r.work = .slotWait x i l ∧
      q.work = tileWorkAt r.words a.val k i l ∧ (t.slotOf p.val a.val k).seat = some n) ∧
  (∀ (s : State) (p : PartNo) (a : ArrayNo), (s.arr p.val a.val).gateIdle ≠ 0 → (s.arr p.val a.val).busy = none →
    (s.arr p.val a.val).gated = false → s.partRuns p.val = true →
    ∃ t, exec (.arrayClockGate p a) s = .next t ∧ (t.arr p.val a.val).gated = true ∧ t.regs = s.regs ∧
      (s.arr p.val a.val).idleFrom + ceilDiv ((s.arr p.val a.val).gateIdle * 1000) (s.arrayMHz p.val) ≤ t.uptime)

/-! The quantiser and the wide path (R161, R190 to R195, R206 to R226). -/

/-- QUANT starts with a copy of its record and converts its rows in order; a poisoned record ends it with status 3
(R161, R190, R195). Each plain WIDE operation, UPDATE and the three modes of WATCH start with a copy of their record and
run, row by row; a poisoned record ends them with status 3 (R206 to R216, R223 to R226). -/
def Obligations.QuantAndWideRun : Prop :=
  (∀ (s : State) (n : SeatNo) (h : Head) (c : Instr) (op : Nat),
     (c = .quantNarrow n ∧ op = 0) ∨ (c = .quantRestore n ∧ op = 1) ∨ (c = .quantStats n ∧ op = 2) →
     isOp 3 23 22 op h.words = true →
     s.canStart n.val (s.qChecks n.val) (s.guardOf n.val (s.qWrites n.val h.words)) h →
     let f := (s.start n.val h 0xFF).unitRead n.val (wAddr h.words 11) 64
     let k := f.2.qConv n.val h.words (f.2.convDefaults n.val (Marked.bytes f.1))
     let q := if op = 1 then f.2.qRestoreRows n.val h.words k (qRows h.words) 0 0
       else f.2.qNarrowRows n.val h.words k (qRows h.words) 0 0
     (Marked.poisoned f.1 = true → ∃ t, exec c s = .next t ∧ t.inWork n.val h .done 3 ∧ t.csMem = f.2.csMem) ∧
     (Marked.poisoned f.1 = false → ∃ t, exec c s = .next t ∧ t.inWork n.val h .done q.1 ∧ t.csMem = q.2.csMem)) ∧
  ((∀ (s : State) (n : SeatNo) (h : Head) (c : Instr) (mine : Bool)
      (run : State → List Word → List Byte → Nat × State),
      (c = .wideDot n ∧ mine = isOp 2 31 28 0 h.words ∧ run = fun s w _ => s.wideDotRun n.val w) ∨
      (c = .ewiseAdd n ∧ mine = isEwise 0 h.words ∧ run = fun s w r => s.wideEwiseRun n.val w r) ∨
      (c = .ewiseMul n ∧ mine = isEwise 1 h.words ∧ run = fun s w r => s.wideEwiseRun n.val w r) ∨
      (c = .ewiseAxpby n ∧ mine = isEwise 2 h.words ∧ run = fun s w r => s.wideEwiseRun n.val w r) ∨
      (c = .ewiseRelu n ∧ mine = isEwise 3 h.words ∧ run = fun s w r => s.wideEwiseRun n.val w r) ∨
      (c = .ewiseSilu n ∧ mine = isEwise 4 h.words ∧ run = fun s w r => s.wideEwiseRun n.val w r) ∨
      (c = .ewiseSiluMul n ∧ mine = isEwise 5 h.words ∧ run = fun s w r => s.wideEwiseRun n.val w r) ∨
      (c = .wideRmsnorm n ∧ mine = isOp 2 31 28 2 h.words ∧ run = fun s w r => s.wideRmsRun n.val w r) ∨
      (c = .wideSoftmax n ∧ mine = isOp 2 31 28 3 h.words ∧ run = fun s w r => s.wideSoftRun n.val w r) ∨
      (c = .wideCast n ∧ mine = isOp 2 31 28 5 h.words ∧ run = fun s w r => s.wideCastRun n.val w r) →
      mine = true →
      s.canStart n.val { reservedOk := wReservedOk, cause := s.wPlainCause n.val, nondet := fun _ => false }
        (s.guardOf n.val (wPlainWrites h.words (s.wRecord h.words))) h →
      let f := (s.start n.val h 0xFF).unitRead n.val (wAddr h.words 14) (wRecLen h.words)
      let q := run f.2 h.words (Marked.bytes f.1)
      (Marked.poisoned f.1 = true → ∃ t, exec c s = .next t ∧ t.inWork n.val h .done 3 ∧ t.csMem = f.2.csMem) ∧
      (Marked.poisoned f.1 = false → ∃ t, exec c s = .next t ∧ t.inWork n.val h .done q.1 ∧ t.csMem = q.2.csMem)) ∧
   (∀ (s : State) (n : SeatNo) (h : Head),
      (∀ m c, (c = Instr.watchEvaluate n ∧ m = 0) ∨ (c = Instr.watchApply n ∧ m = 1) ∨ (c = Instr.watchBoth n ∧ m = 2) →
        isOp 2 31 28 6 h.words = true → wFunc h.words = m →
        s.canStart n.val { reservedOk := wReservedOk, cause := s.watchCause n.val, nondet := fun _ => false }
          (s.guardOf n.val (watchWrites h.words (s.wRecord h.words))) h →
        let f := (s.start n.val h 0xFF).unitRead n.val (wAddr h.words 14) (wRecLen h.words)
        let q := f.2.watchRun n.val m (Marked.bytes f.1)
        (Marked.poisoned f.1 = true → ∃ t, exec c s = .next t ∧ t.inWork n.val h .done 3 ∧ t.csMem = f.2.csMem) ∧
        (Marked.poisoned f.1 = false → ∃ t, exec c s = .next t ∧ t.inWork n.val h .done q.1 ∧ t.csMem = q.2.csMem)) ∧
      (isOp 2 31 28 4 h.words = true →
        s.canStart n.val
          { reservedOk := fun w => wReservedOk w && uReservedOk (s.wRecord w), cause := s.uCause n.val, nondet := fun _ => false }
          (s.guardOf n.val (uWrites h.words (s.wRecord h.words))) h →
        let f := (s.start n.val h 0xFF).unitRead n.val (wAddr h.words 14) (wRecLen h.words)
        let q := f.2.updateRun n.val h.words (Marked.bytes f.1)
        (Marked.poisoned f.1 = true → ∃ t, exec (.wideUpdate n) s = .next t ∧ t.inWork n.val h .done 3 ∧ t.csMem = f.2.csMem) ∧
        (Marked.poisoned f.1 = false →
          ∃ t, exec (.wideUpdate n) s = .next t ∧ t.inWork n.val h .done q.1 ∧ t.csMem = q.2.csMem))))

/-- A plain WIDE operation, run or ended by a poisoned record, stores to its output tensor and, for a D4 output, to its
block scales, and to nothing else: every byte of the Central Store outside those areas reads as before. Of the
registers it changes RING_CONS, the CS_ error log, capture and counter, its seat's numeric log and the counter of
products of its partition; of the seats its own; HBM, the tumblers, the shared cache and every queue between blocks
stay (R207 to R214). -/
def Obligations.WideFrames : Prop :=
  ∀ (s : State) (n : SeatNo) (h : Head) (c : Instr) (mine : Bool),
    (c = .wideDot n ∧ mine = isOp 2 31 28 0 h.words) ∨ (c = .ewiseAdd n ∧ mine = isEwise 0 h.words) ∨
    (c = .ewiseMul n ∧ mine = isEwise 1 h.words) ∨ (c = .ewiseAxpby n ∧ mine = isEwise 2 h.words) ∨
    (c = .ewiseRelu n ∧ mine = isEwise 3 h.words) ∨ (c = .ewiseSilu n ∧ mine = isEwise 4 h.words) ∨
    (c = .ewiseSiluMul n ∧ mine = isEwise 5 h.words) ∨ (c = .wideRmsnorm n ∧ mine = isOp 2 31 28 2 h.words) ∨
    (c = .wideSoftmax n ∧ mine = isOp 2 31 28 3 h.words) ∨ (c = .wideCast n ∧ mine = isOp 2 31 28 5 h.words) →
    mine = true → s.traceOff →
    s.canStart n.val { reservedOk := wReservedOk, cause := s.wPlainCause n.val, nondet := fun _ => false }
      (s.guardOf n.val (wPlainWrites h.words (s.wRecord h.words))) h →
    ∃ t, exec c s = .next t ∧
      (∀ a, (∀ r ∈ wPlainWrites h.words (s.wRecord h.words), a < r.1 ∨ r.1 + r.2 ≤ a) → t.csByte a = s.csByte a) ∧
      s.regsOnly t [seatReg n.val 0x1C, csReg 0xC, csReg 0x10, csReg 0x14, wpNumLog n.val, wpReg (n.val / 16) 0x10,
        wpReg (n.val / 16) 0x14] ∧ (∀ m, m ≠ n.val → t.seat m = s.seat m) ∧
      t = { s with csMem := t.csMem, csPoison := t.csPoison, csUpset := t.csUpset, regs := t.regs, badParity := t.badParity,
                   seats := t.seats, parts := t.parts, ec := t.ec, out := t.out }

/-- An EWISE of one row (R93, R207, R209): the output row is the function of Table 7-5 of the elements read, flushed where
FLUSH_SUBN says so, each encoded in the output's format; no byte outside the row changes and the status is 0. -/
def Obligations.EwiseOfOneRow : Prop :=
  ∀ (s : State) (n : Nat) (w : List Word) (rec : List Byte), wRows w = 1 → wFunc w < 6 →
    let cols := wCols w
    let a := s.wRead n (wFmtA w) (wAddr w 8) cols
    let b := a.2.2.wRead n (wFmtB w) (wAddr w 10) cols
    let fl := flushSub (s.flush n)
    let k := fun i => if wFunc w = 2 then fl (decodeFp32 (recN rec i)) else one
    let xs := (decodeRow (wFmtA w) 0 cols (s.csBytes (wAddr w 8) (rowBytes (wFmtA w).bits cols))).map fl
    let ys := if wUsesB w then (decodeRow (wFmtB w) 0 cols (s.csBytes (wAddr w 10) (rowBytes (wFmtB w).bits cols))).map fl
      else xs
    let out := (List.zipWith (ewise (wFunc w) (fpFmtOf (wFmtOut w)) (s.flush n) (k 0) (k 1)) xs ys).flatMap fun v =>
      encFp (wFmtOut w) v.v
    let q := s.wideEwiseRun n w rec
    a.1 = false → (wUsesB w = true → b.1 = false) →
    q.1 = 0 ∧ q.2.holds (wAddr w 12) out ∧ s.storeOnly q.2 (wAddr w 12) out.length

/-- Within a byte, 4-bit element 2i lies in bits 3:0 and element 2i + 1 in bits 7:4, and 2-bit element 4i + j in bits
2j + 1:2j (R100); element `i` of a packed row of `b`-bit codes reads back as it was packed. FP32 and BF16: decoding a
pattern that is no NaN and encoding the value gives the pattern back, and a NaN is encoded as the canonical quiet NaN
(R91, R92, Table 3-1). -/
def Obligations.PatternsRoundTrip : Prop :=
  ((∀ codes : List Nat, (∀ c ∈ codes, c < 16) → ∀ i < codes.length,
      (((packCodes 4 codes).getD (i / 2) 0).toNat / 2 ^ (4 * (i % 2))) % 16 = codes.getD i 0) ∧
   (∀ codes : List Nat, (∀ c ∈ codes, c < 4) → ∀ i < codes.length,
      (((packCodes 2 codes).getD (i / 4) 0).toNat / 2 ^ (2 * (i % 4))) % 4 = codes.getD i 0) ∧
   (∀ (b : Nat) (codes : List Nat), b = 2 ∨ b = 4 ∨ b = 8 → (∀ c ∈ codes, c < 2 ^ b) →
      ∀ i < codes.length, codeAt b (packCodes b codes) i = codes.getD i 0)) ∧
  ((∀ n < 2 ^ 32, decodeFp32 n ≠ .nan → encodeFp32 (decodeFp32 n) = n) ∧
   (∀ n < 2 ^ 16, decodeBf16 n ≠ .nan → encodeBf16 (decodeBf16 n) = n) ∧
   encodeFp32 .nan = 0x7FC00000 ∧ encodeBf16 .nan = 0x7FC0)

/-- A record of an ACT row decodes to the row it was made from: scale, codes and outliers, with the blocks that hold a
nonzero code present (R103 to R106). -/
def Obligations.ActRecordsRoundTrip : Prop :=
  ∀ (codes : List Nat) (scale : Nat) (outl : List (Nat × Nat)),
    1 ≤ codes.length → codes.length ≤ 65536 → (∀ c ∈ codes, c < 16) → scale < 65536 →
    (scale % 0x8000 = 0 → ∀ c ∈ codes, c = 0) →
    outl.length ≤ ceilDiv codes.length 32 → rising (outl.map Prod.fst) = true →
    (∀ e ∈ outl, e.1 < codes.length ∧ e.2 < 65536) →
    (∃ row, actDecode (actRecord codes scale outl) codes.length = some row ∧ row.scale = scale ∧ row.codes = codes ∧
      row.outl = outl ∧ ∀ b, b ∈ row.present ↔ b < ceilDiv codes.length 32 ∧ ∃ c ∈ (codes.drop (32 * b)).take 32, c ≠ 0) ∧
    (actRecord codes scale outl).length ≤ actMax codes.length ∧ (actRecord codes scale outl).length % 16 = 0

/-! Copies, host transfers and atomics (R247 to R263). -/

/-- Each COPY operation starts on its engine and moves its data; it ends with the status of Table 8-8, or, where engine
work may still be interrupted while its check value is formed, waits with that check value (R248, R251, R258, R263).
LINEAR and FILL of one plane within the Central Store, without checksum, check value or hash (R250, R251): every row of
the destination holds the source row, or the pattern, and the status is SUCCESS. A copy that waits with its check value
completes: a value that misses EXPECTED sets CV_MISMATCH, and the ADVANCE is made all the same (R256, R263). -/
def Obligations.CopiesRun : Prop :=
  (∀ (s : State) (n : SeatNo) (h : Head) (c : Instr) (cop : Nat),
     (c = .copyLinear n ∧ cop = 0) ∨ (c = .copySkewSerial n ∧ cop = 1) ∨ (c = .copySkewParallel n ∧ cop = 2) ∨
       (c = .copyTransposeParallel n ∧ cop = 3) ∨ (c = .copyFill n ∧ cop = 4) →
     isOp 4 31 28 cop h.words = true →
     s.canStart n.val (s.copyChecks n.val) (s.guardOf n.val (copyWrites h.words)) h → s.newIndex n.val h →
     let e := s.pickEngine n.val (cEng h.words)
     let later := s.cvSplit (newRun h .done 0)
     let q := (s.start n.val h e).copyRun n.val e h.words later
     ∃ t, exec c s = .next t ∧ t.csMem = q.2.2.csMem ∧ t.hbm = q.2.2.hbm ∧
       (later = false → t.inWork n.val h .done q.1) ∧
       (later = true → ∃ again, t.inWork n.val h (.checkValue q.2.1 again) q.1)) ∧
  (∀ (s : State) (n e : Nat) (w : List Word), cPlanes w = 1 → cSrcHbm w = false → cDstHbm w = false → cCsum w = 0 →
     cCv w = 0 → cHash w = 0 → cSize w ≤ wN w 10 →
     let q := s.copyRun n e w false
     (cCop w = 0 → (∀ r < cRows w, s.clean (cSrcRow w 0 r) (cSize w) ∧
         ∀ i < cSize w, s.underReset n (cSrcRow w 0 r + i) = false) →
       (∀ r < cRows w, ∀ k < cRows w, cSrcRow w 0 r + cSize w ≤ cDstRow w 0 k ∨ cDstRow w 0 k + cSize w ≤ cSrcRow w 0 r) →
       q.1 = 0 ∧ ∀ r < cRows w, q.2.2.holds (cDstRow w 0 r) (s.csBytes (cSrcRow w 0 r) (cSize w))) ∧
     (cCop w = 4 → q.1 = 0 ∧ ∀ r < cRows w, ∀ i < cSize w,
       q.2.2.csByte (cDstRow w 0 r + i) = (leBytes 4 (wN w 7)).getD (i % 4) 0)) ∧
  (∀ (s : State) (n : SeatNo) (idx : Word) (r : Run) (v : Word), s.findRun n.val idx = some r → r.void = false →
     r.work = .checkValue v false → opcodeOf r.words = 4 → cCv r.words = 2 → r.status = 0 → s.cqFull n.val = false →
     (s.seat n.val).cqHeld = none →
     ∃ t, exec (.descriptorComplete n idx) s = .next t ∧ t.findRun n.val idx = none ∧
       (v = r.words.getD 15 0 → t.reg (ceSeatReg n.val 0xC) = s.reg (ceSeatReg n.val 0xC)) ∧
       (v ≠ r.words.getD 15 0 → bit (t.reg (ceSeatReg n.val 0xC)) 0 = true ∧
         t.reg (seatReg n.val 0x28) = s.reg (seatReg n.val 0x28) + 1) ∧
       (wB r.words 0 14 = true → t.tumbler (wF r.words 2 28 16) = s.tumbler (wF r.words 2 28 16) + 1))

/-- The eleven ATOMIC operations (R247): on a line the shared cache holds, unpoisoned, RESULT takes the old value and
the word the new one; on a miss the operation waits for the line's fill. The fill of a line ends (R29, R242): it is no
longer pending, and the cache holds the line unless its memory may not be filled. -/
def Obligations.AtomicsAct : Prop :=
  (∀ (s : State) (n : SeatNo) (h : Head) (c : Instr) (aop : Nat),
     (c = .atomicAdd n ∧ aop = 0) ∨ (c = .atomicAnd n ∧ aop = 1) ∨ (c = .atomicOr n ∧ aop = 2) ∨ (c = .atomicXor n ∧ aop = 3) ∨
       (c = .atomicSmin n ∧ aop = 4) ∨ (c = .atomicSmax n ∧ aop = 5) ∨ (c = .atomicUmin n ∧ aop = 6) ∨
       (c = .atomicUmax n ∧ aop = 7) ∨ (c = .atomicSwap n ∧ aop = 8) ∨ (c = .atomicCas n ∧ aop = 9) ∨
       (c = .atomicLoad n ∧ aop = 10) →
     isOp 4 31 28 5 h.words = true → wF h.words 5 3 0 = aop →
     s.canStart n.val (s.copyChecks n.val) (s.guardRegion n.val (wAddr h.words 13) 8) h → s.traceOff →
     let o := State.atomicStart.atomicOp h.words
     let len := if o.wide then 8 else 4
     s.wordHeld n.val o.part o.addr = false → s.lineGone n.val o = false →
     (∀ l, s.lineOf o.part (o.addr / 128) = some l → l.poisonAt o.addr = false → l.bytes.length = 128 → o.addr % len = 0 →
       let old := leNat (l.get o.addr len)
       ∃ t m, exec c s = .next t ∧ t.inWork n.val h .done 0 ∧ t.holds o.result (leBytes 8 old) ∧ s.storeOnly t o.result 8 ∧
         t.lineOf o.part (o.addr / 128) = some m ∧ leNat (m.get o.addr len) = aopNew (8 * len) aop old o.operand o.compare) ∧
     (s.lineOf o.part (o.addr / 128) = none →
       ∃ t, exec c s = .next t ∧ t.inWork n.val h (.lineWait o) 0 ∧ (o.part, o.addr / 128) ∈ t.fills ∧ s.storeSame t)) ∧
  (∀ (s : State) (p : PartNo) (ln : Nat), s.fills.contains (p.val, ln) = true →
     ∃ t, exec (.lineFillComplete p ln) s = .next t ∧ t.fills.contains (p.val, ln) = false ∧
       (s.mayFill p.val ln = true → (t.lineOf p.val ln).isSome = true))

/-- HOST_XFER starts (R261, R440): towards the device it waits for its reads, towards the host it has issued its
writes; a locked TDI's completes with HOST_ERROR. A host-port read ends (R261): with the last data of a transfer, its
bytes are stored and its work has ended with SUCCESS; a failed or timed-out one ends it with HOST_ERROR. -/
def Obligations.HostTransfers : Prop :=
  (∀ (s : State) (n : SeatNo) (h : Head), opcodeOf h.words = 9 → s.newIndex n.val h →
     (wB h.words 4 31 = false → s.canStart n.val (s.hxChecks n.val) (s.guardRegion n.val (hxCs h.words) (hxLen h.words)) h →
       (s.hostDenied n.val = true → ∃ t, exec (.hostXferToCs n) s = .next t ∧ t.inWork n.val h .done 6) ∧
       (s.hostDenied n.val = false → ∃ t tag, exec (.hostXferToCs n) s = .next t ∧
         t.inWork n.val h (.hostRead (hxHost h.words) (hxCs h.words) (hxLen h.words) tag) 0)) ∧
     (wB h.words 4 31 = true → s.canStart n.val (s.hxChecks n.val) [] h →
       (s.hostDenied n.val = true → ∃ t, exec (.hostXferToHost n) s = .next t ∧ t.inWork n.val h .done 6) ∧
       (s.hostDenied n.val = false →
         let f := (s.start n.val h (s.pickEngine n.val (cEng h.words))).unitRead n.val (hxCs h.words) (hxLen h.words)
         ∃ t out, exec (.hostXferToHost n) s = .next t ∧
           t.inWork n.val h .done (if Marked.poisoned f.1 = true then 3 else 0) ∧ t.out = out ++ f.2.out ∧
           out.length = ceilDiv (hxLen h.words) 64))) ∧
  (∀ (s : State) (tag : Nat) (h : HostRead) (r : Run) (host cs left : Nat) (x : Option Nat),
     (s.hostReads.find? fun q => decide (q.tag = tag)) = some h → h.fence = false → s.findRun h.seat h.index = some r →
     r.work = .hostRead host cs left x → s.recording = false →
     (∀ data, left ≤ h.len → ∃ t q, exec (.hostReadCompletion tag .success data) s = .next t ∧
       t.findRun h.seat h.index = some q ∧ q.work = .done ∧ q.status = 0 ∧ t.holds h.cs (padTo h.len data) ∧
       s.storeOnly t h.cs h.len) ∧
     (∃ t q, exec (.hostReadCompletion tag .unsupportedRequest []) s = .next t ∧ t.findRun h.seat h.index = some q ∧
       q.work = .done ∧ q.status = 6 ∧ s.storeSame t) ∧
     ∃ t q, exec (.hostCompletionTimeout tag) s = .next t ∧ t.findRun h.seat h.index = some q ∧ q.work = .done ∧
       q.status = 6 ∧ s.storeSame t)

/-! Fences, tumblers and hasps (R270 to R284). -/

/-- A FENCE of each KIND starts and waits; and it does not complete before everything it covers has ended (R270, R271).
It completes when that has ended, with the status of Table 9-4: SUCCESS performs ADVANCE, and a status other than 0 or
INTERRUPT writes a record (R268, R273). One of a seat with no other work, all of whose fabric writes are settled,
completes with SUCCESS; a HOST fence does so when its read has come back (R271). -/
def Obligations.FencesWait : Prop :=
  (∀ (s : State) (n : SeatNo) (h : Head) (c : Instr) (kind : Nat),
    (c = .fenceLocal n ∧ kind = 0) ∨ (c = .fenceChip n ∧ kind = 1) ∨ (c = .fenceFabric n ∧ kind = 2) ∨
      (c = .fenceHost n ∧ kind = 3) →
    isOp 6 31 30 kind h.words = true → s.canStart n.val fenceChecks [] h → s.newIndex n.val h →
    ∃ t tag, exec c s = .next t ∧ t.inWork n.val h (.fence kind (fAll h.words) (fDest h.words) tag) 0 ∧
      (kind ≠ 3 → tag = none)) ∧
  (∀ (s : State) (n : SeatNo) (idx : Word) (r : Run) (kind dest : Nat) (all : Bool) (tag : Option Nat),
    s.findRun n.val idx = some r → r.work = .fence kind all dest tag →
    (∃ q ∈ s.runsBefore n.val idx, q.covered kind = true) → exec (.descriptorComplete n idx) s = .next s) ∧
  (∀ (s : State) (n : SeatNo) (idx : Word) (r : Run), s.findRun n.val idx = some r → r.void = false →
    opcodeOf r.words = 6 →
    (r.work = .done ∨ ∃ kind all dest tag, r.work = .fence kind all dest tag ∧ kind ≤ 2 ∧
      s.clearBefore n.val r.index kind = true ∧ (kind = 2 → s.fabricClear n.val r.index all dest = true)) →
    let st := s.fenceStatus n.val r
    let i := s.regN (seatReg n.val 0x28)
    let a := s.regN (seatReg n.val 0x20) * 0x10000 + i % 2 ^ s.regField (seatReg n.val 0x24) 4 0 * 16
    s.mustHold n.val { r with status := st } = false → s.traceOff →
    ∃ t, exec (.descriptorComplete n idx) s = .next t ∧ t.findRun n.val idx = none ∧
      (st = 0 → wB r.words 0 14 = true → t.tumbler (wF r.words 2 28 16) = s.tumbler (wF r.words 2 28 16) + 1) ∧
      (st ≠ 0 → t.tumbler (wF r.words 2 28 16) = s.tumbler (wF r.words 2 28 16)) ∧
      (st = 2 → bit (t.reg (seatReg n.val 0x68)) 1 = true) ∧
      (wB r.words 0 15 = true ∨ st ≠ 0 →
        t.holds a (leBytes 4 (tagOf r.words) ++ leBytes 1 st ++ leBytes 1 6 ++ zeros 2 ++ leBytes 8 s.now) ∧
        s.storeOnly t a 16) ∧
      (wB r.words 0 15 = false → st = 0 → s.storeSame t)) ∧
  (∀ (s : State) (n : SeatNo) (h : Head) (c : Instr) (kind : Nat),
    (c = .fenceLocal n ∧ kind = 0) ∨ (c = .fenceChip n ∧ kind = 1) ∨ (c = .fenceFabric n ∧ kind = 2) ∨
      (c = .fenceHost n ∧ kind = 3) →
    isOp 6 31 30 kind h.words = true → s.canStart n.val fenceChecks [] h → (s.seat n.val).running = [] →
    (s.seat n.val).fenceBad = [] → (∀ w ∈ s.posted, w.seat ≠ n.val) → s.cqFull n.val = false →
    let ended := fun (u : State) => (u.seat n.val).running = [] ∧
      u.reg (seatReg n.val 0x1C) = h.index + BitVec.ofNat 32 (1 + countOf h.words) ∧
      (wB h.words 0 14 = true → u.tumbler (wF h.words 2 28 16) = s.tumbler (wF h.words 2 28 16) + 1) ∧
      (wB h.words 0 15 = true → u.reg (seatReg n.val 0x28) = s.reg (seatReg n.val 0x28) + 1)
    (kind ≠ 3 → ∃ t u, exec c s = .next t ∧ exec (.descriptorComplete n h.index) t = .next u ∧ ended u) ∧
    (kind = 3 → (∀ m, m ≠ n.val → (s.seat m).running = []) → s.freeTag.isSome = true →
      ∃ t tag, exec c s = .next t ∧ ∀ data, ∃ u v, exec (.hostReadCompletion tag .success data) t = .next u ∧
        exec (.descriptorComplete n h.index) u = .next v ∧ ended v))

/-- TUMBLER SET, ADD and READ, without RELEASE or with no other work of the seat (R276, R279, R280): the tumbler takes its
new value, RESULT the old one, and the work ends with SUCCESS; REMOTE_ADD waits, or has been handed to the router as a
posted write. With no other work of the seat, no unsettled write of a collective of it to the target, and room in the
queue of the UP port it is routed to, its cell is in that queue and its work has ended with SUCCESS (R279, R336, R368). -/
def Obligations.TumblersAct : Prop :=
  ∀ (s : State) (n : SeatNo) (h : Head) (c : Instr) (top : Nat),
    (c = .tumblerSet n ∧ top = 0) ∨ (c = .tumblerAdd n ∧ top = 1) ∨ (c = .tumblerRemoteAdd n ∧ top = 2) ∨
      (c = .tumblerRead n ∧ top = 3) →
    isOp 7 31 28 top h.words = true →
    s.canStart n.val (s.tumblerChecks n.val)
      (if tResult h.words = 0 then [] else s.guardRegion n.val (tResult h.words) 4) h →
    let x := tNum h.words
    let old := s.tumbler x
    (top ≠ 2 → tRelease h.words = false ∨ (s.seat n.val).running = [] →
      (∀ m, s.tumbOwner x = some m → s.resetting (m / 16) = false) →
      ∃ t, exec c s = .next t ∧ t.inWork n.val h .done 0 ∧
        t.tumbler x = (if top = 0 then h.words.getD 6 0 else if top = 1 then old + h.words.getD 6 0 else old) ∧
        (tResult h.words ≠ 0 → t.holds (tResult h.words) (leBytes 4 old.toNat)) ∧
        ∀ y < 8192, y ≠ x → x < 8192 → t.tumbler y = s.tumbler y) ∧
    (top = 2 → ∃ t, exec c s = .next t ∧
      (t.inWork n.val h .release 0 ∨
        t.inWork n.val h .done 0 ∧ ∃ p ∈ t.posted, p.seat = n.val ∧ p.index = h.index ∧ p.dest = tDest h.words)) ∧
    (top = 2 → (s.seat n.val).running = [] → (∀ w ∈ s.posted, w.seat = n.val → w.dest = tDest h.words → w.coll = false) →
      ∀ p, s.route (tDest h.words) = some p → s.portUp p = true → 0 < s.openRoom p →
      ∃ t w, exec c s = .next t ∧ t.inWork n.val h .done 0 ∧ w ∈ t.posted ∧ w.seat = n.val ∧ w.index = h.index ∧
        w.dest = tDest h.words ∧ ∃ q ∈ (t.port p).openQ, q.post = some w.id ∧
          q.body = openCell 1 (s.job n.val) (tagOf h.words) (tDest h.words) s.hallIndex 0 x (wN h.words 6)
            (b2n (tRelease h.words) + 2) [])

/-- A hasp keeps one holder (R282 to R284, Table 9-10): on a word held by another seat, ACQUIRE waits, TRY ends with
status 3, RELEASE and REPAIR with 4, and none changes it; INSPECT changes none; a word that is not held goes to the
seat that asks, in its generation and epoch, with status 2 when it was BROKEN; a release frees it and adds 1 to
VERSION. The five HASP operations on a word of a line the cache holds, with no earlier descriptor of the seat in work:
the word takes what Table 9-10 gives, RESULT the old word, and the work ends with the table's status, or waits. A
retry gives a free hasp to the one acquire that waits for it (R284). -/
def Obligations.HaspsHaveOneHolder : Prop :=
  (∀ (s : State) (n : Nat) (w : BitVec 64), n < 512 → s.cgen n < 256 →
     s.haspAct n 4 w = (w, some 0) ∧
     (haspHeld w = true → s.haspMine n w = false →
       s.haspAct n 0 w = (w, none) ∧ s.haspAct n 1 w = (w, some 3) ∧ s.haspAct n 2 w = (w, some 4) ∧
       s.haspAct n 3 w = (w, some 4)) ∧
     (haspHeld w = false → ∀ hop, hop = 0 ∨ hop = 1 →
       let a := s.haspAct n hop w
       s.haspMine n a.1 = true ∧ a.2 = some (if haspBroken w then 2 else 0) ∧ haspField a.1 63 40 = haspField w 63 40) ∧
     (s.haspMine n w = true →
       let a := s.haspAct n 2 w
       a.2 = some 0 ∧ haspHeld a.1 = false ∧ haspField a.1 63 40 = (haspField w 63 40 + 1) % 2 ^ 24) ∧
     (s.haspStale w = true → haspHeld (s.haspSeen w) = false ∧ haspBroken (s.haspSeen w) = true)) ∧
  ((∀ (s : State) (n : SeatNo) (h : Head) (c : Instr) (hop : Nat) (l : CacheLine),
      (c = .haspAcquire n ∧ hop = 0) ∨ (c = .haspTry n ∧ hop = 1) ∨ (c = .haspRelease n ∧ hop = 2) ∨
        (c = .haspRepair n ∧ hop = 3) ∨ (c = .haspInspect n ∧ hop = 4) →
      isOp 8 31 28 hop h.words = true → (s.seat n.val).running = [] → s.traceOff →
      s.canStart n.val (s.haspChecks n.val)
        (if hResult h.words = 0 then [] else s.guardRegion n.val (hResult h.words) 8) h →
      let o := haspOp h.words
      s.lineGone n.val o = false → s.lineOf o.part (o.addr / 128) = some l → l.poisonAt o.addr = false →
      l.bytes.length = 128 → o.addr % 8 = 0 →
      let w := BitVec.ofNat 64 (leNat (l.get o.addr 8))
      let a := s.haspAct n.val hop (s.haspSeen w)
      haspField w 31 27 = 0 →
      ∃ t m, exec c s = .next t ∧ t.lineOf o.part (o.addr / 128) = some m ∧ leNat (m.get o.addr 8) = a.1.toNat ∧
        (match a.2 with
         | none => t.inWork n.val h (.haspWait o false) 0 ∧ s.storeSame t
         | some st => t.inWork n.val h .done st ∧
            (o.result ≠ 0 → t.holds o.result (leBytes 8 w.toNat) ∧ s.storeOnly t o.result 8) ∧
            (o.result = 0 → s.storeSame t))) ∧
   (∀ (s : State) (p : PartNo) (addr n : Nat) (idx : Word) (o : LineOp) (l : CacheLine), s.haspRetryDue p.val addr = true →
      s.haspWaiters p.val addr = [(n, idx, o)] → s.lineGone n o = false →
      s.lineOf p.val (addr / 128) = some l → l.poisonAt (addr / 8 * 8) = false →
      let w := BitVec.ofNat 64 (leNat (l.get (addr / 8 * 8) 8))
      haspField w 31 27 = 0 → haspHeld (s.haspSeen w) = false →
      ∃ t q, exec (.haspRetry p addr) s = .next t ∧ t.findRun n idx = some q ∧ q.work = .done ∧
        q.status = if haspBroken (s.haspSeen w) then 2 else 0))

/-! Collectives (R350, R354, R356). -/

/-- The four scheduled collectives start: with a turn for both their flows on every port they bind them from round
START to LAST; else they end with UNSCHEDULED (R350, R356). At the boundary after round LAST one that is in work ends: with
INCOMPLETE and its log bit where a cell or a side value is missing, else with POISONED_OPERAND or SUCCESS (R350, R352,
R356). PUT starts as a posted write whose cells go to the router as it has room; with room for all of them its work has
ended (R336, R354). -/
def Obligations.CollectivesStart : Prop :=
  (∀ (s : State) (n : SeatNo) (h : Head) (c : Instr) (kind : Nat),
     (c = .collectiveAllreduce n ∧ kind = 0) ∨ (c = .collectiveReduceScatter n ∧ kind = 1) ∨
       (c = .collectiveAllgather n ∧ kind = 2) ∨ (c = .collectiveBroadcast n ∧ kind = 3) →
     isOp 5 31 28 kind h.words = true →
     s.canStart n.val (s.collChecks n.val) (s.guardOf n.val (s.collWrites h.words)) h →
     let ok := (kPorts h.words).all fun p => s.hasTurn p (kFlow h.words) && s.hasTurn p (kGather h.words)
     (ok = true → ∃ t k, exec c s = .next t ∧ t.inWork n.val h (.coll k) 0 ∧ k.start = s.curRound + s.kAhead h.words ∧
       k.last = k.start + kSpan h.words ∧ k.begun = false ∧ k.placed = [] ∧
       k.sends = sendPlan h.words (s.kE h.words) (s.kX h.words) ∧
       k.recvs = recvPlan h.words (s.kE h.words) (s.kX h.words)) ∧
     (ok = false → ∃ t, exec c s = .next t ∧ t.inWork n.val h .done 4)) ∧
  (∀ (s : State) (n : Nat) (r : Run) (c : CollWork), s.collRuns = [(n, r, c)] → s.coreOn = true → s.tb.counting = true →
     s.tb.armed = none → s.ec.forfeits = [] → c.last < max (s.tb.round + 1) s.curRound →
     let missing := c.lost = true ∨ (∃ k ∈ c.recvs, k.moved < k.cells) ∨ c.sides.length < c.sideExpect
     ∃ t q, exec .roundBoundary s = .next t ∧ t.findRun n r.index = some q ∧ q.work = .done ∧
       (missing → q.status = 2 ∧ bit (t.reg (seatReg n 0x70)) 0 = true) ∧
       (¬ missing → q.status = if c.poison = true then 3 else 0)) ∧
  (∀ (s : State) (n : SeatNo) (h : Head), isOp 5 31 28 4 h.words = true → s.canStart n.val (s.collChecks n.val) [] h →
     ∃ t, exec (.collectivePut n) s = .next t ∧
       (∃ r ∈ (t.seat n.val).running, r.index = h.index ∧ r.words = h.words ∧ (r.work = .done ∨ ∃ left, r.work = .put left) ∧
         ((∀ p, s.route (kDest h.words) = some p → s.portUp p = true → ceilDiv (kElems h.words) 608 ≤ s.openRoom p) →
           r.work = .done)) ∧
       ∃ p ∈ t.posted, p.seat = n.val ∧ p.index = h.index ∧ p.dest = kDest h.words)


/-! Registers that a row of their own writes, and the Central Store's own work (R23, R241, R243). -/

/-- Writes to the registers that have a row of their own: ENABLE = 0 takes a port DOWN without LINK_LOST (R342); a
reserved ROLE changes nothing and SOURCE_FREE locks a device whose time runs (R322); DETERMINISTIC and the size of the
shared cache change only while every seat is FREE (R376, R243), and a partition's PAIR_MASK bit only while its seats
are FREE (R402); the trace starts only with its ring in the host window of an ACTIVE seat (R482); PERIOD 0 stops a
scrub (R241, R295). A host write to a tumbler: that of an ACTIVE seat takes the value, and no other register changes;
one in no such seat's range changes nothing; one of a locked TDI is denied (R277, R440). -/
def Obligations.SpecialRegisterWrites : Prop :=
  (∀ (s : State) (v : Word) (tlp : Tlp), s.barLive = true →
     (∀ port : PortNo, portPresent s.variant port.val = true → bit v 0 = false →
       ∃ t, exec (.fbCtrlWrite port (wordWrite (fbReg port.val 0) v tlp)) s = .next t ∧ (t.port port.val).state = .down ∧
         (t.port port.val).retryDue = none ∧ t.reg (fbReg port.val 0) = s.maskedTo (fbReg port.val 0) v ∧
         t.reg (fbReg port.val 8) = s.reg (fbReg port.val 8)) ∧
     (field v 1 0 = 3 → exec (.tbCtrlWrite (wordWrite (tbReg 0) v tlp)) s = .next s) ∧
     (field v 1 0 ≠ 3 → ∃ t, exec (.tbCtrlWrite (wordWrite (tbReg 0) v tlp)) s = .next t ∧
       t.reg (tbReg 0) = s.maskedTo (tbReg 0) v ∧ s.regsOnly t [tbReg 0, tbReg 8] ∧
       (field v 1 0 = 2 → s.tb.counting = true → t.tb.locked = true ∧ t.tb.timeValid = true)) ∧
     (bit v 0 ≠ s.deterministic → s.deviceFree = false →
       exec (.detCtrlWrite (wordWrite (ecReg 0x800) v tlp)) s = .next (s.raise (ecReg 0x804) 1)) ∧
     (bit v 0 ≠ s.deterministic → s.deviceFree = true →
       ∃ t, exec (.detCtrlWrite (wordWrite (ecReg 0x800) v tlp)) s = .next t ∧ t.deterministic = bit v 0 ∧
         t.obj 0x2800 1 0 = (if bit v 0 then 1 else 0) ∧ s.regsOnly t [ecReg 0x800]) ∧
     (∃ t, exec (.pairMaskWrite (wordWrite (ecReg 0x20) v tlp)) s = .next t ∧ t.seats = s.seats ∧
       ∀ p : PartNo, partPresent s.variant p.val = true →
         bit (t.reg (ecReg 0x20)) p.val = (if s.allFree p.val then bit v p.val else bit (s.reg (ecReg 0x20)) p.val) ∧
         (s.allFree p.val = false → bit v p.val ≠ bit (s.reg (ecReg 0x20)) p.val → bit (t.reg (ecReg 4)) 3 = true)) ∧
     (∃ t, exec (.csScrubCfgWrite (wordWrite (csReg 4) v tlp)) s = .next t ∧ t.csScrub = decide (field v 7 0 ≠ 0) ∧
       t.reg (csReg 4) = s.maskedTo (csReg 4) v ∧ s.regsOnly t [csReg 4] ∧ t.csMem = s.csMem) ∧
     (∀ k : StackNo, ∃ t, exec (.hbScrubCfgWrite k (wordWrite (hbReg k.val 4) v tlp)) s = .next t ∧
       (t.stack k.val).scrub.isSome = decide (field v 7 0 ≠ 0) ∧ t.reg (hbReg k.val 4) = s.maskedTo (hbReg k.val 4) v ∧
       (field v 7 0 = 0 → bit (t.reg (hbReg k.val 8)) 6 = false) ∧ s.regsOnly t [hbReg k.val 4, hbReg k.val 8]) ∧
     (∃ t, exec (.traceCtrlWrite (wordWrite (mgReg 0x110) v tlp)) s = .next t ∧ s.regsOnly t [mgReg 0x110] ∧
       (bit v 0 = false → t.reg (mgReg 0x110) = s.maskedTo (mgReg 0x110) v) ∧
       (bit v 0 = true → ¬ s.traceOff → t.reg (mgReg 0x110) = s.reg (mgReg 0x110)) ∧
       (bit v 0 = true → s.traceOff →
         (bit (t.reg (mgReg 0x110)) 0 = true ↔ (s.seat (field v 24 16)).state = .active ∧
           inWin (s.hostWin (field v 24 16)) (s.regField (mgReg 0x114) 17 0 * unit64K)
             (2 ^ s.regField (mgReg 0x114) 28 24 * 32) = true))) ∧
     (let size := field v 4 0
      let c := Instr.scResize (wordWrite (csReg 0) v tlp)
      (size = s.scSize → exec c s = .next s) ∧
      (size ≠ s.scSize → (16 < size ∨ s.deviceFree = false) → exec c s = .next (s.raise (csReg 0xC) 8)) ∧
      (size ≠ s.scSize → size ≤ 16 → s.deviceFree = true →
        ∃ t, exec c s = .next t ∧ t.scSize = size ∧ t.resize = some s.uptime ∧ t.cache = [] ∧
          (∀ x, csSize - size * 0x4000000 ≤ x → x < csSize → t.csByte x = 0) ∧
          ∀ x, x < csSize - size * 0x4000000 → t.csByte x = s.csByte x))) ∧
  (∀ (s : State) (v : Word) (tlp : Tlp) (x : Nat), s.barLive = true → x < 8192 → s.rec_.replay = false →
     let c := Instr.tumblerHostWrite (wordWrite (tumblerReg x) v tlp)
     let owner := s.seatList.find? fun n => s.seatIs n .active && s.ownsTumbler n x
     (owner = none → exec c s = .next s) ∧
     (∀ n, owner = some n → s.tdiAllows n tlp = false → exec c s = .next s.denied) ∧
     (∀ n, owner = some n → s.tdiAllows n tlp = true → s.recording = false →
       ∃ t, exec c s = .next t ∧ t.tumbler x = v ∧ s.regsOnly t [tumblerReg x] ∧ t.csMem = s.csMem))

/-- The end of a resize of the shared cache lets a held CREATE run (R243); the patrol scrub corrects and counts a single-bit
error, makes a sector with an uncorrectable one poisoned and captures the first, and changes no byte (R239, R241). -/
def Obligations.StoreUpkeep : Prop :=
  (∀ s : State, s.coreOn = true → s.resize.isSome = true →
    (s.heldCreates = [] → exec .scResizeComplete s = .next { s with resize := none }) ∧
    (∀ n, s.heldCreates = [n] →
      ∃ t, exec .scResizeComplete s = .next t ∧ t = ({ s with resize := none, heldCreates := [] }).runCreate n)) ∧
  (∀ (s : State) (sector : Nat) (seen : EccSeen), s.coreOn = true → s.csScrub = true → s.csPoisoned sector = false →
    sector < 2 ^ 28 →
    ∃ t, exec (.csPatrolScrub sector seen) s = .next t ∧ t.csMem = s.csMem ∧
      s.regsOnly t [csReg 0xC, csReg 0x10, csReg 0x14] ∧
      (seen = .clean → t.regs = s.regs ∧ t.csPoisoned sector = false) ∧
      (seen = .single → bit (t.reg (csReg 0xC)) 0 = true ∧ t.csPoisoned sector = false ∧
        t.regN (csReg 0x14) = min (s.regN (csReg 0x14) + 1) (2 ^ 32 - 1)) ∧
      (seen = .uncorrectable → bit (t.reg (csReg 0xC)) 1 = true ∧ t.csPoisoned sector = true ∧
        (bit (s.reg (csReg 0x10)) 31 = false → t.regN (csReg 0x10) = 2 ^ 31 + sector)))

/-! What arrives on the fabric (R275, R279, R334, R341, R352, R363 to R369, R406, R413, R443). -/

/-- OPEN cells at their target: a PUT cell stores its bytes and no others, a REMOTE_ADD adds to its tumbler and to no other;
either is refused for the first cause that holds, and then changes no byte and no tumbler; the refusal is noted, but for a
RELEASE REMOTE_ADD, which is itself the release point of what follows (R275, R279, R368). -/
def Obligations.OpenCellsArrive : Prop :=
  ∀ (s : State) (loc : CellAt) (body : List Byte) (r : RxTurn), s.turnTakes loc 2#4 r →
    numAt body 8 2 = s.hallIndex →
    (numAt body 0 1 = 0 → s.putRefused body = false →
      let len := min 608 (numAt body 14 2)
      (s.putCause body len = none → ∃ t, exec (.putCellReceived loc body) s = .next t ∧
        t.holds (numAt body 16 8) (slice body 32 len) ∧ s.storeOnly t (numAt body 16 8) (slice body 32 len).length ∧
        t.refusals = s.refusals ∧ t.seats = s.seats) ∧
      (∀ cause, s.putCause body len = some cause → ∃ t f, exec (.putCellReceived loc body) s = .next t ∧
        t.csMem = s.csMem ∧ t.refusals = s.refusals ++ [f] ∧ f.source = numAt body 10 2 ∧ f.job = numAt body 2 2 ∧
        f.tag = numAt body 4 4 ∧ t.regs = s.regs)) ∧
    (numAt body 0 1 = 1 →
      let x := numAt body 16 8
      (s.addCause body = none → x < 8192 → ∃ t, exec (.remoteAddCellReceived loc body) s = .next t ∧
        t.tumbler x = s.tumbler x + BitVec.ofNat 32 (numAt body 24 4) ∧ s.regsOnly t [tumblerReg x] ∧ t.csMem = s.csMem) ∧
      (∀ cause, s.addCause body = some cause → ∃ t, exec (.remoteAddCellReceived loc body) s = .next t ∧
        t.regs = s.regs ∧ t.csMem = s.csMem ∧ (numAt body 28 1 % 2 = 1 → t.refusals = s.refusals) ∧
        (numAt body 28 1 % 2 = 0 → ∃ f, t.refusals = s.refusals ++ [f] ∧ f.source = numAt body 10 2 ∧ f.job = numAt body 2 2)))

/-- CTRL cells that settle posted writes: an ACK settles the write it names and changes no register; a REFUSAL, and an
answer that does not come in time, settle it as failed: error, REMOTE_WRITE_FAILED, and REMOTE_FAILED for a fence that covers
it; with the seat FREE by then or its partition under reset it is settled and nothing else is changed (R275, R408). -/
def Obligations.PostedWritesSettle : Prop :=
  (∀ (s : State) (loc : CellAt) (body : List Byte) (r : RxTurn), s.turnTakes loc 4#4 r →
    numAt body 8 2 = s.hallIndex →
    (numAt body 0 1 = 1 →
      (s.postedOf body = none → ∃ t, exec (.ackReceived loc body) s = .next t ∧ t.posted = s.posted ∧ t.regs = s.regs) ∧
      (∀ w, s.postedOf body = some w → ∃ t, exec (.ackReceived loc body) s = .next t ∧
        t.posted = s.posted.filter (fun q => decide (q.id ≠ w.id)) ∧ t.regs = s.regs ∧ t.seats = s.seats)) ∧
    (numAt body 0 1 = 2 → ∀ w, s.postedOf body = some w →
      ∃ t, exec (.refusalReceived loc body) s = .next t ∧ t.posted = s.posted.filter (fun q => decide (q.id ≠ w.id)) ∧
        ((s.seat w.seat).state ≠ .free → s.resetting (w.seat / 16) = false →
          bit (t.reg (seatReg w.seat 0x68)) 0 = true ∧ (1, w.dest) ∈ (t.seat w.seat).fenceBad) ∧
        ((s.seat w.seat).state = .free ∨ s.resetting (w.seat / 16) = true → t.regs = s.regs ∧ t.csMem = s.csMem))) ∧
  (∀ (s : State) (id : Nat) (w : Posted), (s.posted.find? fun q => decide (q.id = id ∧ q.due ≠ 0)) = some w →
    ∃ t, exec (.noAck id) s = .next t ∧ t.posted = s.posted.filter (fun q => decide (q.id ≠ id)) ∧ s.uptime ≤ t.uptime ∧
      ((s.seat w.seat).state ≠ .free → s.resetting (w.seat / 16) = false →
        bit (t.reg (seatReg w.seat 0x68)) 0 = true ∧ (1, w.dest) ∈ (t.seat w.seat).fenceBad) ∧
      ((s.seat w.seat).state = .free ∨ s.resetting (w.seat / 16) = true → t.regs = s.regs ∧ t.csMem = s.csMem))

/-- SCHED, SIDE and FORFEIT cells: a result cell that the bound collective awaits is placed once, and one that is not
awaited, that comes before round START, or that finds no ACTIVE seat bound changes no seat and no byte (R274, R350, R352);
a side value of its job joins its descriptor (R353, R364); a forfeit is recorded once, to take effect in its round or,
late, in the next (R413, R415). -/
def Obligations.FlowCellsArrive : Prop :=
  (∀ (s : State) (loc : CellAt) (body : List Byte) (r : RxTurn), s.turnTakes loc 1#4 r →
    let p := loc.port.val
    let flow := r.mark.flow.toNat
    let part := numAt body 632 2
    let seq := numAt body 624 4
    (s.binding p flow = none →
      ∃ t, exec (.schedCellReceived loc body) s = .next t ∧ t.seats = s.seats ∧ t.csMem = s.csMem) ∧
    (∀ n q c, s.binding p flow = some (n, q) → s.collOf n q.index = some c →
      let want := c.begun && c.recvs.any fun k => decide (k.port = p ∧ k.flow = flow ∧ k.part = part ∧ seq < k.cells)
      (((s.seat n).state ≠ .active ∨ want = false ∨ (p, flow, part, seq) ∈ c.got) →
        ∃ t, exec (.schedCellReceived loc body) s = .next t ∧ t.seats = s.seats ∧ t.csMem = s.csMem) ∧
      ((s.seat n).state = .active → want = true → (p, flow, part, seq) ∉ c.got →
        kReduces q.words = false ∨ flow ≠ kFlow q.words →
        ∃ t k, exec (.schedCellReceived loc body) s = .next t ∧ t.collOf n q.index = some k ∧
          k.got = c.got ++ [(p, flow, part, seq)]))) ∧
  (∀ (s : State) (loc : CellAt) (body : List Byte) (r : RxTurn), s.turnTakes loc 4#4 r → numAt body 0 1 = 4 →
    ∀ n q c, s.binding loc.port.val (numAt body 44 2) = some (n, q) → s.collOf n q.index = some c →
      kSide q.words ≠ 0 → kGather q.words = numAt body 44 2 → i16 (numAt body 42 2) = kNorm q.words →
      numAt body 2 2 = s.job n → c.begun = true → c.sides.length < c.sideExpect →
      ∃ t k, exec (.sideCellReceived loc body) s = .next t ∧ t.collOf n q.index = some k ∧
        k.sides = c.sides ++ [sideAt body 16 32 40 41]) ∧
  (∀ (s : State) (loc : CellAt) (body : List Byte) (r : RxTurn), s.turnTakes loc 4#4 r → numAt body 0 1 = 3 →
    let effect := numAt body 16 8
    let known := s.ec.seen.any fun q => decide (q.source = numAt body 10 2 ∧ q.tag = numAt body 4 4)
    (known = true ∨ effect + s.lead ≤ s.curRound →
      ∃ t, exec (.forfeitCellReceived loc body) s = .next t ∧ t.ec = s.ec ∧ t.regs = s.regs) ∧
    (known = false → s.curRound < effect + s.lead → numAt body 2 2 ≠ 0 →
      ∃ t f, exec (.forfeitCellReceived loc body) s = .next t ∧ t.ec.forfeits = s.ec.forfeits ++ [f] ∧
        f.job = numAt body 2 2 ∧ f.effect = max effect (s.curRound + 1) ∧ f.cause = numAt body 32 2 ∧
        bit (t.reg (ecReg 8)) 8 = true))

/-- MARKs, missed turns and the interval's tag: a MARK opens its turn in the present round, missed when it is suppressed or
of another schedule, and the corrected codewords since the one before are counted (R314, R334, R341, R343); a turn without
its MARK is missed and counted once (R341); at the limit of misses, while a collective is bound on the port, the watchdog
fires once (R406); a tag that agrees starts the next interval, and one that does not takes the port DOWN with AUTH_FAIL,
unless its turn is discarded (R334, R443, R444); a cell is ready 160 ns after it came, and CELL_READY lets time pass to the
first such instant (R351). -/
def Obligations.TurnsAndTags : Prop :=
  (∀ (s : State) (p : PortNo) (g : Fin 3) (m : Mark), s.coreOn = true → s.replaying = false →
    (s.port p.val).state = .timing ∨ (s.port p.val).state = .up → g.val < groupsOf p.val →
    ∀ corrected, ∃ t r, exec (.markReceived p g ⟨m, corrected⟩) s = .next t ∧
      SMap.find? (t.port p.val).rx g.val = some r ∧ r.mark = m ∧ r.cells = [] ∧ r.round = s.curRound ∧
      r.missed = (m.suppressed || s.otherSchedule p.val m) ∧ (t.port p.val).freedPeer = m.freed ∧
      t.counter (fbReg p.val 0x20) = (s.counter (fbReg p.val 0x20) + corrected) % 2 ^ 64 ∧
      (SMap.find? (s.port p.val).rx g.val = none → t.csMem = s.csMem)) ∧
  (∀ (s : State) (p : PortNo) (g : Fin 3) (r : RxTurn), s.coreOn = true → s.portUp p.val = true → g.val < groupsOf p.val →
    SMap.find? (s.port p.val).rx g.val = some r →
    let place := (r.mark.round.toNat, (r.mark.turn + 1).toNat)
    ∃ t q, exec (.turnMiss p g) s = .next t ∧ SMap.find? (t.port p.val).rx g.val = some q ∧ q.missed = true ∧
      ((s.port p.val).missed = some place → (t.port p.val).misses = (s.port p.val).misses ∧ t.regs = s.regs) ∧
      ((s.port p.val).missed ≠ some place → (t.port p.val).misses = (s.port p.val).misses + 1 ∧
        bit (t.reg (fbReg p.val 8)) 2 = true)) ∧
  (∀ (s : State) (p : PortNo), s.coreOn = true →
    let due := s.missLimit ≠ 0 ∧ s.missLimit ≤ (s.port p.val).misses ∧ (s.port p.val).missFired = false ∧
      s.portBindings p.val ≠ []
    (due → ∃ t, exec (.turnMissWatchdog p) s = .next t ∧ (t.port p.val).missFired = true ∧
      bit (t.reg (ecReg 8)) 3 = true) ∧
    (¬ due → exec (.turnMissWatchdog p) s = .next s)) ∧
  (∀ (s : State) (p : PortNo) (tag : BitVec 128) (k : BitVec 256), s.coreOn = true → s.portUp p.val = true →
    (s.port p.val).linkKey = some k → (s.port p.val).ivDirty = false →
    let want := Config.gcmTag k (partnerPort p.val) (s.port p.val).interval.toNat (s.port p.val).ivCells
    (tag = want → ∃ t, exec (.authTagReceived p tag) s = .next t ∧ (t.port p.val).interval = (s.port p.val).interval + 1 ∧
      (t.port p.val).ivCells = [] ∧ t.regs = s.regs) ∧
    (tag ≠ want → s.maintMissed p.val = false → ∃ t, exec (.authTagReceived p tag) s = .next t ∧
      (t.port p.val).state = .down ∧ bit (t.reg (scReg 8)) (16 + p.val) = true)) ∧
  (∀ (s : State) (p : PortNo),
    ((∀ d ∈ (s.port p.val).schedQ, d.ready ≤ s.now) → exec (.cellReady p) s = .next s) ∧
    ∀ c ∈ (s.port p.val).schedQ, s.now < c.ready → (∀ d ∈ (s.port p.val).schedQ, s.now < d.ready → c.ready ≤ d.ready) →
      ∃ t, exec (.cellReady p) s = .next t ∧ t = { s with uptime := t.uptime, time := t.time, tb := t.tb } ∧
        s.uptime < t.uptime ∧ (s.tb.counting = true → s.tb.acc = 0 → c.ready < 2 ^ 64 → t.now = c.ready))

/-! Links and common time (R313 to R323, R442). -/

/-- Bring-up of a port: it trains not before it is due (R316, R317), has IDENT wait for its MAINT turn once trained, waits
in TIMING when the partner is the one of Table 11-1, with its key share waiting where the link is encrypted, and else is
MISWIRED (R315, R339, R442), is UP after 16 exchanges with its counts at 0 (R315, R335), and an attempt not complete 40 ms
after it began is abandoned (R317). -/
def Obligations.PortsComeUp : Prop :=
  ∀ (s : State) (n : PortNo), s.coreOn = true →
    let r := s.port n.val
    (s.fwRuns = true → s.ec.devReset = none → s.enabled n.val = true → r.state = .down → r.retryDue = none →
      ∃ t, exec (.portTrainingStart n) s = .next t ∧ (t.port n.val).state = .training ∧ (t.port n.val).trainAt = t.uptime ∧
        (t.port n.val).linkKey = none ∧ r.trainAt ≤ t.uptime ∧ (s.tb.parent ≠ some n.val → t.regs = s.regs)) ∧
    (r.state = .training → r.trained = false →
      ∃ t, exec (.linkTrained n) s = .next t ∧ (t.port n.val).trained = true ∧ (t.port n.val).upBase % 1024 = 0 ∧
        s.now ≤ (t.port n.val).upBase ∧ (t.port n.val).upBase < s.now + 1024 ∧
        (t.port n.val).maintQ = [.ident (s.identOf n.val n)] ∧ t = { s with ports := t.ports }) ∧
    (∀ ident, r.state = .training → r.trained = true →
      (identHall ident = s.neighbour n.val → ident.port.val = partnerPort n.val → ident.encrypt = r.crypt →
        ∃ t, exec (.identReceived n ident) s = .next t ∧ (t.port n.val).state = .timing ∧
          (t.port n.val).ident = some ident ∧ t.regs = s.regs ∧
          (t.port n.val).maintQ = if r.crypt then r.maintQ ++ [.keyShare] else r.maintQ) ∧
      (identHall ident = s.neighbour n.val → ident.port.val = partnerPort n.val → ident.encrypt ≠ r.crypt →
        ∃ t, exec (.identReceived n ident) s = .next t ∧ (t.port n.val).state = .timing ∧
          (t.port n.val).retryDue.isSome = true ∧ bit (t.reg (scReg 8)) n.val = true) ∧
      (identHall ident ≠ s.neighbour n.val ∨ ident.port.val ≠ partnerPort n.val →
        ∃ t, exec (.identReceived n ident) s = .next t ∧ (t.port n.val).state = .miswired ∧
          bit (t.reg (fbReg n.val 8)) 1 = true)) ∧
    (r.state = .timing → 16 ≤ r.exchanges → r.retryDue = none →
      ∃ t, exec (.portUp n) s = .next t ∧ (t.port n.val).state = .up ∧ (t.port n.val).sent = 0 ∧
        (t.port n.val).freedMine = 0 ∧ (t.port n.val).freedPeer = 0 ∧ (t.port n.val).retryStep = 0) ∧
    (r.state = .timing → r.exchanges < 16 → exec (.portUp n) s = .next s) ∧
    (r.state = .training →
      ∃ t, exec (.trainingTimeout n) s = .next t ∧ (t.port n.val).state = .down ∧ r.trainAt + 40000000 ≤ t.uptime ∧
        (t.port n.val).retryDue = some (t.uptime + retryDelay r.retryStep) ∧
        (t.port n.val).retryStep = r.retryStep + 1) ∧
    (∀ k, retryDelay k = if k = 0 then 10000000 else if k = 1 then 20000000 else if k = 2 then 40000000 else 80000000) ∧
    (∀ due, r.retryDue = some due → s.enabled n.val = false → exec (.trainingRetry n) s = .next s) ∧
    (∀ due, r.retryDue = some due → s.fwRuns = true → s.enabled n.val = true →
      ∃ t, exec (.trainingRetry n) s = .next t ∧ (t.port n.val).state = .training ∧ due ≤ t.uptime) ∧
    (r.state = .miswired →
      ∃ t, exec (.miswiredRetrain n) s = .next t ∧ (t.port n.val).state = .training ∧
        r.trainAt + 1000000000 ≤ t.uptime)

/-- The link key of a port: a share whose chain verifies gives it, one that does not sets KEY_FAIL (R442). Loss of a
link: loss of signal on a lane of the port, the end of the link, and the eighth uncorrectable codeword in a row on a
lane group take a port DOWN, empty its OPEN queue, and set LINK_LOST while it is enabled; every discarded codeword is
counted, and one that does not follow another starts the run again (R313, R342). -/
def Obligations.LinkKeysAndLoss : Prop :=
  (∀ (s : State) (n : PortNo) (chain share : List Byte), s.coreOn = true → (s.port n.val).state = .timing →
     (s.port n.val).crypt = true → (s.port n.val).linkKey = none → (s.port n.val).retryDue = none →
     s.maintMissed n.val = false → ∃ t, exec (.keyShareReceived n chain share) s = .next t ∧
       (Config.chainVerifies chain share = true → (t.port n.val).linkKey.isSome = true ∧ (t.port n.val).interval = 0 ∧
         (t.port n.val).txInterval = 0 ∧ t.regs = s.regs) ∧
       (Config.chainVerifies chain share = false → (t.port n.val).linkKey = none ∧
         (t.port n.val).retryDue.isSome = true ∧ bit (t.reg (scReg 8)) n.val = true)) ∧
  (∀ (s : State) (n : PortNo), s.coreOn = true →
     let lost := fun (t : State) => (t.port n.val).state = .down ∧ (t.port n.val).openQ = [] ∧
       (t.port n.val).linkKey = none ∧ (s.enabled n.val = true → bit (t.reg (fbReg n.val 8)) 0 = true)
     (∀ lane, s.linkRuns n.val = true → lane.val < 4 * groupsOf n.val →
       ∃ t, exec (.lossOfSignal n lane) s = .next t ∧ lost t) ∧
     ((s.port n.val).state ≠ .down → ∃ t, exec (.portDown n) s = .next t ∧ lost t) ∧
     (∀ (g : Fin 3) (again : Bool) (header : Option (BitVec 20)), s.linkRuns n.val = true → g.val < groupsOf n.val →
       header.any codewordOk = false →
       let k := if again then SMap.get 0 (s.port n.val).discards g.val + 1 else 1
       ∃ t, exec (.fecUncorrectable n ⟨g, again, header⟩) s = .next t ∧ bit (t.reg (fbReg n.val 8)) 3 = true ∧
         t.counter (fbReg n.val 0x28) = (s.counter (fbReg n.val 0x28) + 1) % 2 ^ 64 ∧
         (k < 8 → (t.port n.val).state = (s.port n.val).state ∧ SMap.get 0 (t.port n.val).discards g.val = k) ∧
         (8 ≤ k → lost t)))

/-- Time exchanges: the reply to a request waits for the port's MAINT turn, and the reply that was asked for gives the
round trip of its port and counts once (R318, R319, R339); TIME_SNAP copies the time word (R318). LOCKED, HOLDOVER and
the reference clock: 16 good exchanges with a locked parent lock the device and end HOLDOVER; the loss of the reference of
a source begins it; 10 ms later LOCKED clears, and a device that had it sends MARK and MAINT only (R323; that HOLDOVER ends
then is the model's choice, log entry 46); the clock's return locks a SOURCE_TREF device; its PPS edge records the time
(R322, R323). -/
def Obligations.CommonTime : Prop :=
  (∀ (s : State) (n : PortNo), s.coreOn = true → (s.port n.val).state = .timing ∨ (s.port n.val).state = .up →
     (∀ (g : Fin 3) t2, g.val < groupsOf n.val → (SMap.find? (s.port n.val).rx g.val).any RxTurn.maintLost = false →
       ∃ t, exec (.timeReqReceived n g t2) s = .next t ∧
       (t.port n.val).maintQ = (s.port n.val).maintQ ++ [.timeReply t2] ∧ t = { s with ports := t.ports }) ∧
     (∀ t1 t2 t3 t4, (s.port n.val).asked = some t1 → (s.port n.val).crypt = false → s.maintMissed n.val = false →
       ∃ t, exec (.timeReplyReceived n t1 t2 t3 t4) s = .next t ∧ (t.port n.val).asked = none ∧
         (t.port n.val).exchanges = (s.port n.val).exchanges + 1 ∧
         t.reg (fbReg n.val 0xC) =
           BitVec.ofInt 32 ((((t2.toNat : Int) - t1.toNat) + ((t4.toNat : Int) - t3.toNat)) / 512) ∧
         s.regsOnly t [fbReg n.val 0xC, fbReg n.val 0x10] ∧
         (s.tb.parent ≠ some n.val → t.time = s.time ∧ t.tb = s.tb)) ∧
     (∀ v, s.barLive = true → bit v 0 = true →
       ∃ t, exec (.timeSnap v) s = .next t ∧ t.counter (tbReg 0x10) = s.now ∧
         t.regN (tbReg 0x18) = s.time.toNat % 2 ^ 16 ∧ s.regsOnly t [tbReg 0x10, tbReg 0x14, tbReg 0x18])) ∧
  (∀ s : State,
     (∀ p src hops, s.coreOn = true → s.tb.parent = some p → (s.port p).advert = some (src, hops, true) → 16 ≤ s.tb.good →
       ∃ t, exec .locked s = .next t ∧ t.tb.locked = true ∧ t.tb.timeValid = true ∧ t.tb.holdover = none ∧
         t.regs = s.regs) ∧
     (s.tb.good < 16 → exec .locked s = .next s) ∧
     (∀ since, s.tb.holdover = some since →
       ∃ t, exec .holdoverTimeout s = .next t ∧ t.tb.locked = false ∧ t.tb.holdover = none ∧
         t.tb.suppressed = (s.tb.suppressed || s.tb.wasLocked) ∧
         since + 10000000 ≤ t.uptime ∧ bit (t.reg (tbReg 8)) 0 = true) ∧
     (s.aoOn = true → ∃ t, exec .trefLock s = .next t ∧ t.tb.trefOk = true ∧
       (s.role = 1 → s.tb.followConflict = false → s.tb.counting = true → t.tb.locked = true ∧ t.tb.timeValid = true)) ∧
     (s.aoOn = true → ∃ t, exec .trefLost s = .next t ∧ t.tb.trefOk = false ∧
       (s.role = 1 → bit (t.reg (tbReg 8)) 2 = true) ∧
       (s.role = 1 → s.tb.followConflict = false → t.tb.holdover.isSome = true) ∧
       (s.role ≠ 1 → t.regs = s.regs)) ∧
     (s.aoOn = true → s.role = 1 →
       ∃ t, exec .trefPpsEdge s = .next t ∧ t.counter (tbReg 0x28) = s.now ∧ s.regsOnly t [tbReg 0x28, tbReg 0x2C]))

/-! The round schedule (R314, R325 to R338). -/

/-- Schedules: INSTALL is busy until its image is validated, and a valid one stands while a refused one reports its cause
and leaves the bank (R331); ARM is refused without LOCKED, without a standing schedule or for a round too near; CANCEL takes
back what is armed (R332). -/
def Obligations.SchedulesInstall : Prop :=
  (∀ s : State, s.barLive = true → s.schedBusy = false →
    (∃ t, exec .schedInstall s = .next t ∧ t.tb.install = some (s.regN (tbReg 0x30), s.uptime) ∧
      bit (t.reg (tbReg 0x38)) 31 = true ∧ s.regsOnly t [tbReg 0x38] ∧ t.tb.standing = s.tb.standing) ∧
    (s.tb.locked = false → ∃ t, exec .schedArm s = .next t ∧ t.reg (tbReg 0x38) = 1 ∧ bit (t.reg (tbReg 8)) 4 = true ∧
      t.tb = s.tb) ∧
    (s.tb.locked = true → s.tb.standing = none → ∃ t, exec .schedArm s = .next t ∧ t.reg (tbReg 0x38) = 0xB ∧
      bit (t.reg (tbReg 8)) 4 = true ∧ t.tb = s.tb) ∧
    (∀ b, s.tb.locked = true → s.tb.standing = some b →
      ((s.counter (tbReg 0x3C) : Int) ≤ s.armRound b + 1 →
        ∃ t, exec .schedArm s = .next t ∧ t.reg (tbReg 0x38) = 0xA ∧ bit (t.reg (tbReg 8)) 4 = true ∧ t.tb = s.tb) ∧
      (s.armRound b + 1 < (s.counter (tbReg 0x3C) : Int) →
        ∃ t, exec .schedArm s = .next t ∧ t.reg (tbReg 0x38) = 0 ∧ t.tb.armed = some (s.counter (tbReg 0x3C)) ∧
          s.regsOnly t [tbReg 0x38])) ∧
    (∃ t, exec .schedCancel s = .next t ∧ t.tb.armed = none ∧ t.reg (tbReg 0x38) = 0 ∧
      t.tb.standing = (if s.tb.armed.isSome then s.tb.standing else none) ∧ t.tb.active = s.tb.active)) ∧
  (∀ (s : State) (u began : Nat), s.coreOn = true → s.tb.install = some (u, began) →
    (s.tb.locked = false → ∃ t, exec .installComplete s = .next t ∧ t.tb.install = none ∧ t.reg (tbReg 0x38) = 1 ∧
      bit (t.reg (tbReg 8)) 3 = true ∧ t.tb.standing = s.tb.standing) ∧
    (s.tb.locked = true → s.tb.armed = none → u * 64 + imageSize ≤ s.scBase → s.scBase ≤ csSize →
      let im := s.csBytes (u * 64) imageSize
      ∃ t, exec .installComplete s = .next t ∧ t.tb.install = none ∧ t.tb.active = s.tb.active ∧
        t.reg (tbReg 0x38) = BitVec.ofNat 32 (s.imageCause im) ∧
        if s.imageCause im = 0 then t.tb.standing = some (scheduleOf im)
        else bit (t.reg (tbReg 8)) 3 = true ∧ t.tb.standing = s.tb.standing))

/-- Rounds and turns: a boundary begins the next round not taken; at the round an ARM named the standing schedule
becomes active and the old one stands; without an active one the standing schedule starts from its ORIGIN (R327,
R332). A turn before which no boundary is still to be taken sends one MARK on each lane group, with the table's turn and
the port's own FREED, and the next turn follows (R328, R334). Stall windows: the share of the OPEN slots of every port
present, and of the host port's credit periods, sets or clears its bit of TB_OVERSUB, and FB_STALL shows a port's share
(R337); a source with a further 1,000 windows in a row above the limit sets SLIP and its bit, and each thousand after its
first counts once in object 0x6082 (R338); any other nothing. -/
def Obligations.RoundsAndTurns : Prop :=
  ((∀ s : State, s.coreOn = true → s.tb.counting = true →
     let next := max (s.tb.round + 1) s.curRound
     (s.tb.armed = none → ∃ t, exec .roundBoundary s = .next t ∧ t.tb.round = next ∧ t.tb.active = s.tb.active ∧
       t.tb.standing = s.tb.standing) ∧
     (∀ a b k, s.tb.active = some a → s.tb.standing = some b → s.tb.armed = some k →
       (next < k → ∃ t, exec .roundBoundary s = .next t ∧ t.tb.active = some a ∧ t.tb.standing = some b ∧
         t.tb.armed = some k) ∧
       (k ≤ next → ∃ t, exec .roundBoundary s = .next t ∧ t.tb.active = some b ∧ t.tb.standing = some a ∧
         t.tb.armed = none ∧ t.tb.baseRound = k)) ∧
     (∀ b k, s.tb.active = none → s.tb.standing = some b → s.tb.armed = some k →
       b.origin + k * b.len ≤ max s.now (s.roundStart next) →
       ∃ t, exec .roundBoundary s = .next t ∧ t.tb.active = some b ∧ t.tb.standing = none ∧ t.tb.armed = none ∧
         t.tb.round = k ∧ t.tb.baseTime = b.origin ∧ t.tb.baseRound = 0)) ∧
   (∀ (s : State) (n : PortNo), s.coreOn = true → portPresent s.variant n.val = true → (s.port n.val).trained = true →
     (s.port n.val).state ≠ .down → s.replaying = false → s.portRound n.val ≤ (s.port n.val).roundNext →
     (s.port n.val).turnNext < (s.running n.val).1.length →
     s.boundaryDue (s.turnAt n.val (s.port n.val).roundNext (s.port n.val).turnNext).2 = false →
     let table := (s.running n.val).1
     let i := (s.port n.val).turnNext
     ∃ t, exec (.turnBegin n) s = .next t ∧
       (t.port n.val).turnNext = (if table.length ≤ i + 1 then 0 else i + 1) ∧
       (t.port n.val).roundNext = (s.port n.val).roundNext + (if table.length ≤ i + 1 then 1 else 0) ∧
       ∀ g < groupsOf n.val, ∃ m, Emission.mark n.val g m ∈ t.out ∧
         m.round = BitVec.ofNat 64 (s.port n.val).roundNext ∧ m.turn = BitVec.ofNat 16 i ∧
         m.freed = (s.port n.val).freedMine ∧ m.locked = s.tb.locked ∧ m.schedId = (s.running n.val).2.1)) ∧
  ((∀ (s : State) (withheld : Nat), s.coreOn = true →
     ∃ t, exec (.stallWindowEnd withheld) s = .next t ∧
       (∀ i : PortNo, portPresent s.variant i.val = true →
         let r := s.port i.val
         let high := decide (r.openSlots < 10 * r.stallSlots)
         bit (t.reg (tbReg 0x4C)) i.val = high ∧
         t.regN (fbReg i.val 0x14) = min 0xFFFF (r.stallSlots * 65536 / r.openSlots) ∧
         (t.port i.val).stallRun = (if high then r.stallRun + 1 else 0) ∧ (t.port i.val).openSlots = 0) ∧
       bit (t.reg (tbReg 0x4C)) 13 = decide (15625 < 10 * withheld)) ∧
   (∀ (s : State) (src : StallSource), s.coreOn = true →
     let q := s.slipRun src
     let i := match src with
       | .port n => n.val
       | .host => 13
     (q.2 < q.1 → ∃ t, exec (.slip src) s = .next t ∧ bit (t.reg (tbReg 8)) 5 = true ∧
       bit (t.reg (tbReg 0x50)) i = true ∧ s.regsOnly t [tbReg 8, tbReg 0x50] ∧ t.slipRun src = (q.1, q.1) ∧
       (s.obj 0x6082 0 0 + (q.1 - max 1 q.2) < 2 ^ 64 → t.obj 0x6082 0 0 = s.obj 0x6082 0 0 + (q.1 - max 1 q.2))) ∧
     (q.1 ≤ q.2 → exec (.slip src) s = .next s)))


/-! The step recorder (R381 to R387). -/

/-- BEGIN is refused unless the recorder is ready, and names the next boundary when its round has begun; END closes an open
step at the next boundary (R381). The STEP_END of a closed step waits for two free units, and adds an entry to the index
(R384, R386). A replay ends with BAD_RECORD at a record whose CHECK fails; a HOST_WRITE record stores its bytes and no others,
and a STEP_END ends the step (R387). -/
def Obligations.RecorderSteps : Prop :=
  (∀ s : State, s.barLive = true → recorderPresent s.variant = true →
    let want := s.counter (ecReg 0x828)
    (s.recReady = false → exec .recBegin s = .next (s.raise (ecReg 0x838) 4)) ∧
    (s.recReady = true → ∃ t, exec .recBegin s = .next t ∧
      t.rec_.pendBegin = some (if want ≤ s.curRound then s.curRound + 1 else want, s.counter (ecReg 0x820)) ∧
      (want ≤ s.curRound → bit (t.reg (ecReg 0x838)) 1 = true) ∧ (s.curRound < want → t.regs = s.regs)) ∧
    (s.rec_.openStep.isSome = true → ∃ t, exec .recEnd s = .next t ∧ t.rec_.pendEnd = true ∧ t.regs = s.regs) ∧
    (s.rec_.openStep = none → exec .recEnd s = .next s)) ∧
  (∀ (s : State) (e : RecEnd) (rest : List RecEnd), s.coreOn = true → s.rec_.ending = e :: rest →
    (s.recFree < 2 → exec .recorderStepEnd s = .next s) ∧
    (2 ≤ s.recFree → ∃ t x, exec .recorderStepEnd s = .next t ∧ t.rec_.ending = rest ∧
      t.reg (ecReg 0x818) = s.reg (ecReg 0x818) + 2 ∧ t.rec_.index = (x :: s.rec_.index).take 4096 ∧
      x.take 8 = leBytes 8 e.step)) ∧
  (∀ (s : State) (bs : List Byte), s.coreOn = true → s.replaying = true → s.rec_.dropped = false →
    s.nextRecord.1 = some bs →
    (recordOk bs = false → ∃ t, exec .replayRecordApply s = .next t ∧ t.rec_.dropped = true ∧
      bit (t.reg (ecReg 0x838)) 4 = true ∧ t.csMem = s.csMem) ∧
    (recordOk bs = true → s.rec_.lastRound ≤ numAt bs 24 8 →
      (numAt bs 0 1 = 2 →
        let data := (bs.drop 64).take (numAt bs 4 4)
        ∃ t, exec .replayRecordApply s = .next t ∧ t.holds (numAt bs 40 8) data ∧
          s.storeOnly t (numAt bs 40 8) data.length ∧ t.rec_.lastRound = numAt bs 24 8 ∧
          t.reg (ecReg 0x818) = s.reg (ecReg 0x818) + BitVec.ofNat 32 (bs.length / 64)) ∧
      (numAt bs 0 1 = 8 → ∃ t, exec .replayRecordApply s = .next t ∧ t.rec_.openStep = none ∧ t.rec_.replay = false)))

/-! Watchdogs and resets (R403 to R425). -/

/-- Watchdogs: a seat whose work has not moved for the limit is FAULTED with everything outstanding void, and its job is
forfeited (R403, R404, R410); a descriptor that has not stopped 100 ms later resets the partition (R404), and so does a
partition whose seats do not move (R405). None fires before it is due in common nanoseconds, where no correction of the
time base is outstanding (R44, R321). -/
def Obligations.WatchdogsFire : Prop :=
  (∀ (s : State) (n : SeatNo) (since : Nat), s.coreOn = true → (s.seat n.val).wdStart = some since →
    (s.seat n.val).state = .active → s.resetting (n.val / 16) = false →
    let due := since + s.regField (ecReg 0x14) 15 0 * 1000000
    ∃ t, exec (.seatWatchdogExpiry n) s = .next t ∧ (t.seat n.val).state = .faulted ∧ (t.seat n.val).head = none ∧
      (∀ r ∈ (t.seat n.val).running, r.void = true) ∧ (t.seat n.val).wdStart = none ∧
      (t.seat n.val).drainDue = some (t.now + 100000000) ∧
      (s.tb.counting = true → s.tb.acc = 0 → due < 2 ^ 64 → due ≤ t.now) ∧ bit (t.reg (ecReg 8)) 0 = true ∧
      (s.job n.val ≠ 0 → s.forfeitKnown (s.job n.val) = false →
        ∃ f ∈ t.ec.forfeits, f.job = s.job n.val ∧ f.cause = 2)) ∧
  (∀ (s : State) (n : SeatNo) (due : Nat), s.coreOn = true → (s.seat n.val).drainDue = some due →
    s.resetting (n.val / 16) = false →
    ((s.seat n.val).running = [] → ∃ t, exec (.seatDrainExpiry n) s = .next t ∧ (t.seat n.val).drainDue = none ∧
      (s.tb.counting = true → s.tb.acc = 0 → due < 2 ^ 64 → due ≤ t.now) ∧ t.regs = s.regs ∧ t.parts = s.parts) ∧
    ((s.seat n.val).running ≠ [] → partPresent s.variant (n.val / 16) = true → (s.part (n.val / 16)).wakeAt = none →
      ∃ t r, exec (.seatDrainExpiry n) s = .next t ∧ (t.part (n.val / 16)).resetting = some r ∧ r.cause = .seatDrain ∧
        (s.tb.counting = true → s.tb.acc = 0 → due < 2 ^ 64 → due ≤ t.now) ∧ bit (t.reg (ecReg 8)) 2 = true)) ∧
  (∀ (s : State) (p : PartNo) (since : Nat), s.coreOn = true → (s.part p.val).wdStart = some since →
    s.resetting p.val = false → partPresent s.variant p.val = true → (s.part p.val).wakeAt = none →
    let due := since + s.regField (ecReg 0x14) 23 16 * 1000000000
    ∃ t r, exec (.partWatchdogExpiry p) s = .next t ∧ (t.part p.val).resetting = some r ∧ r.cause = .partWatchdog ∧
      (s.tb.counting = true → s.tb.acc = 0 → due < 2 ^ 64 → due ≤ t.now) ∧ bit (t.reg (ecReg 8)) 1 = true)

/-- Partition reset: its cause is captured first; no descriptor, ward key or byte of its seats' windows stays, and a CREATE
or RELEASE in progress ends with PARTITION_RESETTING (R407, R408, R425); a second cause starts none (R395), and one that
arises in a wake waits (R490). It ends only when the old epoch is gone (R286), and until then sets RESET_DELAYED where a
forfeit of its jobs cannot take effect (R409): the seats are FREE, the tumblers 0, the partition gated, and EPOCH has moved
on by 1 (R285, R408). -/
def Obligations.PartitionResets : Prop :=
  (∀ (s : State) (p : PartNo) (c : ResetCause), s.coreOn = true → partPresent s.variant p.val = true →
    let off := ecReg (0x40 + p.val / 8 * 4)
    let lo := 4 * (p.val % 8)
    ((s.part p.val).resetting.isSome = true → exec (.partitionReset p c) s = .next s) ∧
    ((s.part p.val).resetting = none → (s.part p.val).wakeAt.isSome = true →
      ∃ t, exec (.partitionReset p c) s = .next t ∧
        (t.part p.val).resetQueued = some ((s.part p.val).resetQueued.getD c) ∧ t.regs = s.regs ∧ t.csMem = s.csMem) ∧
    ((s.part p.val).resetting = none → (s.part p.val).wakeAt = none →
      ∃ t r, exec (.partitionReset p c) s = .next t ∧ (t.part p.val).resetting = some r ∧ r.cause = c ∧
        (s.regField off (lo + 3) lo = 0 → t.regField off (lo + 3) lo = causeCode c) ∧
        (bit (s.reg (ctReg p.val 4)) 31 = true →
          t.reg (ctReg p.val 4) = BitVec.ofNat 32 (s.regField (ctReg p.val 4) 11 8 * 2 ^ 8 + 7)) ∧
        ∀ n ∈ s.partSeats p.val, (t.seat n).running = [] ∧ (t.seat n).wardKey = none ∧
          ∀ x, (s.csWin n).1 ≤ x → x < (s.csWin n).2 → t.csByte x = 0)) ∧
  (∀ (s : State) (v : Word), s.barLive = true →
    ∃ t, exec (.partitionResetCmd v) s = .next t ∧ ∀ p : PartNo, partPresent s.variant p.val = true →
      (bit v p.val = true → (s.part p.val).wakeAt = none → (t.part p.val).resetting.isSome = true) ∧
      (bit v p.val = false → (t.part p.val).resetting = (s.part p.val).resetting)) ∧
  (∀ (s : State) (p : PartNo) (r : PartReset), s.coreOn = true → (s.part p.val).resetting = some r →
    s.ec.retiredHbm = false → s.ec.devReset = none → (s.ec.shakeUnits.any fun u => decide (u.1 = p.val)) = false →
    (s.oldEpochGone p.val = false → (∀ j ∈ r.jobs, s.forfeitHeld j = false) → exec (.partitionResetEnd p) s = .next s) ∧
    (s.oldEpochGone p.val = false → (∃ j ∈ r.jobs, s.forfeitHeld j = true) →
      ∃ t, exec (.partitionResetEnd p) s = .next t ∧ bit (t.reg (ecReg 8)) 10 = true ∧ t.parts = s.parts ∧
        t.seats = s.seats ∧ t.csMem = s.csMem) ∧
    (s.oldEpochGone p.val = true → ∃ t, exec (.partitionResetEnd p) s = .next t ∧ (t.part p.val).resetting = none ∧
      (t.part p.val).gated = true ∧ t.epoch p.val = (s.epoch p.val + 1) % 2 ^ 16 ∧ bit (t.reg (ecReg 8)) 4 = true ∧
      (∀ l : Fin 16, (t.seat (p.val * 16 + l.val)).state = .free ∧ (t.seat (p.val * 16 + l.val)).running = []) ∧
      (∀ n ∈ s.partSeats p.val, ∀ x, x < 8192 → (s.tumbRange n).1 ≤ x → x < (s.tumbRange n).2 → t.tumbler x = 0) ∧
      ∀ q : PartNo, q ≠ p → t.part q.val = s.part q.val))

/-- Device reset: a write of 0xA5 starts one, with DEV_FAULT and every partition in reset; it clears seats, the
Central Store, the cache and the schedules and starts the boot ROM (R416 to R418); it has ended once the device is
ready and LOCKED (Table 14-8). EC_FORFEIT_CMD originates a forfeit, to take effect LEAD rounds later (R410, R411). The
shaker: a test starts only on an idle unit, and holds it; one that fails sets SHAKER_FAIL and counts against its
array, and at low voltage marks the partition (R421 to R423). -/
def Obligations.DeviceResetsAndShaker : Prop :=
  ((∀ (s : State) (v : Word), s.barLive = true → s.ec.devReset = none →
     (v.toNat % 256 ≠ 0xA5 → exec (.deviceResetCmd v) s = .next s) ∧
     (v.toNat % 256 = 0xA5 → ∃ t, exec (.deviceResetCmd v) s = .next t ∧ t.ec.devReset = some s.uptime ∧
       bit (t.reg (ecReg 8)) 5 = true ∧ ∀ p : PartNo, partPresent s.variant p.val = true →
         (s.part p.val).wakeAt = none → (t.part p.val).resetting.isSome = true)) ∧
   (∀ (s : State) (cause : DeviceCause) (found : List BringUp), s.coreOn = true → s.ec.devReset = none →
     ∃ t, exec (.deviceReset cause found) s = .next t ∧ t.ec.devReset.isSome = true ∧ t.ec.devDone = true ∧
       t.fw.boot = .rom ∧
       (∀ n, (t.seat n).state = .free ∧ (t.seat n).running = [] ∧ (t.seat n).wardKey = none) ∧ (∀ a, t.csByte a = 0) ∧ t.posted = [] ∧ t.cache = [] ∧ t.tb.active = none ∧
       (cause ≠ .firmware → bit (t.reg (ecReg 8)) 5 = true)) ∧
   (∀ s : State,
     (s.ec.devReset.isSome = true → s.ec.devDone = true → s.fw.boot = .ready → s.tb.locked = true →
       ∃ t, exec .deviceResetEnd s = .next t ∧ t.ec.devReset = none ∧ t.regs = s.regs ∧ t.seats = s.seats) ∧
     (s.tb.locked = false → exec .deviceResetEnd s = .next s)) ∧
   (∀ (s : State) (v : Word), s.barLive = true →
     (bit v 31 = false → exec (.forfeitCmd v) s = .next s) ∧
     (bit v 31 = true → field v 15 0 ≠ 0 → s.forfeitKnown (field v 15 0) = false →
       ∃ t f, exec (.forfeitCmd v) s = .next t ∧ t.ec.forfeits = s.ec.forfeits ++ [f] ∧ f.job = field v 15 0 ∧
         f.effect = s.curRound + s.lead ∧ f.cause = 7 ∧ bit (t.reg (ecReg 8)) 7 = true))) ∧
  ((∀ (s : State) (p : PartNo) (u : ShakeUnit) (test : ShakeTest) (cond : ShakeCond) (hottest : Nat),
     (s.unitIdle p.val u = false → exec (.shakerTest p u test cond hottest) s = .next s) ∧
     (s.hbmRuns = true → partPresent s.variant p.val = true → testFits test u = true → s.unitIdle p.val u = true →
       s.shakeOk p.val cond hottest = true → (∀ q ∈ s.ec.shakeUnits, ¬ (q.1 = p.val ∧ q.2.1 = u)) →
       ∃ t, exec (.shakerTest p u test cond hottest) s = .next t ∧ (p.val, u, test, cond) ∈ t.ec.shakeUnits ∧
         t.regs = s.regs ∧ (cond ≠ .lowV → t.parts = s.parts) ∧
         (cond = .lowV → (t.part p.val).lowV = true ∧ (t.part p.val).gated = false))) ∧
   (∀ (s : State) (p : PartNo) (u : ShakeUnit) (test : ShakeTest) (cond : ShakeCond),
     (s.ec.shakeUnits.find? fun q => decide (q.1 = p.val ∧ q.2.1 = u)) = some (p.val, u, test, cond) →
     (∃ t, exec (.shakerTestEnd p u true) s = .next t ∧ t.regs = s.regs ∧
       ∀ q ∈ t.ec.shakeUnits, ¬ (q.1 = p.val ∧ q.2.1 = u)) ∧
     ∃ t, exec (.shakerTestEnd p u false) s = .next t ∧ bit (t.reg (ecReg 0xC)) 4 = true ∧
       (∀ a, cond ≠ .lowV → u = .array a → (t.arr p.val a.val).faults = min ((s.arr p.val a.val).faults + 1) 255) ∧
       (cond = .lowV → bit (t.reg (ecReg 0xC)) 5 = true ∧
         t.obj 0x4041 (p.val + 1) 0 = min 3 (s.obj 0x4041 (p.val + 1) 0 + 1))))

/-! HBM stacks (R293 to R307). -/

/-- Temperature and throttling: a readout is shown and raises the step at once to the one it calls for (R300, R301);
the step falls by one after 10 ms (R301); without a readout for 10 ms it is 3; refresh doubles from 85 °C (R296); a
calibration keeps its temperature. Errors and repair: the patrol scrub counts a corrected error, and poisons and
captures an uncorrectable one and enters its row in the repair list (R293, R295, R306); a second parity failure begins a
retraining, one that succeeds clears the channel's failures, and RETRAINING stays 1 while another channel of the stack
retrains; a second failure in succession retires the device (R297, R307); rows in the repair list set ROW_REPAIR_PENDING,
and more than the spare rows retire the device (R305 to R307); a pass that is not done at the end of PERIOD sets SCRUB_LATE,
not before (R295). -/
def Obligations.HbmStacks : Prop :=
  (∀ (s : State) (k : StackNo), s.pw.state = .on →
     (∀ temp : Byte,
       let want := max (s.stepOf temp.toNat) (s.forceStep k.val)
       ∃ t, exec (.hbmTempReadout k temp) s = .next t ∧ t.stackTemp k.val = some temp.toNat ∧
         t.stackStep k.val = (if (s.stackTemp k.val).isSome then max want (s.stackStep k.val) else want) ∧
         (t.stack k.val).readAt = s.uptime ∧ bit (t.reg (hbReg k.val 8)) 4 = decide (s.hbmT 4 ≤ temp.toNat) ∧
         bit (t.reg (hbReg k.val 8)) 3 = decide (85 ≤ temp.toNat) ∧
         (s.hbmT 4 ≤ temp.toNat → t.regField (pwReg 4) 1 0 = 3)) ∧
     (∀ since, (s.stack k.val).coolFrom = some since → s.forceStep k.val < s.stackStep k.val →
       ∃ t, exec (.throttleStepFall k) s = .next t ∧ t.stackStep k.val = s.stackStep k.val - 1 ∧
         since + 10000000 ≤ t.uptime ∧ bit (t.reg (hbReg k.val 0xC)) 3 = true) ∧
     (∃ t, exec (.tempReadoutTimeout k) s = .next t ∧ t.stackTemp k.val = none ∧ t.stackStep k.val = 3 ∧
       (s.stack k.val).readAt + 10000000 ≤ t.uptime) ∧
     (∀ now, s.stackTemp k.val = some now →
       (∃ t, exec (.hbmRefresh k) s = .next t ∧ bit (t.reg (hbReg k.val 8)) 3 = decide (85 ≤ now) ∧
         s.regsOnly t [hbReg k.val 8]) ∧
       ∃ t, exec (.hbmCalibration k) s = .next t ∧ (t.stack k.val).calTemp = now ∧ t.regs = s.regs)) ∧
  (∀ (s : State) (k : StackNo) (c : PartNo), s.pw.state = .on →
     (∀ sector seen q, (s.stack k.val).scrub = some q → s.passDone q = false → s.selfRefresh c.val = false →
       c.val ∉ (s.stack k.val).retraining → SMap.get 0 q.pos c.val ≤ sector → sector ≤ lastSector s.variant →
       let sec := hbmAddrOf k.val sector / 64
       let read := fun seen => exec (.hbPatrolScrub k c sector ⟨seen, .good⟩) s
       ((s.hbmSector c.val sec).poison = false →
         ∃ t, read seen = .next t ∧
           (seen = .clean → t.hbm = s.hbm ∧ t.reg (hbReg k.val 0xC) = s.reg (hbReg k.val 0xC)) ∧
           (seen = .single → t.hbm = s.hbm ∧ bit (t.reg (hbReg k.val 0xC)) 0 = true ∧
             t.regN (hbReg k.val 0x18) = min (s.regN (hbReg k.val 0x18) + 1) (2 ^ 32 - 1)) ∧
           (seen = .uncorrectable → (t.hbmSector c.val sec).poison = true ∧ bit (t.reg (hbReg k.val 0xC)) 1 = true ∧
             (∃ x ∈ (t.stack k.val).repair, x / 2 ^ 15 = c.val) ∧
             (bit (s.reg (hbReg k.val 0x14)) 31 = false →
               t.regN (hbReg k.val 0x14) = 2 ^ 31 + c.val * 2 ^ 25 + sector))) ∧
       ∃ t, exec (.hbPatrolScrub k c sector ⟨seen, .failed⟩) s = .next t ∧ c.val ∈ (t.stack k.val).retraining ∧
         bit (t.reg (hbReg k.val 0xC)) 5 = true ∧ bit (t.reg (hbReg k.val 8)) 2 = true ∧ t.hbm = s.hbm) ∧
     (partPresent s.variant c.val = true →
       (∃ t, exec (.channelRetrainComplete k c true) s = .next t ∧ bit (t.reg (hbReg k.val 0xC)) 6 = true ∧
         bit (t.reg (hbReg k.val 8)) 2 = decide (∃ d ∈ (s.stack k.val).retraining, d ≠ c.val) ∧
         SMap.get 0 (t.stack k.val).retrainFails c.val = 0) ∧
       (SMap.get 0 (s.stack k.val).retrainFails c.val = 0 →
         ∃ t, exec (.channelRetrainComplete k c false) s = .next t ∧ bit (t.reg (hbReg k.val 8)) 2 = true ∧
           SMap.get 0 (t.stack k.val).retrainFails c.val = 1 ∧ t.pw = s.pw) ∧
       (1 ≤ SMap.get 0 (s.stack k.val).retrainFails c.val →
         ∃ t, exec (.channelRetrainComplete k c false) s = .next t ∧ t.pw.state = .retired ∧
           t.ec.retiredHbm = true ∧ bit (t.reg (ecReg 8)) 6 = true) ∧
       (∀ row, c.val * 2 ^ 15 + row ∉ (s.stack k.val).repair → exec (.rowRepairPending k c row) s = .next s) ∧
       (∀ row, c.val * 2 ^ 15 + row ∈ (s.stack k.val).repair →
         ∃ t, exec (.rowRepairPending k c row) s = .next t ∧ bit (t.reg (hbReg k.val 0xC)) 7 = true ∧
           ((s.stack k.val).rowsLost c.val = true → t.pw.state = .retired ∧ t.ec.retiredHbm = true) ∧
           ((s.stack k.val).rowsLost c.val = false → s.regsOnly t [hbReg k.val 0xC]))) ∧
     (∀ q, (s.stack k.val).scrub = some q → s.passDone q = false →
       ∃ t, exec (.scrubLate k) s = .next t ∧ q.due ≤ t.uptime ∧ bit (t.reg (hbReg k.val 8)) 6 = true ∧
         s.regsOnly t [hbReg k.val 8]))


/-! Security (R428 to R446; the encodings of SPDM and TDISP messages are the model's, log entry 15). -/

/-- The SPDM responder: while it is open on a path it answers every request there; a nonce is signed over with the Alias key;
KEY_EXCHANGE opens one of 4 sessions, a FINISH whose data verify secures it and one whose data do not ends it, and END_SESSION
ends a secured one (R431 to R433). Closed, it answers nothing. -/
def Obligations.SpdmAnswers : Prop :=
  ∀ (s : State) (path : Path),
    (s.spdmOpen path = false → ∀ c, c = Instr.spdmGetVersion path ∨ c = .spdmGetCapabilities path ∨
      (∃ q, c = .spdmNegotiateAlgorithms path q) ∨ c = .spdmGetDigests path ∨
      (∃ a b d, c = .spdmGetCertificate path a b d) ∨ (∃ a b, c = .spdmChallenge path a b) ∨
      (∃ a b, c = .spdmGetMeasurements path a b) ∨ (∃ a, c = .spdmKeyExchange path a) ∨
      (∃ a b, c = .spdmFinish path a b) ∨ (∃ a, c = .spdmEndSession path a) → exec c s = .next s) ∧
    (s.spdmOpen path = true →
      (exec (.spdmGetVersion path) s =
        .next (s.respond path (leBytes 1 0x10 ++ leBytes 1 4 ++ zeros 3 ++ leBytes 1 1 ++ leBytes 2 0x1300))) ∧
      (∃ m, m.length = 16 ∧ exec (.spdmGetCapabilities path) s = .next (s.draw.respond path (spdmHead 0x61 0 0 ++ m))) ∧
      (∀ q, q ≠ [] → ∃ m, exec (.spdmNegotiateAlgorithms path q) s = .next (s.respond path (spdmHead 0x63 2 0 ++ m))) ∧
      (exec (.spdmGetDigests path) s =
        .next (s.respond path (spdmHead 1 0 1 ++ beBytes 48 (sha384 s.certChain).toNat))) ∧
      (∀ off len, off ≤ s.certChain.length →
        let part := (s.certChain.drop off).take len
        exec (.spdmGetCertificate path 0 off len) s = .next (s.respond path (spdmHead 2 0 0 ++ leBytes 2 part.length ++
          leBytes 2 (s.certChain.length - off - part.length) ++ part))) ∧
      (∀ slot off len, slot ≠ 0 → exec (.spdmGetCertificate path slot off len) s = .next (s.respond path (spdmError 1))) ∧
      (∀ nonce, ∃ m, m.take 4 = spdmHead 3 0 1 ∧ exec (.spdmChallenge path 0 nonce) s =
        .next (s.drbgStep.respond path (m ++ signed s.cdiFw (nonce ++ m)))) ∧
      (∀ (i : Byte) nonce, 6 < i.toNat → i ≠ 0xFF →
        exec (.spdmGetMeasurements path i nonce) s = .next (s.respond path (spdmError 1))) ∧
      (∀ (i : Byte) nonce, i.toNat ≤ 6 ∨ i = 0xFF → ∃ m, exec (.spdmGetMeasurements path i nonce) s =
        .next (s.drbgStep.respond path (m ++ signed s.cdiFw (nonce ++ m)))) ∧
      (∀ share, (∀ k < 4, (s.session k).isSome = true) →
        exec (.spdmKeyExchange path share) s = .next (s.respond path (spdmError 0x0A))) ∧
      (∀ share, (∃ k < 4, s.session k = none) → ∃ t x, exec (.spdmKeyExchange path share) s = .next t ∧
        t.sc.sessions = s.sc.sessions ++ [x] ∧ x.path = path ∧ x.secured = false ∧ x.number < 4 ∧
        s.session x.number = none) ∧
      (∀ (k : Fin 4) data x, s.session k.val = some x → x.secured = false →
        ∃ t, exec (.spdmFinish path k data) s = .next t ∧
          t.session k.val = if Config.finishVerifies x.draw data then some { x with secured := true } else none) ∧
      ∀ (k : Fin 4) x, s.session k.val = some x → x.secured = true →
        ∃ t, exec (.spdmEndSession path k) s = .next t ∧ t.session k.val = none)

/-- IDE and TDISP, in a secured session: IDE_KM keys and stops streams, and a stopped selective stream takes the TDIs bound
to it to ERROR (R438, R441). A seat that is not a TDI gets INVALID_INTERFACE (R439). LOCK binds an ACTIVE unlocked seat to a
keyed stream; START with the right nonce runs it; STOP unlocks it and releases the seat (R440, R441). -/
def Obligations.InterfacesLockAndRun : Prop :=
  ∀ (s : State) (k : Fin 4) (x : Session), s.session k.val = some x → x.secured = true → s.spdmOpen x.path = true →
    (∀ key, ∃ t, exec (.ideKm k .setLink key) s = .next t ∧ t.sc.ideLink = true ∧ t.seats = s.seats) ∧
    (∀ key, ∃ t, exec (.ideKm k .stopLink key) s = .next t ∧ t.sc.ideLink = false ∧ t.seats = s.seats) ∧
    (∀ key n, ∃ t, exec (.ideKm k (.setSelective n) key) s = .next t ∧ n ∈ t.sc.ideSel ∧ t.seats = s.seats) ∧
    (∀ key n, ∃ t, exec (.ideKm k (.stopSelective n) key) s = .next t ∧ n ∉ t.sc.ideSel ∧
      ∀ m ∈ s.seatList, (s.seat m).tdiStream = some n → (s.seat m).tdi = .locked ∨ (s.seat m).tdi = .run →
        (t.seat m).tdi = .error) ∧
    (∀ (n : SeatNo) stream, bit (s.reg (seatAttr n.val)) 1 = false →
      exec (.lockInterface k n stream) s = .next (s.respond x.path (tdispError n.val 0x101))) ∧
    ∀ n : SeatNo, partPresent s.variant (n.val / 16) = true → bit (s.reg (seatAttr n.val)) 1 = true →
      let tdi := (s.seat n.val).tdi
      (exec (.tdispGetVersion k n) s = .next (s.respond x.path (tdispMsg 1 n.val (leBytes 1 1 ++ leBytes 1 0x10)))) ∧
      (∃ m, m.length = 28 ∧ exec (.tdispGetCapabilities k n) s = .next (s.draw.respond x.path (tdispMsg 2 n.val m))) ∧
      (exec (.getInterfaceState k n) s = .next (s.respond x.path (tdispMsg 5 n.val (leBytes 1 (tdiCode tdi))))) ∧
      (tdi = .locked ∨ tdi = .run → ∃ m, exec (.getInterfaceReport k n) s = .next (s.respond x.path (tdispMsg 4 n.val m))) ∧
      (tdi ≠ .locked → tdi ≠ .run → exec (.getInterfaceReport k n) s = .next (s.respond x.path (tdispError n.val 4))) ∧
      (∀ stream, (s.seat n.val).state = .active → tdi = .unlocked → stream ∈ s.sc.ideSel →
        ∃ t, exec (.lockInterface k n stream) s = .next t ∧ (t.seat n.val).tdi = .locked ∧
          (t.seat n.val).tdiStream = some stream ∧ (t.seat n.val).tdiNonce = s.drbgNext ∧
          (t.seat n.val).state = .active) ∧
      (∀ stream, (s.seat n.val).state ≠ .active ∨ tdi ≠ .unlocked ∨ stream ∉ s.sc.ideSel →
        exec (.lockInterface k n stream) s = .next (s.respond x.path (tdispError n.val 4))) ∧
      (tdi = .locked → ∃ t, exec (.startInterface k n (s.seat n.val).tdiNonce) s = .next t ∧ (t.seat n.val).tdi = .run ∧
        (t.seat n.val).tdiStream = (s.seat n.val).tdiStream) ∧
      (∀ nonce, tdi = .locked → nonce ≠ (s.seat n.val).tdiNonce →
        exec (.startInterface k n nonce) s = .next (s.respond x.path (tdispError n.val 0x102))) ∧
      (∃ t, exec (.stopInterface k n) s = .next t ∧ (t.seat n.val).tdi = .unlocked ∧ (t.seat n.val).tdiStream = none ∧
        ((s.seat n.val).state = .active → s.resetting (n.val / 16) = false → (t.seat n.val).state = .releasing))

/-- Signed records: GO while one is under way is dropped; otherwise SIGN is busy until it completes (R446). It ends with the
cause found at GO, or SEAT_CHANGED when the seat is not the one of GO any more; else the record of the root, with one more
signature counted, is stored and no other byte changes. -/
def Obligations.SignedRecords : Prop :=
  (∀ (s : State) (tlp : Tlp), s.barLive = true →
    (s.sc.signing.isSome = true → exec (.sign tlp) s = .next (s.raise (scReg 4) 4)) ∧
    (s.sc.signing = none → ∃ t x, exec (.sign tlp) s = .next t ∧ t.sc.signing = some x ∧
      x.seat = s.regField (scReg 0x10) 8 0 ∧ x.cause = s.signCause tlp ∧ bit (t.reg (scReg 0x20)) 31 = true ∧
      s.regsOnly t [scReg 0x20])) ∧
  (∀ (s : State) (x : Signing), s.coreOn = true → s.sc.signing = some x →
    let same := (s.seat x.seat).state = .active ∧ s.cgen x.seat = x.cgen ∧ s.epoch (x.seat / 16) = x.epoch
    (x.cause ≠ 0 → ∃ t, exec .signComplete s = .next t ∧ t.sc.signing = none ∧
      t.reg (scReg 0x20) = BitVec.ofNat 32 x.cause ∧ t.csMem = s.csMem) ∧
    (x.cause = 0 → ¬ same → ∃ t, exec .signComplete s = .next t ∧ t.sc.signing = none ∧
      t.reg (scReg 0x20) = 3 ∧ t.csMem = s.csMem) ∧
    (x.cause = 0 → same →
      let a := s.regN (scReg 0x18) * 64
      let record := s.signRecord x.seat (s.sc.signCount + 1) (s.csBytes (s.regN (scReg 0x14) * 64) 32)
      record.length = 256 ∧ ∃ t, exec .signComplete s = .next t ∧ t.sc.signing = none ∧
        t.sc.signCount = s.sc.signCount + 1 ∧ t.reg (scReg 0x20) = 0 ∧ t.holds a record ∧ s.storeOnly t a 256))

/-! Boot, objects and the field network (R428, R449 to R482, R497). -/

/-- Boot: the slot the ROM chose runs if its image is accepted, else the other; with neither the boot has failed (R428, R476).
FW_READY needs core, store and HBM, and loads the settings' registers (R497). A trial that is not ready in 3.5 s, or not
healthy at its window's end, is cleared and the device resets (R477). -/
def Obligations.BootsAndTrials : Prop :=
  (∀ (s : State) (a b : ImageCheck) (found : List BringUp), s.aoOn = true → s.fw.boot = .rom →
    let ok := fun (n : Nat) => s.imageOk (s.fw.images.getD n .blank) (if n = 0 then a else b)
    (ok s.fw.running = true → ∃ t, exec (.firmwareVerified a b found) s = .next t ∧ t.fw.boot = .verified ∧
      t.fw.running = s.fw.running ∧ t.tb.counting = true ∧ t.fn.enabled = true) ∧
    (ok s.fw.running = false → ok (1 - s.fw.running) = true →
      ∃ t, exec (.firmwareVerified a b found) s = .next t ∧ t.fw.boot = .verified ∧ t.fw.running = 1 - s.fw.running) ∧
    (ok s.fw.running = false → ok (1 - s.fw.running) = false →
      ∃ t, exec (.firmwareVerified a b found) s = .next t ∧ t.fw.boot = .failed ∧ t.sc.attest = false ∧
        t.csMem = s.csMem)) ∧
  (∀ s : State, s.coreOn = true → s.pw.csReady = true → s.pw.hbmReady = true → s.fw.boot = .verified →
    ∃ t, exec .fwReady s = .next t ∧ t.fw.boot = .ready ∧ t.sc.attest = true ∧
      t.reg (csReg 0) = BitVec.ofNat 32 (s.obj 0x2500 1 4) ∧ t.reg (ecReg 0x800) = BitVec.ofNat 32 (s.obj 0x2800 1 0)) ∧
  (∀ s : State, s.fw.boot ≠ .verified → exec .fwReady s = .next s) ∧
  (∀ s : State, s.inTrial = true → s.fw.boot = .verified →
    ∃ t, exec .trialReadyTimeout s = .next t ∧ t.fw.trial = none ∧ t.fw.fell = true ∧ t.ec.devReset.isSome = true ∧
      s.fw.bootAt + 3500000000 ≤ t.uptime) ∧
  (∀ (s : State) (due : Nat), s.fw.windowEnd = some due → s.fw.bootState = 1 →
    (s.fw.healthOk = true → ∃ t, exec .trialWindowEnd s = .next t ∧ t.fw.windowEnd = none ∧ t.fw.trial = s.fw.trial ∧
      due ≤ t.uptime ∧ t.ec = s.ec) ∧
    (s.fw.healthOk = false → ∃ t, exec .trialWindowEnd s = .next t ∧ t.fw.trial = none ∧ t.fw.fell = true ∧
      t.ec.devReset.isSome = true ∧ due ≤ t.uptime))

/-- Object requests: READ answers the value from OFFSET, or the abort code; a request out of form gets BAD_COMMAND; a
refused WRITE changes nothing; an accepted WRITE of an RWP value is kept and stored in a settings block, or the store
fails (a free value, log entry 1) and it is refused; a segment that does not complete its value is kept, and one that
does not continue it drops it (R460 to R468, R478). Firmware commands and record clearing: START_TRIAL names the other
slot and resets the device (R481); COMMIT makes the running slot the committed one (R480); FALL_BACK clears the trial
and resets (R477); the retirement record and the arrays' counts and retirements are cleared (R307, R399). -/
def Obligations.ObjectRequests : Prop :=
  (∀ (s : State) (f : ReqFrame), s.answers f.path = true →
     let u := s.heardOn f.path
     let form := f.reserved = false ∧ f.len = 0 ∧ 1 ≤ f.arg.toNat ∧ f.arg.toNat ≤ 48
     (f.op = 1 → form → ∀ v, u.readable f.obj = .ok v → exec (.objectRead f) s =
       .next (u.reply f.path (rspBytes f false v.length ((v.drop f.offset.toNat).take f.arg.toNat)))) ∧
     (f.op = 1 → form → ∀ c, u.readable f.obj = .error c →
       exec (.objectRead f) s = .next (u.reply f.path (rspBytes f (decide (c ≠ 0)) c []))) ∧
     (f.op = 1 → ¬ form → exec (.objectRead f) s = .next (u.answer f 1)) ∧
     (∀ c data, plainWrite f data → data.length ≤ 48 → u.writable f = .error c →
       exec (.objectWrite f) s = .next (u.answer f c)) ∧
     (∀ o data, plainWrite f data → data.length ≤ 48 → u.writable f = .ok o → o.acc = .rwp → o.type.scalar = true →
       lengthOk o.type data.length = true → encodingOk o.type (leNat data) = true →
       rangeOk f.obj.index.toNat f.obj.sub.toNat (leNat data) = true →
       u.stateCause f.path f.obj.index.toNat f.obj.sub.toNat (leNat data) = 0 →
       if Config.storeFails u.free then exec (.objectWrite f) s = .next (u.draw.answer f 0x601)
       else ∃ t b, exec (.objectWrite f) s = .next t ∧
         (∀ d, t.obj f.obj.index.toNat f.obj.sub.toNat d = leNat data) ∧ t.fw.blocks.getLast? = some b ∧
         SMap.find? b.entries (objKey f.obj.index.toNat f.obj.sub.toNat) = some (leNat data)) ∧
     (∀ o check, f.op = 3 → f.reserved = false → 1 ≤ f.len → f.len ≤ 48 → f.arg ≠ 0 → u.writable f = .ok o →
       o.type.scalar = true ∨ u.downloadCause f.path = 0 →
       let v := if f.offset = 0 then u.setSeg f.path none else u
       (v.segment f = none → exec (.objectWriteSeg f check) s = .next ((v.setSeg f.path none).answer f 0x501)) ∧
       (∀ b, v.segment f = some b → b.data.length < b.total →
         exec (.objectWriteSeg f check) s = .next ((v.setSeg f.path (some b)).answer f 0)))) ∧
  (∀ (s : State) (f : ReqFrame) (o : ObjInfo), s.answers f.path = true → plainWrite f [1#8] →
     let u := s.heardOn f.path
     u.writable f = .ok o → u.stateCause f.path f.obj.index.toNat f.obj.sub.toNat 1 = 0 →
     (f.obj = { index := 0x7002, sub := 2 } → ∃ t, exec (.startTrial f) s = .next t ∧
       t.fw.trial = some (1 - s.fw.running) ∧ t.fw.trialCount = 0 ∧ t.ec.devReset.isSome = true ∧
       t.fw.committed = s.fw.committed) ∧
     (f.obj = { index := 0x7002, sub := 3 } →
       if Config.storeFails u.free then exec (.commit f) s = .next (u.draw.answer f 0x601)
       else ∃ t, exec (.commit f) s = .next t ∧ t.fw.committed = s.fw.running ∧ t.fw.trial = none ∧
         t.fw.bootState = 0 ∧ t.fw.orphaned = false) ∧
     (f.obj = { index := 0x7002, sub := 4 } → ∃ t, exec (.fallBack f) s = .next t ∧ t.fw.trial = none ∧
       t.fw.fell = true ∧ t.ec.devReset.isSome = true ∧ t.fw.committed = s.fw.committed) ∧
     (f.obj = { index := 0x4020, sub := 4 } → ∃ t, exec (.clearRetirementRecord f) s = .next t ∧
       (∀ k d, k < 256 → t.obj 0x4020 k d = d) ∧ t.fw = s.fw) ∧
     (f.obj = { index := 0x4040, sub := 2 } → ∃ t, exec (.clearArrayCounts f) s = .next t ∧
       ∀ p a, (t.arr p a).faults = 0 ∧ (t.arr p a).retired = false))

/-- Frames of the field network: an acknowledged frame leaves the queue, an unacknowledged one is sent again, but for a BID
(R451, R452); 16 unacknowledged frames make the device LONELY (R452); errors and recovery move the counts (R451, log entry
13); heartbeats and alarms go out in their period (R458, R459); a frame from the device's own address is ADDR_CONFLICT (R456);
READDRESS drops the address (R457); a tunnelled message is complete with its LAST segment (R463). -/
def Obligations.FieldNetworkFrames : Prop :=
  ∀ s : State, s.fnRuns = true →
    (∀ id data rest, s.fn.busOff = false → s.fn.state ≠ .listen → s.fn.pending = (id, data) :: rest →
      (∃ t, exec (.canFrameSent true) s = .next t ∧ t.fn.pending = rest ∧ t.fn.unacked = 0 ∧ t.out = .can id data :: s.out ∧
        t.fn.state = (if s.fn.state = .lonely then .active else s.fn.state)) ∧
      (frameCode id ≠ 0xF → ∃ t, exec (.canFrameSent false) s = .next t ∧ t.fn.pending = s.fn.pending ∧
        t.fn.unacked = s.fn.unacked + 1 ∧ t.out = .can id data :: s.out)) ∧
    (s.fn.state = .active → 16 ≤ s.fn.unacked → ∃ t, exec .lonely s = .next t ∧ t.fn.state = .lonely ∧
      bit (t.reg (mgReg 0x104)) 0 = true ∧ ∀ q ∈ t.fn.pending, frameCode q.1 = 0xE) ∧
    (s.fn.busOff = true → ∃ t, exec .busOffRecovery s = .next t ∧ t.fn.busOff = false ∧ t.fn.tec = 0 ∧ t.fn.rxErr = 0 ∧
      t.fn.address = s.fn.address) ∧
    (∀ n, ∃ t, exec (.canReceiveError n) s = .next t ∧ t.fn.rxErr = min 255 (s.fn.rxErr + n) ∧
      (s.fn.passive = false → 128 ≤ min 255 (s.fn.rxErr + n) → bit (t.reg (mgReg 0x104)) 3 = true)) ∧
    (∀ due, s.fn.rateDue = some due → ∃ t, exec .dataPhaseRateChange s = .next t ∧ t.fn.rateDue = none ∧
      t.fn.rateNow = s.obj 0x1012 1 2 ∧ due ≤ t.uptime) ∧
    (s.fn.state = .active → s.obj 0x1013 1 1000 ≠ 0 → ∃ t data, exec .heartbeatSend s = .next t ∧
      t.fn.pending = s.fn.pending ++ [(canIdent 0xE s.fn.address, data)] ∧ t.fn.hbLast = t.uptime ∧
      s.fn.hbLast + s.obj 0x1013 1 1000 * 1000000 ≤ t.uptime) ∧
    (s.fn.state = .active → s.fn.alarmFrom.isSome = true → ∃ t ns, exec .alarmSend s = .next t ∧
      t.fn.pending = s.fn.pending ++ [(canIdent 1 s.fn.address, leBytes 4 s.fn.alarmFault.toNat ++
        leBytes 4 s.fn.alarmArray.toNat ++ ns)] ∧ t.fn.alarmFrom = none ∧ t.fn.alarmLast = some t.uptime ∧
      ∀ last, s.fn.alarmLast = some last → last + 100000000 ≤ t.uptime) ∧
    (∀ (a : BitVec 7) serial c, c = Instr.heartbeatReceived a ∨ c = Instr.claimReceived a serial →
      (s.hasAddress = true → a.toNat = s.fn.address → ∃ t, exec c s = .next t ∧ bit (t.reg (mgReg 0x104)) 1 = true ∧
        t.fn.state = (if s.fn.source = 2 then .electing else s.fn.state)) ∧
      (a.toNat ≠ s.fn.address → ∃ t, exec c s = .next t ∧ a.toNat ∈ t.fn.noted ∧ t.fn.address = s.fn.address ∧
        t.fn.state = s.fn.state)) ∧
    (∀ a : BitVec 7, (a = 0 ∨ (s.hasAddress = true ∧ a.toNat = s.fn.address) → ∃ t, exec (.readdress a) s = .next t ∧
        t.fn.state = .listen ∧ t.fn.address = 0 ∧ t.fn.pending = []) ∧
      (a ≠ 0 → a.toNat ≠ s.fn.address → ∃ t, exec (.readdress a) s = .next t ∧ t.fn.state = s.fn.state ∧
        t.fn.address = s.fn.address)) ∧
    (∀ (k : Byte) data, s.hasAddress = true →
      (data.length ≤ 4096 → ∃ t, exec (.tunnelReq true true k data) s = .next t ∧ t.fn.message = some data) ∧
      (∀ c d last, s.fn.tunnel = some (c, d) → k.toNat ≠ (c + 1) % 256 →
        ∃ t, exec (.tunnelReq false last k data) s = .next t ∧ t.fn.tunnel = none ∧ t.fn.message = s.fn.message))

/-- Node addresses: two chain frames of one count, or 250 ms without any, give ADDR_BASE + index and a CLAIM; an index beyond
0x5F, or 500 ms low, starts an election (R453, R454); a chain device repeats its index to the next (R453). An election
listens 1.1 s, opens after 20 ms without a BID, and goes on digit by digit: who sends another digit than the bus carries
withdraws, and after round 10 the contender takes the lowest free address (R455). -/
def Obligations.NodeAddresses : Prop :=
  ∀ s : State, s.fnRuns = true →
    (s.fn.state = .listen →
      (∀ k, s.fn.lastCount ≠ some k → ∃ t, exec (.chainInFrame k) s = .next t ∧ t.fn.lastCount = some k ∧
        t.fn.state = .listen) ∧
      (∀ k, s.fn.lastCount = some k → s.fn.base + k ≤ 0x5F → ∃ t, exec (.chainInFrame k) s = .next t ∧
        t.fn.state = .active ∧ t.fn.address = s.fn.base + k ∧ t.fn.source = 1 ∧
        ∃ data, (canIdent 7 (s.fn.base + k), data) ∈ t.fn.pending) ∧
      (∀ k, s.fn.lastCount = some k → 0x5F < s.fn.base + k → ∃ t, exec (.chainInFrame k) s = .next t ∧
        t.fn.state = .electing ∧ bit (t.reg (mgReg 0x104)) 2 = true) ∧
      (s.fn.base ≤ 0x5F → ∃ t, exec .chainInHighTimeout s = .next t ∧ t.fn.state = .active ∧ t.fn.address = s.fn.base ∧
        s.fn.listenFrom + 250000000 ≤ t.uptime) ∧
      (∃ t, exec .chainInLowTimeout s = .next t ∧ t.fn.state = .electing ∧ bit (t.reg (mgReg 0x104)) 2 = true ∧
        s.fn.listenFrom + 500000000 ≤ t.uptime)) ∧
    (s.hasAddress = true → s.fn.source = 1 → ∃ t, exec .chainOutFrame s = .next t ∧
      t.out = .chainOut s.fn.chainIndex :: s.out ∧ s.fn.chainLast + 100000000 ≤ t.uptime) ∧
    (s.fn.state = .electing → s.fn.listened = false → ∃ t, exec .electionListenEnd s = .next t ∧ t.fn.listened = true ∧
      s.fn.listenFrom + 1100000000 ≤ t.uptime) ∧
    (s.fn.state = .electing → s.fn.listened = true → s.fn.contending = false → ∃ t, exec .electionOpen s = .next t ∧
      t.fn.contending = true ∧ t.fn.round = 0 ∧ s.fn.bidLast + 20000000 ≤ t.uptime ∧
      t.fn.pending = [(canIdent 0xF (bidDigit s.serial.toNat 0), [])]) ∧
    (s.fn.contending = true → ∀ d : BitVec 6,
      let mine := bidDigit s.serial.toNat s.fn.round
      (d.toNat ≠ mine → ∃ t, exec (.bidReceived d) s = .next t ∧ t.fn.contending = false ∧ t.fn.pending = [] ∧
        t.fn.address = s.fn.address) ∧
      (d.toNat = mine → s.fn.round < 10 → ∃ t, exec (.bidReceived d) s = .next t ∧ t.fn.round = s.fn.round + 1 ∧
        t.fn.pending = [(canIdent 0xF (bidDigit s.serial.toNat (s.fn.round + 1)), [])]) ∧
      (d.toNat = mine → 10 ≤ s.fn.round → ∀ a, s.freeAddress = some a → ∃ t, exec (.bidReceived d) s = .next t ∧
        t.fn.state = .active ∧ t.fn.address = a ∧ t.fn.source = 2))

/-- The service UART and the trace: an object's value, its abort code, the status line and the version are written as lines
(R471, log entry 16); an unknown line gets BAD_COMMAND; overrun, framing and break set their bits (R472); a written rate takes
effect (R469). A dropped trace record takes its place back (R474). -/
def Obligations.UartAndTrace : Prop :=
  (∀ s : State, s.aoOn = true → s.fw.boot ≠ .held →
    (∀ i o v, s.entry i = .ok o → s.readable i = .ok v → exec (.uartReadObject i) s =
      .next (s.emit (.uart ("OK " ++ objName i ++ " " ++ valueText o v)))) ∧
    (∀ i c, s.readable i = .error c → exec (.uartReadObject i) s = .next (s.emit (.uart ("ERR " ++ codeText c)))) ∧
    (∀ i off o v, s.entry i = .ok o → s.readable i = .ok v → o.type.scalar = false →
      exec (.uartReadOffset i off) s =
        .next (s.emit (.uart ("OK " ++ objName i ++ " " ++ bytesText ((v.drop off.toNat).take 48))))) ∧
    (∀ i off o v, s.entry i = .ok o → s.readable i = .ok v → o.type.scalar = true →
      exec (.uartReadOffset i off) s = .next (s.emit (.uart ("ERR " ++ codeText 1)))) ∧
    (∀ i off c, s.readable i = .error c →
      exec (.uartReadOffset i off) s = .next (s.emit (.uart ("ERR " ++ codeText c)))) ∧
    (exec .uartStatus s = .next (s.emit (.uart (hexDigits 2 (s.objNat 0x1010 2 0) ++ " " ++
      hexDigits 1 (fnCode s.fn.state) ++ " " ++ hexDigits 1 s.fw.bootState ++ " " ++ hexDigits 8 s.ecStatus)))) ∧
    (exec .uartVersion s = .next (s.emit (.uart s.runningImage.version))) ∧
    (exec .uartBadLine s = .next (s.emit (.uart ("ERR " ++ codeText 1)))) ∧
    (∃ t, exec .traceTextStart s = .next t ∧ t.uart.text = true ∧ t.regs = s.regs) ∧
    (∃ t, exec .traceTextStop s = .next t ∧ t.uart.text = false ∧ t.regs = s.regs) ∧
    (∃ t, exec .uartOverrun s = .next t ∧ bit (t.reg (mgReg 0x104)) 6 = true ∧ s.regsOnly t [mgReg 0x104]) ∧
    (∃ t, exec .uartFraming s = .next t ∧ bit (t.reg (mgReg 0x104)) 4 = true ∧ s.regsOnly t [mgReg 0x104]) ∧
    (∃ t, exec .uartBreak s = .next t ∧ bit (t.reg (mgReg 0x104)) 5 = true ∧ s.regsOnly t [mgReg 0x104]) ∧
    ∀ v, s.uart.rateNext = some v → ∃ t, exec .uartRateChange s = .next t ∧ t.uart.rateNow = v ∧
      t.uart.rateNext = none) ∧
  (∀ s : State, s.coreOn = true → ¬ s.traceOff → s.reg (mgReg 0x118) ≠ s.reg (mgReg 0x11C) →
    let at' := (s.reg (mgReg 0x118) - 1).toNat % 2 ^ s.regField (mgReg 0x114) 28 24
    ∃ t, exec .traceRecordDrop s = .next t ∧ t.reg (mgReg 0x118) = s.reg (mgReg 0x118) - 1 ∧
      s.regsOnly t [mgReg 0x118] ∧ s.storeOnly t (s.regField (mgReg 0x114) 17 0 * unit64K + at' * 32) 32)

/-! Power (R485 to R496, R507). -/

/-- Power: a power-on reset keeps the part, its fuses and its firmware store, and nothing of the Central Store (R485); its
release starts the boot ROM, and the straps are taken once, 2 ms later (R496, R507); an evaluation shows VIN and power and
moves the step by one, or to 3 at a trip (R491, R492); a trip drives THERM_ALERT_N until every sensor has been cool for 1 s
(R493); a core loss switches the core off with its contents, and it restarts after 1 s of good supply (R494, R495). -/
def Obligations.PowerAndCore : Prop :=
  (∀ s : State, ∃ t, exec .powerOnReset s = .next t ∧ t.pw.state = .reset ∧ t.regs = [] ∧ t.seats = [] ∧ t.csMem = [] ∧
    t.hbm = [] ∧ s.samePart t ∧ t.pending = s.pending ∧ t.fw.images = s.fw.images ∧ t.fw.blocks = s.fw.blocks ∧
    t.sc.svnFused = s.sc.svnFused ∧ t.sc.revoked = s.sc.revoked) ∧
  (∀ s : State,
    (s.pw.state = .reset → ∃ t, exec .sysResetRelease s = .next t ∧ t.pw.state = .aoOnly ∧ t.uptime = 0 ∧
      t.fw.boot = .rom) ∧
    (s.pw.state ≠ .reset → exec .sysResetRelease s = .next s)) ∧
  (∀ (s : State) (pos : BitVec 3), s.aoOn = true →
    (s.pw.posTaken = true → exec (.posSample pos) s = .next s) ∧
    (s.pw.posTaken = false → ∃ t, exec (.posSample pos) s = .next t ∧ t.pw.pos = pos ∧ t.pw.posTaken = true ∧
      2000000 ≤ t.uptime)) ∧
  (∀ (s : State) (vin iin : BitVec 16) (power : BitVec 12) (tj : Byte) (p : PartNo), s.aoOn = true →
    let step := s.regField (pwReg 4) 1 0
    ∃ t, exec (.powerStepEvaluation vin iin power tj p) s = .next t ∧ s.pw.lastEval + 100000 ≤ t.uptime ∧
      t.regN (pwReg 0xC) = iin.toNat * 2 ^ 16 + vin.toNat ∧ t.regN (pwReg 0x10) = power.toNat ∧
      (s.tTrip ≤ tj.toNat → t.regField (pwReg 4) 1 0 = 3) ∧
      (tj.toNat < s.tTrip → s.anyCrit = false → s.regField (pwReg 0) 11 0 < power.toNat → step < 3 →
        s.pw.lastRaise + 1000000 ≤ s.uptime → t.regField (pwReg 4) 1 0 = step + 1)) ∧
  (∀ (s : State) (temp : Byte) (p : PartNo), s.aoOn = true →
    (temp.toNat < s.tTrip → exec (.thermalTrip temp p) s = .next s) ∧
    (s.tTrip ≤ temp.toNat → ∃ t, exec (.thermalTrip temp p) s = .next t ∧ t.pw.hot = true ∧
      t.regField (pwReg 4) 1 0 = 3 ∧ bit (t.reg (pwReg 8)) 1 = true ∧
      (s.pw.hot = false → t.out = .thermAlert true :: s.out))) ∧
  (∀ (s : State) (since : Nat), s.pw.coolFrom = some since → s.pw.hot = true →
    ∃ t, exec .thermAlertRelease s = .next t ∧ t.pw.hot = false ∧ since + 1000000000 ≤ t.uptime ∧
      t.out = .thermAlert false :: s.out) ∧
  (∀ (s : State) (cause : CoreLoss), s.coreOn = true → ∃ t, exec (.coreLoss cause) s = .next t ∧ t.coreOn = false ∧
    t.pw.lost = true ∧ (∀ n, (t.seat n).state = .free ∧ (t.seat n).running = [] ∧ (t.seat n).wardKey = none) ∧
    (∀ a, t.csByte a = 0) ∧
    bit (t.reg (pwReg 8)) (match cause with | .thermal => 2 | .vin => 3) = true) ∧
  (∀ (s : State) (since : Nat) (found : List BringUp), s.pw.okFrom = some since → s.pw.lost = true →
    ∃ t, exec (.coreRestart found) s = .next t ∧ t.pw.lost = false ∧ t.coreOn = true ∧ since + 1000000000 ≤ t.uptime ∧
      t.ec.devReset.isSome = true ∧ bit (t.reg (ecReg 8)) 5 = true)
end

