-- ==== Sys2Proof/Laws/SMap.lean ====
section
/-! SUPPORT. Laws of the sparse map: reading after writing, and the canonical form that every operation keeps. -/

namespace Sys2Proof.SMap

variable {α : Type}

theorem find?_erase_same (m : SMap α) (k : Nat) : find? (erase m k) k = none := by
  induction m with
  | nil => rfl
  | cons e m ih =>
    by_cases h : e.1 = k
    · simpa [erase, h] using ih
    · have : erase (e :: m) k = e :: erase m k := by simp [erase, h]
      simpa [this, find?, h] using ih

theorem find?_erase_other (m : SMap α) {j k : Nat} (h : j ≠ k) : find? (erase m k) j = find? m j := by
  induction m with
  | nil => rfl
  | cons e m ih =>
    by_cases he : e.1 = k
    · have hj : ¬ e.1 = j := fun hj => h (hj.symm.trans he)
      have : erase (e :: m) k = erase m k := by simp [erase, he]
      simp [this, find?, hj, ih]
    · have : erase (e :: m) k = e :: erase m k := by simp [erase, he]
      simp [this, find?, ih]

theorem find?_insert_same (m : SMap α) (k : Nat) (v : α) (hm : find? m k = none) : find? (insert k v m) k = some v := by
  induction m with
  | nil => simp [insert, find?]
  | cons e m ih =>
    obtain ⟨j, w⟩ := e
    by_cases hj : j = k
    · simp [find?, hj] at hm
    · have hm' : find? m k = none := by simpa [find?, hj] using hm
      by_cases hl : k < j
      · simp [insert, hl, find?]
      · simp [insert, hl, find?, hj, ih hm']

theorem find?_insert_other (m : SMap α) {j k : Nat} (v : α) (h : j ≠ k) : find? (insert k v m) j = find? m j := by
  induction m with
  | nil => simp [insert, find?, Ne.symm h]
  | cons e m ih =>
    by_cases hl : k < e.1
    · simp [insert, hl, find?, Ne.symm h]
    · simp [insert, hl, find?, ih]

variable [DecidableEq α]

/-- A read at the key that was written gives the value written. -/
@[simp] theorem get_set_same (d : α) (m : SMap α) (k : Nat) (v : α) : get d (set d m k v) k = v := by
  by_cases h : v = d
  · simp [set, h, get, find?_erase_same]
  · simp [set, h, get, find?_insert_same _ _ _ (find?_erase_same m k)]

/-- A write leaves every other key alone. -/
theorem get_set_other (d e : α) (m : SMap α) {j k : Nat} (v : α) (h : j ≠ k) : get e (set d m k v) j = get e m j := by
  by_cases hv : v = d
  · simp [set, hv, get, find?_erase_other _ h]
  · simp [set, hv, get, find?_insert_other _ v h, find?_erase_other _ h]

/-! The canonical form. -/

theorem wf_iff (d : Nat → α) (m : SMap α) :
    wf d m = true ↔ (m.Pairwise fun e f => e.1 < f.1) ∧ ∀ e ∈ m, e.2 ≠ d e.1 := by
  have hs : ∀ m : SMap α, sorted m = true ↔ m.Pairwise fun e f => e.1 < f.1 := by
    intro m
    induction m with
    | nil => simp [sorted]
    | cons e m ih =>
      cases m with
      | nil => simp [sorted]
      | cons f m =>
        simp only [sorted, Bool.and_eq_true, decide_eq_true_eq, ih]
        constructor
        · rintro ⟨hef, h⟩
          refine List.pairwise_cons.2 ⟨fun g hg => ?_, h⟩
          rcases List.mem_cons.1 hg with rfl | hg
          · exact hef
          · exact Nat.lt_trans hef (List.rel_of_pairwise_cons h hg)
        · intro h
          exact ⟨List.rel_of_pairwise_cons h (by simp), (List.pairwise_cons.1 h).2⟩
  simp [wf, hs]

/-- Leaving out entries keeps the canonical form. -/
theorem wf_filter {d : Nat → α} {m : SMap α} (p : Nat × α → Bool) (h : wf d m = true) : wf d (m.filter p) = true := by
  rw [wf_iff] at h ⊢
  exact ⟨h.1.sublist List.filter_sublist, fun e he => h.2 e (List.mem_filter.1 he).1⟩

theorem wf_dropRange {d : Nat → α} {m : SMap α} (lo hi : Nat) (h : wf d m = true) : wf d (dropRange m lo hi) = true :=
  wf_filter _ h

theorem mem_insert (k : Nat) (v : α) (m : SMap α) (e : Nat × α) : e ∈ insert k v m ↔ e = (k, v) ∨ e ∈ m := by
  induction m with
  | nil => simp [insert]
  | cons f m ih =>
    by_cases hl : k < f.1
    · simp [insert, hl]
    · simp only [insert, hl, if_false, List.mem_cons, ih]
      tauto

theorem pairwise_insert (k : Nat) (v : α) (m : SMap α) (hk : ∀ e ∈ m, e.1 ≠ k)
    (h : m.Pairwise fun e f => e.1 < f.1) : (insert k v m).Pairwise fun e f => e.1 < f.1 := by
  induction m with
  | nil => simp [insert]
  | cons f m ih =>
    have hf := List.pairwise_cons.1 h
    by_cases hl : k < f.1
    · simp only [insert, hl, if_true]
      refine List.pairwise_cons.2 ⟨fun g hg => ?_, h⟩
      rcases List.mem_cons.1 hg with rfl | hg
      · exact hl
      · exact Nat.lt_trans hl (hf.1 g hg)
    · simp only [insert, hl, if_false]
      refine List.pairwise_cons.2 ⟨fun g hg => ?_, ih (fun e he => hk e (by simp [he])) hf.2⟩
      rcases (mem_insert k v m g).1 hg with rfl | hg
      · have := hk f (by simp)
        simp only
        omega
      · exact hf.1 g hg

/-- A write keeps the canonical form; `d` gives what each unlisted key reads as. -/
theorem wf_set {d : Nat → α} {m : SMap α} (k : Nat) (v : α) (h : wf d m = true) : wf d (set (d k) m k v) = true := by
  have he : wf d (erase m k) = true := wf_filter _ h
  by_cases hv : v = d k
  · simpa [set, hv] using he
  · rw [wf_iff] at he ⊢
    have hne : ∀ e ∈ erase m k, e.1 ≠ k := fun e hm => by simpa using (List.mem_filter.1 hm).2
    simp only [set, hv, if_false]
    refine ⟨pairwise_insert k v _ hne he.1, fun e hm => ?_⟩
    rcases (mem_insert k v _ e).1 hm with rfl | hm
    · exact hv
    · exact he.2 e hm

end Sys2Proof.SMap
end

