-- ==== Sys2Proof/Laws/State.lean ====
section
/-! SUPPORT. What each update of the state changes: one lemma per field that an update leaves alone, true by `rfl`, and
what reads give after writes, so that no proof unfolds a record update. -/

set_option Elab.async false

namespace Sys2Proof.Machine

variable (s : State)

/-! `setReg`. -/

@[simp] theorem State.setReg_pending (off : Nat) (v : Word) : (s.setReg off v).pending = s.pending := rfl
@[simp] theorem State.setReg_variant (off : Nat) (v : Word) : (s.setReg off v).variant = s.variant := rfl
@[simp] theorem State.setReg_stepping (off : Nat) (v : Word) : (s.setReg off v).stepping = s.stepping := rfl
@[simp] theorem State.setReg_serial (off : Nat) (v : Word) : (s.setReg off v).serial = s.serial := rfl
@[simp] theorem State.setReg_objs (off : Nat) (v : Word) : (s.setReg off v).objs = s.objs := rfl
@[simp] theorem State.setReg_time (off : Nat) (v : Word) : (s.setReg off v).time = s.time := rfl
@[simp] theorem State.setReg_uptime (off : Nat) (v : Word) : (s.setReg off v).uptime = s.uptime := rfl
@[simp] theorem State.setReg_seats (off : Nat) (v : Word) : (s.setReg off v).seats = s.seats := rfl
@[simp] theorem State.setReg_parts (off : Nat) (v : Word) : (s.setReg off v).parts = s.parts := rfl
@[simp] theorem State.setReg_arrays (off : Nat) (v : Word) : (s.setReg off v).arrays = s.arrays := rfl
@[simp] theorem State.setReg_launches (off : Nat) (v : Word) : (s.setReg off v).launches = s.launches := rfl
@[simp] theorem State.setReg_csMem (off : Nat) (v : Word) : (s.setReg off v).csMem = s.csMem := rfl
@[simp] theorem State.setReg_csPoison (off : Nat) (v : Word) : (s.setReg off v).csPoison = s.csPoison := rfl
@[simp] theorem State.setReg_csUpset (off : Nat) (v : Word) : (s.setReg off v).csUpset = s.csUpset := rfl
@[simp] theorem State.setReg_cache (off : Nat) (v : Word) : (s.setReg off v).cache = s.cache := rfl
@[simp] theorem State.setReg_fills (off : Nat) (v : Word) : (s.setReg off v).fills = s.fills := rfl
@[simp] theorem State.setReg_resize (off : Nat) (v : Word) : (s.setReg off v).resize = s.resize := rfl
@[simp] theorem State.setReg_heldCreates (off : Nat) (v : Word) : (s.setReg off v).heldCreates = s.heldCreates := rfl
@[simp] theorem State.setReg_csScrub (off : Nat) (v : Word) : (s.setReg off v).csScrub = s.csScrub := rfl
@[simp] theorem State.setReg_hbm (off : Nat) (v : Word) : (s.setReg off v).hbm = s.hbm := rfl
@[simp] theorem State.setReg_hbmUpset (off : Nat) (v : Word) : (s.setReg off v).hbmUpset = s.hbmUpset := rfl
@[simp] theorem State.setReg_hbmStacks (off : Nat) (v : Word) : (s.setReg off v).hbmStacks = s.hbmStacks := rfl
@[simp] theorem State.setReg_posted (off : Nat) (v : Word) : (s.setReg off v).posted = s.posted := rfl
@[simp] theorem State.setReg_refusals (off : Nat) (v : Word) : (s.setReg off v).refusals = s.refusals := rfl
@[simp] theorem State.setReg_nextId (off : Nat) (v : Word) : (s.setReg off v).nextId = s.nextId := rfl
@[simp] theorem State.setReg_hostReads (off : Nat) (v : Word) : (s.setReg off v).hostReads = s.hostReads := rfl
@[simp] theorem State.setReg_ports (off : Nat) (v : Word) : (s.setReg off v).ports = s.ports := rfl
@[simp] theorem State.setReg_tb (off : Nat) (v : Word) : (s.setReg off v).tb = s.tb := rfl
@[simp] theorem State.setReg_ec (off : Nat) (v : Word) : (s.setReg off v).ec = s.ec := rfl
@[simp] theorem State.setReg_rec_ (off : Nat) (v : Word) : (s.setReg off v).rec_ = s.rec_ := rfl
@[simp] theorem State.setReg_sc (off : Nat) (v : Word) : (s.setReg off v).sc = s.sc := rfl
@[simp] theorem State.setReg_fn (off : Nat) (v : Word) : (s.setReg off v).fn = s.fn := rfl
@[simp] theorem State.setReg_fw (off : Nat) (v : Word) : (s.setReg off v).fw = s.fw := rfl
@[simp] theorem State.setReg_uart (off : Nat) (v : Word) : (s.setReg off v).uart = s.uart := rfl
@[simp] theorem State.setReg_pw (off : Nat) (v : Word) : (s.setReg off v).pw = s.pw := rfl
@[simp] theorem State.setReg_out (off : Nat) (v : Word) : (s.setReg off v).out = s.out := rfl
@[simp] theorem State.setReg_free (off : Nat) (v : Word) : (s.setReg off v).free = s.free := rfl

/-! `setRegN`. -/

@[simp] theorem State.setRegN_pending (off v : Nat) : (s.setRegN off v).pending = s.pending := rfl
@[simp] theorem State.setRegN_variant (off v : Nat) : (s.setRegN off v).variant = s.variant := rfl
@[simp] theorem State.setRegN_stepping (off v : Nat) : (s.setRegN off v).stepping = s.stepping := rfl
@[simp] theorem State.setRegN_serial (off v : Nat) : (s.setRegN off v).serial = s.serial := rfl
@[simp] theorem State.setRegN_objs (off v : Nat) : (s.setRegN off v).objs = s.objs := rfl
@[simp] theorem State.setRegN_time (off v : Nat) : (s.setRegN off v).time = s.time := rfl
@[simp] theorem State.setRegN_uptime (off v : Nat) : (s.setRegN off v).uptime = s.uptime := rfl
@[simp] theorem State.setRegN_seats (off v : Nat) : (s.setRegN off v).seats = s.seats := rfl
@[simp] theorem State.setRegN_parts (off v : Nat) : (s.setRegN off v).parts = s.parts := rfl
@[simp] theorem State.setRegN_arrays (off v : Nat) : (s.setRegN off v).arrays = s.arrays := rfl
@[simp] theorem State.setRegN_launches (off v : Nat) : (s.setRegN off v).launches = s.launches := rfl
@[simp] theorem State.setRegN_csMem (off v : Nat) : (s.setRegN off v).csMem = s.csMem := rfl
@[simp] theorem State.setRegN_csPoison (off v : Nat) : (s.setRegN off v).csPoison = s.csPoison := rfl
@[simp] theorem State.setRegN_csUpset (off v : Nat) : (s.setRegN off v).csUpset = s.csUpset := rfl
@[simp] theorem State.setRegN_cache (off v : Nat) : (s.setRegN off v).cache = s.cache := rfl
@[simp] theorem State.setRegN_fills (off v : Nat) : (s.setRegN off v).fills = s.fills := rfl
@[simp] theorem State.setRegN_resize (off v : Nat) : (s.setRegN off v).resize = s.resize := rfl
@[simp] theorem State.setRegN_heldCreates (off v : Nat) : (s.setRegN off v).heldCreates = s.heldCreates := rfl
@[simp] theorem State.setRegN_csScrub (off v : Nat) : (s.setRegN off v).csScrub = s.csScrub := rfl
@[simp] theorem State.setRegN_hbm (off v : Nat) : (s.setRegN off v).hbm = s.hbm := rfl
@[simp] theorem State.setRegN_hbmUpset (off v : Nat) : (s.setRegN off v).hbmUpset = s.hbmUpset := rfl
@[simp] theorem State.setRegN_hbmStacks (off v : Nat) : (s.setRegN off v).hbmStacks = s.hbmStacks := rfl
@[simp] theorem State.setRegN_posted (off v : Nat) : (s.setRegN off v).posted = s.posted := rfl
@[simp] theorem State.setRegN_refusals (off v : Nat) : (s.setRegN off v).refusals = s.refusals := rfl
@[simp] theorem State.setRegN_nextId (off v : Nat) : (s.setRegN off v).nextId = s.nextId := rfl
@[simp] theorem State.setRegN_hostReads (off v : Nat) : (s.setRegN off v).hostReads = s.hostReads := rfl
@[simp] theorem State.setRegN_ports (off v : Nat) : (s.setRegN off v).ports = s.ports := rfl
@[simp] theorem State.setRegN_tb (off v : Nat) : (s.setRegN off v).tb = s.tb := rfl
@[simp] theorem State.setRegN_ec (off v : Nat) : (s.setRegN off v).ec = s.ec := rfl
@[simp] theorem State.setRegN_rec_ (off v : Nat) : (s.setRegN off v).rec_ = s.rec_ := rfl
@[simp] theorem State.setRegN_sc (off v : Nat) : (s.setRegN off v).sc = s.sc := rfl
@[simp] theorem State.setRegN_fn (off v : Nat) : (s.setRegN off v).fn = s.fn := rfl
@[simp] theorem State.setRegN_fw (off v : Nat) : (s.setRegN off v).fw = s.fw := rfl
@[simp] theorem State.setRegN_uart (off v : Nat) : (s.setRegN off v).uart = s.uart := rfl
@[simp] theorem State.setRegN_pw (off v : Nat) : (s.setRegN off v).pw = s.pw := rfl
@[simp] theorem State.setRegN_out (off v : Nat) : (s.setRegN off v).out = s.out := rfl
@[simp] theorem State.setRegN_free (off v : Nat) : (s.setRegN off v).free = s.free := rfl

/-! `raise`. -/

@[simp] theorem State.raise_pending (off mask : Nat) : (s.raise off mask).pending = s.pending := rfl
@[simp] theorem State.raise_variant (off mask : Nat) : (s.raise off mask).variant = s.variant := rfl
@[simp] theorem State.raise_stepping (off mask : Nat) : (s.raise off mask).stepping = s.stepping := rfl
@[simp] theorem State.raise_serial (off mask : Nat) : (s.raise off mask).serial = s.serial := rfl
@[simp] theorem State.raise_objs (off mask : Nat) : (s.raise off mask).objs = s.objs := rfl
@[simp] theorem State.raise_time (off mask : Nat) : (s.raise off mask).time = s.time := rfl
@[simp] theorem State.raise_uptime (off mask : Nat) : (s.raise off mask).uptime = s.uptime := rfl
@[simp] theorem State.raise_seats (off mask : Nat) : (s.raise off mask).seats = s.seats := rfl
@[simp] theorem State.raise_parts (off mask : Nat) : (s.raise off mask).parts = s.parts := rfl
@[simp] theorem State.raise_arrays (off mask : Nat) : (s.raise off mask).arrays = s.arrays := rfl
@[simp] theorem State.raise_launches (off mask : Nat) : (s.raise off mask).launches = s.launches := rfl
@[simp] theorem State.raise_csMem (off mask : Nat) : (s.raise off mask).csMem = s.csMem := rfl
@[simp] theorem State.raise_csPoison (off mask : Nat) : (s.raise off mask).csPoison = s.csPoison := rfl
@[simp] theorem State.raise_csUpset (off mask : Nat) : (s.raise off mask).csUpset = s.csUpset := rfl
@[simp] theorem State.raise_cache (off mask : Nat) : (s.raise off mask).cache = s.cache := rfl
@[simp] theorem State.raise_fills (off mask : Nat) : (s.raise off mask).fills = s.fills := rfl
@[simp] theorem State.raise_resize (off mask : Nat) : (s.raise off mask).resize = s.resize := rfl
@[simp] theorem State.raise_heldCreates (off mask : Nat) : (s.raise off mask).heldCreates = s.heldCreates := rfl
@[simp] theorem State.raise_csScrub (off mask : Nat) : (s.raise off mask).csScrub = s.csScrub := rfl
@[simp] theorem State.raise_hbm (off mask : Nat) : (s.raise off mask).hbm = s.hbm := rfl
@[simp] theorem State.raise_hbmUpset (off mask : Nat) : (s.raise off mask).hbmUpset = s.hbmUpset := rfl
@[simp] theorem State.raise_hbmStacks (off mask : Nat) : (s.raise off mask).hbmStacks = s.hbmStacks := rfl
@[simp] theorem State.raise_posted (off mask : Nat) : (s.raise off mask).posted = s.posted := rfl
@[simp] theorem State.raise_refusals (off mask : Nat) : (s.raise off mask).refusals = s.refusals := rfl
@[simp] theorem State.raise_nextId (off mask : Nat) : (s.raise off mask).nextId = s.nextId := rfl
@[simp] theorem State.raise_hostReads (off mask : Nat) : (s.raise off mask).hostReads = s.hostReads := rfl
@[simp] theorem State.raise_ports (off mask : Nat) : (s.raise off mask).ports = s.ports := rfl
@[simp] theorem State.raise_tb (off mask : Nat) : (s.raise off mask).tb = s.tb := rfl
@[simp] theorem State.raise_ec (off mask : Nat) : (s.raise off mask).ec = s.ec := rfl
@[simp] theorem State.raise_rec_ (off mask : Nat) : (s.raise off mask).rec_ = s.rec_ := rfl
@[simp] theorem State.raise_sc (off mask : Nat) : (s.raise off mask).sc = s.sc := rfl
@[simp] theorem State.raise_fn (off mask : Nat) : (s.raise off mask).fn = s.fn := rfl
@[simp] theorem State.raise_fw (off mask : Nat) : (s.raise off mask).fw = s.fw := rfl
@[simp] theorem State.raise_uart (off mask : Nat) : (s.raise off mask).uart = s.uart := rfl
@[simp] theorem State.raise_pw (off mask : Nat) : (s.raise off mask).pw = s.pw := rfl
@[simp] theorem State.raise_out (off mask : Nat) : (s.raise off mask).out = s.out := rfl
@[simp] theorem State.raise_free (off mask : Nat) : (s.raise off mask).free = s.free := rfl

/-! `status`. -/

@[simp] theorem State.status_pending (off i : Nat) (b : Bool) : (s.status off i b).pending = s.pending := rfl
@[simp] theorem State.status_variant (off i : Nat) (b : Bool) : (s.status off i b).variant = s.variant := rfl
@[simp] theorem State.status_stepping (off i : Nat) (b : Bool) : (s.status off i b).stepping = s.stepping := rfl
@[simp] theorem State.status_serial (off i : Nat) (b : Bool) : (s.status off i b).serial = s.serial := rfl
@[simp] theorem State.status_objs (off i : Nat) (b : Bool) : (s.status off i b).objs = s.objs := rfl
@[simp] theorem State.status_time (off i : Nat) (b : Bool) : (s.status off i b).time = s.time := rfl
@[simp] theorem State.status_uptime (off i : Nat) (b : Bool) : (s.status off i b).uptime = s.uptime := rfl
@[simp] theorem State.status_seats (off i : Nat) (b : Bool) : (s.status off i b).seats = s.seats := rfl
@[simp] theorem State.status_parts (off i : Nat) (b : Bool) : (s.status off i b).parts = s.parts := rfl
@[simp] theorem State.status_arrays (off i : Nat) (b : Bool) : (s.status off i b).arrays = s.arrays := rfl
@[simp] theorem State.status_launches (off i : Nat) (b : Bool) : (s.status off i b).launches = s.launches := rfl
@[simp] theorem State.status_csMem (off i : Nat) (b : Bool) : (s.status off i b).csMem = s.csMem := rfl
@[simp] theorem State.status_csPoison (off i : Nat) (b : Bool) : (s.status off i b).csPoison = s.csPoison := rfl
@[simp] theorem State.status_csUpset (off i : Nat) (b : Bool) : (s.status off i b).csUpset = s.csUpset := rfl
@[simp] theorem State.status_cache (off i : Nat) (b : Bool) : (s.status off i b).cache = s.cache := rfl
@[simp] theorem State.status_fills (off i : Nat) (b : Bool) : (s.status off i b).fills = s.fills := rfl
@[simp] theorem State.status_resize (off i : Nat) (b : Bool) : (s.status off i b).resize = s.resize := rfl
@[simp] theorem State.status_heldCreates (off i : Nat) (b : Bool) : (s.status off i b).heldCreates = s.heldCreates := rfl
@[simp] theorem State.status_csScrub (off i : Nat) (b : Bool) : (s.status off i b).csScrub = s.csScrub := rfl
@[simp] theorem State.status_hbm (off i : Nat) (b : Bool) : (s.status off i b).hbm = s.hbm := rfl
@[simp] theorem State.status_hbmUpset (off i : Nat) (b : Bool) : (s.status off i b).hbmUpset = s.hbmUpset := rfl
@[simp] theorem State.status_hbmStacks (off i : Nat) (b : Bool) : (s.status off i b).hbmStacks = s.hbmStacks := rfl
@[simp] theorem State.status_posted (off i : Nat) (b : Bool) : (s.status off i b).posted = s.posted := rfl
@[simp] theorem State.status_refusals (off i : Nat) (b : Bool) : (s.status off i b).refusals = s.refusals := rfl
@[simp] theorem State.status_nextId (off i : Nat) (b : Bool) : (s.status off i b).nextId = s.nextId := rfl
@[simp] theorem State.status_hostReads (off i : Nat) (b : Bool) : (s.status off i b).hostReads = s.hostReads := rfl
@[simp] theorem State.status_ports (off i : Nat) (b : Bool) : (s.status off i b).ports = s.ports := rfl
@[simp] theorem State.status_tb (off i : Nat) (b : Bool) : (s.status off i b).tb = s.tb := rfl
@[simp] theorem State.status_ec (off i : Nat) (b : Bool) : (s.status off i b).ec = s.ec := rfl
@[simp] theorem State.status_rec_ (off i : Nat) (b : Bool) : (s.status off i b).rec_ = s.rec_ := rfl
@[simp] theorem State.status_sc (off i : Nat) (b : Bool) : (s.status off i b).sc = s.sc := rfl
@[simp] theorem State.status_fn (off i : Nat) (b : Bool) : (s.status off i b).fn = s.fn := rfl
@[simp] theorem State.status_fw (off i : Nat) (b : Bool) : (s.status off i b).fw = s.fw := rfl
@[simp] theorem State.status_uart (off i : Nat) (b : Bool) : (s.status off i b).uart = s.uart := rfl
@[simp] theorem State.status_pw (off i : Nat) (b : Bool) : (s.status off i b).pw = s.pw := rfl
@[simp] theorem State.status_out (off i : Nat) (b : Bool) : (s.status off i b).out = s.out := rfl
@[simp] theorem State.status_free (off i : Nat) (b : Bool) : (s.status off i b).free = s.free := rfl

/-! `setRegField`. -/

@[simp] theorem State.setRegField_pending (off hi lo v : Nat) : (s.setRegField off hi lo v).pending = s.pending := rfl
@[simp] theorem State.setRegField_variant (off hi lo v : Nat) : (s.setRegField off hi lo v).variant = s.variant := rfl
@[simp] theorem State.setRegField_stepping (off hi lo v : Nat) : (s.setRegField off hi lo v).stepping = s.stepping := rfl
@[simp] theorem State.setRegField_serial (off hi lo v : Nat) : (s.setRegField off hi lo v).serial = s.serial := rfl
@[simp] theorem State.setRegField_objs (off hi lo v : Nat) : (s.setRegField off hi lo v).objs = s.objs := rfl
@[simp] theorem State.setRegField_time (off hi lo v : Nat) : (s.setRegField off hi lo v).time = s.time := rfl
@[simp] theorem State.setRegField_uptime (off hi lo v : Nat) : (s.setRegField off hi lo v).uptime = s.uptime := rfl
@[simp] theorem State.setRegField_seats (off hi lo v : Nat) : (s.setRegField off hi lo v).seats = s.seats := rfl
@[simp] theorem State.setRegField_parts (off hi lo v : Nat) : (s.setRegField off hi lo v).parts = s.parts := rfl
@[simp] theorem State.setRegField_arrays (off hi lo v : Nat) : (s.setRegField off hi lo v).arrays = s.arrays := rfl
@[simp] theorem State.setRegField_launches (off hi lo v : Nat) : (s.setRegField off hi lo v).launches = s.launches := rfl
@[simp] theorem State.setRegField_csMem (off hi lo v : Nat) : (s.setRegField off hi lo v).csMem = s.csMem := rfl
@[simp] theorem State.setRegField_csPoison (off hi lo v : Nat) : (s.setRegField off hi lo v).csPoison = s.csPoison := rfl
@[simp] theorem State.setRegField_csUpset (off hi lo v : Nat) : (s.setRegField off hi lo v).csUpset = s.csUpset := rfl
@[simp] theorem State.setRegField_cache (off hi lo v : Nat) : (s.setRegField off hi lo v).cache = s.cache := rfl
@[simp] theorem State.setRegField_fills (off hi lo v : Nat) : (s.setRegField off hi lo v).fills = s.fills := rfl
@[simp] theorem State.setRegField_resize (off hi lo v : Nat) : (s.setRegField off hi lo v).resize = s.resize := rfl
@[simp] theorem State.setRegField_heldCreates (off hi lo v : Nat) : (s.setRegField off hi lo v).heldCreates = s.heldCreates := rfl
@[simp] theorem State.setRegField_csScrub (off hi lo v : Nat) : (s.setRegField off hi lo v).csScrub = s.csScrub := rfl
@[simp] theorem State.setRegField_hbm (off hi lo v : Nat) : (s.setRegField off hi lo v).hbm = s.hbm := rfl
@[simp] theorem State.setRegField_hbmUpset (off hi lo v : Nat) : (s.setRegField off hi lo v).hbmUpset = s.hbmUpset := rfl
@[simp] theorem State.setRegField_hbmStacks (off hi lo v : Nat) : (s.setRegField off hi lo v).hbmStacks = s.hbmStacks := rfl
@[simp] theorem State.setRegField_posted (off hi lo v : Nat) : (s.setRegField off hi lo v).posted = s.posted := rfl
@[simp] theorem State.setRegField_refusals (off hi lo v : Nat) : (s.setRegField off hi lo v).refusals = s.refusals := rfl
@[simp] theorem State.setRegField_nextId (off hi lo v : Nat) : (s.setRegField off hi lo v).nextId = s.nextId := rfl
@[simp] theorem State.setRegField_hostReads (off hi lo v : Nat) : (s.setRegField off hi lo v).hostReads = s.hostReads := rfl
@[simp] theorem State.setRegField_ports (off hi lo v : Nat) : (s.setRegField off hi lo v).ports = s.ports := rfl
@[simp] theorem State.setRegField_tb (off hi lo v : Nat) : (s.setRegField off hi lo v).tb = s.tb := rfl
@[simp] theorem State.setRegField_ec (off hi lo v : Nat) : (s.setRegField off hi lo v).ec = s.ec := rfl
@[simp] theorem State.setRegField_rec_ (off hi lo v : Nat) : (s.setRegField off hi lo v).rec_ = s.rec_ := rfl
@[simp] theorem State.setRegField_sc (off hi lo v : Nat) : (s.setRegField off hi lo v).sc = s.sc := rfl
@[simp] theorem State.setRegField_fn (off hi lo v : Nat) : (s.setRegField off hi lo v).fn = s.fn := rfl
@[simp] theorem State.setRegField_fw (off hi lo v : Nat) : (s.setRegField off hi lo v).fw = s.fw := rfl
@[simp] theorem State.setRegField_uart (off hi lo v : Nat) : (s.setRegField off hi lo v).uart = s.uart := rfl
@[simp] theorem State.setRegField_pw (off hi lo v : Nat) : (s.setRegField off hi lo v).pw = s.pw := rfl
@[simp] theorem State.setRegField_out (off hi lo v : Nat) : (s.setRegField off hi lo v).out = s.out := rfl
@[simp] theorem State.setRegField_free (off hi lo v : Nat) : (s.setRegField off hi lo v).free = s.free := rfl

/-! `count`. -/

@[simp] theorem State.count_pending (off n : Nat) : (s.count off n).pending = s.pending := rfl
@[simp] theorem State.count_variant (off n : Nat) : (s.count off n).variant = s.variant := rfl
@[simp] theorem State.count_stepping (off n : Nat) : (s.count off n).stepping = s.stepping := rfl
@[simp] theorem State.count_serial (off n : Nat) : (s.count off n).serial = s.serial := rfl
@[simp] theorem State.count_objs (off n : Nat) : (s.count off n).objs = s.objs := rfl
@[simp] theorem State.count_time (off n : Nat) : (s.count off n).time = s.time := rfl
@[simp] theorem State.count_uptime (off n : Nat) : (s.count off n).uptime = s.uptime := rfl
@[simp] theorem State.count_seats (off n : Nat) : (s.count off n).seats = s.seats := rfl
@[simp] theorem State.count_parts (off n : Nat) : (s.count off n).parts = s.parts := rfl
@[simp] theorem State.count_arrays (off n : Nat) : (s.count off n).arrays = s.arrays := rfl
@[simp] theorem State.count_launches (off n : Nat) : (s.count off n).launches = s.launches := rfl
@[simp] theorem State.count_csMem (off n : Nat) : (s.count off n).csMem = s.csMem := rfl
@[simp] theorem State.count_csPoison (off n : Nat) : (s.count off n).csPoison = s.csPoison := rfl
@[simp] theorem State.count_csUpset (off n : Nat) : (s.count off n).csUpset = s.csUpset := rfl
@[simp] theorem State.count_cache (off n : Nat) : (s.count off n).cache = s.cache := rfl
@[simp] theorem State.count_fills (off n : Nat) : (s.count off n).fills = s.fills := rfl
@[simp] theorem State.count_resize (off n : Nat) : (s.count off n).resize = s.resize := rfl
@[simp] theorem State.count_heldCreates (off n : Nat) : (s.count off n).heldCreates = s.heldCreates := rfl
@[simp] theorem State.count_csScrub (off n : Nat) : (s.count off n).csScrub = s.csScrub := rfl
@[simp] theorem State.count_hbm (off n : Nat) : (s.count off n).hbm = s.hbm := rfl
@[simp] theorem State.count_hbmUpset (off n : Nat) : (s.count off n).hbmUpset = s.hbmUpset := rfl
@[simp] theorem State.count_hbmStacks (off n : Nat) : (s.count off n).hbmStacks = s.hbmStacks := rfl
@[simp] theorem State.count_posted (off n : Nat) : (s.count off n).posted = s.posted := rfl
@[simp] theorem State.count_refusals (off n : Nat) : (s.count off n).refusals = s.refusals := rfl
@[simp] theorem State.count_nextId (off n : Nat) : (s.count off n).nextId = s.nextId := rfl
@[simp] theorem State.count_hostReads (off n : Nat) : (s.count off n).hostReads = s.hostReads := rfl
@[simp] theorem State.count_ports (off n : Nat) : (s.count off n).ports = s.ports := rfl
@[simp] theorem State.count_tb (off n : Nat) : (s.count off n).tb = s.tb := rfl
@[simp] theorem State.count_ec (off n : Nat) : (s.count off n).ec = s.ec := rfl
@[simp] theorem State.count_rec_ (off n : Nat) : (s.count off n).rec_ = s.rec_ := rfl
@[simp] theorem State.count_sc (off n : Nat) : (s.count off n).sc = s.sc := rfl
@[simp] theorem State.count_fn (off n : Nat) : (s.count off n).fn = s.fn := rfl
@[simp] theorem State.count_fw (off n : Nat) : (s.count off n).fw = s.fw := rfl
@[simp] theorem State.count_uart (off n : Nat) : (s.count off n).uart = s.uart := rfl
@[simp] theorem State.count_pw (off n : Nat) : (s.count off n).pw = s.pw := rfl
@[simp] theorem State.count_out (off n : Nat) : (s.count off n).out = s.out := rfl
@[simp] theorem State.count_free (off n : Nat) : (s.count off n).free = s.free := rfl

/-! `countSat`. -/

@[simp] theorem State.countSat_pending (off n : Nat) : (s.countSat off n).pending = s.pending := rfl
@[simp] theorem State.countSat_variant (off n : Nat) : (s.countSat off n).variant = s.variant := rfl
@[simp] theorem State.countSat_stepping (off n : Nat) : (s.countSat off n).stepping = s.stepping := rfl
@[simp] theorem State.countSat_serial (off n : Nat) : (s.countSat off n).serial = s.serial := rfl
@[simp] theorem State.countSat_objs (off n : Nat) : (s.countSat off n).objs = s.objs := rfl
@[simp] theorem State.countSat_time (off n : Nat) : (s.countSat off n).time = s.time := rfl
@[simp] theorem State.countSat_uptime (off n : Nat) : (s.countSat off n).uptime = s.uptime := rfl
@[simp] theorem State.countSat_seats (off n : Nat) : (s.countSat off n).seats = s.seats := rfl
@[simp] theorem State.countSat_parts (off n : Nat) : (s.countSat off n).parts = s.parts := rfl
@[simp] theorem State.countSat_arrays (off n : Nat) : (s.countSat off n).arrays = s.arrays := rfl
@[simp] theorem State.countSat_launches (off n : Nat) : (s.countSat off n).launches = s.launches := rfl
@[simp] theorem State.countSat_csMem (off n : Nat) : (s.countSat off n).csMem = s.csMem := rfl
@[simp] theorem State.countSat_csPoison (off n : Nat) : (s.countSat off n).csPoison = s.csPoison := rfl
@[simp] theorem State.countSat_csUpset (off n : Nat) : (s.countSat off n).csUpset = s.csUpset := rfl
@[simp] theorem State.countSat_cache (off n : Nat) : (s.countSat off n).cache = s.cache := rfl
@[simp] theorem State.countSat_fills (off n : Nat) : (s.countSat off n).fills = s.fills := rfl
@[simp] theorem State.countSat_resize (off n : Nat) : (s.countSat off n).resize = s.resize := rfl
@[simp] theorem State.countSat_heldCreates (off n : Nat) : (s.countSat off n).heldCreates = s.heldCreates := rfl
@[simp] theorem State.countSat_csScrub (off n : Nat) : (s.countSat off n).csScrub = s.csScrub := rfl
@[simp] theorem State.countSat_hbm (off n : Nat) : (s.countSat off n).hbm = s.hbm := rfl
@[simp] theorem State.countSat_hbmUpset (off n : Nat) : (s.countSat off n).hbmUpset = s.hbmUpset := rfl
@[simp] theorem State.countSat_hbmStacks (off n : Nat) : (s.countSat off n).hbmStacks = s.hbmStacks := rfl
@[simp] theorem State.countSat_posted (off n : Nat) : (s.countSat off n).posted = s.posted := rfl
@[simp] theorem State.countSat_refusals (off n : Nat) : (s.countSat off n).refusals = s.refusals := rfl
@[simp] theorem State.countSat_nextId (off n : Nat) : (s.countSat off n).nextId = s.nextId := rfl
@[simp] theorem State.countSat_hostReads (off n : Nat) : (s.countSat off n).hostReads = s.hostReads := rfl
@[simp] theorem State.countSat_ports (off n : Nat) : (s.countSat off n).ports = s.ports := rfl
@[simp] theorem State.countSat_tb (off n : Nat) : (s.countSat off n).tb = s.tb := rfl
@[simp] theorem State.countSat_ec (off n : Nat) : (s.countSat off n).ec = s.ec := rfl
@[simp] theorem State.countSat_rec_ (off n : Nat) : (s.countSat off n).rec_ = s.rec_ := rfl
@[simp] theorem State.countSat_sc (off n : Nat) : (s.countSat off n).sc = s.sc := rfl
@[simp] theorem State.countSat_fn (off n : Nat) : (s.countSat off n).fn = s.fn := rfl
@[simp] theorem State.countSat_fw (off n : Nat) : (s.countSat off n).fw = s.fw := rfl
@[simp] theorem State.countSat_uart (off n : Nat) : (s.countSat off n).uart = s.uart := rfl
@[simp] theorem State.countSat_pw (off n : Nat) : (s.countSat off n).pw = s.pw := rfl
@[simp] theorem State.countSat_out (off n : Nat) : (s.countSat off n).out = s.out := rfl
@[simp] theorem State.countSat_free (off n : Nat) : (s.countSat off n).free = s.free := rfl

/-! `setSeat`. -/

@[simp] theorem State.setSeat_pending (n : Nat) (r : SeatRec) : (s.setSeat n r).pending = s.pending := rfl
@[simp] theorem State.setSeat_variant (n : Nat) (r : SeatRec) : (s.setSeat n r).variant = s.variant := rfl
@[simp] theorem State.setSeat_stepping (n : Nat) (r : SeatRec) : (s.setSeat n r).stepping = s.stepping := rfl
@[simp] theorem State.setSeat_serial (n : Nat) (r : SeatRec) : (s.setSeat n r).serial = s.serial := rfl
@[simp] theorem State.setSeat_regs (n : Nat) (r : SeatRec) : (s.setSeat n r).regs = s.regs := rfl
@[simp] theorem State.setSeat_badParity (n : Nat) (r : SeatRec) : (s.setSeat n r).badParity = s.badParity := rfl
@[simp] theorem State.setSeat_objs (n : Nat) (r : SeatRec) : (s.setSeat n r).objs = s.objs := rfl
@[simp] theorem State.setSeat_time (n : Nat) (r : SeatRec) : (s.setSeat n r).time = s.time := rfl
@[simp] theorem State.setSeat_uptime (n : Nat) (r : SeatRec) : (s.setSeat n r).uptime = s.uptime := rfl
@[simp] theorem State.setSeat_parts (n : Nat) (r : SeatRec) : (s.setSeat n r).parts = s.parts := rfl
@[simp] theorem State.setSeat_arrays (n : Nat) (r : SeatRec) : (s.setSeat n r).arrays = s.arrays := rfl
@[simp] theorem State.setSeat_launches (n : Nat) (r : SeatRec) : (s.setSeat n r).launches = s.launches := rfl
@[simp] theorem State.setSeat_csMem (n : Nat) (r : SeatRec) : (s.setSeat n r).csMem = s.csMem := rfl
@[simp] theorem State.setSeat_csPoison (n : Nat) (r : SeatRec) : (s.setSeat n r).csPoison = s.csPoison := rfl
@[simp] theorem State.setSeat_csUpset (n : Nat) (r : SeatRec) : (s.setSeat n r).csUpset = s.csUpset := rfl
@[simp] theorem State.setSeat_cache (n : Nat) (r : SeatRec) : (s.setSeat n r).cache = s.cache := rfl
@[simp] theorem State.setSeat_fills (n : Nat) (r : SeatRec) : (s.setSeat n r).fills = s.fills := rfl
@[simp] theorem State.setSeat_resize (n : Nat) (r : SeatRec) : (s.setSeat n r).resize = s.resize := rfl
@[simp] theorem State.setSeat_heldCreates (n : Nat) (r : SeatRec) : (s.setSeat n r).heldCreates = s.heldCreates := rfl
@[simp] theorem State.setSeat_csScrub (n : Nat) (r : SeatRec) : (s.setSeat n r).csScrub = s.csScrub := rfl
@[simp] theorem State.setSeat_hbm (n : Nat) (r : SeatRec) : (s.setSeat n r).hbm = s.hbm := rfl
@[simp] theorem State.setSeat_hbmUpset (n : Nat) (r : SeatRec) : (s.setSeat n r).hbmUpset = s.hbmUpset := rfl
@[simp] theorem State.setSeat_hbmStacks (n : Nat) (r : SeatRec) : (s.setSeat n r).hbmStacks = s.hbmStacks := rfl
@[simp] theorem State.setSeat_posted (n : Nat) (r : SeatRec) : (s.setSeat n r).posted = s.posted := rfl
@[simp] theorem State.setSeat_refusals (n : Nat) (r : SeatRec) : (s.setSeat n r).refusals = s.refusals := rfl
@[simp] theorem State.setSeat_nextId (n : Nat) (r : SeatRec) : (s.setSeat n r).nextId = s.nextId := rfl
@[simp] theorem State.setSeat_hostReads (n : Nat) (r : SeatRec) : (s.setSeat n r).hostReads = s.hostReads := rfl
@[simp] theorem State.setSeat_ports (n : Nat) (r : SeatRec) : (s.setSeat n r).ports = s.ports := rfl
@[simp] theorem State.setSeat_tb (n : Nat) (r : SeatRec) : (s.setSeat n r).tb = s.tb := rfl
@[simp] theorem State.setSeat_ec (n : Nat) (r : SeatRec) : (s.setSeat n r).ec = s.ec := rfl
@[simp] theorem State.setSeat_rec_ (n : Nat) (r : SeatRec) : (s.setSeat n r).rec_ = s.rec_ := rfl
@[simp] theorem State.setSeat_sc (n : Nat) (r : SeatRec) : (s.setSeat n r).sc = s.sc := rfl
@[simp] theorem State.setSeat_fn (n : Nat) (r : SeatRec) : (s.setSeat n r).fn = s.fn := rfl
@[simp] theorem State.setSeat_fw (n : Nat) (r : SeatRec) : (s.setSeat n r).fw = s.fw := rfl
@[simp] theorem State.setSeat_uart (n : Nat) (r : SeatRec) : (s.setSeat n r).uart = s.uart := rfl
@[simp] theorem State.setSeat_pw (n : Nat) (r : SeatRec) : (s.setSeat n r).pw = s.pw := rfl
@[simp] theorem State.setSeat_out (n : Nat) (r : SeatRec) : (s.setSeat n r).out = s.out := rfl
@[simp] theorem State.setSeat_free (n : Nat) (r : SeatRec) : (s.setSeat n r).free = s.free := rfl

/-! `modSeat`. -/

@[simp] theorem State.modSeat_pending (n : Nat) (f : SeatRec → SeatRec) : (s.modSeat n f).pending = s.pending := rfl
@[simp] theorem State.modSeat_variant (n : Nat) (f : SeatRec → SeatRec) : (s.modSeat n f).variant = s.variant := rfl
@[simp] theorem State.modSeat_stepping (n : Nat) (f : SeatRec → SeatRec) : (s.modSeat n f).stepping = s.stepping := rfl
@[simp] theorem State.modSeat_serial (n : Nat) (f : SeatRec → SeatRec) : (s.modSeat n f).serial = s.serial := rfl
@[simp] theorem State.modSeat_regs (n : Nat) (f : SeatRec → SeatRec) : (s.modSeat n f).regs = s.regs := rfl
@[simp] theorem State.modSeat_badParity (n : Nat) (f : SeatRec → SeatRec) : (s.modSeat n f).badParity = s.badParity := rfl
@[simp] theorem State.modSeat_objs (n : Nat) (f : SeatRec → SeatRec) : (s.modSeat n f).objs = s.objs := rfl
@[simp] theorem State.modSeat_time (n : Nat) (f : SeatRec → SeatRec) : (s.modSeat n f).time = s.time := rfl
@[simp] theorem State.modSeat_uptime (n : Nat) (f : SeatRec → SeatRec) : (s.modSeat n f).uptime = s.uptime := rfl
@[simp] theorem State.modSeat_parts (n : Nat) (f : SeatRec → SeatRec) : (s.modSeat n f).parts = s.parts := rfl
@[simp] theorem State.modSeat_arrays (n : Nat) (f : SeatRec → SeatRec) : (s.modSeat n f).arrays = s.arrays := rfl
@[simp] theorem State.modSeat_launches (n : Nat) (f : SeatRec → SeatRec) : (s.modSeat n f).launches = s.launches := rfl
@[simp] theorem State.modSeat_csMem (n : Nat) (f : SeatRec → SeatRec) : (s.modSeat n f).csMem = s.csMem := rfl
@[simp] theorem State.modSeat_csPoison (n : Nat) (f : SeatRec → SeatRec) : (s.modSeat n f).csPoison = s.csPoison := rfl
@[simp] theorem State.modSeat_csUpset (n : Nat) (f : SeatRec → SeatRec) : (s.modSeat n f).csUpset = s.csUpset := rfl
@[simp] theorem State.modSeat_cache (n : Nat) (f : SeatRec → SeatRec) : (s.modSeat n f).cache = s.cache := rfl
@[simp] theorem State.modSeat_fills (n : Nat) (f : SeatRec → SeatRec) : (s.modSeat n f).fills = s.fills := rfl
@[simp] theorem State.modSeat_resize (n : Nat) (f : SeatRec → SeatRec) : (s.modSeat n f).resize = s.resize := rfl
@[simp] theorem State.modSeat_heldCreates (n : Nat) (f : SeatRec → SeatRec) : (s.modSeat n f).heldCreates = s.heldCreates := rfl
@[simp] theorem State.modSeat_csScrub (n : Nat) (f : SeatRec → SeatRec) : (s.modSeat n f).csScrub = s.csScrub := rfl
@[simp] theorem State.modSeat_hbm (n : Nat) (f : SeatRec → SeatRec) : (s.modSeat n f).hbm = s.hbm := rfl
@[simp] theorem State.modSeat_hbmUpset (n : Nat) (f : SeatRec → SeatRec) : (s.modSeat n f).hbmUpset = s.hbmUpset := rfl
@[simp] theorem State.modSeat_hbmStacks (n : Nat) (f : SeatRec → SeatRec) : (s.modSeat n f).hbmStacks = s.hbmStacks := rfl
@[simp] theorem State.modSeat_posted (n : Nat) (f : SeatRec → SeatRec) : (s.modSeat n f).posted = s.posted := rfl
@[simp] theorem State.modSeat_refusals (n : Nat) (f : SeatRec → SeatRec) : (s.modSeat n f).refusals = s.refusals := rfl
@[simp] theorem State.modSeat_nextId (n : Nat) (f : SeatRec → SeatRec) : (s.modSeat n f).nextId = s.nextId := rfl
@[simp] theorem State.modSeat_hostReads (n : Nat) (f : SeatRec → SeatRec) : (s.modSeat n f).hostReads = s.hostReads := rfl
@[simp] theorem State.modSeat_ports (n : Nat) (f : SeatRec → SeatRec) : (s.modSeat n f).ports = s.ports := rfl
@[simp] theorem State.modSeat_tb (n : Nat) (f : SeatRec → SeatRec) : (s.modSeat n f).tb = s.tb := rfl
@[simp] theorem State.modSeat_ec (n : Nat) (f : SeatRec → SeatRec) : (s.modSeat n f).ec = s.ec := rfl
@[simp] theorem State.modSeat_rec_ (n : Nat) (f : SeatRec → SeatRec) : (s.modSeat n f).rec_ = s.rec_ := rfl
@[simp] theorem State.modSeat_sc (n : Nat) (f : SeatRec → SeatRec) : (s.modSeat n f).sc = s.sc := rfl
@[simp] theorem State.modSeat_fn (n : Nat) (f : SeatRec → SeatRec) : (s.modSeat n f).fn = s.fn := rfl
@[simp] theorem State.modSeat_fw (n : Nat) (f : SeatRec → SeatRec) : (s.modSeat n f).fw = s.fw := rfl
@[simp] theorem State.modSeat_uart (n : Nat) (f : SeatRec → SeatRec) : (s.modSeat n f).uart = s.uart := rfl
@[simp] theorem State.modSeat_pw (n : Nat) (f : SeatRec → SeatRec) : (s.modSeat n f).pw = s.pw := rfl
@[simp] theorem State.modSeat_out (n : Nat) (f : SeatRec → SeatRec) : (s.modSeat n f).out = s.out := rfl
@[simp] theorem State.modSeat_free (n : Nat) (f : SeatRec → SeatRec) : (s.modSeat n f).free = s.free := rfl

/-! `setPart`. -/

@[simp] theorem State.setPart_pending (p : Nat) (r : PartRec) : (s.setPart p r).pending = s.pending := rfl
@[simp] theorem State.setPart_variant (p : Nat) (r : PartRec) : (s.setPart p r).variant = s.variant := rfl
@[simp] theorem State.setPart_stepping (p : Nat) (r : PartRec) : (s.setPart p r).stepping = s.stepping := rfl
@[simp] theorem State.setPart_serial (p : Nat) (r : PartRec) : (s.setPart p r).serial = s.serial := rfl
@[simp] theorem State.setPart_regs (p : Nat) (r : PartRec) : (s.setPart p r).regs = s.regs := rfl
@[simp] theorem State.setPart_badParity (p : Nat) (r : PartRec) : (s.setPart p r).badParity = s.badParity := rfl
@[simp] theorem State.setPart_objs (p : Nat) (r : PartRec) : (s.setPart p r).objs = s.objs := rfl
@[simp] theorem State.setPart_time (p : Nat) (r : PartRec) : (s.setPart p r).time = s.time := rfl
@[simp] theorem State.setPart_uptime (p : Nat) (r : PartRec) : (s.setPart p r).uptime = s.uptime := rfl
@[simp] theorem State.setPart_seats (p : Nat) (r : PartRec) : (s.setPart p r).seats = s.seats := rfl
@[simp] theorem State.setPart_arrays (p : Nat) (r : PartRec) : (s.setPart p r).arrays = s.arrays := rfl
@[simp] theorem State.setPart_launches (p : Nat) (r : PartRec) : (s.setPart p r).launches = s.launches := rfl
@[simp] theorem State.setPart_csMem (p : Nat) (r : PartRec) : (s.setPart p r).csMem = s.csMem := rfl
@[simp] theorem State.setPart_csPoison (p : Nat) (r : PartRec) : (s.setPart p r).csPoison = s.csPoison := rfl
@[simp] theorem State.setPart_csUpset (p : Nat) (r : PartRec) : (s.setPart p r).csUpset = s.csUpset := rfl
@[simp] theorem State.setPart_cache (p : Nat) (r : PartRec) : (s.setPart p r).cache = s.cache := rfl
@[simp] theorem State.setPart_fills (p : Nat) (r : PartRec) : (s.setPart p r).fills = s.fills := rfl
@[simp] theorem State.setPart_resize (p : Nat) (r : PartRec) : (s.setPart p r).resize = s.resize := rfl
@[simp] theorem State.setPart_heldCreates (p : Nat) (r : PartRec) : (s.setPart p r).heldCreates = s.heldCreates := rfl
@[simp] theorem State.setPart_csScrub (p : Nat) (r : PartRec) : (s.setPart p r).csScrub = s.csScrub := rfl
@[simp] theorem State.setPart_hbm (p : Nat) (r : PartRec) : (s.setPart p r).hbm = s.hbm := rfl
@[simp] theorem State.setPart_hbmUpset (p : Nat) (r : PartRec) : (s.setPart p r).hbmUpset = s.hbmUpset := rfl
@[simp] theorem State.setPart_hbmStacks (p : Nat) (r : PartRec) : (s.setPart p r).hbmStacks = s.hbmStacks := rfl
@[simp] theorem State.setPart_posted (p : Nat) (r : PartRec) : (s.setPart p r).posted = s.posted := rfl
@[simp] theorem State.setPart_refusals (p : Nat) (r : PartRec) : (s.setPart p r).refusals = s.refusals := rfl
@[simp] theorem State.setPart_nextId (p : Nat) (r : PartRec) : (s.setPart p r).nextId = s.nextId := rfl
@[simp] theorem State.setPart_hostReads (p : Nat) (r : PartRec) : (s.setPart p r).hostReads = s.hostReads := rfl
@[simp] theorem State.setPart_ports (p : Nat) (r : PartRec) : (s.setPart p r).ports = s.ports := rfl
@[simp] theorem State.setPart_tb (p : Nat) (r : PartRec) : (s.setPart p r).tb = s.tb := rfl
@[simp] theorem State.setPart_ec (p : Nat) (r : PartRec) : (s.setPart p r).ec = s.ec := rfl
@[simp] theorem State.setPart_rec_ (p : Nat) (r : PartRec) : (s.setPart p r).rec_ = s.rec_ := rfl
@[simp] theorem State.setPart_sc (p : Nat) (r : PartRec) : (s.setPart p r).sc = s.sc := rfl
@[simp] theorem State.setPart_fn (p : Nat) (r : PartRec) : (s.setPart p r).fn = s.fn := rfl
@[simp] theorem State.setPart_fw (p : Nat) (r : PartRec) : (s.setPart p r).fw = s.fw := rfl
@[simp] theorem State.setPart_uart (p : Nat) (r : PartRec) : (s.setPart p r).uart = s.uart := rfl
@[simp] theorem State.setPart_pw (p : Nat) (r : PartRec) : (s.setPart p r).pw = s.pw := rfl
@[simp] theorem State.setPart_out (p : Nat) (r : PartRec) : (s.setPart p r).out = s.out := rfl
@[simp] theorem State.setPart_free (p : Nat) (r : PartRec) : (s.setPart p r).free = s.free := rfl

/-! `modPart`. -/

@[simp] theorem State.modPart_pending (p : Nat) (f : PartRec → PartRec) : (s.modPart p f).pending = s.pending := rfl
@[simp] theorem State.modPart_variant (p : Nat) (f : PartRec → PartRec) : (s.modPart p f).variant = s.variant := rfl
@[simp] theorem State.modPart_stepping (p : Nat) (f : PartRec → PartRec) : (s.modPart p f).stepping = s.stepping := rfl
@[simp] theorem State.modPart_serial (p : Nat) (f : PartRec → PartRec) : (s.modPart p f).serial = s.serial := rfl
@[simp] theorem State.modPart_regs (p : Nat) (f : PartRec → PartRec) : (s.modPart p f).regs = s.regs := rfl
@[simp] theorem State.modPart_badParity (p : Nat) (f : PartRec → PartRec) : (s.modPart p f).badParity = s.badParity := rfl
@[simp] theorem State.modPart_objs (p : Nat) (f : PartRec → PartRec) : (s.modPart p f).objs = s.objs := rfl
@[simp] theorem State.modPart_time (p : Nat) (f : PartRec → PartRec) : (s.modPart p f).time = s.time := rfl
@[simp] theorem State.modPart_uptime (p : Nat) (f : PartRec → PartRec) : (s.modPart p f).uptime = s.uptime := rfl
@[simp] theorem State.modPart_seats (p : Nat) (f : PartRec → PartRec) : (s.modPart p f).seats = s.seats := rfl
@[simp] theorem State.modPart_arrays (p : Nat) (f : PartRec → PartRec) : (s.modPart p f).arrays = s.arrays := rfl
@[simp] theorem State.modPart_launches (p : Nat) (f : PartRec → PartRec) : (s.modPart p f).launches = s.launches := rfl
@[simp] theorem State.modPart_csMem (p : Nat) (f : PartRec → PartRec) : (s.modPart p f).csMem = s.csMem := rfl
@[simp] theorem State.modPart_csPoison (p : Nat) (f : PartRec → PartRec) : (s.modPart p f).csPoison = s.csPoison := rfl
@[simp] theorem State.modPart_csUpset (p : Nat) (f : PartRec → PartRec) : (s.modPart p f).csUpset = s.csUpset := rfl
@[simp] theorem State.modPart_cache (p : Nat) (f : PartRec → PartRec) : (s.modPart p f).cache = s.cache := rfl
@[simp] theorem State.modPart_fills (p : Nat) (f : PartRec → PartRec) : (s.modPart p f).fills = s.fills := rfl
@[simp] theorem State.modPart_resize (p : Nat) (f : PartRec → PartRec) : (s.modPart p f).resize = s.resize := rfl
@[simp] theorem State.modPart_heldCreates (p : Nat) (f : PartRec → PartRec) : (s.modPart p f).heldCreates = s.heldCreates := rfl
@[simp] theorem State.modPart_csScrub (p : Nat) (f : PartRec → PartRec) : (s.modPart p f).csScrub = s.csScrub := rfl
@[simp] theorem State.modPart_hbm (p : Nat) (f : PartRec → PartRec) : (s.modPart p f).hbm = s.hbm := rfl
@[simp] theorem State.modPart_hbmUpset (p : Nat) (f : PartRec → PartRec) : (s.modPart p f).hbmUpset = s.hbmUpset := rfl
@[simp] theorem State.modPart_hbmStacks (p : Nat) (f : PartRec → PartRec) : (s.modPart p f).hbmStacks = s.hbmStacks := rfl
@[simp] theorem State.modPart_posted (p : Nat) (f : PartRec → PartRec) : (s.modPart p f).posted = s.posted := rfl
@[simp] theorem State.modPart_refusals (p : Nat) (f : PartRec → PartRec) : (s.modPart p f).refusals = s.refusals := rfl
@[simp] theorem State.modPart_nextId (p : Nat) (f : PartRec → PartRec) : (s.modPart p f).nextId = s.nextId := rfl
@[simp] theorem State.modPart_hostReads (p : Nat) (f : PartRec → PartRec) : (s.modPart p f).hostReads = s.hostReads := rfl
@[simp] theorem State.modPart_ports (p : Nat) (f : PartRec → PartRec) : (s.modPart p f).ports = s.ports := rfl
@[simp] theorem State.modPart_tb (p : Nat) (f : PartRec → PartRec) : (s.modPart p f).tb = s.tb := rfl
@[simp] theorem State.modPart_ec (p : Nat) (f : PartRec → PartRec) : (s.modPart p f).ec = s.ec := rfl
@[simp] theorem State.modPart_rec_ (p : Nat) (f : PartRec → PartRec) : (s.modPart p f).rec_ = s.rec_ := rfl
@[simp] theorem State.modPart_sc (p : Nat) (f : PartRec → PartRec) : (s.modPart p f).sc = s.sc := rfl
@[simp] theorem State.modPart_fn (p : Nat) (f : PartRec → PartRec) : (s.modPart p f).fn = s.fn := rfl
@[simp] theorem State.modPart_fw (p : Nat) (f : PartRec → PartRec) : (s.modPart p f).fw = s.fw := rfl
@[simp] theorem State.modPart_uart (p : Nat) (f : PartRec → PartRec) : (s.modPart p f).uart = s.uart := rfl
@[simp] theorem State.modPart_pw (p : Nat) (f : PartRec → PartRec) : (s.modPart p f).pw = s.pw := rfl
@[simp] theorem State.modPart_out (p : Nat) (f : PartRec → PartRec) : (s.modPart p f).out = s.out := rfl
@[simp] theorem State.modPart_free (p : Nat) (f : PartRec → PartRec) : (s.modPart p f).free = s.free := rfl

/-! `setArr`. -/

@[simp] theorem State.setArr_pending (p a : Nat) (r : ArrRec) : (s.setArr p a r).pending = s.pending := rfl
@[simp] theorem State.setArr_variant (p a : Nat) (r : ArrRec) : (s.setArr p a r).variant = s.variant := rfl
@[simp] theorem State.setArr_stepping (p a : Nat) (r : ArrRec) : (s.setArr p a r).stepping = s.stepping := rfl
@[simp] theorem State.setArr_serial (p a : Nat) (r : ArrRec) : (s.setArr p a r).serial = s.serial := rfl
@[simp] theorem State.setArr_regs (p a : Nat) (r : ArrRec) : (s.setArr p a r).regs = s.regs := rfl
@[simp] theorem State.setArr_badParity (p a : Nat) (r : ArrRec) : (s.setArr p a r).badParity = s.badParity := rfl
@[simp] theorem State.setArr_objs (p a : Nat) (r : ArrRec) : (s.setArr p a r).objs = s.objs := rfl
@[simp] theorem State.setArr_time (p a : Nat) (r : ArrRec) : (s.setArr p a r).time = s.time := rfl
@[simp] theorem State.setArr_uptime (p a : Nat) (r : ArrRec) : (s.setArr p a r).uptime = s.uptime := rfl
@[simp] theorem State.setArr_seats (p a : Nat) (r : ArrRec) : (s.setArr p a r).seats = s.seats := rfl
@[simp] theorem State.setArr_parts (p a : Nat) (r : ArrRec) : (s.setArr p a r).parts = s.parts := rfl
@[simp] theorem State.setArr_launches (p a : Nat) (r : ArrRec) : (s.setArr p a r).launches = s.launches := rfl
@[simp] theorem State.setArr_csMem (p a : Nat) (r : ArrRec) : (s.setArr p a r).csMem = s.csMem := rfl
@[simp] theorem State.setArr_csPoison (p a : Nat) (r : ArrRec) : (s.setArr p a r).csPoison = s.csPoison := rfl
@[simp] theorem State.setArr_csUpset (p a : Nat) (r : ArrRec) : (s.setArr p a r).csUpset = s.csUpset := rfl
@[simp] theorem State.setArr_cache (p a : Nat) (r : ArrRec) : (s.setArr p a r).cache = s.cache := rfl
@[simp] theorem State.setArr_fills (p a : Nat) (r : ArrRec) : (s.setArr p a r).fills = s.fills := rfl
@[simp] theorem State.setArr_resize (p a : Nat) (r : ArrRec) : (s.setArr p a r).resize = s.resize := rfl
@[simp] theorem State.setArr_heldCreates (p a : Nat) (r : ArrRec) : (s.setArr p a r).heldCreates = s.heldCreates := rfl
@[simp] theorem State.setArr_csScrub (p a : Nat) (r : ArrRec) : (s.setArr p a r).csScrub = s.csScrub := rfl
@[simp] theorem State.setArr_hbm (p a : Nat) (r : ArrRec) : (s.setArr p a r).hbm = s.hbm := rfl
@[simp] theorem State.setArr_hbmUpset (p a : Nat) (r : ArrRec) : (s.setArr p a r).hbmUpset = s.hbmUpset := rfl
@[simp] theorem State.setArr_hbmStacks (p a : Nat) (r : ArrRec) : (s.setArr p a r).hbmStacks = s.hbmStacks := rfl
@[simp] theorem State.setArr_posted (p a : Nat) (r : ArrRec) : (s.setArr p a r).posted = s.posted := rfl
@[simp] theorem State.setArr_refusals (p a : Nat) (r : ArrRec) : (s.setArr p a r).refusals = s.refusals := rfl
@[simp] theorem State.setArr_nextId (p a : Nat) (r : ArrRec) : (s.setArr p a r).nextId = s.nextId := rfl
@[simp] theorem State.setArr_hostReads (p a : Nat) (r : ArrRec) : (s.setArr p a r).hostReads = s.hostReads := rfl
@[simp] theorem State.setArr_ports (p a : Nat) (r : ArrRec) : (s.setArr p a r).ports = s.ports := rfl
@[simp] theorem State.setArr_tb (p a : Nat) (r : ArrRec) : (s.setArr p a r).tb = s.tb := rfl
@[simp] theorem State.setArr_ec (p a : Nat) (r : ArrRec) : (s.setArr p a r).ec = s.ec := rfl
@[simp] theorem State.setArr_rec_ (p a : Nat) (r : ArrRec) : (s.setArr p a r).rec_ = s.rec_ := rfl
@[simp] theorem State.setArr_sc (p a : Nat) (r : ArrRec) : (s.setArr p a r).sc = s.sc := rfl
@[simp] theorem State.setArr_fn (p a : Nat) (r : ArrRec) : (s.setArr p a r).fn = s.fn := rfl
@[simp] theorem State.setArr_fw (p a : Nat) (r : ArrRec) : (s.setArr p a r).fw = s.fw := rfl
@[simp] theorem State.setArr_uart (p a : Nat) (r : ArrRec) : (s.setArr p a r).uart = s.uart := rfl
@[simp] theorem State.setArr_pw (p a : Nat) (r : ArrRec) : (s.setArr p a r).pw = s.pw := rfl
@[simp] theorem State.setArr_out (p a : Nat) (r : ArrRec) : (s.setArr p a r).out = s.out := rfl
@[simp] theorem State.setArr_free (p a : Nat) (r : ArrRec) : (s.setArr p a r).free = s.free := rfl

/-! `modArr`. -/

@[simp] theorem State.modArr_pending (p a : Nat) (f : ArrRec → ArrRec) : (s.modArr p a f).pending = s.pending := rfl
@[simp] theorem State.modArr_variant (p a : Nat) (f : ArrRec → ArrRec) : (s.modArr p a f).variant = s.variant := rfl
@[simp] theorem State.modArr_stepping (p a : Nat) (f : ArrRec → ArrRec) : (s.modArr p a f).stepping = s.stepping := rfl
@[simp] theorem State.modArr_serial (p a : Nat) (f : ArrRec → ArrRec) : (s.modArr p a f).serial = s.serial := rfl
@[simp] theorem State.modArr_regs (p a : Nat) (f : ArrRec → ArrRec) : (s.modArr p a f).regs = s.regs := rfl
@[simp] theorem State.modArr_badParity (p a : Nat) (f : ArrRec → ArrRec) : (s.modArr p a f).badParity = s.badParity := rfl
@[simp] theorem State.modArr_objs (p a : Nat) (f : ArrRec → ArrRec) : (s.modArr p a f).objs = s.objs := rfl
@[simp] theorem State.modArr_time (p a : Nat) (f : ArrRec → ArrRec) : (s.modArr p a f).time = s.time := rfl
@[simp] theorem State.modArr_uptime (p a : Nat) (f : ArrRec → ArrRec) : (s.modArr p a f).uptime = s.uptime := rfl
@[simp] theorem State.modArr_seats (p a : Nat) (f : ArrRec → ArrRec) : (s.modArr p a f).seats = s.seats := rfl
@[simp] theorem State.modArr_parts (p a : Nat) (f : ArrRec → ArrRec) : (s.modArr p a f).parts = s.parts := rfl
@[simp] theorem State.modArr_launches (p a : Nat) (f : ArrRec → ArrRec) : (s.modArr p a f).launches = s.launches := rfl
@[simp] theorem State.modArr_csMem (p a : Nat) (f : ArrRec → ArrRec) : (s.modArr p a f).csMem = s.csMem := rfl
@[simp] theorem State.modArr_csPoison (p a : Nat) (f : ArrRec → ArrRec) : (s.modArr p a f).csPoison = s.csPoison := rfl
@[simp] theorem State.modArr_csUpset (p a : Nat) (f : ArrRec → ArrRec) : (s.modArr p a f).csUpset = s.csUpset := rfl
@[simp] theorem State.modArr_cache (p a : Nat) (f : ArrRec → ArrRec) : (s.modArr p a f).cache = s.cache := rfl
@[simp] theorem State.modArr_fills (p a : Nat) (f : ArrRec → ArrRec) : (s.modArr p a f).fills = s.fills := rfl
@[simp] theorem State.modArr_resize (p a : Nat) (f : ArrRec → ArrRec) : (s.modArr p a f).resize = s.resize := rfl
@[simp] theorem State.modArr_heldCreates (p a : Nat) (f : ArrRec → ArrRec) : (s.modArr p a f).heldCreates = s.heldCreates := rfl
@[simp] theorem State.modArr_csScrub (p a : Nat) (f : ArrRec → ArrRec) : (s.modArr p a f).csScrub = s.csScrub := rfl
@[simp] theorem State.modArr_hbm (p a : Nat) (f : ArrRec → ArrRec) : (s.modArr p a f).hbm = s.hbm := rfl
@[simp] theorem State.modArr_hbmUpset (p a : Nat) (f : ArrRec → ArrRec) : (s.modArr p a f).hbmUpset = s.hbmUpset := rfl
@[simp] theorem State.modArr_hbmStacks (p a : Nat) (f : ArrRec → ArrRec) : (s.modArr p a f).hbmStacks = s.hbmStacks := rfl
@[simp] theorem State.modArr_posted (p a : Nat) (f : ArrRec → ArrRec) : (s.modArr p a f).posted = s.posted := rfl
@[simp] theorem State.modArr_refusals (p a : Nat) (f : ArrRec → ArrRec) : (s.modArr p a f).refusals = s.refusals := rfl
@[simp] theorem State.modArr_nextId (p a : Nat) (f : ArrRec → ArrRec) : (s.modArr p a f).nextId = s.nextId := rfl
@[simp] theorem State.modArr_hostReads (p a : Nat) (f : ArrRec → ArrRec) : (s.modArr p a f).hostReads = s.hostReads := rfl
@[simp] theorem State.modArr_ports (p a : Nat) (f : ArrRec → ArrRec) : (s.modArr p a f).ports = s.ports := rfl
@[simp] theorem State.modArr_tb (p a : Nat) (f : ArrRec → ArrRec) : (s.modArr p a f).tb = s.tb := rfl
@[simp] theorem State.modArr_ec (p a : Nat) (f : ArrRec → ArrRec) : (s.modArr p a f).ec = s.ec := rfl
@[simp] theorem State.modArr_rec_ (p a : Nat) (f : ArrRec → ArrRec) : (s.modArr p a f).rec_ = s.rec_ := rfl
@[simp] theorem State.modArr_sc (p a : Nat) (f : ArrRec → ArrRec) : (s.modArr p a f).sc = s.sc := rfl
@[simp] theorem State.modArr_fn (p a : Nat) (f : ArrRec → ArrRec) : (s.modArr p a f).fn = s.fn := rfl
@[simp] theorem State.modArr_fw (p a : Nat) (f : ArrRec → ArrRec) : (s.modArr p a f).fw = s.fw := rfl
@[simp] theorem State.modArr_uart (p a : Nat) (f : ArrRec → ArrRec) : (s.modArr p a f).uart = s.uart := rfl
@[simp] theorem State.modArr_pw (p a : Nat) (f : ArrRec → ArrRec) : (s.modArr p a f).pw = s.pw := rfl
@[simp] theorem State.modArr_out (p a : Nat) (f : ArrRec → ArrRec) : (s.modArr p a f).out = s.out := rfl
@[simp] theorem State.modArr_free (p a : Nat) (f : ArrRec → ArrRec) : (s.modArr p a f).free = s.free := rfl

/-! `setPort`. -/

@[simp] theorem State.setPort_pending (n : Nat) (r : PortRec) : (s.setPort n r).pending = s.pending := rfl
@[simp] theorem State.setPort_variant (n : Nat) (r : PortRec) : (s.setPort n r).variant = s.variant := rfl
@[simp] theorem State.setPort_stepping (n : Nat) (r : PortRec) : (s.setPort n r).stepping = s.stepping := rfl
@[simp] theorem State.setPort_serial (n : Nat) (r : PortRec) : (s.setPort n r).serial = s.serial := rfl
@[simp] theorem State.setPort_regs (n : Nat) (r : PortRec) : (s.setPort n r).regs = s.regs := rfl
@[simp] theorem State.setPort_badParity (n : Nat) (r : PortRec) : (s.setPort n r).badParity = s.badParity := rfl
@[simp] theorem State.setPort_objs (n : Nat) (r : PortRec) : (s.setPort n r).objs = s.objs := rfl
@[simp] theorem State.setPort_time (n : Nat) (r : PortRec) : (s.setPort n r).time = s.time := rfl
@[simp] theorem State.setPort_uptime (n : Nat) (r : PortRec) : (s.setPort n r).uptime = s.uptime := rfl
@[simp] theorem State.setPort_seats (n : Nat) (r : PortRec) : (s.setPort n r).seats = s.seats := rfl
@[simp] theorem State.setPort_parts (n : Nat) (r : PortRec) : (s.setPort n r).parts = s.parts := rfl
@[simp] theorem State.setPort_arrays (n : Nat) (r : PortRec) : (s.setPort n r).arrays = s.arrays := rfl
@[simp] theorem State.setPort_launches (n : Nat) (r : PortRec) : (s.setPort n r).launches = s.launches := rfl
@[simp] theorem State.setPort_csMem (n : Nat) (r : PortRec) : (s.setPort n r).csMem = s.csMem := rfl
@[simp] theorem State.setPort_csPoison (n : Nat) (r : PortRec) : (s.setPort n r).csPoison = s.csPoison := rfl
@[simp] theorem State.setPort_csUpset (n : Nat) (r : PortRec) : (s.setPort n r).csUpset = s.csUpset := rfl
@[simp] theorem State.setPort_cache (n : Nat) (r : PortRec) : (s.setPort n r).cache = s.cache := rfl
@[simp] theorem State.setPort_fills (n : Nat) (r : PortRec) : (s.setPort n r).fills = s.fills := rfl
@[simp] theorem State.setPort_resize (n : Nat) (r : PortRec) : (s.setPort n r).resize = s.resize := rfl
@[simp] theorem State.setPort_heldCreates (n : Nat) (r : PortRec) : (s.setPort n r).heldCreates = s.heldCreates := rfl
@[simp] theorem State.setPort_csScrub (n : Nat) (r : PortRec) : (s.setPort n r).csScrub = s.csScrub := rfl
@[simp] theorem State.setPort_hbm (n : Nat) (r : PortRec) : (s.setPort n r).hbm = s.hbm := rfl
@[simp] theorem State.setPort_hbmUpset (n : Nat) (r : PortRec) : (s.setPort n r).hbmUpset = s.hbmUpset := rfl
@[simp] theorem State.setPort_hbmStacks (n : Nat) (r : PortRec) : (s.setPort n r).hbmStacks = s.hbmStacks := rfl
@[simp] theorem State.setPort_posted (n : Nat) (r : PortRec) : (s.setPort n r).posted = s.posted := rfl
@[simp] theorem State.setPort_refusals (n : Nat) (r : PortRec) : (s.setPort n r).refusals = s.refusals := rfl
@[simp] theorem State.setPort_nextId (n : Nat) (r : PortRec) : (s.setPort n r).nextId = s.nextId := rfl
@[simp] theorem State.setPort_hostReads (n : Nat) (r : PortRec) : (s.setPort n r).hostReads = s.hostReads := rfl
@[simp] theorem State.setPort_tb (n : Nat) (r : PortRec) : (s.setPort n r).tb = s.tb := rfl
@[simp] theorem State.setPort_ec (n : Nat) (r : PortRec) : (s.setPort n r).ec = s.ec := rfl
@[simp] theorem State.setPort_rec_ (n : Nat) (r : PortRec) : (s.setPort n r).rec_ = s.rec_ := rfl
@[simp] theorem State.setPort_sc (n : Nat) (r : PortRec) : (s.setPort n r).sc = s.sc := rfl
@[simp] theorem State.setPort_fn (n : Nat) (r : PortRec) : (s.setPort n r).fn = s.fn := rfl
@[simp] theorem State.setPort_fw (n : Nat) (r : PortRec) : (s.setPort n r).fw = s.fw := rfl
@[simp] theorem State.setPort_uart (n : Nat) (r : PortRec) : (s.setPort n r).uart = s.uart := rfl
@[simp] theorem State.setPort_pw (n : Nat) (r : PortRec) : (s.setPort n r).pw = s.pw := rfl
@[simp] theorem State.setPort_out (n : Nat) (r : PortRec) : (s.setPort n r).out = s.out := rfl
@[simp] theorem State.setPort_free (n : Nat) (r : PortRec) : (s.setPort n r).free = s.free := rfl

/-! `modPort`. -/

@[simp] theorem State.modPort_pending (n : Nat) (f : PortRec → PortRec) : (s.modPort n f).pending = s.pending := rfl
@[simp] theorem State.modPort_variant (n : Nat) (f : PortRec → PortRec) : (s.modPort n f).variant = s.variant := rfl
@[simp] theorem State.modPort_stepping (n : Nat) (f : PortRec → PortRec) : (s.modPort n f).stepping = s.stepping := rfl
@[simp] theorem State.modPort_serial (n : Nat) (f : PortRec → PortRec) : (s.modPort n f).serial = s.serial := rfl
@[simp] theorem State.modPort_regs (n : Nat) (f : PortRec → PortRec) : (s.modPort n f).regs = s.regs := rfl
@[simp] theorem State.modPort_badParity (n : Nat) (f : PortRec → PortRec) : (s.modPort n f).badParity = s.badParity := rfl
@[simp] theorem State.modPort_objs (n : Nat) (f : PortRec → PortRec) : (s.modPort n f).objs = s.objs := rfl
@[simp] theorem State.modPort_time (n : Nat) (f : PortRec → PortRec) : (s.modPort n f).time = s.time := rfl
@[simp] theorem State.modPort_uptime (n : Nat) (f : PortRec → PortRec) : (s.modPort n f).uptime = s.uptime := rfl
@[simp] theorem State.modPort_seats (n : Nat) (f : PortRec → PortRec) : (s.modPort n f).seats = s.seats := rfl
@[simp] theorem State.modPort_parts (n : Nat) (f : PortRec → PortRec) : (s.modPort n f).parts = s.parts := rfl
@[simp] theorem State.modPort_arrays (n : Nat) (f : PortRec → PortRec) : (s.modPort n f).arrays = s.arrays := rfl
@[simp] theorem State.modPort_launches (n : Nat) (f : PortRec → PortRec) : (s.modPort n f).launches = s.launches := rfl
@[simp] theorem State.modPort_csMem (n : Nat) (f : PortRec → PortRec) : (s.modPort n f).csMem = s.csMem := rfl
@[simp] theorem State.modPort_csPoison (n : Nat) (f : PortRec → PortRec) : (s.modPort n f).csPoison = s.csPoison := rfl
@[simp] theorem State.modPort_csUpset (n : Nat) (f : PortRec → PortRec) : (s.modPort n f).csUpset = s.csUpset := rfl
@[simp] theorem State.modPort_cache (n : Nat) (f : PortRec → PortRec) : (s.modPort n f).cache = s.cache := rfl
@[simp] theorem State.modPort_fills (n : Nat) (f : PortRec → PortRec) : (s.modPort n f).fills = s.fills := rfl
@[simp] theorem State.modPort_resize (n : Nat) (f : PortRec → PortRec) : (s.modPort n f).resize = s.resize := rfl
@[simp] theorem State.modPort_heldCreates (n : Nat) (f : PortRec → PortRec) : (s.modPort n f).heldCreates = s.heldCreates := rfl
@[simp] theorem State.modPort_csScrub (n : Nat) (f : PortRec → PortRec) : (s.modPort n f).csScrub = s.csScrub := rfl
@[simp] theorem State.modPort_hbm (n : Nat) (f : PortRec → PortRec) : (s.modPort n f).hbm = s.hbm := rfl
@[simp] theorem State.modPort_hbmUpset (n : Nat) (f : PortRec → PortRec) : (s.modPort n f).hbmUpset = s.hbmUpset := rfl
@[simp] theorem State.modPort_hbmStacks (n : Nat) (f : PortRec → PortRec) : (s.modPort n f).hbmStacks = s.hbmStacks := rfl
@[simp] theorem State.modPort_posted (n : Nat) (f : PortRec → PortRec) : (s.modPort n f).posted = s.posted := rfl
@[simp] theorem State.modPort_refusals (n : Nat) (f : PortRec → PortRec) : (s.modPort n f).refusals = s.refusals := rfl
@[simp] theorem State.modPort_nextId (n : Nat) (f : PortRec → PortRec) : (s.modPort n f).nextId = s.nextId := rfl
@[simp] theorem State.modPort_hostReads (n : Nat) (f : PortRec → PortRec) : (s.modPort n f).hostReads = s.hostReads := rfl
@[simp] theorem State.modPort_tb (n : Nat) (f : PortRec → PortRec) : (s.modPort n f).tb = s.tb := rfl
@[simp] theorem State.modPort_ec (n : Nat) (f : PortRec → PortRec) : (s.modPort n f).ec = s.ec := rfl
@[simp] theorem State.modPort_rec_ (n : Nat) (f : PortRec → PortRec) : (s.modPort n f).rec_ = s.rec_ := rfl
@[simp] theorem State.modPort_sc (n : Nat) (f : PortRec → PortRec) : (s.modPort n f).sc = s.sc := rfl
@[simp] theorem State.modPort_fn (n : Nat) (f : PortRec → PortRec) : (s.modPort n f).fn = s.fn := rfl
@[simp] theorem State.modPort_fw (n : Nat) (f : PortRec → PortRec) : (s.modPort n f).fw = s.fw := rfl
@[simp] theorem State.modPort_uart (n : Nat) (f : PortRec → PortRec) : (s.modPort n f).uart = s.uart := rfl
@[simp] theorem State.modPort_pw (n : Nat) (f : PortRec → PortRec) : (s.modPort n f).pw = s.pw := rfl
@[simp] theorem State.modPort_out (n : Nat) (f : PortRec → PortRec) : (s.modPort n f).out = s.out := rfl
@[simp] theorem State.modPort_free (n : Nat) (f : PortRec → PortRec) : (s.modPort n f).free = s.free := rfl

/-! `setStack`. -/

@[simp] theorem State.setStack_pending (k : Nat) (r : StackRec) : (s.setStack k r).pending = s.pending := rfl
@[simp] theorem State.setStack_variant (k : Nat) (r : StackRec) : (s.setStack k r).variant = s.variant := rfl
@[simp] theorem State.setStack_stepping (k : Nat) (r : StackRec) : (s.setStack k r).stepping = s.stepping := rfl
@[simp] theorem State.setStack_serial (k : Nat) (r : StackRec) : (s.setStack k r).serial = s.serial := rfl
@[simp] theorem State.setStack_regs (k : Nat) (r : StackRec) : (s.setStack k r).regs = s.regs := rfl
@[simp] theorem State.setStack_badParity (k : Nat) (r : StackRec) : (s.setStack k r).badParity = s.badParity := rfl
@[simp] theorem State.setStack_objs (k : Nat) (r : StackRec) : (s.setStack k r).objs = s.objs := rfl
@[simp] theorem State.setStack_time (k : Nat) (r : StackRec) : (s.setStack k r).time = s.time := rfl
@[simp] theorem State.setStack_uptime (k : Nat) (r : StackRec) : (s.setStack k r).uptime = s.uptime := rfl
@[simp] theorem State.setStack_seats (k : Nat) (r : StackRec) : (s.setStack k r).seats = s.seats := rfl
@[simp] theorem State.setStack_parts (k : Nat) (r : StackRec) : (s.setStack k r).parts = s.parts := rfl
@[simp] theorem State.setStack_arrays (k : Nat) (r : StackRec) : (s.setStack k r).arrays = s.arrays := rfl
@[simp] theorem State.setStack_launches (k : Nat) (r : StackRec) : (s.setStack k r).launches = s.launches := rfl
@[simp] theorem State.setStack_csMem (k : Nat) (r : StackRec) : (s.setStack k r).csMem = s.csMem := rfl
@[simp] theorem State.setStack_csPoison (k : Nat) (r : StackRec) : (s.setStack k r).csPoison = s.csPoison := rfl
@[simp] theorem State.setStack_csUpset (k : Nat) (r : StackRec) : (s.setStack k r).csUpset = s.csUpset := rfl
@[simp] theorem State.setStack_cache (k : Nat) (r : StackRec) : (s.setStack k r).cache = s.cache := rfl
@[simp] theorem State.setStack_fills (k : Nat) (r : StackRec) : (s.setStack k r).fills = s.fills := rfl
@[simp] theorem State.setStack_resize (k : Nat) (r : StackRec) : (s.setStack k r).resize = s.resize := rfl
@[simp] theorem State.setStack_heldCreates (k : Nat) (r : StackRec) : (s.setStack k r).heldCreates = s.heldCreates := rfl
@[simp] theorem State.setStack_csScrub (k : Nat) (r : StackRec) : (s.setStack k r).csScrub = s.csScrub := rfl
@[simp] theorem State.setStack_hbm (k : Nat) (r : StackRec) : (s.setStack k r).hbm = s.hbm := rfl
@[simp] theorem State.setStack_hbmUpset (k : Nat) (r : StackRec) : (s.setStack k r).hbmUpset = s.hbmUpset := rfl
@[simp] theorem State.setStack_posted (k : Nat) (r : StackRec) : (s.setStack k r).posted = s.posted := rfl
@[simp] theorem State.setStack_refusals (k : Nat) (r : StackRec) : (s.setStack k r).refusals = s.refusals := rfl
@[simp] theorem State.setStack_nextId (k : Nat) (r : StackRec) : (s.setStack k r).nextId = s.nextId := rfl
@[simp] theorem State.setStack_hostReads (k : Nat) (r : StackRec) : (s.setStack k r).hostReads = s.hostReads := rfl
@[simp] theorem State.setStack_ports (k : Nat) (r : StackRec) : (s.setStack k r).ports = s.ports := rfl
@[simp] theorem State.setStack_tb (k : Nat) (r : StackRec) : (s.setStack k r).tb = s.tb := rfl
@[simp] theorem State.setStack_ec (k : Nat) (r : StackRec) : (s.setStack k r).ec = s.ec := rfl
@[simp] theorem State.setStack_rec_ (k : Nat) (r : StackRec) : (s.setStack k r).rec_ = s.rec_ := rfl
@[simp] theorem State.setStack_sc (k : Nat) (r : StackRec) : (s.setStack k r).sc = s.sc := rfl
@[simp] theorem State.setStack_fn (k : Nat) (r : StackRec) : (s.setStack k r).fn = s.fn := rfl
@[simp] theorem State.setStack_fw (k : Nat) (r : StackRec) : (s.setStack k r).fw = s.fw := rfl
@[simp] theorem State.setStack_uart (k : Nat) (r : StackRec) : (s.setStack k r).uart = s.uart := rfl
@[simp] theorem State.setStack_pw (k : Nat) (r : StackRec) : (s.setStack k r).pw = s.pw := rfl
@[simp] theorem State.setStack_out (k : Nat) (r : StackRec) : (s.setStack k r).out = s.out := rfl
@[simp] theorem State.setStack_free (k : Nat) (r : StackRec) : (s.setStack k r).free = s.free := rfl

/-! `modStack`. -/

@[simp] theorem State.modStack_pending (k : Nat) (f : StackRec → StackRec) : (s.modStack k f).pending = s.pending := rfl
@[simp] theorem State.modStack_variant (k : Nat) (f : StackRec → StackRec) : (s.modStack k f).variant = s.variant := rfl
@[simp] theorem State.modStack_stepping (k : Nat) (f : StackRec → StackRec) : (s.modStack k f).stepping = s.stepping := rfl
@[simp] theorem State.modStack_serial (k : Nat) (f : StackRec → StackRec) : (s.modStack k f).serial = s.serial := rfl
@[simp] theorem State.modStack_regs (k : Nat) (f : StackRec → StackRec) : (s.modStack k f).regs = s.regs := rfl
@[simp] theorem State.modStack_badParity (k : Nat) (f : StackRec → StackRec) : (s.modStack k f).badParity = s.badParity := rfl
@[simp] theorem State.modStack_objs (k : Nat) (f : StackRec → StackRec) : (s.modStack k f).objs = s.objs := rfl
@[simp] theorem State.modStack_time (k : Nat) (f : StackRec → StackRec) : (s.modStack k f).time = s.time := rfl
@[simp] theorem State.modStack_uptime (k : Nat) (f : StackRec → StackRec) : (s.modStack k f).uptime = s.uptime := rfl
@[simp] theorem State.modStack_seats (k : Nat) (f : StackRec → StackRec) : (s.modStack k f).seats = s.seats := rfl
@[simp] theorem State.modStack_parts (k : Nat) (f : StackRec → StackRec) : (s.modStack k f).parts = s.parts := rfl
@[simp] theorem State.modStack_arrays (k : Nat) (f : StackRec → StackRec) : (s.modStack k f).arrays = s.arrays := rfl
@[simp] theorem State.modStack_launches (k : Nat) (f : StackRec → StackRec) : (s.modStack k f).launches = s.launches := rfl
@[simp] theorem State.modStack_csMem (k : Nat) (f : StackRec → StackRec) : (s.modStack k f).csMem = s.csMem := rfl
@[simp] theorem State.modStack_csPoison (k : Nat) (f : StackRec → StackRec) : (s.modStack k f).csPoison = s.csPoison := rfl
@[simp] theorem State.modStack_csUpset (k : Nat) (f : StackRec → StackRec) : (s.modStack k f).csUpset = s.csUpset := rfl
@[simp] theorem State.modStack_cache (k : Nat) (f : StackRec → StackRec) : (s.modStack k f).cache = s.cache := rfl
@[simp] theorem State.modStack_fills (k : Nat) (f : StackRec → StackRec) : (s.modStack k f).fills = s.fills := rfl
@[simp] theorem State.modStack_resize (k : Nat) (f : StackRec → StackRec) : (s.modStack k f).resize = s.resize := rfl
@[simp] theorem State.modStack_heldCreates (k : Nat) (f : StackRec → StackRec) : (s.modStack k f).heldCreates = s.heldCreates := rfl
@[simp] theorem State.modStack_csScrub (k : Nat) (f : StackRec → StackRec) : (s.modStack k f).csScrub = s.csScrub := rfl
@[simp] theorem State.modStack_hbm (k : Nat) (f : StackRec → StackRec) : (s.modStack k f).hbm = s.hbm := rfl
@[simp] theorem State.modStack_hbmUpset (k : Nat) (f : StackRec → StackRec) : (s.modStack k f).hbmUpset = s.hbmUpset := rfl
@[simp] theorem State.modStack_posted (k : Nat) (f : StackRec → StackRec) : (s.modStack k f).posted = s.posted := rfl
@[simp] theorem State.modStack_refusals (k : Nat) (f : StackRec → StackRec) : (s.modStack k f).refusals = s.refusals := rfl
@[simp] theorem State.modStack_nextId (k : Nat) (f : StackRec → StackRec) : (s.modStack k f).nextId = s.nextId := rfl
@[simp] theorem State.modStack_hostReads (k : Nat) (f : StackRec → StackRec) : (s.modStack k f).hostReads = s.hostReads := rfl
@[simp] theorem State.modStack_ports (k : Nat) (f : StackRec → StackRec) : (s.modStack k f).ports = s.ports := rfl
@[simp] theorem State.modStack_tb (k : Nat) (f : StackRec → StackRec) : (s.modStack k f).tb = s.tb := rfl
@[simp] theorem State.modStack_ec (k : Nat) (f : StackRec → StackRec) : (s.modStack k f).ec = s.ec := rfl
@[simp] theorem State.modStack_rec_ (k : Nat) (f : StackRec → StackRec) : (s.modStack k f).rec_ = s.rec_ := rfl
@[simp] theorem State.modStack_sc (k : Nat) (f : StackRec → StackRec) : (s.modStack k f).sc = s.sc := rfl
@[simp] theorem State.modStack_fn (k : Nat) (f : StackRec → StackRec) : (s.modStack k f).fn = s.fn := rfl
@[simp] theorem State.modStack_fw (k : Nat) (f : StackRec → StackRec) : (s.modStack k f).fw = s.fw := rfl
@[simp] theorem State.modStack_uart (k : Nat) (f : StackRec → StackRec) : (s.modStack k f).uart = s.uart := rfl
@[simp] theorem State.modStack_pw (k : Nat) (f : StackRec → StackRec) : (s.modStack k f).pw = s.pw := rfl
@[simp] theorem State.modStack_out (k : Nat) (f : StackRec → StackRec) : (s.modStack k f).out = s.out := rfl
@[simp] theorem State.modStack_free (k : Nat) (f : StackRec → StackRec) : (s.modStack k f).free = s.free := rfl

/-! `setObj`. -/

@[simp] theorem State.setObj_pending (index sub v : Nat) : (s.setObj index sub v).pending = s.pending := rfl
@[simp] theorem State.setObj_variant (index sub v : Nat) : (s.setObj index sub v).variant = s.variant := rfl
@[simp] theorem State.setObj_stepping (index sub v : Nat) : (s.setObj index sub v).stepping = s.stepping := rfl
@[simp] theorem State.setObj_serial (index sub v : Nat) : (s.setObj index sub v).serial = s.serial := rfl
@[simp] theorem State.setObj_regs (index sub v : Nat) : (s.setObj index sub v).regs = s.regs := rfl
@[simp] theorem State.setObj_badParity (index sub v : Nat) : (s.setObj index sub v).badParity = s.badParity := rfl
@[simp] theorem State.setObj_time (index sub v : Nat) : (s.setObj index sub v).time = s.time := rfl
@[simp] theorem State.setObj_uptime (index sub v : Nat) : (s.setObj index sub v).uptime = s.uptime := rfl
@[simp] theorem State.setObj_seats (index sub v : Nat) : (s.setObj index sub v).seats = s.seats := rfl
@[simp] theorem State.setObj_parts (index sub v : Nat) : (s.setObj index sub v).parts = s.parts := rfl
@[simp] theorem State.setObj_arrays (index sub v : Nat) : (s.setObj index sub v).arrays = s.arrays := rfl
@[simp] theorem State.setObj_launches (index sub v : Nat) : (s.setObj index sub v).launches = s.launches := rfl
@[simp] theorem State.setObj_csMem (index sub v : Nat) : (s.setObj index sub v).csMem = s.csMem := rfl
@[simp] theorem State.setObj_csPoison (index sub v : Nat) : (s.setObj index sub v).csPoison = s.csPoison := rfl
@[simp] theorem State.setObj_csUpset (index sub v : Nat) : (s.setObj index sub v).csUpset = s.csUpset := rfl
@[simp] theorem State.setObj_cache (index sub v : Nat) : (s.setObj index sub v).cache = s.cache := rfl
@[simp] theorem State.setObj_fills (index sub v : Nat) : (s.setObj index sub v).fills = s.fills := rfl
@[simp] theorem State.setObj_resize (index sub v : Nat) : (s.setObj index sub v).resize = s.resize := rfl
@[simp] theorem State.setObj_heldCreates (index sub v : Nat) : (s.setObj index sub v).heldCreates = s.heldCreates := rfl
@[simp] theorem State.setObj_csScrub (index sub v : Nat) : (s.setObj index sub v).csScrub = s.csScrub := rfl
@[simp] theorem State.setObj_hbm (index sub v : Nat) : (s.setObj index sub v).hbm = s.hbm := rfl
@[simp] theorem State.setObj_hbmUpset (index sub v : Nat) : (s.setObj index sub v).hbmUpset = s.hbmUpset := rfl
@[simp] theorem State.setObj_hbmStacks (index sub v : Nat) : (s.setObj index sub v).hbmStacks = s.hbmStacks := rfl
@[simp] theorem State.setObj_posted (index sub v : Nat) : (s.setObj index sub v).posted = s.posted := rfl
@[simp] theorem State.setObj_refusals (index sub v : Nat) : (s.setObj index sub v).refusals = s.refusals := rfl
@[simp] theorem State.setObj_nextId (index sub v : Nat) : (s.setObj index sub v).nextId = s.nextId := rfl
@[simp] theorem State.setObj_hostReads (index sub v : Nat) : (s.setObj index sub v).hostReads = s.hostReads := rfl
@[simp] theorem State.setObj_ports (index sub v : Nat) : (s.setObj index sub v).ports = s.ports := rfl
@[simp] theorem State.setObj_tb (index sub v : Nat) : (s.setObj index sub v).tb = s.tb := rfl
@[simp] theorem State.setObj_ec (index sub v : Nat) : (s.setObj index sub v).ec = s.ec := rfl
@[simp] theorem State.setObj_rec_ (index sub v : Nat) : (s.setObj index sub v).rec_ = s.rec_ := rfl
@[simp] theorem State.setObj_sc (index sub v : Nat) : (s.setObj index sub v).sc = s.sc := rfl
@[simp] theorem State.setObj_fn (index sub v : Nat) : (s.setObj index sub v).fn = s.fn := rfl
@[simp] theorem State.setObj_fw (index sub v : Nat) : (s.setObj index sub v).fw = s.fw := rfl
@[simp] theorem State.setObj_uart (index sub v : Nat) : (s.setObj index sub v).uart = s.uart := rfl
@[simp] theorem State.setObj_pw (index sub v : Nat) : (s.setObj index sub v).pw = s.pw := rfl
@[simp] theorem State.setObj_out (index sub v : Nat) : (s.setObj index sub v).out = s.out := rfl
@[simp] theorem State.setObj_free (index sub v : Nat) : (s.setObj index sub v).free = s.free := rfl

/-! `bumpObj`. -/

@[simp] theorem State.bumpObj_pending (index sub n : Nat) : (s.bumpObj index sub n).pending = s.pending := rfl
@[simp] theorem State.bumpObj_variant (index sub n : Nat) : (s.bumpObj index sub n).variant = s.variant := rfl
@[simp] theorem State.bumpObj_stepping (index sub n : Nat) : (s.bumpObj index sub n).stepping = s.stepping := rfl
@[simp] theorem State.bumpObj_serial (index sub n : Nat) : (s.bumpObj index sub n).serial = s.serial := rfl
@[simp] theorem State.bumpObj_regs (index sub n : Nat) : (s.bumpObj index sub n).regs = s.regs := rfl
@[simp] theorem State.bumpObj_badParity (index sub n : Nat) : (s.bumpObj index sub n).badParity = s.badParity := rfl
@[simp] theorem State.bumpObj_time (index sub n : Nat) : (s.bumpObj index sub n).time = s.time := rfl
@[simp] theorem State.bumpObj_uptime (index sub n : Nat) : (s.bumpObj index sub n).uptime = s.uptime := rfl
@[simp] theorem State.bumpObj_seats (index sub n : Nat) : (s.bumpObj index sub n).seats = s.seats := rfl
@[simp] theorem State.bumpObj_parts (index sub n : Nat) : (s.bumpObj index sub n).parts = s.parts := rfl
@[simp] theorem State.bumpObj_arrays (index sub n : Nat) : (s.bumpObj index sub n).arrays = s.arrays := rfl
@[simp] theorem State.bumpObj_launches (index sub n : Nat) : (s.bumpObj index sub n).launches = s.launches := rfl
@[simp] theorem State.bumpObj_csMem (index sub n : Nat) : (s.bumpObj index sub n).csMem = s.csMem := rfl
@[simp] theorem State.bumpObj_csPoison (index sub n : Nat) : (s.bumpObj index sub n).csPoison = s.csPoison := rfl
@[simp] theorem State.bumpObj_csUpset (index sub n : Nat) : (s.bumpObj index sub n).csUpset = s.csUpset := rfl
@[simp] theorem State.bumpObj_cache (index sub n : Nat) : (s.bumpObj index sub n).cache = s.cache := rfl
@[simp] theorem State.bumpObj_fills (index sub n : Nat) : (s.bumpObj index sub n).fills = s.fills := rfl
@[simp] theorem State.bumpObj_resize (index sub n : Nat) : (s.bumpObj index sub n).resize = s.resize := rfl
@[simp] theorem State.bumpObj_heldCreates (index sub n : Nat) : (s.bumpObj index sub n).heldCreates = s.heldCreates := rfl
@[simp] theorem State.bumpObj_csScrub (index sub n : Nat) : (s.bumpObj index sub n).csScrub = s.csScrub := rfl
@[simp] theorem State.bumpObj_hbm (index sub n : Nat) : (s.bumpObj index sub n).hbm = s.hbm := rfl
@[simp] theorem State.bumpObj_hbmUpset (index sub n : Nat) : (s.bumpObj index sub n).hbmUpset = s.hbmUpset := rfl
@[simp] theorem State.bumpObj_hbmStacks (index sub n : Nat) : (s.bumpObj index sub n).hbmStacks = s.hbmStacks := rfl
@[simp] theorem State.bumpObj_posted (index sub n : Nat) : (s.bumpObj index sub n).posted = s.posted := rfl
@[simp] theorem State.bumpObj_refusals (index sub n : Nat) : (s.bumpObj index sub n).refusals = s.refusals := rfl
@[simp] theorem State.bumpObj_nextId (index sub n : Nat) : (s.bumpObj index sub n).nextId = s.nextId := rfl
@[simp] theorem State.bumpObj_hostReads (index sub n : Nat) : (s.bumpObj index sub n).hostReads = s.hostReads := rfl
@[simp] theorem State.bumpObj_ports (index sub n : Nat) : (s.bumpObj index sub n).ports = s.ports := rfl
@[simp] theorem State.bumpObj_tb (index sub n : Nat) : (s.bumpObj index sub n).tb = s.tb := rfl
@[simp] theorem State.bumpObj_ec (index sub n : Nat) : (s.bumpObj index sub n).ec = s.ec := rfl
@[simp] theorem State.bumpObj_rec_ (index sub n : Nat) : (s.bumpObj index sub n).rec_ = s.rec_ := rfl
@[simp] theorem State.bumpObj_sc (index sub n : Nat) : (s.bumpObj index sub n).sc = s.sc := rfl
@[simp] theorem State.bumpObj_fn (index sub n : Nat) : (s.bumpObj index sub n).fn = s.fn := rfl
@[simp] theorem State.bumpObj_fw (index sub n : Nat) : (s.bumpObj index sub n).fw = s.fw := rfl
@[simp] theorem State.bumpObj_uart (index sub n : Nat) : (s.bumpObj index sub n).uart = s.uart := rfl
@[simp] theorem State.bumpObj_pw (index sub n : Nat) : (s.bumpObj index sub n).pw = s.pw := rfl
@[simp] theorem State.bumpObj_out (index sub n : Nat) : (s.bumpObj index sub n).out = s.out := rfl
@[simp] theorem State.bumpObj_free (index sub n : Nat) : (s.bumpObj index sub n).free = s.free := rfl

/-! `emit`. -/

@[simp] theorem State.emit_pending (e : Emission) : (s.emit e).pending = s.pending := rfl
@[simp] theorem State.emit_variant (e : Emission) : (s.emit e).variant = s.variant := rfl
@[simp] theorem State.emit_stepping (e : Emission) : (s.emit e).stepping = s.stepping := rfl
@[simp] theorem State.emit_serial (e : Emission) : (s.emit e).serial = s.serial := rfl
@[simp] theorem State.emit_regs (e : Emission) : (s.emit e).regs = s.regs := rfl
@[simp] theorem State.emit_badParity (e : Emission) : (s.emit e).badParity = s.badParity := rfl
@[simp] theorem State.emit_objs (e : Emission) : (s.emit e).objs = s.objs := rfl
@[simp] theorem State.emit_time (e : Emission) : (s.emit e).time = s.time := rfl
@[simp] theorem State.emit_uptime (e : Emission) : (s.emit e).uptime = s.uptime := rfl
@[simp] theorem State.emit_seats (e : Emission) : (s.emit e).seats = s.seats := rfl
@[simp] theorem State.emit_parts (e : Emission) : (s.emit e).parts = s.parts := rfl
@[simp] theorem State.emit_arrays (e : Emission) : (s.emit e).arrays = s.arrays := rfl
@[simp] theorem State.emit_launches (e : Emission) : (s.emit e).launches = s.launches := rfl
@[simp] theorem State.emit_csMem (e : Emission) : (s.emit e).csMem = s.csMem := rfl
@[simp] theorem State.emit_csPoison (e : Emission) : (s.emit e).csPoison = s.csPoison := rfl
@[simp] theorem State.emit_csUpset (e : Emission) : (s.emit e).csUpset = s.csUpset := rfl
@[simp] theorem State.emit_cache (e : Emission) : (s.emit e).cache = s.cache := rfl
@[simp] theorem State.emit_fills (e : Emission) : (s.emit e).fills = s.fills := rfl
@[simp] theorem State.emit_resize (e : Emission) : (s.emit e).resize = s.resize := rfl
@[simp] theorem State.emit_heldCreates (e : Emission) : (s.emit e).heldCreates = s.heldCreates := rfl
@[simp] theorem State.emit_csScrub (e : Emission) : (s.emit e).csScrub = s.csScrub := rfl
@[simp] theorem State.emit_hbm (e : Emission) : (s.emit e).hbm = s.hbm := rfl
@[simp] theorem State.emit_hbmUpset (e : Emission) : (s.emit e).hbmUpset = s.hbmUpset := rfl
@[simp] theorem State.emit_hbmStacks (e : Emission) : (s.emit e).hbmStacks = s.hbmStacks := rfl
@[simp] theorem State.emit_posted (e : Emission) : (s.emit e).posted = s.posted := rfl
@[simp] theorem State.emit_refusals (e : Emission) : (s.emit e).refusals = s.refusals := rfl
@[simp] theorem State.emit_nextId (e : Emission) : (s.emit e).nextId = s.nextId := rfl
@[simp] theorem State.emit_hostReads (e : Emission) : (s.emit e).hostReads = s.hostReads := rfl
@[simp] theorem State.emit_ports (e : Emission) : (s.emit e).ports = s.ports := rfl
@[simp] theorem State.emit_tb (e : Emission) : (s.emit e).tb = s.tb := rfl
@[simp] theorem State.emit_ec (e : Emission) : (s.emit e).ec = s.ec := rfl
@[simp] theorem State.emit_rec_ (e : Emission) : (s.emit e).rec_ = s.rec_ := rfl
@[simp] theorem State.emit_sc (e : Emission) : (s.emit e).sc = s.sc := rfl
@[simp] theorem State.emit_fn (e : Emission) : (s.emit e).fn = s.fn := rfl
@[simp] theorem State.emit_fw (e : Emission) : (s.emit e).fw = s.fw := rfl
@[simp] theorem State.emit_uart (e : Emission) : (s.emit e).uart = s.uart := rfl
@[simp] theorem State.emit_pw (e : Emission) : (s.emit e).pw = s.pw := rfl
@[simp] theorem State.emit_free (e : Emission) : (s.emit e).free = s.free := rfl

/-! `draw`. -/

@[simp] theorem State.draw_pending : (s.draw).pending = s.pending := rfl
@[simp] theorem State.draw_variant : (s.draw).variant = s.variant := rfl
@[simp] theorem State.draw_stepping : (s.draw).stepping = s.stepping := rfl
@[simp] theorem State.draw_serial : (s.draw).serial = s.serial := rfl
@[simp] theorem State.draw_regs : (s.draw).regs = s.regs := rfl
@[simp] theorem State.draw_badParity : (s.draw).badParity = s.badParity := rfl
@[simp] theorem State.draw_objs : (s.draw).objs = s.objs := rfl
@[simp] theorem State.draw_time : (s.draw).time = s.time := rfl
@[simp] theorem State.draw_uptime : (s.draw).uptime = s.uptime := rfl
@[simp] theorem State.draw_seats : (s.draw).seats = s.seats := rfl
@[simp] theorem State.draw_parts : (s.draw).parts = s.parts := rfl
@[simp] theorem State.draw_arrays : (s.draw).arrays = s.arrays := rfl
@[simp] theorem State.draw_launches : (s.draw).launches = s.launches := rfl
@[simp] theorem State.draw_csMem : (s.draw).csMem = s.csMem := rfl
@[simp] theorem State.draw_csPoison : (s.draw).csPoison = s.csPoison := rfl
@[simp] theorem State.draw_csUpset : (s.draw).csUpset = s.csUpset := rfl
@[simp] theorem State.draw_cache : (s.draw).cache = s.cache := rfl
@[simp] theorem State.draw_fills : (s.draw).fills = s.fills := rfl
@[simp] theorem State.draw_resize : (s.draw).resize = s.resize := rfl
@[simp] theorem State.draw_heldCreates : (s.draw).heldCreates = s.heldCreates := rfl
@[simp] theorem State.draw_csScrub : (s.draw).csScrub = s.csScrub := rfl
@[simp] theorem State.draw_hbm : (s.draw).hbm = s.hbm := rfl
@[simp] theorem State.draw_hbmUpset : (s.draw).hbmUpset = s.hbmUpset := rfl
@[simp] theorem State.draw_hbmStacks : (s.draw).hbmStacks = s.hbmStacks := rfl
@[simp] theorem State.draw_posted : (s.draw).posted = s.posted := rfl
@[simp] theorem State.draw_refusals : (s.draw).refusals = s.refusals := rfl
@[simp] theorem State.draw_nextId : (s.draw).nextId = s.nextId := rfl
@[simp] theorem State.draw_hostReads : (s.draw).hostReads = s.hostReads := rfl
@[simp] theorem State.draw_ports : (s.draw).ports = s.ports := rfl
@[simp] theorem State.draw_tb : (s.draw).tb = s.tb := rfl
@[simp] theorem State.draw_ec : (s.draw).ec = s.ec := rfl
@[simp] theorem State.draw_rec_ : (s.draw).rec_ = s.rec_ := rfl
@[simp] theorem State.draw_sc : (s.draw).sc = s.sc := rfl
@[simp] theorem State.draw_fn : (s.draw).fn = s.fn := rfl
@[simp] theorem State.draw_fw : (s.draw).fw = s.fw := rfl
@[simp] theorem State.draw_uart : (s.draw).uart = s.uart := rfl
@[simp] theorem State.draw_pw : (s.draw).pw = s.pw := rfl
@[simp] theorem State.draw_out : (s.draw).out = s.out := rfl

/-! `setCsPoison`. -/

@[simp] theorem State.setCsPoison_pending (sec : Nat) (b : Bool) : (s.setCsPoison sec b).pending = s.pending := rfl
@[simp] theorem State.setCsPoison_variant (sec : Nat) (b : Bool) : (s.setCsPoison sec b).variant = s.variant := rfl
@[simp] theorem State.setCsPoison_stepping (sec : Nat) (b : Bool) : (s.setCsPoison sec b).stepping = s.stepping := rfl
@[simp] theorem State.setCsPoison_serial (sec : Nat) (b : Bool) : (s.setCsPoison sec b).serial = s.serial := rfl
@[simp] theorem State.setCsPoison_regs (sec : Nat) (b : Bool) : (s.setCsPoison sec b).regs = s.regs := rfl
@[simp] theorem State.setCsPoison_badParity (sec : Nat) (b : Bool) : (s.setCsPoison sec b).badParity = s.badParity := rfl
@[simp] theorem State.setCsPoison_objs (sec : Nat) (b : Bool) : (s.setCsPoison sec b).objs = s.objs := rfl
@[simp] theorem State.setCsPoison_time (sec : Nat) (b : Bool) : (s.setCsPoison sec b).time = s.time := rfl
@[simp] theorem State.setCsPoison_uptime (sec : Nat) (b : Bool) : (s.setCsPoison sec b).uptime = s.uptime := rfl
@[simp] theorem State.setCsPoison_seats (sec : Nat) (b : Bool) : (s.setCsPoison sec b).seats = s.seats := rfl
@[simp] theorem State.setCsPoison_parts (sec : Nat) (b : Bool) : (s.setCsPoison sec b).parts = s.parts := rfl
@[simp] theorem State.setCsPoison_arrays (sec : Nat) (b : Bool) : (s.setCsPoison sec b).arrays = s.arrays := rfl
@[simp] theorem State.setCsPoison_launches (sec : Nat) (b : Bool) : (s.setCsPoison sec b).launches = s.launches := rfl
@[simp] theorem State.setCsPoison_csMem (sec : Nat) (b : Bool) : (s.setCsPoison sec b).csMem = s.csMem := rfl
@[simp] theorem State.setCsPoison_csUpset (sec : Nat) (b : Bool) : (s.setCsPoison sec b).csUpset = s.csUpset := rfl
@[simp] theorem State.setCsPoison_cache (sec : Nat) (b : Bool) : (s.setCsPoison sec b).cache = s.cache := rfl
@[simp] theorem State.setCsPoison_fills (sec : Nat) (b : Bool) : (s.setCsPoison sec b).fills = s.fills := rfl
@[simp] theorem State.setCsPoison_resize (sec : Nat) (b : Bool) : (s.setCsPoison sec b).resize = s.resize := rfl
@[simp] theorem State.setCsPoison_heldCreates (sec : Nat) (b : Bool) : (s.setCsPoison sec b).heldCreates = s.heldCreates := rfl
@[simp] theorem State.setCsPoison_csScrub (sec : Nat) (b : Bool) : (s.setCsPoison sec b).csScrub = s.csScrub := rfl
@[simp] theorem State.setCsPoison_hbm (sec : Nat) (b : Bool) : (s.setCsPoison sec b).hbm = s.hbm := rfl
@[simp] theorem State.setCsPoison_hbmUpset (sec : Nat) (b : Bool) : (s.setCsPoison sec b).hbmUpset = s.hbmUpset := rfl
@[simp] theorem State.setCsPoison_hbmStacks (sec : Nat) (b : Bool) : (s.setCsPoison sec b).hbmStacks = s.hbmStacks := rfl
@[simp] theorem State.setCsPoison_posted (sec : Nat) (b : Bool) : (s.setCsPoison sec b).posted = s.posted := rfl
@[simp] theorem State.setCsPoison_refusals (sec : Nat) (b : Bool) : (s.setCsPoison sec b).refusals = s.refusals := rfl
@[simp] theorem State.setCsPoison_nextId (sec : Nat) (b : Bool) : (s.setCsPoison sec b).nextId = s.nextId := rfl
@[simp] theorem State.setCsPoison_hostReads (sec : Nat) (b : Bool) : (s.setCsPoison sec b).hostReads = s.hostReads := rfl
@[simp] theorem State.setCsPoison_ports (sec : Nat) (b : Bool) : (s.setCsPoison sec b).ports = s.ports := rfl
@[simp] theorem State.setCsPoison_tb (sec : Nat) (b : Bool) : (s.setCsPoison sec b).tb = s.tb := rfl
@[simp] theorem State.setCsPoison_ec (sec : Nat) (b : Bool) : (s.setCsPoison sec b).ec = s.ec := rfl
@[simp] theorem State.setCsPoison_rec_ (sec : Nat) (b : Bool) : (s.setCsPoison sec b).rec_ = s.rec_ := rfl
@[simp] theorem State.setCsPoison_sc (sec : Nat) (b : Bool) : (s.setCsPoison sec b).sc = s.sc := rfl
@[simp] theorem State.setCsPoison_fn (sec : Nat) (b : Bool) : (s.setCsPoison sec b).fn = s.fn := rfl
@[simp] theorem State.setCsPoison_fw (sec : Nat) (b : Bool) : (s.setCsPoison sec b).fw = s.fw := rfl
@[simp] theorem State.setCsPoison_uart (sec : Nat) (b : Bool) : (s.setCsPoison sec b).uart = s.uart := rfl
@[simp] theorem State.setCsPoison_pw (sec : Nat) (b : Bool) : (s.setCsPoison sec b).pw = s.pw := rfl
@[simp] theorem State.setCsPoison_out (sec : Nat) (b : Bool) : (s.setCsPoison sec b).out = s.out := rfl
@[simp] theorem State.setCsPoison_free (sec : Nat) (b : Bool) : (s.setCsPoison sec b).free = s.free := rfl

/-! `csWrite`. -/

@[simp] theorem State.csWrite_pending (a : Nat) (bs : List Byte) : (s.csWrite a bs).pending = s.pending := rfl
@[simp] theorem State.csWrite_variant (a : Nat) (bs : List Byte) : (s.csWrite a bs).variant = s.variant := rfl
@[simp] theorem State.csWrite_stepping (a : Nat) (bs : List Byte) : (s.csWrite a bs).stepping = s.stepping := rfl
@[simp] theorem State.csWrite_serial (a : Nat) (bs : List Byte) : (s.csWrite a bs).serial = s.serial := rfl
@[simp] theorem State.csWrite_regs (a : Nat) (bs : List Byte) : (s.csWrite a bs).regs = s.regs := rfl
@[simp] theorem State.csWrite_badParity (a : Nat) (bs : List Byte) : (s.csWrite a bs).badParity = s.badParity := rfl
@[simp] theorem State.csWrite_objs (a : Nat) (bs : List Byte) : (s.csWrite a bs).objs = s.objs := rfl
@[simp] theorem State.csWrite_time (a : Nat) (bs : List Byte) : (s.csWrite a bs).time = s.time := rfl
@[simp] theorem State.csWrite_uptime (a : Nat) (bs : List Byte) : (s.csWrite a bs).uptime = s.uptime := rfl
@[simp] theorem State.csWrite_seats (a : Nat) (bs : List Byte) : (s.csWrite a bs).seats = s.seats := rfl
@[simp] theorem State.csWrite_parts (a : Nat) (bs : List Byte) : (s.csWrite a bs).parts = s.parts := rfl
@[simp] theorem State.csWrite_arrays (a : Nat) (bs : List Byte) : (s.csWrite a bs).arrays = s.arrays := rfl
@[simp] theorem State.csWrite_launches (a : Nat) (bs : List Byte) : (s.csWrite a bs).launches = s.launches := rfl
@[simp] theorem State.csWrite_cache (a : Nat) (bs : List Byte) : (s.csWrite a bs).cache = s.cache := rfl
@[simp] theorem State.csWrite_fills (a : Nat) (bs : List Byte) : (s.csWrite a bs).fills = s.fills := rfl
@[simp] theorem State.csWrite_resize (a : Nat) (bs : List Byte) : (s.csWrite a bs).resize = s.resize := rfl
@[simp] theorem State.csWrite_heldCreates (a : Nat) (bs : List Byte) : (s.csWrite a bs).heldCreates = s.heldCreates := rfl
@[simp] theorem State.csWrite_csScrub (a : Nat) (bs : List Byte) : (s.csWrite a bs).csScrub = s.csScrub := rfl
@[simp] theorem State.csWrite_hbm (a : Nat) (bs : List Byte) : (s.csWrite a bs).hbm = s.hbm := rfl
@[simp] theorem State.csWrite_hbmUpset (a : Nat) (bs : List Byte) : (s.csWrite a bs).hbmUpset = s.hbmUpset := rfl
@[simp] theorem State.csWrite_hbmStacks (a : Nat) (bs : List Byte) : (s.csWrite a bs).hbmStacks = s.hbmStacks := rfl
@[simp] theorem State.csWrite_posted (a : Nat) (bs : List Byte) : (s.csWrite a bs).posted = s.posted := rfl
@[simp] theorem State.csWrite_refusals (a : Nat) (bs : List Byte) : (s.csWrite a bs).refusals = s.refusals := rfl
@[simp] theorem State.csWrite_nextId (a : Nat) (bs : List Byte) : (s.csWrite a bs).nextId = s.nextId := rfl
@[simp] theorem State.csWrite_hostReads (a : Nat) (bs : List Byte) : (s.csWrite a bs).hostReads = s.hostReads := rfl
@[simp] theorem State.csWrite_ports (a : Nat) (bs : List Byte) : (s.csWrite a bs).ports = s.ports := rfl
@[simp] theorem State.csWrite_tb (a : Nat) (bs : List Byte) : (s.csWrite a bs).tb = s.tb := rfl
@[simp] theorem State.csWrite_ec (a : Nat) (bs : List Byte) : (s.csWrite a bs).ec = s.ec := rfl
@[simp] theorem State.csWrite_rec_ (a : Nat) (bs : List Byte) : (s.csWrite a bs).rec_ = s.rec_ := rfl
@[simp] theorem State.csWrite_sc (a : Nat) (bs : List Byte) : (s.csWrite a bs).sc = s.sc := rfl
@[simp] theorem State.csWrite_fn (a : Nat) (bs : List Byte) : (s.csWrite a bs).fn = s.fn := rfl
@[simp] theorem State.csWrite_fw (a : Nat) (bs : List Byte) : (s.csWrite a bs).fw = s.fw := rfl
@[simp] theorem State.csWrite_uart (a : Nat) (bs : List Byte) : (s.csWrite a bs).uart = s.uart := rfl
@[simp] theorem State.csWrite_pw (a : Nat) (bs : List Byte) : (s.csWrite a bs).pw = s.pw := rfl
@[simp] theorem State.csWrite_out (a : Nat) (bs : List Byte) : (s.csWrite a bs).out = s.out := rfl
@[simp] theorem State.csWrite_free (a : Nat) (bs : List Byte) : (s.csWrite a bs).free = s.free := rfl

/-! `setHbmSector`. -/

@[simp] theorem State.setHbmSector_pending (p sec : Nat) (v : HbmSector) : (s.setHbmSector p sec v).pending = s.pending := rfl
@[simp] theorem State.setHbmSector_variant (p sec : Nat) (v : HbmSector) : (s.setHbmSector p sec v).variant = s.variant := rfl
@[simp] theorem State.setHbmSector_stepping (p sec : Nat) (v : HbmSector) : (s.setHbmSector p sec v).stepping = s.stepping := rfl
@[simp] theorem State.setHbmSector_serial (p sec : Nat) (v : HbmSector) : (s.setHbmSector p sec v).serial = s.serial := rfl
@[simp] theorem State.setHbmSector_regs (p sec : Nat) (v : HbmSector) : (s.setHbmSector p sec v).regs = s.regs := rfl
@[simp] theorem State.setHbmSector_badParity (p sec : Nat) (v : HbmSector) : (s.setHbmSector p sec v).badParity = s.badParity := rfl
@[simp] theorem State.setHbmSector_objs (p sec : Nat) (v : HbmSector) : (s.setHbmSector p sec v).objs = s.objs := rfl
@[simp] theorem State.setHbmSector_time (p sec : Nat) (v : HbmSector) : (s.setHbmSector p sec v).time = s.time := rfl
@[simp] theorem State.setHbmSector_uptime (p sec : Nat) (v : HbmSector) : (s.setHbmSector p sec v).uptime = s.uptime := rfl
@[simp] theorem State.setHbmSector_seats (p sec : Nat) (v : HbmSector) : (s.setHbmSector p sec v).seats = s.seats := rfl
@[simp] theorem State.setHbmSector_parts (p sec : Nat) (v : HbmSector) : (s.setHbmSector p sec v).parts = s.parts := rfl
@[simp] theorem State.setHbmSector_arrays (p sec : Nat) (v : HbmSector) : (s.setHbmSector p sec v).arrays = s.arrays := rfl
@[simp] theorem State.setHbmSector_launches (p sec : Nat) (v : HbmSector) : (s.setHbmSector p sec v).launches = s.launches := rfl
@[simp] theorem State.setHbmSector_csMem (p sec : Nat) (v : HbmSector) : (s.setHbmSector p sec v).csMem = s.csMem := rfl
@[simp] theorem State.setHbmSector_csPoison (p sec : Nat) (v : HbmSector) : (s.setHbmSector p sec v).csPoison = s.csPoison := rfl
@[simp] theorem State.setHbmSector_csUpset (p sec : Nat) (v : HbmSector) : (s.setHbmSector p sec v).csUpset = s.csUpset := rfl
@[simp] theorem State.setHbmSector_cache (p sec : Nat) (v : HbmSector) : (s.setHbmSector p sec v).cache = s.cache := rfl
@[simp] theorem State.setHbmSector_fills (p sec : Nat) (v : HbmSector) : (s.setHbmSector p sec v).fills = s.fills := rfl
@[simp] theorem State.setHbmSector_resize (p sec : Nat) (v : HbmSector) : (s.setHbmSector p sec v).resize = s.resize := rfl
@[simp] theorem State.setHbmSector_heldCreates (p sec : Nat) (v : HbmSector) : (s.setHbmSector p sec v).heldCreates = s.heldCreates := rfl
@[simp] theorem State.setHbmSector_csScrub (p sec : Nat) (v : HbmSector) : (s.setHbmSector p sec v).csScrub = s.csScrub := rfl
@[simp] theorem State.setHbmSector_hbmUpset (p sec : Nat) (v : HbmSector) : (s.setHbmSector p sec v).hbmUpset = s.hbmUpset := rfl
@[simp] theorem State.setHbmSector_hbmStacks (p sec : Nat) (v : HbmSector) : (s.setHbmSector p sec v).hbmStacks = s.hbmStacks := rfl
@[simp] theorem State.setHbmSector_posted (p sec : Nat) (v : HbmSector) : (s.setHbmSector p sec v).posted = s.posted := rfl
@[simp] theorem State.setHbmSector_refusals (p sec : Nat) (v : HbmSector) : (s.setHbmSector p sec v).refusals = s.refusals := rfl
@[simp] theorem State.setHbmSector_nextId (p sec : Nat) (v : HbmSector) : (s.setHbmSector p sec v).nextId = s.nextId := rfl
@[simp] theorem State.setHbmSector_hostReads (p sec : Nat) (v : HbmSector) : (s.setHbmSector p sec v).hostReads = s.hostReads := rfl
@[simp] theorem State.setHbmSector_ports (p sec : Nat) (v : HbmSector) : (s.setHbmSector p sec v).ports = s.ports := rfl
@[simp] theorem State.setHbmSector_tb (p sec : Nat) (v : HbmSector) : (s.setHbmSector p sec v).tb = s.tb := rfl
@[simp] theorem State.setHbmSector_ec (p sec : Nat) (v : HbmSector) : (s.setHbmSector p sec v).ec = s.ec := rfl
@[simp] theorem State.setHbmSector_rec_ (p sec : Nat) (v : HbmSector) : (s.setHbmSector p sec v).rec_ = s.rec_ := rfl
@[simp] theorem State.setHbmSector_sc (p sec : Nat) (v : HbmSector) : (s.setHbmSector p sec v).sc = s.sc := rfl
@[simp] theorem State.setHbmSector_fn (p sec : Nat) (v : HbmSector) : (s.setHbmSector p sec v).fn = s.fn := rfl
@[simp] theorem State.setHbmSector_fw (p sec : Nat) (v : HbmSector) : (s.setHbmSector p sec v).fw = s.fw := rfl
@[simp] theorem State.setHbmSector_uart (p sec : Nat) (v : HbmSector) : (s.setHbmSector p sec v).uart = s.uart := rfl
@[simp] theorem State.setHbmSector_pw (p sec : Nat) (v : HbmSector) : (s.setHbmSector p sec v).pw = s.pw := rfl
@[simp] theorem State.setHbmSector_out (p sec : Nat) (v : HbmSector) : (s.setHbmSector p sec v).out = s.out := rfl
@[simp] theorem State.setHbmSector_free (p sec : Nat) (v : HbmSector) : (s.setHbmSector p sec v).free = s.free := rfl

/-! `putLine`. -/

@[simp] theorem State.putLine_pending (l : CacheLine) : (s.putLine l).pending = s.pending := rfl
@[simp] theorem State.putLine_variant (l : CacheLine) : (s.putLine l).variant = s.variant := rfl
@[simp] theorem State.putLine_stepping (l : CacheLine) : (s.putLine l).stepping = s.stepping := rfl
@[simp] theorem State.putLine_serial (l : CacheLine) : (s.putLine l).serial = s.serial := rfl
@[simp] theorem State.putLine_regs (l : CacheLine) : (s.putLine l).regs = s.regs := rfl
@[simp] theorem State.putLine_badParity (l : CacheLine) : (s.putLine l).badParity = s.badParity := rfl
@[simp] theorem State.putLine_objs (l : CacheLine) : (s.putLine l).objs = s.objs := rfl
@[simp] theorem State.putLine_time (l : CacheLine) : (s.putLine l).time = s.time := rfl
@[simp] theorem State.putLine_uptime (l : CacheLine) : (s.putLine l).uptime = s.uptime := rfl
@[simp] theorem State.putLine_seats (l : CacheLine) : (s.putLine l).seats = s.seats := rfl
@[simp] theorem State.putLine_parts (l : CacheLine) : (s.putLine l).parts = s.parts := rfl
@[simp] theorem State.putLine_arrays (l : CacheLine) : (s.putLine l).arrays = s.arrays := rfl
@[simp] theorem State.putLine_launches (l : CacheLine) : (s.putLine l).launches = s.launches := rfl
@[simp] theorem State.putLine_csMem (l : CacheLine) : (s.putLine l).csMem = s.csMem := rfl
@[simp] theorem State.putLine_csPoison (l : CacheLine) : (s.putLine l).csPoison = s.csPoison := rfl
@[simp] theorem State.putLine_csUpset (l : CacheLine) : (s.putLine l).csUpset = s.csUpset := rfl
@[simp] theorem State.putLine_fills (l : CacheLine) : (s.putLine l).fills = s.fills := rfl
@[simp] theorem State.putLine_resize (l : CacheLine) : (s.putLine l).resize = s.resize := rfl
@[simp] theorem State.putLine_heldCreates (l : CacheLine) : (s.putLine l).heldCreates = s.heldCreates := rfl
@[simp] theorem State.putLine_csScrub (l : CacheLine) : (s.putLine l).csScrub = s.csScrub := rfl
@[simp] theorem State.putLine_hbm (l : CacheLine) : (s.putLine l).hbm = s.hbm := rfl
@[simp] theorem State.putLine_hbmUpset (l : CacheLine) : (s.putLine l).hbmUpset = s.hbmUpset := rfl
@[simp] theorem State.putLine_hbmStacks (l : CacheLine) : (s.putLine l).hbmStacks = s.hbmStacks := rfl
@[simp] theorem State.putLine_posted (l : CacheLine) : (s.putLine l).posted = s.posted := rfl
@[simp] theorem State.putLine_refusals (l : CacheLine) : (s.putLine l).refusals = s.refusals := rfl
@[simp] theorem State.putLine_nextId (l : CacheLine) : (s.putLine l).nextId = s.nextId := rfl
@[simp] theorem State.putLine_hostReads (l : CacheLine) : (s.putLine l).hostReads = s.hostReads := rfl
@[simp] theorem State.putLine_ports (l : CacheLine) : (s.putLine l).ports = s.ports := rfl
@[simp] theorem State.putLine_tb (l : CacheLine) : (s.putLine l).tb = s.tb := rfl
@[simp] theorem State.putLine_ec (l : CacheLine) : (s.putLine l).ec = s.ec := rfl
@[simp] theorem State.putLine_rec_ (l : CacheLine) : (s.putLine l).rec_ = s.rec_ := rfl
@[simp] theorem State.putLine_sc (l : CacheLine) : (s.putLine l).sc = s.sc := rfl
@[simp] theorem State.putLine_fn (l : CacheLine) : (s.putLine l).fn = s.fn := rfl
@[simp] theorem State.putLine_fw (l : CacheLine) : (s.putLine l).fw = s.fw := rfl
@[simp] theorem State.putLine_uart (l : CacheLine) : (s.putLine l).uart = s.uart := rfl
@[simp] theorem State.putLine_pw (l : CacheLine) : (s.putLine l).pw = s.pw := rfl
@[simp] theorem State.putLine_out (l : CacheLine) : (s.putLine l).out = s.out := rfl
@[simp] theorem State.putLine_free (l : CacheLine) : (s.putLine l).free = s.free := rfl

/-! `advance`. -/

@[simp] theorem State.advance_pending (n : Nat) : (s.advance n).pending = s.pending := rfl
@[simp] theorem State.advance_variant (n : Nat) : (s.advance n).variant = s.variant := rfl
@[simp] theorem State.advance_stepping (n : Nat) : (s.advance n).stepping = s.stepping := rfl
@[simp] theorem State.advance_serial (n : Nat) : (s.advance n).serial = s.serial := rfl
@[simp] theorem State.advance_regs (n : Nat) : (s.advance n).regs = s.regs := rfl
@[simp] theorem State.advance_badParity (n : Nat) : (s.advance n).badParity = s.badParity := rfl
@[simp] theorem State.advance_objs (n : Nat) : (s.advance n).objs = s.objs := rfl
@[simp] theorem State.advance_seats (n : Nat) : (s.advance n).seats = s.seats := rfl
@[simp] theorem State.advance_parts (n : Nat) : (s.advance n).parts = s.parts := rfl
@[simp] theorem State.advance_arrays (n : Nat) : (s.advance n).arrays = s.arrays := rfl
@[simp] theorem State.advance_launches (n : Nat) : (s.advance n).launches = s.launches := rfl
@[simp] theorem State.advance_csMem (n : Nat) : (s.advance n).csMem = s.csMem := rfl
@[simp] theorem State.advance_csPoison (n : Nat) : (s.advance n).csPoison = s.csPoison := rfl
@[simp] theorem State.advance_csUpset (n : Nat) : (s.advance n).csUpset = s.csUpset := rfl
@[simp] theorem State.advance_cache (n : Nat) : (s.advance n).cache = s.cache := rfl
@[simp] theorem State.advance_fills (n : Nat) : (s.advance n).fills = s.fills := rfl
@[simp] theorem State.advance_resize (n : Nat) : (s.advance n).resize = s.resize := rfl
@[simp] theorem State.advance_heldCreates (n : Nat) : (s.advance n).heldCreates = s.heldCreates := rfl
@[simp] theorem State.advance_csScrub (n : Nat) : (s.advance n).csScrub = s.csScrub := rfl
@[simp] theorem State.advance_hbm (n : Nat) : (s.advance n).hbm = s.hbm := rfl
@[simp] theorem State.advance_hbmUpset (n : Nat) : (s.advance n).hbmUpset = s.hbmUpset := rfl
@[simp] theorem State.advance_hbmStacks (n : Nat) : (s.advance n).hbmStacks = s.hbmStacks := rfl
@[simp] theorem State.advance_posted (n : Nat) : (s.advance n).posted = s.posted := rfl
@[simp] theorem State.advance_refusals (n : Nat) : (s.advance n).refusals = s.refusals := rfl
@[simp] theorem State.advance_nextId (n : Nat) : (s.advance n).nextId = s.nextId := rfl
@[simp] theorem State.advance_hostReads (n : Nat) : (s.advance n).hostReads = s.hostReads := rfl
@[simp] theorem State.advance_ports (n : Nat) : (s.advance n).ports = s.ports := rfl
@[simp] theorem State.advance_ec (n : Nat) : (s.advance n).ec = s.ec := rfl
@[simp] theorem State.advance_rec_ (n : Nat) : (s.advance n).rec_ = s.rec_ := rfl
@[simp] theorem State.advance_sc (n : Nat) : (s.advance n).sc = s.sc := rfl
@[simp] theorem State.advance_fn (n : Nat) : (s.advance n).fn = s.fn := rfl
@[simp] theorem State.advance_fw (n : Nat) : (s.advance n).fw = s.fw := rfl
@[simp] theorem State.advance_uart (n : Nat) : (s.advance n).uart = s.uart := rfl
@[simp] theorem State.advance_pw (n : Nat) : (s.advance n).pw = s.pw := rfl
@[simp] theorem State.advance_out (n : Nat) : (s.advance n).out = s.out := rfl
@[simp] theorem State.advance_free (n : Nat) : (s.advance n).free = s.free := rfl

/-! `refreshWd`. -/

@[simp] theorem State.refreshWd_pending (n : Nat) : (s.refreshWd n).pending = s.pending := rfl
@[simp] theorem State.refreshWd_variant (n : Nat) : (s.refreshWd n).variant = s.variant := rfl
@[simp] theorem State.refreshWd_stepping (n : Nat) : (s.refreshWd n).stepping = s.stepping := rfl
@[simp] theorem State.refreshWd_serial (n : Nat) : (s.refreshWd n).serial = s.serial := rfl
@[simp] theorem State.refreshWd_regs (n : Nat) : (s.refreshWd n).regs = s.regs := rfl
@[simp] theorem State.refreshWd_badParity (n : Nat) : (s.refreshWd n).badParity = s.badParity := rfl
@[simp] theorem State.refreshWd_objs (n : Nat) : (s.refreshWd n).objs = s.objs := rfl
@[simp] theorem State.refreshWd_time (n : Nat) : (s.refreshWd n).time = s.time := rfl
@[simp] theorem State.refreshWd_uptime (n : Nat) : (s.refreshWd n).uptime = s.uptime := rfl
@[simp] theorem State.refreshWd_arrays (n : Nat) : (s.refreshWd n).arrays = s.arrays := rfl
@[simp] theorem State.refreshWd_launches (n : Nat) : (s.refreshWd n).launches = s.launches := rfl
@[simp] theorem State.refreshWd_csMem (n : Nat) : (s.refreshWd n).csMem = s.csMem := rfl
@[simp] theorem State.refreshWd_csPoison (n : Nat) : (s.refreshWd n).csPoison = s.csPoison := rfl
@[simp] theorem State.refreshWd_csUpset (n : Nat) : (s.refreshWd n).csUpset = s.csUpset := rfl
@[simp] theorem State.refreshWd_cache (n : Nat) : (s.refreshWd n).cache = s.cache := rfl
@[simp] theorem State.refreshWd_fills (n : Nat) : (s.refreshWd n).fills = s.fills := rfl
@[simp] theorem State.refreshWd_resize (n : Nat) : (s.refreshWd n).resize = s.resize := rfl
@[simp] theorem State.refreshWd_heldCreates (n : Nat) : (s.refreshWd n).heldCreates = s.heldCreates := rfl
@[simp] theorem State.refreshWd_csScrub (n : Nat) : (s.refreshWd n).csScrub = s.csScrub := rfl
@[simp] theorem State.refreshWd_hbm (n : Nat) : (s.refreshWd n).hbm = s.hbm := rfl
@[simp] theorem State.refreshWd_hbmUpset (n : Nat) : (s.refreshWd n).hbmUpset = s.hbmUpset := rfl
@[simp] theorem State.refreshWd_hbmStacks (n : Nat) : (s.refreshWd n).hbmStacks = s.hbmStacks := rfl
@[simp] theorem State.refreshWd_posted (n : Nat) : (s.refreshWd n).posted = s.posted := rfl
@[simp] theorem State.refreshWd_refusals (n : Nat) : (s.refreshWd n).refusals = s.refusals := rfl
@[simp] theorem State.refreshWd_nextId (n : Nat) : (s.refreshWd n).nextId = s.nextId := rfl
@[simp] theorem State.refreshWd_hostReads (n : Nat) : (s.refreshWd n).hostReads = s.hostReads := rfl
@[simp] theorem State.refreshWd_ports (n : Nat) : (s.refreshWd n).ports = s.ports := rfl
@[simp] theorem State.refreshWd_tb (n : Nat) : (s.refreshWd n).tb = s.tb := rfl
@[simp] theorem State.refreshWd_ec (n : Nat) : (s.refreshWd n).ec = s.ec := rfl
@[simp] theorem State.refreshWd_rec_ (n : Nat) : (s.refreshWd n).rec_ = s.rec_ := rfl
@[simp] theorem State.refreshWd_sc (n : Nat) : (s.refreshWd n).sc = s.sc := rfl
@[simp] theorem State.refreshWd_fn (n : Nat) : (s.refreshWd n).fn = s.fn := rfl
@[simp] theorem State.refreshWd_fw (n : Nat) : (s.refreshWd n).fw = s.fw := rfl
@[simp] theorem State.refreshWd_uart (n : Nat) : (s.refreshWd n).uart = s.uart := rfl
@[simp] theorem State.refreshWd_pw (n : Nat) : (s.refreshWd n).pw = s.pw := rfl
@[simp] theorem State.refreshWd_out (n : Nat) : (s.refreshWd n).out = s.out := rfl
@[simp] theorem State.refreshWd_free (n : Nat) : (s.refreshWd n).free = s.free := rfl

/-! Reads after writes. -/

@[simp] theorem State.reg_setReg_same (off : Nat) (v : Word) : (s.setReg off v).reg off = v :=
  SMap.get_set_same _ _ _ _

theorem State.reg_setReg_other {o off : Nat} (v : Word) (h : o ≠ off) : (s.setReg off v).reg o = s.reg o :=
  SMap.get_set_other _ _ _ _ h

theorem State.reg_congr {s t : State} (hv : t.variant = s.variant) (hr : t.regs = s.regs) (o : Nat) : t.reg o = s.reg o := by
  unfold State.reg
  rw [hv, hr]

@[simp] theorem State.reg_raise_same (off mask : Nat) : (s.raise off mask).reg off = s.reg off ||| BitVec.ofNat 32 mask :=
  State.reg_setReg_same _ _ _

theorem State.reg_raise_other {o off : Nat} (mask : Nat) (h : o ≠ off) : (s.raise off mask).reg o = s.reg o :=
  State.reg_setReg_other _ _ h

@[simp] theorem State.seat_setSeat_same (n : Nat) (r : SeatRec) : (s.setSeat n r).seat n = r :=
  SMap.get_set_same _ _ _ _

theorem State.seat_setSeat_other {m n : Nat} (r : SeatRec) (h : m ≠ n) : (s.setSeat n r).seat m = s.seat m :=
  SMap.get_set_other _ _ _ _ h

@[simp] theorem State.seat_modSeat_same (n : Nat) (f : SeatRec → SeatRec) : (s.modSeat n f).seat n = f (s.seat n) :=
  State.seat_setSeat_same _ _ _

theorem State.seat_modSeat_other {m n : Nat} (f : SeatRec → SeatRec) (h : m ≠ n) : (s.modSeat n f).seat m = s.seat m :=
  State.seat_setSeat_other _ _ h

@[simp] theorem State.part_setPart_same (p : Nat) (r : PartRec) : (s.setPart p r).part p = r :=
  SMap.get_set_same _ _ _ _

theorem State.part_setPart_other {q p : Nat} (r : PartRec) (h : q ≠ p) : (s.setPart p r).part q = s.part q :=
  SMap.get_set_other _ _ _ _ h

@[simp] theorem State.part_modPart_same (p : Nat) (f : PartRec → PartRec) : (s.modPart p f).part p = f (s.part p) :=
  State.part_setPart_same _ _ _

@[simp] theorem State.arr_setArr_same (p a : Nat) (r : ArrRec) : (s.setArr p a r).arr p a = r :=
  SMap.get_set_same _ _ _ _

@[simp] theorem State.arr_modArr_same (p a : Nat) (f : ArrRec → ArrRec) : (s.modArr p a f).arr p a = f (s.arr p a) :=
  State.arr_setArr_same _ _ _ _

@[simp] theorem State.port_setPort_same (n : Nat) (r : PortRec) : (s.setPort n r).port n = r :=
  SMap.get_set_same _ _ _ _

@[simp] theorem State.port_modPort_same (n : Nat) (f : PortRec → PortRec) : (s.modPort n f).port n = f (s.port n) :=
  State.port_setPort_same _ _ _

theorem State.port_modPort_other {m n : Nat} (f : PortRec → PortRec) (h : m ≠ n) : (s.modPort n f).port m = s.port m :=
  SMap.get_set_other _ _ _ _ h

@[simp] theorem State.stack_setStack_same (k : Nat) (r : StackRec) : (s.setStack k r).stack k = r :=
  SMap.get_set_same _ _ _ _

@[simp] theorem State.stack_modStack_same (k : Nat) (f : StackRec → StackRec) : (s.modStack k f).stack k = f (s.stack k) :=
  State.stack_setStack_same _ _ _

@[simp] theorem State.obj_setObj_same (index sub v d : Nat) : (s.setObj index sub v).obj index sub d = v := by
  simp [State.obj, State.setObj, SMap.find?_insert_same _ _ _ (SMap.find?_erase_same _ _)]

@[simp] theorem State.hbmSector_set_same (p sec : Nat) (v : HbmSector) : (s.setHbmSector p sec v).hbmSector p sec = v :=
  SMap.get_set_same _ _ _ _

/-! Bytes of the Central Store. -/

theorem get_putBytes_outside (m : SMap Byte) (a : Nat) (bs : List Byte) {x : Nat} (h : x < a ∨ a + bs.length ≤ x) :
    SMap.get 0 (putBytes m a bs) x = SMap.get 0 m x := by
  induction bs generalizing m a with
  | nil => rfl
  | cons b bs ih =>
    have hb : (b :: bs).length = bs.length + 1 := rfl
    rw [putBytes, ih _ _ (by omega), SMap.get_set_other _ _ _ _ (by omega)]

theorem get_putBytes_inside (m : SMap Byte) (a : Nat) (bs : List Byte) {i : Nat} (h : i < bs.length) :
    SMap.get 0 (putBytes m a bs) (a + i) = bs[i] := by
  induction bs generalizing m a i with
  | nil => simp at h
  | cons b bs ih =>
    cases i with
    | zero => rw [putBytes, Nat.add_zero, get_putBytes_outside _ _ _ (by omega)]; simp
    | succ i =>
      have h' : i < bs.length := by simpa using h
      have := ih (SMap.set 0 m a b) (a + 1) h'
      rw [putBytes, show a + (i + 1) = a + 1 + i by omega, this]
      simp

/-- A store changes no byte outside the bytes it stores. -/
theorem State.csByte_csWrite_outside (a : Nat) (bs : List Byte) {x : Nat} (h : x < a ∨ a + bs.length ≤ x) :
    (s.csWrite a bs).csByte x = s.csByte x :=
  get_putBytes_outside _ _ _ h

/-- A byte that a store stores reads as the byte stored. -/
theorem State.csByte_csWrite_inside (a : Nat) (bs : List Byte) {i : Nat} (h : i < bs.length) :
    (s.csWrite a bs).csByte (a + i) = bs[i] :=
  get_putBytes_inside _ _ _ h

end Sys2Proof.Machine
end

