-- ==== Sys2Proof/Laws/Dispatch.lean ====
section
/-! SUPPORT. What the shared operations of dispatch do: the watchdogs' refresh, a descriptor entering its seat, and a
dispatch whose checks pass. -/

namespace Sys2Proof.Machine

/-- Refreshing the watchdogs changes a seat in its watchdog's start only. -/
theorem State.refreshWd_seat (s : State) (n m : Nat) : ∃ w, (s.refreshWd n).seat m = { s.seat m with wdStart := w } := by
  have e : (s.refreshWd n).seat m = ((s.modSeat n fun r => { r with
      wdStart := if (s.seatIs n .active && s.pendingWork n) = true then some (r.wdStart.getD s.now) else none }).seat m) := rfl
  rw [e]
  by_cases h : m = n
  · subst h; exact ⟨_, by simp; rfl⟩
  · exact ⟨(s.seat m).wdStart, by simp [State.seat, State.modSeat, State.setSeat, SMap.get_set_other, h]⟩

/-- A descriptor that enters its seat is its last run; nothing else of the seat changes but the watchdog's start. -/
theorem State.addRun_seat (s : State) (n : Nat) (r : Run) :
    ∃ w, (s.addRun n r).seat n = { s.seat n with running := (s.seat n).running ++ [r], wdStart := w } := by
  obtain ⟨w, hw⟩ := State.refreshWd_seat
    (((s.noteWork (n / 16) (engineStatus (n / 16) (opcodeOf r.words) r.unit)).takeBack (n / 16)
      (usesUnit (opcodeOf r.words) r.unit)).modSeat n fun q => { q with running := q.running ++ [r] }) n n
  refine ⟨w, ?_⟩
  have e : (s.addRun n r).seat n = ((((s.noteWork (n / 16) (engineStatus (n / 16) (opcodeOf r.words) r.unit)).takeBack
      (n / 16) (usesUnit (opcodeOf r.words) r.unit)).modSeat n fun q =>
      { q with running := q.running ++ [r] }).refreshWd n).seat n := rfl
  have b : ((s.noteWork (n / 16) (engineStatus (n / 16) (opcodeOf r.words) r.unit)).takeBack (n / 16)
    (usesUnit (opcodeOf r.words) r.unit)).seat n = s.seat n := rfl
  rw [e, hw, State.seat_modSeat_same, b]

/-- Noting an engine's work writes neither the Central Store nor a register nor a seat. -/
theorem State.noteWork_csMem (s : State) (p : Nat) (l : List Nat) : (s.noteWork p l).csMem = s.csMem := rfl
theorem State.noteWork_regs (s : State) (p : Nat) (l : List Nat) : (s.noteWork p l).regs = s.regs := rfl

theorem State.enterSeat_csMem (s : State) (n : Nat) (f : ShakeUnit → Bool) (g : SeatRec → SeatRec) :
    (((s.takeBack (n / 16) f).modSeat n g).refreshWd n).csMem = s.csMem := rfl
theorem State.enterSeat_regs (s : State) (n : Nat) (f : ShakeUnit → Bool) (g : SeatRec → SeatRec) :
    (((s.takeBack (n / 16) f).modSeat n g).refreshWd n).regs = s.regs := rfl

/-- A descriptor entering its seat leaves the Central Store and the registers alone. -/
theorem State.addRun_csMem (s : State) (n : Nat) (r : Run) : (s.addRun n r).csMem = s.csMem :=
  (State.enterSeat_csMem _ n _ _).trans (State.noteWork_csMem _ _ _)
theorem State.addRun_regs (s : State) (n : Nat) (r : Run) : (s.addRun n r).regs = s.regs :=
  (State.enterSeat_regs _ n _ _).trans (State.noteWork_regs _ _ _)

theorem State.startDone_csMem (s : State) (n : Nat) (h : Head) (st : Nat) (g : List Region) :
    (s.startDone n h st g).csMem = s.csMem := State.addRun_csMem _ _ _

/-- A descriptor whose work ends in its first step is in work with its status. -/
theorem State.startDone_inWork (s : State) (n : Nat) (h : Head) (st : Nat) (g : List Region) :
    (s.startDone n h st g).inWork n h .done st := by
  obtain ⟨w, hw⟩ := State.addRun_seat s n { newRun h .done st with guard := g }
  refine ⟨{ newRun h .done st with guard := g }, ?_, rfl, rfl, rfl, rfl⟩
  unfold State.startDone
  rw [hw]
  simp

/-- The dispatch of a head that can start: it starts and runs. -/
theorem State.dispatch_of_canStart {s : State} {n : Nat} {mine : List Word → Bool} {c : Checks}
    {gf : List Word → List Region} {u : List Word → Nat} {go : Head → List Region → State → State} {h : Head}
    (hc : s.canStart n c (gf h.words) h) (hm : mine h.words = true) :
    s.dispatch n mine c gf u go = go h (gf h.words) (s.start n h (u h.words)) := by
  obtain ⟨h1, h2, h3, h4, h5⟩ := hc
  unfold State.dispatch
  simp only [h1, h2, h3, h4, h5, hm]
  simp

end Sys2Proof.Machine
end

