-- ==== Sys2Proof/Laws/Keeps.lean ====
section
/-! SUPPORT. What no operation of the device touches: the queue of waiting commands, the identity of the part, and
the canonical form of its memories. `Keeps s t` says so of a state `t` that an operation makes of `s`; the lemmas here
carry it through branches, folds and updates. -/

namespace Sys2Proof.Machine

/-- From `s` to `t` the queue and the part's identity stay, and the memories keep their canonical form. -/
structure Keeps (s t : State) : Prop where
  pending  : t.pending = s.pending
  variant  : t.variant = s.variant
  stepping : t.stepping = s.stepping
  serial   : t.serial = s.serial
  csMem    : Memory.wf s.csMem = true → Memory.wf t.csMem = true
  hbm      : hbmWf s.hbm = true → hbmWf t.hbm = true

variable {α β γ : Type} {s t u : State}

theorem Keeps.refl (s : State) : Keeps s s := ⟨rfl, rfl, rfl, rfl, id, id⟩

theorem Keeps.trans (h : Keeps s t) (k : Keeps t u) : Keeps s u :=
  ⟨k.pending.trans h.pending, k.variant.trans h.variant, k.stepping.trans h.stepping, k.serial.trans h.serial,
    k.csMem ∘ h.csMem, k.hbm ∘ h.hbm⟩

/-- An update of other fields. -/
theorem keeps_upd {t : State}
    {regs : SMap Word} {badParity : List Nat} {objs : SMap Nat} {time : BitVec 80} {uptime : Nat} {seats : SMap
    SeatRec} {parts : SMap PartRec} {arrays : SMap ArrRec} {launches : List Launch} {csPoison : SMap Bool}
    {csUpset : SMap EccSeen} {cache : List CacheLine} {fills : List (Nat × Nat)} {resize : Option Nat}
    {heldCreates : List Nat} {csScrub : Bool} {hbmUpset : SMap EccSeen} {hbmStacks : SMap StackRec} {posted :
    List Posted} {refusals : List PriorRefusal} {nextId : Nat} {hostReads : List HostRead} {ports : SMap
    PortRec} {tb : TimeBase} {ec : ErrorControl} {rec_ : Recorder} {sc : Security} {fn : FieldNet} {fw :
    Firmware} {uart : Uart} {pw : Power} {out : List Emission} {free : Nat}
    : Keeps s (State.mk
    t.pending t.variant t.stepping t.serial regs badParity objs time uptime seats parts arrays launches t.csMem
    csPoison csUpset cache fills resize heldCreates csScrub t.hbm hbmUpset hbmStacks posted refusals nextId
    hostReads ports tb ec rec_ sc fn fw uart pw out free) = Keeps s t :=
  propext ⟨fun h => ⟨h.pending, h.variant, h.stepping, h.serial, h.csMem, h.hbm⟩,
    fun h => ⟨h.pending, h.variant, h.stepping, h.serial, h.csMem, h.hbm⟩⟩

theorem Keeps.ite {c : Prop} [Decidable c] {a b : State} (h : Keeps s a) (k : Keeps s b) : Keeps s (if c then a else b) := by
  split <;> assumption

theorem Keeps.ite_snd {c : Prop} [Decidable c] {a b : α × State} (h : Keeps s a.2) (k : Keeps s b.2) :
    Keeps s (if c then a else b).2 := by
  split <;> assumption

theorem Keeps.ite_snd_snd {c : Prop} [Decidable c] {a b : α × β × State} (h : Keeps s a.2.2) (k : Keeps s b.2.2) :
    Keeps s (if c then a else b).2.2 := by
  split <;> assumption

theorem Keeps.ite_snd_fst {c : Prop} [Decidable c] {a b : α × State × β} (h : Keeps s a.2.1) (k : Keeps s b.2.1) :
    Keeps s (if c then a else b).2.1 := by
  split <;> assumption

theorem Keeps.fold {f : State → α → State} {l : List α} (h : ∀ u x, Keeps u (f u x)) (k : Keeps s t) :
    Keeps s (l.foldl f t) := by
  induction l generalizing t with
  | nil => exact k
  | cons x l ih => exact ih (k.trans (h t x))

theorem Keeps.fold_snd {f : β × State → α → β × State} {l : List α} {p : β × State}
    (h : ∀ q x, Keeps q.2 (f q x).2) (k : Keeps s p.2) : Keeps s (l.foldl f p).2 := by
  induction l generalizing p with
  | nil => exact k
  | cons x l ih => exact ih (k.trans (h p x))

theorem Keeps.fold_snd_snd {f : β × γ × State → α → β × γ × State} {l : List α} {p : β × γ × State}
    (h : ∀ q x, Keeps q.2.2 (f q x).2.2) (k : Keeps s p.2.2) : Keeps s (l.foldl f p).2.2 := by
  induction l generalizing p with
  | nil => exact k
  | cons x l ih => exact ih (k.trans (h p x))

theorem putBytes_wf (m : SMap Byte) (a : Nat) (bs : List Byte) (h : Memory.wf m = true) :
    Memory.wf (putBytes m a bs) = true := by
  induction bs generalizing m a with
  | nil => exact h
  | cons b bs ih => exact ih _ _ (SMap.wf_set (d := fun _ => 0#8) a b h)

end Sys2Proof.Machine
end

