-- ==== Sys2Proof/Laws/KeepsBase.lean ====
section
/-! SUPPORT. Every operation of the shared operations leaves the queue, the identity
of the part and the canonical form of the memories as `Keeps` says. -/

set_option Elab.async false

namespace Sys2Proof.Machine

/-! Machine/Flags.lean. -/

theorem keeps_setReg {s₀} {s : State} (off) (v) (hk : Keeps s₀ s) : Keeps s₀ (State.setReg s off v) := by
  refine hk.trans ?_
  clear hk
  unfold State.setReg
  try dsimp only
  repeat' first
    | with_reducible apply Keeps.refl
    | simp only [↓keeps_upd]

theorem keeps_setRegN {s₀} {s : State} (off) (v) (hk : Keeps s₀ s) : Keeps s₀ (State.setRegN s off v) := by
  refine hk.trans ?_
  clear hk
  unfold State.setRegN
  try dsimp only
  repeat' first
    | with_reducible apply Keeps.refl
    | with_reducible apply keeps_setReg

theorem keeps_raise {s₀} {s : State} (off) (mask) (hk : Keeps s₀ s) : Keeps s₀ (State.raise s off mask) := by
  refine hk.trans ?_
  clear hk
  unfold State.raise
  try dsimp only
  repeat' first
    | with_reducible apply Keeps.refl
    | with_reducible apply keeps_setReg

theorem keeps_status {s₀} {s : State} (off) (i) (b) (hk : Keeps s₀ s) : Keeps s₀ (State.status s off i b) := by
  refine hk.trans ?_
  clear hk
  unfold State.status
  try dsimp only
  repeat' first
    | with_reducible apply Keeps.refl
    | with_reducible apply keeps_setReg

theorem keeps_setRegField {s₀} {s : State} (off) (hi) (lo) (v) (hk : Keeps s₀ s) : Keeps s₀ (State.setRegField s off hi lo v) := by
  refine hk.trans ?_
  clear hk
  unfold State.setRegField
  try dsimp only
  repeat' first
    | with_reducible apply Keeps.refl
    | with_reducible apply keeps_setReg

theorem keeps_count {s₀} {s : State} (off) (n) (hk : Keeps s₀ s) : Keeps s₀ (State.count s off n) := by
  refine hk.trans ?_
  clear hk
  unfold State.count
  try dsimp only
  repeat' first
    | with_reducible apply Keeps.refl
    | with_reducible apply keeps_setRegN

theorem keeps_countSat {s₀} {s : State} (off) (n) (hk : Keeps s₀ s) : Keeps s₀ (State.countSat s off n) := by
  refine hk.trans ?_
  clear hk
  unfold State.countSat
  try dsimp only
  repeat' first
    | with_reducible apply Keeps.refl
    | with_reducible apply keeps_setRegN

theorem keeps_resetRegs {s₀} {s : State} (lo) (hi) (hk : Keeps s₀ s) : Keeps s₀ (State.resetRegs s lo hi) := by
  refine hk.trans ?_
  clear hk
  unfold State.resetRegs
  try dsimp only
  repeat' first
    | with_reducible apply Keeps.refl
    | simp only [↓keeps_upd]

/-! Machine/Ops.lean. -/

theorem keeps_draw {s₀} {s : State} (hk : Keeps s₀ s) : Keeps s₀ (State.draw s) := by
  refine hk.trans ?_
  clear hk
  unfold State.draw
  try dsimp only
  repeat' first
    | with_reducible apply Keeps.refl
    | simp only [↓keeps_upd]

theorem keeps_advance {s₀} {s : State} (n) (hk : Keeps s₀ s) : Keeps s₀ (State.advance s n) := by
  refine hk.trans ?_
  clear hk
  unfold State.advance
  try dsimp only
  repeat' first
    | with_reducible apply Keeps.refl
    | simp only [↓keeps_upd]

theorem keeps_reach {s₀} {s : State} (t) (hk : Keeps s₀ s) : Keeps s₀ (State.reach s t) := by
  refine hk.trans ?_
  clear hk
  unfold State.reach
  try dsimp only
  repeat' first
    | with_reducible apply Keeps.refl
    | with_reducible apply Keeps.ite
    | with_reducible apply keeps_advance

theorem keeps_reachUp {s₀} {s : State} (t) (hk : Keeps s₀ s) : Keeps s₀ (State.reachUp s t) := by
  refine hk.trans ?_
  clear hk
  unfold State.reachUp
  try dsimp only
  repeat' first
    | with_reducible apply Keeps.refl
    | with_reducible apply Keeps.ite
    | with_reducible apply keeps_advance

theorem keeps_setSeat {s₀} {s : State} (n) (r) (hk : Keeps s₀ s) : Keeps s₀ (State.setSeat s n r) := by
  refine hk.trans ?_
  clear hk
  unfold State.setSeat
  try dsimp only
  repeat' first
    | with_reducible apply Keeps.refl
    | simp only [↓keeps_upd]

theorem keeps_modSeat {s₀} {s : State} (n) (f) (hk : Keeps s₀ s) : Keeps s₀ (State.modSeat s n f) := by
  refine hk.trans ?_
  clear hk
  unfold State.modSeat
  try dsimp only
  repeat' first
    | with_reducible apply Keeps.refl
    | with_reducible apply keeps_setSeat

theorem keeps_setPart {s₀} {s : State} (p) (r) (hk : Keeps s₀ s) : Keeps s₀ (State.setPart s p r) := by
  refine hk.trans ?_
  clear hk
  unfold State.setPart
  try dsimp only
  repeat' first
    | with_reducible apply Keeps.refl
    | simp only [↓keeps_upd]

theorem keeps_modPart {s₀} {s : State} (p) (f) (hk : Keeps s₀ s) : Keeps s₀ (State.modPart s p f) := by
  refine hk.trans ?_
  clear hk
  unfold State.modPart
  try dsimp only
  repeat' first
    | with_reducible apply Keeps.refl
    | with_reducible apply keeps_setPart

theorem keeps_setArr {s₀} {s : State} (p) (a) (r) (hk : Keeps s₀ s) : Keeps s₀ (State.setArr s p a r) := by
  refine hk.trans ?_
  clear hk
  unfold State.setArr
  try dsimp only
  repeat' first
    | with_reducible apply Keeps.refl
    | simp only [↓keeps_upd]

theorem keeps_modArr {s₀} {s : State} (p) (a) (f) (hk : Keeps s₀ s) : Keeps s₀ (State.modArr s p a f) := by
  refine hk.trans ?_
  clear hk
  unfold State.modArr
  try dsimp only
  repeat' first
    | with_reducible apply Keeps.refl
    | with_reducible apply keeps_setArr

theorem keeps_setPort {s₀} {s : State} (n) (r) (hk : Keeps s₀ s) : Keeps s₀ (State.setPort s n r) := by
  refine hk.trans ?_
  clear hk
  unfold State.setPort
  try dsimp only
  repeat' first
    | with_reducible apply Keeps.refl
    | simp only [↓keeps_upd]

theorem keeps_modPort {s₀} {s : State} (n) (f) (hk : Keeps s₀ s) : Keeps s₀ (State.modPort s n f) := by
  refine hk.trans ?_
  clear hk
  unfold State.modPort
  try dsimp only
  repeat' first
    | with_reducible apply Keeps.refl
    | with_reducible apply keeps_setPort

theorem keeps_setStack {s₀} {s : State} (k) (r) (hk : Keeps s₀ s) : Keeps s₀ (State.setStack s k r) := by
  refine hk.trans ?_
  clear hk
  unfold State.setStack
  try dsimp only
  repeat' first
    | with_reducible apply Keeps.refl
    | simp only [↓keeps_upd]

theorem keeps_modStack {s₀} {s : State} (k) (f) (hk : Keeps s₀ s) : Keeps s₀ (State.modStack s k f) := by
  refine hk.trans ?_
  clear hk
  unfold State.modStack
  try dsimp only
  repeat' first
    | with_reducible apply Keeps.refl
    | with_reducible apply keeps_setStack

theorem keeps_setObj {s₀} {s : State} (index) (sub) (v) (hk : Keeps s₀ s) : Keeps s₀ (State.setObj s index sub v) := by
  refine hk.trans ?_
  clear hk
  unfold State.setObj
  try dsimp only
  repeat' first
    | with_reducible apply Keeps.refl
    | simp only [↓keeps_upd]

theorem keeps_bumpObj {s₀} {s : State} (index) (sub) (n) (hk : Keeps s₀ s) : Keeps s₀ (State.bumpObj s index sub n) := by
  refine hk.trans ?_
  clear hk
  unfold State.bumpObj
  try dsimp only
  repeat' first
    | with_reducible apply Keeps.refl
    | with_reducible apply keeps_setObj

theorem keeps_foldWide {s₀} {s : State} (index) (sub) (off) (hk : Keeps s₀ s) : Keeps s₀ (State.foldWide s index sub off) := by
  refine hk.trans ?_
  clear hk
  unfold State.foldWide
  try dsimp only
  repeat' first
    | with_reducible apply Keeps.refl
    | with_reducible apply keeps_bumpObj

theorem keeps_foldNarrow {s₀} {s : State} (index) (sub) (off) (hk : Keeps s₀ s) : Keeps s₀ (State.foldNarrow s index sub off) := by
  refine hk.trans ?_
  clear hk
  unfold State.foldNarrow
  try dsimp only
  repeat' first
    | with_reducible apply Keeps.refl
    | with_reducible apply keeps_bumpObj

theorem keeps_emit {s₀} {s : State} (e) (hk : Keeps s₀ s) : Keeps s₀ (State.emit s e) := by
  refine hk.trans ?_
  clear hk
  unfold State.emit
  try dsimp only
  repeat' first
    | with_reducible apply Keeps.refl
    | simp only [↓keeps_upd]

theorem keeps_msix {s₀} {s : State} (v) (hk : Keeps s₀ s) : Keeps s₀ (State.msix s v) := by
  refine hk.trans ?_
  clear hk
  unfold State.msix
  try dsimp only
  repeat' first
    | with_reducible apply Keeps.refl
    | with_reducible apply Keeps.ite
    | with_reducible apply keeps_status
    | with_reducible apply keeps_emit

theorem keeps_signalSeat {s₀} {s : State} (n) (hk : Keeps s₀ s) : Keeps s₀ (State.signalSeat s n) := by
  refine hk.trans ?_
  clear hk
  unfold State.signalSeat
  try dsimp only
  repeat' first
    | with_reducible apply Keeps.refl
    | with_reducible apply Keeps.ite
    | with_reducible apply keeps_modSeat
    | with_reducible apply keeps_msix

theorem keeps_signalEc {s₀} {s : State} (hk : Keeps s₀ s) : Keeps s₀ (State.signalEc s) := by
  refine hk.trans ?_
  clear hk
  unfold State.signalEc
  try dsimp only
  repeat' first
    | with_reducible apply Keeps.refl
    | simp only [↓keeps_upd]
    | with_reducible apply Keeps.ite
    | with_reducible apply keeps_msix

theorem keeps_gatherAlarm {s₀} {s : State} (o) (bits) (hk : Keeps s₀ s) : Keeps s₀ (State.gatherAlarm s o bits) := by
  refine hk.trans ?_
  clear hk
  unfold State.gatherAlarm
  try dsimp only
  repeat' first
    | with_reducible apply Keeps.refl
    | simp only [↓keeps_upd]
    | with_reducible apply Keeps.ite

theorem keeps_raiseEc {s₀} {s : State} (o) (mask) (hk : Keeps s₀ s) : Keeps s₀ (State.raiseEc s o mask) := by
  refine hk.trans ?_
  clear hk
  unfold State.raiseEc
  try dsimp only
  repeat' first
    | with_reducible apply Keeps.refl
    | with_reducible apply Keeps.ite
    | with_reducible apply keeps_signalEc
    | with_reducible apply keeps_gatherAlarm
    | with_reducible apply keeps_setReg

theorem keeps_logConfig {s₀} {s : State} (mask) (hk : Keeps s₀ s) : Keeps s₀ (State.logConfig s mask) := by
  refine hk.trans ?_
  clear hk
  unfold State.logConfig
  try dsimp only
  repeat' first
    | with_reducible apply Keeps.refl
    | with_reducible apply keeps_raiseEc

theorem keeps_logFault {s₀} {s : State} (mask) (hk : Keeps s₀ s) : Keeps s₀ (State.logFault s mask) := by
  refine hk.trans ?_
  clear hk
  unfold State.logFault
  try dsimp only
  repeat' first
    | with_reducible apply Keeps.refl
    | with_reducible apply keeps_raiseEc

theorem keeps_logArray {s₀} {s : State} (mask) (hk : Keeps s₀ s) : Keeps s₀ (State.logArray s mask) := by
  refine hk.trans ?_
  clear hk
  unfold State.logArray
  try dsimp only
  repeat' first
    | with_reducible apply Keeps.refl
    | with_reducible apply keeps_raiseEc

theorem keeps_absentAccess {s₀} {s : State} (hk : Keeps s₀ s) : Keeps s₀ (State.absentAccess s) := by
  refine hk.trans ?_
  clear hk
  unfold State.absentAccess
  try dsimp only
  repeat' first
    | with_reducible apply Keeps.refl
    | with_reducible apply keeps_logConfig

theorem keeps_setCsPoison {s₀} {s : State} (sec) (b) (hk : Keeps s₀ s) : Keeps s₀ (State.setCsPoison s sec b) := by
  refine hk.trans ?_
  clear hk
  unfold State.setCsPoison
  try dsimp only
  repeat' first
    | with_reducible apply Keeps.refl
    | simp only [↓keeps_upd]

theorem keeps_csFetch {s₀} {s : State} (sec) (hk : Keeps s₀ s) : Keeps s₀ (State.csFetch s sec).2 := by
  refine hk.trans ?_
  clear hk
  unfold State.csFetch
  try dsimp only
  repeat' first
    | with_reducible apply Keeps.refl
    | simp only [↓keeps_upd]
    | with_reducible apply Keeps.ite
    | with_reducible apply Keeps.ite_snd
    | with_reducible apply keeps_raise
    | with_reducible apply keeps_countSat
    | with_reducible apply keeps_setCsPoison
    | with_reducible apply keeps_setRegN
    | split

theorem keeps_csFetchAll {s₀} {s : State} (a1) (hk : Keeps s₀ s) : Keeps s₀ (State.csFetchAll s a1).2 := by
  refine hk.trans ?_
  clear hk
  fun_induction State.csFetchAll s a1 <;> try dsimp only
  all_goals repeat' first
    | with_reducible apply Keeps.refl
    | with_reducible apply keeps_csFetch
    | (with_reducible apply Keeps.trans; on_goal 2 => with_reducible assumption)

theorem keeps_csRead {s₀} {s : State} (a) (n) (hk : Keeps s₀ s) : Keeps s₀ (State.csRead s a n).2.2 := by
  refine hk.trans ?_
  clear hk
  unfold State.csRead
  try dsimp only
  repeat' first
    | with_reducible apply Keeps.refl
    | with_reducible apply keeps_csFetchAll

theorem keeps_csWrite {z} {s : State} (a) (bs) (k : Keeps z s) : Keeps z (State.csWrite s a bs) :=
  k.trans ⟨rfl, rfl, rfl, rfl, putBytes_wf _ _ _, id⟩

theorem keeps_csPoisonRange {s₀} {s : State} (a) (n) (hk : Keeps s₀ s) : Keeps s₀ (State.csPoisonRange s a n) := by
  refine hk.trans ?_
  clear hk
  unfold State.csPoisonRange
  try dsimp only
  repeat' first
    | with_reducible apply Keeps.refl
    | with_reducible apply Keeps.fold
    | with_reducible apply keeps_setCsPoison
    | intro _

theorem keeps_csClear {z} {s : State} (a) (n) (k : Keeps z s) : Keeps z (State.csClear s a n) :=
  k.trans ⟨rfl, rfl, rfl, rfl, SMap.wf_dropRange _ _, id⟩

theorem keeps_setTumbler {s₀} {s : State} (t) (v) (hk : Keeps s₀ s) : Keeps s₀ (State.setTumbler s t v) := by
  refine hk.trans ?_
  clear hk
  unfold State.setTumbler
  try dsimp only
  repeat' first
    | with_reducible apply Keeps.refl
    | simp only [↓keeps_upd]
    | with_reducible apply Keeps.ite
    | with_reducible apply Keeps.ite_snd
    | with_reducible apply Keeps.ite_snd_snd
    | with_reducible apply Keeps.ite_snd_fst
    | with_reducible apply keeps_setReg

theorem keeps_refreshWd {s₀} {s : State} (n) (hk : Keeps s₀ s) : Keeps s₀ (State.refreshWd s n) := by
  refine hk.trans ?_
  clear hk
  unfold State.refreshWd
  try dsimp only
  repeat' first
    | with_reducible apply Keeps.refl
    | simp only [↓keeps_upd]
    | with_reducible apply Keeps.ite
    | with_reducible apply Keeps.ite_snd
    | with_reducible apply Keeps.ite_snd_snd
    | with_reducible apply Keeps.ite_snd_fst
    | with_reducible apply keeps_modSeat
    | with_reducible apply keeps_modPart

theorem keeps_ringPut {s₀} {s : State} (base) (size) (a1) (a2) (a3) (hk : Keeps s₀ s) : Keeps s₀ (State.ringPut s base size a1 a2 a3) := by
  refine hk.trans ?_
  clear hk
  fun_induction State.ringPut s base size a1 a2 a3 <;> try dsimp only
  all_goals repeat' first
    | with_reducible apply Keeps.refl
    | with_reducible apply keeps_csWrite
    | (with_reducible apply Keeps.trans; on_goal 2 => with_reducible assumption)

theorem keeps_recWrite {s₀} {s : State} (h) (step) (payload) (hk : Keeps s₀ s) : Keeps s₀ (State.recWrite s h step payload) := by
  refine hk.trans ?_
  clear hk
  unfold State.recWrite
  try dsimp only
  repeat' first
    | with_reducible apply Keeps.refl
    | simp only [↓keeps_upd]
    | with_reducible apply Keeps.ite
    | with_reducible apply keeps_raise
    | with_reducible apply keeps_ringPut
    | with_reducible apply keeps_setReg

theorem keeps_record {s₀} {s : State} (en) (h) (payload) (hk : Keeps s₀ s) : Keeps s₀ (State.record s en h payload) := by
  refine hk.trans ?_
  clear hk
  unfold State.record
  try dsimp only
  repeat' first
    | with_reducible apply Keeps.refl
    | with_reducible apply Keeps.ite
    | with_reducible apply keeps_recWrite

theorem keeps_recordHost {s₀} {s : State} (kind) (addr) (value) (payload) (hk : Keeps s₀ s) : Keeps s₀ (State.recordHost s kind addr value payload) := by
  refine hk.trans ?_
  clear hk
  unfold State.recordHost
  try dsimp only
  repeat' first
    | with_reducible apply Keeps.refl
    | with_reducible apply keeps_record

theorem keeps_trace {s₀} {s : State} (n) (tag) (opcode) (event) (status) (unit) (hk : Keeps s₀ s) : Keeps s₀ (State.trace s n tag opcode event status unit) := by
  refine hk.trans ?_
  clear hk
  unfold State.trace
  try dsimp only
  repeat' first
    | with_reducible apply Keeps.refl
    | with_reducible apply Keeps.ite
    | with_reducible apply keeps_emit
    | with_reducible apply keeps_bumpObj
    | with_reducible apply keeps_setReg
    | with_reducible apply keeps_csWrite

theorem keeps_completionRecord {s₀} {s : State} (n) (tag) (status) (opcode) (hk : Keeps s₀ s) : Keeps s₀ (State.completionRecord s n tag status opcode) := by
  refine hk.trans ?_
  clear hk
  unfold State.completionRecord
  try dsimp only
  repeat' first
    | with_reducible apply Keeps.refl
    | with_reducible apply keeps_signalSeat
    | with_reducible apply keeps_setReg
    | with_reducible apply keeps_csWrite

theorem keeps_errorRecord {s₀} {s : State} (n) (tag) (cause) (kind) (hall) (ns) (hk : Keeps s₀ s) : Keeps s₀ (State.errorRecord s n tag cause kind hall ns) := by
  refine hk.trans ?_
  clear hk
  unfold State.errorRecord
  try dsimp only
  repeat' first
    | with_reducible apply Keeps.refl
    | with_reducible apply Keeps.ite
    | with_reducible apply keeps_raise
    | with_reducible apply keeps_signalSeat
    | with_reducible apply keeps_setReg
    | with_reducible apply keeps_csWrite

/-! Machine/Memory.lean. -/

theorem keeps_setHbmSector {z} {s : State} (p) (sec) (v) (k : Keeps z s) : Keeps z (State.setHbmSector s p sec v) :=
  k.trans ⟨rfl, rfl, rfl, rfl, id, SMap.wf_set (d := fun _ => HbmSector.fresh) _ _⟩

theorem keeps_rowListed {s₀} {s : State} (k) (x) (hk : Keeps s₀ s) : Keeps s₀ (State.rowListed s k x) := by
  refine hk.trans ?_
  clear hk
  unfold State.rowListed
  try dsimp only
  repeat' first
    | with_reducible apply Keeps.refl
    | simp only [↓keeps_upd]
    | with_reducible apply Keeps.ite
    | with_reducible apply Keeps.ite_snd
    | with_reducible apply Keeps.ite_snd_snd
    | with_reducible apply Keeps.ite_snd_fst
    | with_reducible apply keeps_modStack
    | with_reducible apply keeps_raise

theorem keeps_rowCorrected {s₀} {s : State} (k) (x) (hk : Keeps s₀ s) : Keeps s₀ (State.rowCorrected s k x) := by
  refine hk.trans ?_
  clear hk
  unfold State.rowCorrected
  try dsimp only
  repeat' first
    | with_reducible apply Keeps.refl
    | simp only [↓keeps_upd]
    | with_reducible apply Keeps.ite
    | with_reducible apply Keeps.ite_snd
    | with_reducible apply Keeps.ite_snd_snd
    | with_reducible apply Keeps.ite_snd_fst
    | with_reducible apply keeps_modStack
    | with_reducible apply keeps_rowListed

theorem keeps_hbmFetch {s₀} {s : State} (p) (sec) (hk : Keeps s₀ s) : Keeps s₀ (State.hbmFetch s p sec).2 := by
  refine hk.trans ?_
  clear hk
  unfold State.hbmFetch
  try dsimp only
  repeat' first
    | with_reducible apply Keeps.refl
    | simp only [↓keeps_upd]
    | with_reducible apply Keeps.ite
    | with_reducible apply Keeps.ite_snd
    | with_reducible apply Keeps.ite_snd_snd
    | with_reducible apply Keeps.ite_snd_fst
    | with_reducible apply keeps_raise
    | with_reducible apply keeps_countSat
    | with_reducible apply keeps_rowCorrected
    | with_reducible apply keeps_setHbmSector
    | with_reducible apply keeps_rowListed
    | with_reducible apply keeps_setRegN
    | split

theorem keeps_putLine {s₀} {s : State} (l) (hk : Keeps s₀ s) : Keeps s₀ (State.putLine s l) := by
  refine hk.trans ?_
  clear hk
  unfold State.putLine
  try dsimp only
  repeat' first
    | with_reducible apply Keeps.refl
    | simp only [↓keeps_upd]

theorem keeps_writeBack {s₀} {s : State} (l) (hk : Keeps s₀ s) : Keeps s₀ (State.writeBack s l) := by
  refine hk.trans ?_
  clear hk
  unfold State.writeBack
  try dsimp only
  repeat' first
    | with_reducible apply Keeps.refl
    | with_reducible apply Keeps.ite
    | with_reducible apply Keeps.fold
    | with_reducible apply keeps_setHbmSector
    | intro _

theorem keeps_fillLine {s₀} {s : State} (p) (n) (hk : Keeps s₀ s) : Keeps s₀ (State.fillLine s p n) := by
  refine hk.trans ?_
  clear hk
  unfold State.fillLine
  try dsimp only
  repeat' first
    | with_reducible apply Keeps.refl
    | simp only [↓keeps_upd]
    | with_reducible apply keeps_writeBack
    | with_reducible apply keeps_hbmFetch
    | with_reducible apply keeps_putLine
    | split

theorem keeps_dropLines {s₀} {s : State} (drop) (hk : Keeps s₀ s) : Keeps s₀ (State.dropLines s drop) := by
  refine hk.trans ?_
  clear hk
  unfold State.dropLines
  try dsimp only
  repeat' first
    | with_reducible apply Keeps.refl
    | simp only [↓keeps_upd]

theorem keeps_hbmReadSector {s₀} {s : State} (p) (sec) (key) (hk : Keeps s₀ s) : Keeps s₀ (State.hbmReadSector s p sec key).2.2 := by
  refine hk.trans ?_
  clear hk
  unfold State.hbmReadSector
  try dsimp only
  repeat' first
    | with_reducible apply Keeps.refl
    | with_reducible apply Keeps.ite_snd_snd
    | with_reducible apply keeps_putLine
    | with_reducible apply keeps_raise
    | with_reducible apply keeps_hbmFetch
    | split

theorem keeps_hbmWriteSector {s₀} {s : State} (p) (sec) (i) (bs) (poison) (key) (hk : Keeps s₀ s) : Keeps s₀ (State.hbmWriteSector s p sec i bs poison key) := by
  refine hk.trans ?_
  clear hk
  unfold State.hbmWriteSector
  try dsimp only
  repeat' first
    | with_reducible apply Keeps.refl
    | simp only [↓keeps_upd]
    | with_reducible apply Keeps.ite
    | with_reducible apply keeps_putLine
    | with_reducible apply keeps_setHbmSector
    | with_reducible apply keeps_hbmFetch
    | split

theorem keeps_csReadMarked {s₀} {s : State} (a) (n) (hk : Keeps s₀ s) : Keeps s₀ (State.csReadMarked s a n).2 := by
  refine hk.trans ?_
  clear hk
  unfold State.csReadMarked
  try dsimp only
  repeat' first
    | with_reducible apply Keeps.refl
    | with_reducible apply keeps_csFetchAll

theorem keeps_hbmReadSectors {s₀} {s : State} (p) (key) (a1) (hk : Keeps s₀ s) : Keeps s₀ (State.hbmReadSectors s p key a1).2 := by
  refine hk.trans ?_
  clear hk
  fun_induction State.hbmReadSectors s p key a1 <;> try dsimp only
  all_goals repeat' first
    | with_reducible apply Keeps.refl
    | with_reducible apply keeps_hbmReadSector
    | (with_reducible apply Keeps.trans; on_goal 2 => with_reducible assumption)

theorem keeps_hbmReadMarked {s₀} {s : State} (p) (a) (n) (key) (hk : Keeps s₀ s) : Keeps s₀ (State.hbmReadMarked s p a n key).2 := by
  refine hk.trans ?_
  clear hk
  unfold State.hbmReadMarked
  try dsimp only
  repeat' first
    | with_reducible apply Keeps.refl
    | with_reducible apply keeps_hbmReadSectors

theorem keeps_csWriteMarked {s₀} {s : State} (a) (bs) (hk : Keeps s₀ s) : Keeps s₀ (State.csWriteMarked s a bs) := by
  refine hk.trans ?_
  clear hk
  unfold State.csWriteMarked
  try dsimp only
  repeat' first
    | with_reducible apply Keeps.refl
    | with_reducible apply Keeps.ite
    | with_reducible apply Keeps.fold
    | with_reducible apply keeps_csWrite
    | with_reducible apply keeps_setCsPoison
    | intro _

theorem keeps_hbmWriteMarked {s₀} {s : State} (p) (a) (bs) (key) (hk : Keeps s₀ s) : Keeps s₀ (State.hbmWriteMarked s p a bs key) := by
  refine hk.trans ?_
  clear hk
  unfold State.hbmWriteMarked
  try dsimp only
  repeat' first
    | with_reducible apply Keeps.refl
    | with_reducible apply Keeps.fold
    | with_reducible apply keeps_hbmWriteSector
    | intro _

/-! Machine/Faults.lean. -/

theorem keeps_queueCtrl {s₀} {s : State} (port) (body) (hk : Keeps s₀ s) : Keeps s₀ (State.queueCtrl s port body) := by
  refine hk.trans ?_
  clear hk
  unfold State.queueCtrl
  try dsimp only
  repeat' first
    | with_reducible apply Keeps.refl
    | simp only [↓keeps_upd]
    | with_reducible apply keeps_modPort

theorem keeps_queueCtrlAll {s₀} {s : State} (ports) (body) (hk : Keeps s₀ s) : Keeps s₀ (State.queueCtrlAll s ports body) := by
  refine hk.trans ?_
  clear hk
  unfold State.queueCtrlAll
  try dsimp only
  repeat' first
    | with_reducible apply Keeps.refl
    | with_reducible apply Keeps.fold
    | with_reducible apply keeps_queueCtrl
    | intro _

theorem keeps_originate {s₀} {s : State} (j) (cause) (seat) (hk : Keeps s₀ s) : Keeps s₀ (State.originate s j cause seat) := by
  refine hk.trans ?_
  clear hk
  unfold State.originate
  try dsimp only
  repeat' first
    | with_reducible apply Keeps.refl
    | simp only [↓keeps_upd]
    | with_reducible apply Keeps.ite
    | with_reducible apply keeps_bumpObj
    | with_reducible apply keeps_logFault
    | with_reducible apply keeps_queueCtrlAll

theorem keeps_shortfall {s₀} {s : State} (k) (hk : Keeps s₀ s) : Keeps s₀ (State.shortfall s k) := by
  refine hk.trans ?_
  clear hk
  unfold State.shortfall
  try dsimp only
  repeat' first
    | with_reducible apply Keeps.refl
    | with_reducible apply Keeps.ite
    | with_reducible apply Keeps.fold
    | with_reducible apply keeps_raise
    | with_reducible apply keeps_modStack
    | with_reducible apply keeps_bumpObj
    | with_reducible apply keeps_status
    | split
    | intro _

theorem keeps_reserve {s₀} {s : State} (n) (v) (hk : Keeps s₀ s) : Keeps s₀ (State.reserve s n v) := by
  refine hk.trans ?_
  clear hk
  unfold State.reserve
  try dsimp only
  repeat' first
    | with_reducible apply Keeps.refl
    | with_reducible apply Keeps.fold
    | with_reducible apply keeps_shortfall
    | with_reducible apply keeps_setObj
    | intro _

theorem keeps_tdiError {s₀} {s : State} (n) (hk : Keeps s₀ s) : Keeps s₀ (State.tdiError s n) := by
  refine hk.trans ?_
  clear hk
  unfold State.tdiError
  try dsimp only
  repeat' first
    | with_reducible apply Keeps.refl
    | with_reducible apply Keeps.ite
    | with_reducible apply keeps_raise
    | with_reducible apply keeps_modSeat

theorem keeps_traceLost {s₀} {s : State} (n) (hk : Keeps s₀ s) : Keeps s₀ (State.traceLost s n) := by
  refine hk.trans ?_
  clear hk
  unfold State.traceLost
  try dsimp only
  repeat' first
    | with_reducible apply Keeps.refl
    | with_reducible apply Keeps.ite
    | with_reducible apply keeps_raise
    | with_reducible apply keeps_status

theorem keeps_toState {s₀} {s : State} (n) (st) (hk : Keeps s₀ s) : Keeps s₀ (State.toState s n st) := by
  refine hk.trans ?_
  clear hk
  unfold State.toState
  try dsimp only
  repeat' first
    | with_reducible apply Keeps.refl
    | with_reducible apply Keeps.ite
    | with_reducible apply keeps_modSeat
    | with_reducible apply keeps_traceLost
    | with_reducible apply keeps_tdiError
    | with_reducible apply keeps_refreshWd
    | with_reducible apply keeps_signalSeat

theorem keeps_freeArray {s₀} {s : State} (p) (a) (hk : Keeps s₀ s) : Keeps s₀ (State.freeArray s p a) := by
  refine hk.trans ?_
  clear hk
  unfold State.freeArray
  try dsimp only
  repeat' first
    | with_reducible apply Keeps.refl
    | simp only [↓keeps_upd]
    | with_reducible apply keeps_modArr

theorem keeps_enterArrays {s₀} {s : State} (n) (as) (hk : Keeps s₀ s) : Keeps s₀ (State.enterArrays s n as) := by
  refine hk.trans ?_
  clear hk
  unfold State.enterArrays
  try dsimp only
  repeat' first
    | with_reducible apply Keeps.refl
    | simp only [↓keeps_upd]
    | with_reducible apply Keeps.ite
    | with_reducible apply Keeps.ite_snd
    | with_reducible apply Keeps.ite_snd_snd
    | with_reducible apply Keeps.ite_snd_fst
    | with_reducible apply Keeps.fold
    | with_reducible apply Keeps.fold_snd
    | with_reducible apply Keeps.fold_snd_snd
    | with_reducible apply keeps_modArr
    | split
    | intro _

theorem keeps_dropCells {s₀} {s : State} (n) (hk : Keeps s₀ s) : Keeps s₀ (State.dropCells s n) := by
  refine hk.trans ?_
  clear hk
  unfold State.dropCells
  try dsimp only
  repeat' first
    | with_reducible apply Keeps.refl
    | simp only [↓keeps_upd]
    | with_reducible apply Keeps.ite
    | with_reducible apply Keeps.ite_snd
    | with_reducible apply Keeps.ite_snd_snd
    | with_reducible apply Keeps.ite_snd_fst
    | with_reducible apply Keeps.fold
    | with_reducible apply Keeps.fold_snd
    | with_reducible apply Keeps.fold_snd_snd
    | with_reducible apply keeps_modPort
    | split
    | intro _

theorem keeps_voidSeat {s₀} {s : State} (n) (hard) (hk : Keeps s₀ s) : Keeps s₀ (State.voidSeat s n hard) := by
  refine hk.trans ?_
  clear hk
  unfold State.voidSeat
  try dsimp only
  repeat' first
    | with_reducible apply Keeps.refl
    | simp only [↓keeps_upd]
    | with_reducible apply Keeps.ite
    | with_reducible apply Keeps.ite_snd
    | with_reducible apply Keeps.ite_snd_snd
    | with_reducible apply Keeps.ite_snd_fst
    | with_reducible apply Keeps.fold
    | with_reducible apply Keeps.fold_snd
    | with_reducible apply Keeps.fold_snd_snd
    | with_reducible apply keeps_trace
    | with_reducible apply keeps_freeArray
    | with_reducible apply keeps_dropCells
    | with_reducible apply keeps_modSeat
    | with_reducible apply keeps_refreshWd
    | split
    | intro _

theorem keeps_faultSeat {s₀} {s : State} (n) (cause) (hk : Keeps s₀ s) : Keeps s₀ (State.faultSeat s n cause) := by
  refine hk.trans ?_
  clear hk
  unfold State.faultSeat
  try dsimp only
  repeat' first
    | with_reducible apply Keeps.refl
    | with_reducible apply Keeps.ite
    | with_reducible apply keeps_originate
    | with_reducible apply keeps_modSeat
    | with_reducible apply keeps_toState

theorem keeps_seatFault {s₀} {s : State} (n) (hk : Keeps s₀ s) : Keeps s₀ (State.seatFault s n) := by
  refine hk.trans ?_
  clear hk
  unfold State.seatFault
  try dsimp only
  repeat' first
    | with_reducible apply Keeps.refl
    | with_reducible apply keeps_faultSeat

theorem keeps_clearSlots {s₀} {s : State} (p) (sel) (hk : Keeps s₀ s) : Keeps s₀ (State.clearSlots s p sel) := by
  refine hk.trans ?_
  clear hk
  unfold State.clearSlots
  try dsimp only
  repeat' first
    | with_reducible apply Keeps.refl
    | simp only [↓keeps_upd]
    | with_reducible apply Keeps.fold
    | with_reducible apply Keeps.fold_snd
    | with_reducible apply Keeps.fold_snd_snd
    | with_reducible apply keeps_modArr
    | split
    | intro _

theorem keeps_countFault {s₀} {s : State} (p) (a) (hk : Keeps s₀ s) : Keeps s₀ (State.countFault s p a) := by
  refine hk.trans ?_
  clear hk
  unfold State.countFault
  try dsimp only
  repeat' first
    | with_reducible apply Keeps.refl
    | with_reducible apply keeps_modArr

theorem keeps_retireArray {s₀} {s : State} (p) (a) (hk : Keeps s₀ s) : Keeps s₀ (State.retireArray s p a) := by
  refine hk.trans ?_
  clear hk
  unfold State.retireArray
  try dsimp only
  repeat' first
    | with_reducible apply Keeps.refl
    | simp only [↓keeps_upd]
    | with_reducible apply Keeps.ite
    | with_reducible apply Keeps.ite_snd
    | with_reducible apply Keeps.ite_snd_snd
    | with_reducible apply Keeps.ite_snd_fst
    | with_reducible apply keeps_modArr
    | with_reducible apply keeps_logArray

theorem keeps_indexEntry {s₀} {s : State} (step) (first) (count) (flags) (digest) (hk : Keeps s₀ s) : Keeps s₀ (State.indexEntry s step first count flags digest) := by
  refine hk.trans ?_
  clear hk
  unfold State.indexEntry
  try dsimp only
  repeat' first
    | with_reducible apply Keeps.refl
    | simp only [↓keeps_upd]

theorem keeps_recorderLost {s₀} {s : State} (hk : Keeps s₀ s) : Keeps s₀ (State.recorderLost s) := by
  refine hk.trans ?_
  clear hk
  unfold State.recorderLost
  try dsimp only
  repeat' first
    | with_reducible apply Keeps.refl
    | simp only [↓keeps_upd]
    | with_reducible apply Keeps.ite
    | with_reducible apply Keeps.ite_snd
    | with_reducible apply Keeps.ite_snd_snd
    | with_reducible apply Keeps.ite_snd_fst
    | with_reducible apply keeps_indexEntry
    | with_reducible apply keeps_count
    | with_reducible apply keeps_draw
    | with_reducible apply keeps_raise
    | split

theorem keeps_haspDue {s₀} {s : State} (b) (f) (hk : Keeps s₀ s) : Keeps s₀ (State.haspDue s b f) := by
  refine hk.trans ?_
  clear hk
  unfold State.haspDue
  try dsimp only
  repeat' first
    | with_reducible apply Keeps.refl
    | simp only [↓keeps_upd]

theorem keeps_startRelease {s₀} {s : State} (n) (hk : Keeps s₀ s) : Keeps s₀ (State.startRelease s n) := by
  refine hk.trans ?_
  clear hk
  unfold State.startRelease
  try dsimp only
  repeat' first
    | with_reducible apply Keeps.refl
    | with_reducible apply Keeps.ite
    | with_reducible apply keeps_recorderLost
    | with_reducible apply keeps_voidSeat
    | with_reducible apply keeps_toState
    | with_reducible apply keeps_clearSlots
    | with_reducible apply keeps_dropLines
    | with_reducible apply keeps_haspDue
    | with_reducible apply keeps_reserve

theorem keeps_seatResult {s₀} {s : State} (p) (busy) (loc) (cause) (hk : Keeps s₀ s) : Keeps s₀ (State.seatResult s p busy loc cause) := by
  refine hk.trans ?_
  clear hk
  unfold State.seatResult
  try dsimp only
  repeat' first
    | with_reducible apply Keeps.refl
    | with_reducible apply keeps_setRegN

theorem keeps_zeroTumblers {s₀} {s : State} (n) (hk : Keeps s₀ s) : Keeps s₀ (State.zeroTumblers s n) := by
  refine hk.trans ?_
  clear hk
  unfold State.zeroTumblers
  try dsimp only
  repeat' first
    | with_reducible apply Keeps.refl
    | with_reducible apply Keeps.fold
    | with_reducible apply keeps_setReg
    | intro _

theorem keeps_leaveForfeited {s₀} {s : State} (hk : Keeps s₀ s) : Keeps s₀ (State.leaveForfeited s) := by
  refine hk.trans ?_
  clear hk
  unfold State.leaveForfeited
  try dsimp only
  repeat' first
    | with_reducible apply Keeps.refl
    | simp only [↓keeps_upd]

theorem keeps_foldPart {s₀} {s : State} (p) (hk : Keeps s₀ s) : Keeps s₀ (State.foldPart s p) := by
  refine hk.trans ?_
  clear hk
  unfold State.foldPart
  try dsimp only
  repeat' first
    | with_reducible apply Keeps.refl
    | with_reducible apply keeps_foldWide

theorem keeps_gatePart {s₀} {s : State} (p) (hk : Keeps s₀ s) : Keeps s₀ (State.gatePart s p) := by
  refine hk.trans ?_
  clear hk
  unfold State.gatePart
  try dsimp only
  repeat' first
    | with_reducible apply Keeps.refl
    | with_reducible apply Keeps.ite
    | with_reducible apply keeps_modPart

theorem keeps_dropWorking {s₀} {s : State} (p) (hk : Keeps s₀ s) : Keeps s₀ (State.dropWorking s p) := by
  refine hk.trans ?_
  clear hk
  unfold State.dropWorking
  try dsimp only
  repeat' first
    | with_reducible apply Keeps.refl
    | simp only [↓keeps_upd]

theorem keeps_captureCause {s₀} {s : State} (p) (c) (hk : Keeps s₀ s) : Keeps s₀ (State.captureCause s p c) := by
  refine hk.trans ?_
  clear hk
  unfold State.captureCause
  try dsimp only
  repeat' first
    | with_reducible apply Keeps.refl
    | with_reducible apply Keeps.ite
    | with_reducible apply keeps_setRegField

theorem keeps_endTargetReset {s₀} {s : State} (p) (hk : Keeps s₀ s) : Keeps s₀ (State.endTargetReset s p) := by
  refine hk.trans ?_
  clear hk
  unfold State.endTargetReset
  try dsimp only
  repeat' first
    | with_reducible apply Keeps.refl
    | simp only [↓keeps_upd]
    | with_reducible apply Keeps.ite
    | with_reducible apply Keeps.ite_snd
    | with_reducible apply Keeps.ite_snd_snd
    | with_reducible apply Keeps.ite_snd_fst
    | with_reducible apply Keeps.fold
    | with_reducible apply Keeps.fold_snd
    | with_reducible apply Keeps.fold_snd_snd
    | with_reducible apply keeps_modSeat
    | with_reducible apply keeps_raise
    | split
    | intro _

theorem keeps_takeBack {s₀} {s : State} (p) (f) (hk : Keeps s₀ s) : Keeps s₀ (State.takeBack s p f) := by
  refine hk.trans ?_
  clear hk
  unfold State.takeBack
  try dsimp only
  repeat' first
    | with_reducible apply Keeps.refl
    | simp only [↓keeps_upd]

theorem keeps_abortCommand {s₀} {s : State} (p) (hk : Keeps s₀ s) : Keeps s₀ (State.abortCommand s p) := by
  refine hk.trans ?_
  clear hk
  unfold State.abortCommand
  try dsimp only
  repeat' first
    | with_reducible apply Keeps.refl
    | simp only [↓keeps_upd]
    | with_reducible apply Keeps.ite
    | with_reducible apply Keeps.ite_snd
    | with_reducible apply Keeps.ite_snd_snd
    | with_reducible apply Keeps.ite_snd_fst
    | with_reducible apply keeps_seatResult

theorem keeps_startPartReset {s₀} {s : State} (p) (c) (hk : Keeps s₀ s) : Keeps s₀ (State.startPartReset s p c) := by
  refine hk.trans ?_
  clear hk
  unfold State.startPartReset
  try dsimp only
  repeat' first
    | with_reducible apply Keeps.refl
    | simp only [↓keeps_upd]
    | with_reducible apply Keeps.ite
    | with_reducible apply Keeps.ite_snd
    | with_reducible apply Keeps.ite_snd_snd
    | with_reducible apply Keeps.ite_snd_fst
    | with_reducible apply Keeps.fold
    | with_reducible apply Keeps.fold_snd
    | with_reducible apply Keeps.fold_snd_snd
    | with_reducible apply keeps_modPart
    | with_reducible apply keeps_captureCause
    | with_reducible apply keeps_takeBack
    | with_reducible apply keeps_abortCommand
    | with_reducible apply keeps_recorderLost
    | with_reducible apply keeps_voidSeat
    | with_reducible apply keeps_tdiError
    | with_reducible apply keeps_originate
    | with_reducible apply keeps_clearSlots
    | with_reducible apply keeps_dropLines
    | with_reducible apply keeps_endTargetReset
    | with_reducible apply keeps_haspDue
    | with_reducible apply keeps_csClear
    | with_reducible apply keeps_modSeat
    | with_reducible apply keeps_reserve
    | with_reducible apply keeps_traceLost
    | split
    | intro _

theorem keeps_freshSeats {s₀} {s : State} (p) (hk : Keeps s₀ s) : Keeps s₀ (State.freshSeats s p) := by
  refine hk.trans ?_
  clear hk
  unfold State.freshSeats
  try dsimp only
  repeat' first
    | with_reducible apply Keeps.refl
    | simp only [↓keeps_upd]

theorem keeps_retrainEnds {s₀} {s : State} (k) (c) (hk : Keeps s₀ s) : Keeps s₀ (State.retrainEnds s k c) := by
  refine hk.trans ?_
  clear hk
  unfold State.retrainEnds
  try dsimp only
  repeat' first
    | with_reducible apply Keeps.refl
    | simp only [↓keeps_upd]
    | with_reducible apply keeps_modStack
    | with_reducible apply keeps_status

theorem keeps_retrainPart {s₀} {s : State} (p) (hk : Keeps s₀ s) : Keeps s₀ (State.retrainPart s p) := by
  refine hk.trans ?_
  clear hk
  unfold State.retrainPart
  try dsimp only
  repeat' first
    | with_reducible apply Keeps.refl
    | simp only [↓keeps_upd]
    | with_reducible apply Keeps.fold
    | with_reducible apply Keeps.fold_snd
    | with_reducible apply Keeps.fold_snd_snd
    | with_reducible apply keeps_retrainEnds
    | with_reducible apply keeps_modStack
    | with_reducible apply keeps_raise
    | intro _

theorem keeps_selfTest {s₀} {s : State} (p) (hk : Keeps s₀ s) : Keeps s₀ (State.selfTest s p) := by
  refine hk.trans ?_
  clear hk
  unfold State.selfTest
  try dsimp only
  repeat' first
    | with_reducible apply Keeps.refl
    | simp only [↓keeps_upd]

theorem keeps_finishPartReset {s₀} {s : State} (p) (hk : Keeps s₀ s) : Keeps s₀ (State.finishPartReset s p) := by
  refine hk.trans ?_
  clear hk
  unfold State.finishPartReset
  try dsimp only
  repeat' first
    | with_reducible apply Keeps.refl
    | simp only [↓keeps_upd]
    | with_reducible apply Keeps.fold
    | with_reducible apply Keeps.fold_snd
    | with_reducible apply Keeps.fold_snd_snd
    | with_reducible apply keeps_zeroTumblers
    | with_reducible apply keeps_selfTest
    | with_reducible apply keeps_foldPart
    | with_reducible apply keeps_toState
    | with_reducible apply keeps_freshSeats
    | with_reducible apply keeps_resetRegs
    | with_reducible apply keeps_setRegN
    | with_reducible apply keeps_modArr
    | with_reducible apply keeps_setPart
    | with_reducible apply keeps_retrainPart
    | with_reducible apply keeps_leaveForfeited
    | with_reducible apply keeps_logFault
    | with_reducible apply keeps_bumpObj
    | intro _

theorem keeps_retireDevice {s₀} {s : State} (k) (why) (hk : Keeps s₀ s) : Keeps s₀ (State.retireDevice s k why) := by
  refine hk.trans ?_
  clear hk
  unfold State.retireDevice
  try dsimp only
  repeat' first
    | with_reducible apply Keeps.refl
    | simp only [↓keeps_upd]
    | with_reducible apply Keeps.fold
    | with_reducible apply keeps_status
    | with_reducible apply keeps_setObj
    | with_reducible apply keeps_logFault
    | with_reducible apply keeps_startPartReset
    | intro _

theorem keeps_trialFails {s₀} {s : State} (hk : Keeps s₀ s) : Keeps s₀ (State.trialFails s) := by
  refine hk.trans ?_
  clear hk
  unfold State.trialFails
  try dsimp only
  repeat' first
    | with_reducible apply Keeps.refl
    | simp only [↓keeps_upd]

theorem keeps_startDeviceReset {s₀} {s : State} (fault) (hk : Keeps s₀ s) : Keeps s₀ (State.startDeviceReset s fault) := by
  refine hk.trans ?_
  clear hk
  unfold State.startDeviceReset
  try dsimp only
  repeat' first
    | with_reducible apply Keeps.refl
    | simp only [↓keeps_upd]
    | with_reducible apply Keeps.ite
    | with_reducible apply Keeps.fold
    | with_reducible apply keeps_trialFails
    | with_reducible apply keeps_bumpObj
    | with_reducible apply keeps_logFault
    | with_reducible apply keeps_startPartReset
    | intro _

/-! Machine/Operands.lean. -/

theorem keeps_unitRead {s₀} {s : State} (n) (a) (len) (hk : Keeps s₀ s) : Keeps s₀ (State.unitRead s n a len).2 := by
  refine hk.trans ?_
  clear hk
  unfold State.unitRead
  try dsimp only
  repeat' first
    | with_reducible apply Keeps.refl
    | with_reducible apply keeps_csReadMarked

theorem keeps_refuse {s₀} {s : State} (n) (w) (cause) (hk : Keeps s₀ s) : Keeps s₀ (State.refuse s n w cause) := by
  refine hk.trans ?_
  clear hk
  unfold State.refuse
  try dsimp only
  repeat' first
    | with_reducible apply Keeps.refl
    | with_reducible apply keeps_errorRecord
    | with_reducible apply keeps_seatFault
    | with_reducible apply keeps_trace

theorem keeps_refuseNondet {s₀} {s : State} (n) (w) (hk : Keeps s₀ s) : Keeps s₀ (State.refuseNondet s n w) := by
  refine hk.trans ?_
  clear hk
  unfold State.refuseNondet
  try dsimp only
  repeat' first
    | with_reducible apply Keeps.refl
    | with_reducible apply keeps_refuse
    | with_reducible apply keeps_bumpObj
    | with_reducible apply keeps_raise

theorem keeps_start {s₀} {s : State} (n) (h) (unit) (hk : Keeps s₀ s) : Keeps s₀ (State.start s n h unit) := by
  refine hk.trans ?_
  clear hk
  unfold State.start
  try dsimp only
  repeat' first
    | with_reducible apply Keeps.refl
    | with_reducible apply keeps_setReg
    | with_reducible apply keeps_modSeat
    | with_reducible apply keeps_trace

theorem keeps_noteWork {s₀} {s : State} (p) (offs) (hk : Keeps s₀ s) : Keeps s₀ (State.noteWork s p offs) := by
  refine hk.trans ?_
  clear hk
  unfold State.noteWork
  try dsimp only
  repeat' first
    | with_reducible apply Keeps.refl
    | simp only [↓keeps_upd]
    | with_reducible apply Keeps.fold
    | with_reducible apply Keeps.fold_snd
    | with_reducible apply Keeps.fold_snd_snd
    | with_reducible apply keeps_modPart

theorem keeps_addRun {s₀} {s : State} (n) (r) (hk : Keeps s₀ s) : Keeps s₀ (State.addRun s n r) := by
  refine hk.trans ?_
  clear hk
  unfold State.addRun
  try dsimp only
  repeat' first
    | with_reducible apply Keeps.refl
    | with_reducible apply keeps_noteWork
    | with_reducible apply keeps_takeBack
    | with_reducible apply keeps_refreshWd
    | with_reducible apply keeps_modSeat

theorem keeps_startDone {s₀} {s : State} (n) (h) (status) (guard) (hk : Keeps s₀ s) : Keeps s₀ (State.startDone s n h status guard) := by
  refine hk.trans ?_
  clear hk
  unfold State.startDone
  try dsimp only
  repeat' first
    | with_reducible apply Keeps.refl
    | with_reducible apply keeps_addRun

theorem keeps_modRun {s₀} {s : State} (n) (idx) (f) (hk : Keeps s₀ s) : Keeps s₀ (State.modRun s n idx f) := by
  refine hk.trans ?_
  clear hk
  unfold State.modRun
  try dsimp only
  repeat' first
    | with_reducible apply Keeps.refl
    | with_reducible apply keeps_modSeat

theorem keeps_dropRun {s₀} {s : State} (n) (idx) (hk : Keeps s₀ s) : Keeps s₀ (State.dropRun s n idx) := by
  refine hk.trans ?_
  clear hk
  unfold State.dropRun
  try dsimp only
  repeat' first
    | with_reducible apply Keeps.refl
    | with_reducible apply keeps_refreshWd
    | with_reducible apply keeps_modSeat

theorem keeps_endRun {s₀} {s : State} (n) (idx) (status) (hk : Keeps s₀ s) : Keeps s₀ (State.endRun s n idx status) := by
  refine hk.trans ?_
  clear hk
  unfold State.endRun
  try dsimp only
  repeat' first
    | with_reducible apply Keeps.refl
    | with_reducible apply keeps_modRun

theorem keeps_dispatch {s₀} {s : State} (n) (mine) (c) (guard) (unit) (go) (hk : Keeps s₀ s) (hgo : ∀ h g s₀ u, Keeps s₀ u → Keeps s₀ (go h g u)) : Keeps s₀ (State.dispatch s n mine c guard unit go) := by
  refine hk.trans ?_
  clear hk
  unfold State.dispatch
  try dsimp only
  repeat' first
    | with_reducible apply Keeps.refl
    | with_reducible apply Keeps.ite
    | with_reducible apply keeps_refuse
    | with_reducible apply keeps_refuseNondet
    | with_reducible apply keeps_start
    | with_reducible apply hgo
    | split

theorem keeps_complete {s₀} {s : State} (n) (r) (hk : Keeps s₀ s) : Keeps s₀ (State.complete s n r) := by
  refine hk.trans ?_
  clear hk
  unfold State.complete
  try dsimp only
  repeat' first
    | with_reducible apply Keeps.refl
    | simp only [↓keeps_upd]
    | with_reducible apply Keeps.ite
    | with_reducible apply Keeps.ite_snd
    | with_reducible apply Keeps.ite_snd_snd
    | with_reducible apply Keeps.ite_snd_fst
    | with_reducible apply keeps_status
    | with_reducible apply keeps_dropRun
    | with_reducible apply keeps_modSeat
    | with_reducible apply keeps_modPart
    | with_reducible apply keeps_trace
    | with_reducible apply keeps_setTumbler
    | with_reducible apply keeps_completionRecord
    | with_reducible apply keeps_seatFault
    | with_reducible apply keeps_refreshWd

/-! Machine/Lines.lean. -/

theorem keeps_targetReset {s₀} {s : State} (n) (idx) (hk : Keeps s₀ s) : Keeps s₀ (State.targetReset s n idx) := by
  refine hk.trans ?_
  clear hk
  unfold State.targetReset
  try dsimp only
  repeat' first
    | with_reducible apply Keeps.refl
    | with_reducible apply keeps_raise
    | with_reducible apply keeps_modSeat
    | with_reducible apply keeps_endRun

theorem keeps_lineResult {s₀} {s : State} (o) (v) (hk : Keeps s₀ s) : Keeps s₀ (State.lineResult s o v) := by
  refine hk.trans ?_
  clear hk
  unfold State.lineResult
  try dsimp only
  repeat' first
    | with_reducible apply Keeps.refl
    | with_reducible apply Keeps.ite
    | with_reducible apply keeps_csWrite

theorem keeps_lineDo {s₀} {s : State} (n) (idx) (o) (l) (hk : Keeps s₀ s) : Keeps s₀ (State.lineDo s n idx o l) := by
  refine hk.trans ?_
  clear hk
  unfold State.lineDo
  try dsimp only
  repeat' first
    | with_reducible apply Keeps.refl
    | with_reducible apply Keeps.ite
    | with_reducible apply keeps_putLine
    | with_reducible apply keeps_endRun
    | with_reducible apply keeps_raise
    | with_reducible apply keeps_lineResult
    | with_reducible apply keeps_haspDue
    | with_reducible apply keeps_modRun
    | split

theorem keeps_lineStart {s₀} {s : State} (n) (idx) (o) (hk : Keeps s₀ s) : Keeps s₀ (State.lineStart s n idx o) := by
  refine hk.trans ?_
  clear hk
  unfold State.lineStart
  try dsimp only
  repeat' first
    | with_reducible apply Keeps.refl
    | simp only [↓keeps_upd]
    | with_reducible apply Keeps.ite
    | with_reducible apply keeps_targetReset
    | with_reducible apply keeps_lineDo
    | with_reducible apply keeps_count
    | with_reducible apply keeps_modRun
    | split

theorem keeps_lineWake {s₀} {s : State} (ws) (hk : Keeps s₀ s) : Keeps s₀ (State.lineWake s ws) := by
  refine hk.trans ?_
  clear hk
  unfold State.lineWake
  try dsimp only
  repeat' first
    | with_reducible apply Keeps.refl
    | with_reducible apply Keeps.ite
    | with_reducible apply Keeps.fold
    | with_reducible apply keeps_targetReset
    | with_reducible apply keeps_lineDo
    | split
    | intro _

theorem keeps_execLineFillComplete (part) (line) (s : State) : ∃ t, execLineFillComplete part line s = .next t ∧ Keeps s t := by
  unfold execLineFillComplete
  try dsimp only
  repeat' first | with_reducible refine ⟨_, rfl, ?_⟩ | split
  all_goals repeat' first
    | with_reducible apply Keeps.refl
    | simp only [↓keeps_upd]
    | with_reducible apply keeps_fillLine
    | with_reducible apply keeps_lineWake

/-! Machine/Router.lean. -/

theorem keeps_post {s₀} {s : State} (n) (r) (coll) (dest) (due) (hk : Keeps s₀ s) : Keeps s₀ (State.post s n r coll dest due) := by
  refine hk.trans ?_
  clear hk
  unfold State.post
  try dsimp only
  repeat' first
    | with_reducible apply Keeps.refl
    | simp only [↓keeps_upd]

theorem keeps_settle {s₀} {s : State} (id) (hk : Keeps s₀ s) : Keeps s₀ (State.settle s id) := by
  refine hk.trans ?_
  clear hk
  unfold State.settle
  try dsimp only
  repeat' first
    | with_reducible apply Keeps.refl
    | simp only [↓keeps_upd]

theorem keeps_setDue {s₀} {s : State} (id) (hk : Keeps s₀ s) : Keeps s₀ (State.setDue s id) := by
  refine hk.trans ?_
  clear hk
  unfold State.setDue
  try dsimp only
  repeat' first
    | with_reducible apply Keeps.refl
    | simp only [↓keeps_upd]

theorem keeps_lateRefusal {s₀} {s : State} (w) (cause) (hall) (ns) (hk : Keeps s₀ s) : Keeps s₀ (State.lateRefusal s w cause hall ns) := by
  refine hk.trans ?_
  clear hk
  unfold State.lateRefusal
  try dsimp only
  repeat' first
    | with_reducible apply Keeps.refl
    | simp only [↓keeps_upd]
    | with_reducible apply Keeps.ite
    | with_reducible apply Keeps.ite_snd
    | with_reducible apply Keeps.ite_snd_snd
    | with_reducible apply Keeps.ite_snd_fst
    | with_reducible apply keeps_settle
    | with_reducible apply keeps_modSeat
    | with_reducible apply keeps_errorRecord
    | with_reducible apply keeps_raise

theorem keeps_execNoAck (id) (s : State) : ∃ t, execNoAck id s = .next t ∧ Keeps s t := by
  unfold execNoAck
  try dsimp only
  repeat' first | with_reducible refine ⟨_, rfl, ?_⟩ | split
  all_goals repeat' first
    | with_reducible apply Keeps.refl
    | with_reducible apply keeps_reach
    | with_reducible apply keeps_lateRefusal

theorem keeps_freeCell {s₀} {s : State} (p) (hk : Keeps s₀ s) : Keeps s₀ (State.freeCell s p) := by
  refine hk.trans ?_
  clear hk
  unfold State.freeCell
  try dsimp only
  repeat' first
    | with_reducible apply Keeps.refl
    | with_reducible apply keeps_modPort
    | split

theorem keeps_queueOpen {s₀} {s : State} (n) (body) (of) (post) (hold) (hk : Keeps s₀ s) : Keeps s₀ (State.queueOpen s n body of post hold) := by
  refine hk.trans ?_
  clear hk
  unfold State.queueOpen
  try dsimp only
  repeat' first
    | with_reducible apply Keeps.refl
    | simp only [↓keeps_upd]
    | with_reducible apply Keeps.ite
    | with_reducible apply Keeps.ite_snd
    | with_reducible apply Keeps.ite_snd_snd
    | with_reducible apply Keeps.ite_snd_fst
    | with_reducible apply keeps_freeCell
    | with_reducible apply keeps_modPort
    | with_reducible apply keeps_setDue
    | split

theorem keeps_promoteOpen {s₀} {s : State} (n) (hk : Keeps s₀ s) : Keeps s₀ (State.promoteOpen s n) := by
  refine hk.trans ?_
  clear hk
  unfold State.promoteOpen
  try dsimp only
  repeat' first
    | with_reducible apply Keeps.refl
    | with_reducible apply Keeps.fold
    | with_reducible apply keeps_freeCell
    | with_reducible apply keeps_modPort
    | intro _

theorem keeps_sendOpen {s₀} {s : State} (dest) (body) (of) (post) (hold) (hk : Keeps s₀ s) : Keeps s₀ (State.sendOpen s dest body of post hold) := by
  refine hk.trans ?_
  clear hk
  unfold State.sendOpen
  try dsimp only
  repeat' first
    | with_reducible apply Keeps.refl
    | with_reducible apply keeps_queueOpen
    | with_reducible apply keeps_freeCell
    | with_reducible apply keeps_setDue
    | split

theorem keeps_sendCtrl {s₀} {s : State} (dest) (body) (hk : Keeps s₀ s) : Keeps s₀ (State.sendCtrl s dest body) := by
  refine hk.trans ?_
  clear hk
  unfold State.sendCtrl
  try dsimp only
  repeat' first
    | with_reducible apply Keeps.refl
    | with_reducible apply Keeps.ite
    | with_reducible apply keeps_queueCtrl
    | split

end Sys2Proof.Machine
end

