-- ==== Sys2Proof/Laws/KeepsCompute.lean ====
section
/-! SUPPORT. Every operation of descriptors and the compute, copy and synchronisation engines leaves the queue, the identity
of the part and the canonical form of the memories as `Keeps` says. -/

set_option Elab.async false

namespace Sys2Proof.Machine

/-! Machine/Convert.lean. -/

theorem keeps_histogram {s₀} {s : State} (addr) (base) (xs) (hk : Keeps s₀ s) : Keeps s₀ (State.histogram s addr base xs) := by
  refine hk.trans ?_
  clear hk
  unfold State.histogram
  try dsimp only
  repeat' first
    | with_reducible apply Keeps.refl
    | with_reducible apply Keeps.ite
    | with_reducible apply Keeps.ite_snd
    | with_reducible apply Keeps.ite_snd_snd
    | with_reducible apply Keeps.ite_snd_fst
    | with_reducible apply keeps_csRead
    | with_reducible apply keeps_csWrite
    | with_reducible apply keeps_draw

theorem keeps_qzLog {s₀} {s : State} (n) (mask) (hk : Keeps s₀ s) : Keeps s₀ (State.qzLog s n mask) := by
  refine hk.trans ?_
  clear hk
  unfold State.qzLog
  try dsimp only
  repeat' first
    | with_reducible apply Keeps.refl
    | with_reducible apply keeps_raise

theorem keeps_numLog {s₀} {s : State} (n) (bit) (b) (hk : Keeps s₀ s) : Keeps s₀ (State.numLog s n bit b) := by
  refine hk.trans ?_
  clear hk
  unfold State.numLog
  try dsimp only
  repeat' first
    | with_reducible apply Keeps.refl
    | with_reducible apply Keeps.ite
    | with_reducible apply keeps_raise

theorem keeps_statistics {s₀} {s : State} (c) (a) (hk : Keeps s₀ s) : Keeps s₀ (State.statistics s c a) := by
  refine hk.trans ?_
  clear hk
  unfold State.statistics
  try dsimp only
  repeat' first
    | with_reducible apply Keeps.refl
    | with_reducible apply Keeps.ite
    | with_reducible apply keeps_csRead
    | with_reducible apply keeps_csWrite
    | with_reducible apply keeps_qzLog
    | with_reducible apply keeps_setRegN
    | with_reducible apply keeps_count

theorem keeps_writeCodes {s₀} {s : State} (o) (f) (r) (c0) (codes) (hk : Keeps s₀ s) : Keeps s₀ (State.writeCodes s o f r c0 codes) := by
  refine hk.trans ?_
  clear hk
  unfold State.writeCodes
  try dsimp only
  repeat' first
    | with_reducible apply Keeps.refl
    | with_reducible apply Keeps.ite
    | with_reducible apply Keeps.fold
    | with_reducible apply keeps_csWrite
    | split
    | intro _

theorem keeps_writeOutliers {s₀} {s : State} (c) (cols) (r) (c0) (more) (moved) (hk : Keeps s₀ s) : Keeps s₀ (State.writeOutliers s c cols r c0 more moved) := by
  refine hk.trans ?_
  clear hk
  unfold State.writeOutliers
  try dsimp only
  repeat' first
    | with_reducible apply Keeps.refl
    | with_reducible apply Keeps.ite
    | with_reducible apply Keeps.ite_snd
    | with_reducible apply Keeps.ite_snd_snd
    | with_reducible apply Keeps.ite_snd_fst
    | with_reducible apply keeps_csWrite

theorem keeps_readAll {s₀} {s : State} (n) (a1) (hk : Keeps s₀ s) : Keeps s₀ (State.readAll s n a1).2 := by
  refine hk.trans ?_
  clear hk
  fun_induction State.readAll s n a1 <;> try dsimp only
  all_goals repeat' first
    | with_reducible apply Keeps.refl
    | with_reducible apply keeps_unitRead
    | (with_reducible apply Keeps.trans; on_goal 2 => with_reducible assumption)

theorem keeps_countHist {s₀} {s : State} (h) (hk : Keeps s₀ s) : Keeps s₀ (State.countHist s h) := by
  refine hk.trans ?_
  clear hk
  unfold State.countHist
  try dsimp only
  repeat' first
    | with_reducible apply Keeps.refl
    | with_reducible apply keeps_histogram
    | split

theorem keeps_afterRow {s₀} {s : State} (c) (r) (n) (q) (raw) (actBytes) (h) (hk : Keeps s₀ s) : Keeps s₀ (State.afterRow s c r n q raw actBytes h) := by
  refine hk.trans ?_
  clear hk
  unfold State.afterRow
  try dsimp only
  repeat' first
    | with_reducible apply Keeps.refl
    | with_reducible apply Keeps.ite
    | with_reducible apply Keeps.ite_snd
    | with_reducible apply Keeps.ite_snd_snd
    | with_reducible apply Keeps.ite_snd_fst
    | with_reducible apply keeps_statistics
    | with_reducible apply keeps_countHist
    | with_reducible apply keeps_csWrite
    | with_reducible apply keeps_qzLog
    | with_reducible apply keeps_numLog

theorem keeps_convertWrite {s₀} {s : State} (c) (o) (cols) (r) (c0) (more) (xs) (raw) (h) (hk : Keeps s₀ s) : Keeps s₀ (State.convertWrite s c o cols r c0 more xs raw h) := by
  refine hk.trans ?_
  clear hk
  unfold State.convertWrite
  try dsimp only
  repeat' first
    | with_reducible apply Keeps.refl
    | with_reducible apply Keeps.ite
    | with_reducible apply Keeps.ite_snd
    | with_reducible apply Keeps.ite_snd_snd
    | with_reducible apply Keeps.ite_snd_fst
    | with_reducible apply keeps_writeCodes
    | with_reducible apply keeps_csWrite
    | with_reducible apply keeps_writeOutliers
    | with_reducible apply keeps_afterRow

/-! Machine/Matrix.lean. -/

theorem keeps_needField {s₀} {s : State} (off) (hi) (lo) (valid) (v) (worse) (hk : Keeps s₀ s) : Keeps s₀ (State.needField s off hi lo valid v worse) := by
  refine hk.trans ?_
  clear hk
  unfold State.needField
  try dsimp only
  repeat' first
    | with_reducible apply Keeps.refl
    | with_reducible apply Keeps.ite
    | with_reducible apply keeps_setReg
    | split

theorem keeps_logSpan {s₀} {s : State} (n) (tag) (e) (hk : Keeps s₀ s) : Keeps s₀ (State.logSpan s n tag e) := by
  refine hk.trans ?_
  clear hk
  unfold State.logSpan
  try dsimp only
  repeat' first
    | with_reducible apply Keeps.refl
    | with_reducible apply Keeps.ite
    | with_reducible apply keeps_setRegN
    | with_reducible apply keeps_raise
    | with_reducible apply keeps_needField

theorem keeps_logMismatch {s₀} {s : State} (n) (a) (slot) (tag) (kind) (row) (col) (serialB) (hk : Keeps s₀ s) : Keeps s₀ (State.logMismatch s n a slot tag kind row col serialB) := by
  refine hk.trans ?_
  clear hk
  unfold State.logMismatch
  try dsimp only
  repeat' first
    | with_reducible apply Keeps.refl
    | with_reducible apply Keeps.ite
    | with_reducible apply keeps_raise
    | with_reducible apply keeps_setRegN
    | with_reducible apply keeps_countFault

theorem keeps_setSlot {s₀} {s : State} (p) (a) (k) (g) (hk : Keeps s₀ s) : Keeps s₀ (State.setSlot s p a k g) := by
  refine hk.trans ?_
  clear hk
  unfold State.setSlot
  try dsimp only
  repeat' first
    | with_reducible apply Keeps.refl
    | with_reducible apply keeps_modArr

theorem keeps_readTile {s₀} {s : State} (n) (w) (mt) (nt) (hk : Keeps s₀ s) : Keeps s₀ (State.readTile s n w mt nt).2 := by
  refine hk.trans ?_
  clear hk
  unfold State.readTile
  try dsimp only
  repeat' first
    | with_reducible apply Keeps.refl
    | with_reducible apply Keeps.ite
    | with_reducible apply Keeps.ite_snd
    | with_reducible apply Keeps.ite_snd_snd
    | with_reducible apply Keeps.ite_snd_fst
    | with_reducible apply keeps_readAll

theorem keeps_tileOutliers {s₀} {s : State} (n) (w) (mt) (nt) (g) (hk : Keeps s₀ s) : Keeps s₀ (State.tileOutliers s n w mt nt g).2.1 := by
  refine hk.trans ?_
  clear hk
  unfold State.tileOutliers
  try dsimp only
  repeat' first
    | with_reducible apply Keeps.refl
    | with_reducible apply Keeps.ite
    | with_reducible apply Keeps.ite_snd
    | with_reducible apply Keeps.ite_snd_snd
    | with_reducible apply Keeps.ite_snd_fst
    | with_reducible apply keeps_readAll
    | with_reducible apply keeps_numLog
    | with_reducible apply keeps_draw
    | with_reducible apply keeps_qzLog

theorem keeps_convertTile_floats {s₀} (n) (g) {s : State} (f) (rows) (cols) (r0) (c0) (base) (pitch) (bits) (hk : Keeps s₀ s) : Keeps s₀ (State.convertTile.floats n g s f rows cols r0 c0 base pitch bits) := by
  refine hk.trans ?_
  clear hk
  unfold State.convertTile.floats
  try dsimp only
  repeat' first
    | with_reducible apply Keeps.refl
    | with_reducible apply Keeps.fold
    | with_reducible apply keeps_csWrite
    | with_reducible apply keeps_numLog
    | split
    | intro _

theorem keeps_convertTile {s₀} {s : State} (n) (w) (rec) (mt) (nt) (g) (more) (hk : Keeps s₀ s) : Keeps s₀ (State.convertTile s n w rec mt nt g more).2 := by
  refine hk.trans ?_
  clear hk
  unfold State.convertTile
  try dsimp only
  repeat' first
    | with_reducible apply Keeps.refl
    | with_reducible apply Keeps.ite
    | with_reducible apply Keeps.ite_snd
    | with_reducible apply Keeps.ite_snd_snd
    | with_reducible apply Keeps.ite_snd_fst
    | with_reducible apply Keeps.fold
    | with_reducible apply Keeps.fold_snd
    | with_reducible apply Keeps.fold_snd_snd
    | with_reducible apply keeps_histogram
    | with_reducible apply keeps_csWrite
    | with_reducible apply keeps_convertWrite
    | with_reducible apply keeps_numLog
    | with_reducible apply keeps_convertTile_floats
    | split
    | intro _

theorem keeps_bindSlot {s₀} {s : State} (n) (a) (k) (handle) (anchor) (hk : Keeps s₀ s) : Keeps s₀ (State.bindSlot s n a k handle anchor) := by
  refine hk.trans ?_
  clear hk
  unfold State.bindSlot
  try dsimp only
  repeat' first
    | with_reducible apply Keeps.refl
    | with_reducible apply Keeps.fold
    | with_reducible apply keeps_takeBack
    | with_reducible apply keeps_modArr
    | with_reducible apply keeps_setSlot
    | intro _

theorem keeps_dropSlot {s₀} {s : State} (n) (a) (k) (hk : Keeps s₀ s) : Keeps s₀ (State.dropSlot s n a k) := by
  refine hk.trans ?_
  clear hk
  unfold State.dropSlot
  try dsimp only
  repeat' first
    | with_reducible apply Keeps.refl
    | with_reducible apply Keeps.fold
    | with_reducible apply keeps_setSlot
    | intro _

theorem keeps_enterArray {s₀} {s : State} (n) (a) (hk : Keeps s₀ s) : Keeps s₀ (State.enterArray s n a) := by
  refine hk.trans ?_
  clear hk
  unfold State.enterArray
  try dsimp only
  repeat' first
    | with_reducible apply Keeps.refl
    | with_reducible apply keeps_enterArrays

theorem keeps_mxStart {s₀} {s : State} (n) (h) (g) (hk : Keeps s₀ s) : Keeps s₀ (State.mxStart n h g s) := by
  refine hk.trans ?_
  clear hk
  unfold State.mxStart
  try dsimp only
  repeat' first
    | with_reducible apply Keeps.refl
    | with_reducible apply Keeps.ite
    | with_reducible apply Keeps.ite_snd
    | with_reducible apply Keeps.ite_snd_snd
    | with_reducible apply Keeps.ite_snd_fst
    | with_reducible apply Keeps.fold
    | with_reducible apply Keeps.fold_snd
    | with_reducible apply Keeps.fold_snd_snd
    | with_reducible apply keeps_unitRead
    | with_reducible apply keeps_setSlot
    | with_reducible apply keeps_addRun
    | with_reducible apply keeps_enterArray
    | with_reducible apply keeps_bindSlot
    | split
    | intro _

theorem keeps_mxDispatch {s₀} {s : State} (n) (op) (hk : Keeps s₀ s) : Keeps s₀ (State.mxDispatch s n op) := by
  refine hk.trans ?_
  clear hk
  unfold State.mxDispatch
  try dsimp only
  repeat' first
    | with_reducible apply Keeps.refl
    | with_reducible apply keeps_dispatch
    | with_reducible apply keeps_mxStart
    | intro _

theorem keeps_execMatrixSingle (seat) (s : State) : ∃ t, execMatrixSingle seat s = .next t ∧ Keeps s t := by
  unfold execMatrixSingle
  try dsimp only
  repeat' first | with_reducible refine ⟨_, rfl, ?_⟩ | split
  all_goals repeat' first
    | with_reducible apply Keeps.refl
    | with_reducible apply keeps_mxDispatch

theorem keeps_execMatrixOpen (seat) (s : State) : ∃ t, execMatrixOpen seat s = .next t ∧ Keeps s t := by
  unfold execMatrixOpen
  try dsimp only
  repeat' first | with_reducible refine ⟨_, rfl, ?_⟩ | split
  all_goals repeat' first
    | with_reducible apply Keeps.refl
    | with_reducible apply keeps_mxDispatch

theorem keeps_execMatrixContinue (seat) (s : State) : ∃ t, execMatrixContinue seat s = .next t ∧ Keeps s t := by
  unfold execMatrixContinue
  try dsimp only
  repeat' first | with_reducible refine ⟨_, rfl, ?_⟩ | split
  all_goals repeat' first
    | with_reducible apply Keeps.refl
    | with_reducible apply keeps_mxDispatch

theorem keeps_execMatrixClose (seat) (s : State) : ∃ t, execMatrixClose seat s = .next t ∧ Keeps s t := by
  unfold execMatrixClose
  try dsimp only
  repeat' first | with_reducible refine ⟨_, rfl, ?_⟩ | split
  all_goals repeat' first
    | with_reducible apply Keeps.refl
    | with_reducible apply keeps_mxDispatch

theorem keeps_execMatrixOpenLoad (seat) (s : State) : ∃ t, execMatrixOpenLoad seat s = .next t ∧ Keeps s t := by
  unfold execMatrixOpenLoad
  try dsimp only
  repeat' first | with_reducible refine ⟨_, rfl, ?_⟩ | split
  all_goals repeat' first
    | with_reducible apply Keeps.refl
    | with_reducible apply keeps_mxDispatch

theorem keeps_slotGrant {s₀} {s : State} (p) (a) (hk : Keeps s₀ s) : Keeps s₀ (State.slotGrant s p a) := by
  refine hk.trans ?_
  clear hk
  unfold State.slotGrant
  try dsimp only
  repeat' first
    | with_reducible apply Keeps.refl
    | simp only [↓keeps_upd]
    | with_reducible apply keeps_bindSlot
    | with_reducible apply keeps_modRun
    | with_reducible apply keeps_enterArray
    | split

theorem keeps_execGroupSlotGrant (part) (array) (s : State) : ∃ t, execGroupSlotGrant part array s = .next t ∧ Keeps s t := by
  unfold execGroupSlotGrant
  try dsimp only
  repeat' first | with_reducible refine ⟨_, rfl, ?_⟩ | split
  all_goals repeat' first
    | with_reducible apply Keeps.refl
    | with_reducible assumption
    | with_reducible apply Keeps.ite
    | with_reducible apply Keeps.ite_snd
    | with_reducible apply Keeps.ite_snd_snd
    | with_reducible apply Keeps.ite_snd_fst
    | with_reducible apply keeps_slotGrant

theorem keeps_leaveArrays {s₀} {s : State} (n) (as) (hk : Keeps s₀ s) : Keeps s₀ (State.leaveArrays s n as) := by
  refine hk.trans ?_
  clear hk
  unfold State.leaveArrays
  try dsimp only
  repeat' first
    | with_reducible apply Keeps.refl
    | with_reducible apply Keeps.fold
    | with_reducible apply Keeps.fold_snd
    | with_reducible apply Keeps.fold_snd_snd
    | with_reducible apply keeps_freeArray
    | with_reducible apply keeps_enterArrays
    | split
    | intro _

theorem keeps_nextTile {s₀} {s : State} (n) (r) (t) (listed) (status) (hk : Keeps s₀ s) : Keeps s₀ (State.nextTile s n r t listed status) := by
  refine hk.trans ?_
  clear hk
  unfold State.nextTile
  try dsimp only
  repeat' first
    | with_reducible apply Keeps.refl
    | simp only [↓keeps_upd]
    | with_reducible apply Keeps.ite
    | with_reducible apply Keeps.ite_snd
    | with_reducible apply Keeps.ite_snd_snd
    | with_reducible apply Keeps.ite_snd_fst
    | with_reducible apply keeps_bindSlot
    | with_reducible apply keeps_modRun
    | with_reducible apply keeps_enterArray
    | split

theorem keeps_tileOver {s₀} {s : State} (n) (r) (t) (status) (hk : Keeps s₀ s) : Keeps s₀ (State.tileOver s n r t status) := by
  refine hk.trans ?_
  clear hk
  unfold State.tileOver
  try dsimp only
  repeat' first
    | with_reducible apply Keeps.refl
    | with_reducible apply Keeps.ite
    | with_reducible apply Keeps.ite_snd
    | with_reducible apply Keeps.ite_snd_snd
    | with_reducible apply Keeps.ite_snd_fst
    | with_reducible apply keeps_status
    | with_reducible apply keeps_dropSlot
    | with_reducible apply keeps_dropRun
    | with_reducible apply keeps_nextTile
    | with_reducible apply keeps_endRun
    | split

theorem keeps_tileEnds {s₀} {s : State} (n) (r) (t) (as) (status) (hk : Keeps s₀ s) : Keeps s₀ (State.tileEnds s n r t as status) := by
  refine hk.trans ?_
  clear hk
  unfold State.tileEnds
  try dsimp only
  repeat' first
    | with_reducible apply Keeps.refl
    | with_reducible apply keeps_tileOver
    | with_reducible apply keeps_leaveArrays

theorem keeps_laEcc {s₀} {s : State} (p) (a) (k) (e) (hk : Keeps s₀ s) : Keeps s₀ (State.laEcc s p a k e) := by
  refine hk.trans ?_
  clear hk
  unfold State.laEcc
  try dsimp only
  repeat' first
    | with_reducible apply Keeps.refl
    | with_reducible apply keeps_countSat
    | with_reducible apply keeps_raise
    | with_reducible apply keeps_countFault
    | with_reducible apply keeps_setSlot
    | split

theorem keeps_judge {s₀} {s : State} (n) (slot) (tag) (serialB) (gs) (hk : Keeps s₀ s) : Keeps s₀ (State.judge s n slot tag serialB gs).2 := by
  refine hk.trans ?_
  clear hk
  unfold State.judge
  try dsimp only
  repeat' first
    | with_reducible apply Keeps.refl
    | with_reducible apply Keeps.ite_snd
    | with_reducible apply Keeps.fold
    | with_reducible apply keeps_raise
    | with_reducible apply keeps_logMismatch
    | with_reducible apply keeps_logArray
    | split
    | intro _

theorem keeps_finishTile {s₀} {s : State} (n) (r) (a) (mt) (nt) (g) (more) (hk : Keeps s₀ s) : Keeps s₀ (State.finishTile s n r a mt nt g more).2 := by
  refine hk.trans ?_
  clear hk
  unfold State.finishTile
  try dsimp only
  repeat' first
    | with_reducible apply Keeps.refl
    | with_reducible apply Keeps.ite
    | with_reducible apply Keeps.ite_snd
    | with_reducible apply Keeps.ite_snd_snd
    | with_reducible apply Keeps.ite_snd_fst
    | with_reducible apply keeps_record
    | with_reducible apply keeps_readAll
    | with_reducible apply keeps_raise
    | with_reducible apply keeps_tileOutliers
    | with_reducible apply keeps_logSpan
    | with_reducible apply keeps_count
    | with_reducible apply keeps_convertTile

theorem keeps_streamTile {s₀} {s : State} (n) (r) (t) (as) (k) (mt) (nt) (ups) (hk : Keeps s₀ s) : Keeps s₀ (State.streamTile s n r t as k mt nt ups).2 := by
  refine hk.trans ?_
  clear hk
  unfold State.streamTile
  try dsimp only
  repeat' first
    | with_reducible apply Keeps.refl
    | with_reducible apply Keeps.ite
    | with_reducible apply Keeps.ite_snd
    | with_reducible apply Keeps.ite_snd_snd
    | with_reducible apply Keeps.ite_snd_fst
    | with_reducible apply Keeps.fold
    | with_reducible apply Keeps.fold_snd
    | with_reducible apply Keeps.fold_snd_snd
    | with_reducible apply keeps_record
    | with_reducible apply keeps_readTile
    | with_reducible apply keeps_raise
    | with_reducible apply keeps_setSlot
    | with_reducible apply keeps_count
    | with_reducible apply keeps_logSpan
    | with_reducible apply keeps_numLog
    | split
    | intro _

theorem keeps_tileEcc {s₀} {s : State} (p) (k) (as) (ecc) (partnerEcc) (hk : Keeps s₀ s) : Keeps s₀ (State.tileEcc s p k as ecc partnerEcc) := by
  refine hk.trans ?_
  clear hk
  unfold State.tileEcc
  try dsimp only
  repeat' first
    | with_reducible apply Keeps.refl
    | with_reducible apply Keeps.ite
    | with_reducible apply Keeps.ite_snd
    | with_reducible apply Keeps.ite_snd_snd
    | with_reducible apply Keeps.ite_snd_fst
    | with_reducible apply Keeps.fold
    | with_reducible apply Keeps.fold_snd
    | with_reducible apply Keeps.fold_snd_snd
    | with_reducible apply keeps_laEcc
    | with_reducible apply keeps_logArray
    | split
    | intro _

theorem keeps_retryTile {s₀} {s : State} (n) (idx) (t) (hk : Keeps s₀ s) : Keeps s₀ (State.retryTile s n idx t) := by
  refine hk.trans ?_
  clear hk
  unfold State.retryTile
  try dsimp only
  repeat' first
    | with_reducible apply Keeps.refl
    | simp only [↓keeps_upd]
    | with_reducible apply keeps_bumpObj
    | with_reducible apply keeps_bindSlot
    | with_reducible apply keeps_modRun
    | with_reducible apply keeps_leaveArrays
    | with_reducible apply keeps_enterArrays
    | split

theorem keeps_runTile {s₀} {s : State} (n) (r) (t) (as) (ups) (hk : Keeps s₀ s) : Keeps s₀ (State.runTile s n r t as ups) := by
  refine hk.trans ?_
  clear hk
  unfold State.runTile
  try dsimp only
  repeat' first
    | with_reducible apply Keeps.refl
    | simp only [↓keeps_upd]
    | with_reducible apply Keeps.ite
    | with_reducible apply Keeps.ite_snd
    | with_reducible apply Keeps.ite_snd_snd
    | with_reducible apply Keeps.ite_snd_fst
    | with_reducible apply Keeps.fold
    | with_reducible apply Keeps.fold_snd
    | with_reducible apply Keeps.fold_snd_snd
    | with_reducible apply keeps_streamTile
    | with_reducible apply keeps_setSlot
    | with_reducible apply keeps_tileEnds
    | with_reducible apply keeps_judge
    | with_reducible apply keeps_logArray
    | with_reducible apply keeps_finishTile
    | with_reducible apply keeps_retryTile
    | split
    | intro _

theorem keeps_tileComplete {s₀} {s : State} (n) (idx) (ups) (ecc) (hk : Keeps s₀ s) : Keeps s₀ (State.tileComplete s n idx ups ecc) := by
  refine hk.trans ?_
  clear hk
  unfold State.tileComplete
  try dsimp only
  repeat' first
    | with_reducible apply Keeps.refl
    | with_reducible apply Keeps.ite
    | with_reducible apply Keeps.ite_snd
    | with_reducible apply Keeps.ite_snd_snd
    | with_reducible apply Keeps.ite_snd_fst
    | with_reducible apply Keeps.fold
    | with_reducible apply Keeps.fold_snd
    | with_reducible apply Keeps.fold_snd_snd
    | with_reducible apply keeps_count
    | with_reducible apply keeps_tileEcc
    | with_reducible apply keeps_runTile
    | with_reducible apply keeps_tileOver
    | split
    | intro _

theorem keeps_execTileComplete (seat) (index) (upsets) (ecc) (s : State) : ∃ t, execTileComplete seat index upsets ecc s = .next t ∧ Keeps s t := by
  unfold execTileComplete
  try dsimp only
  repeat' first | with_reducible refine ⟨_, rfl, ?_⟩ | split
  all_goals repeat' first
    | with_reducible apply Keeps.refl
    | with_reducible assumption
    | with_reducible apply keeps_tileComplete

theorem keeps_execArrayRetired (part) (array) (s : State) : ∃ t, execArrayRetired part array s = .next t ∧ Keeps s t := by
  unfold execArrayRetired
  try dsimp only
  repeat' first | with_reducible refine ⟨_, rfl, ?_⟩ | split
  all_goals repeat' first
    | with_reducible apply Keeps.refl
    | with_reducible apply keeps_retireArray

theorem keeps_gateArray {s₀} {s : State} (p) (a) (hk : Keeps s₀ s) : Keeps s₀ (State.gateArray s p a) := by
  refine hk.trans ?_
  clear hk
  unfold State.gateArray
  try dsimp only
  repeat' first
    | with_reducible apply Keeps.refl
    | simp only [↓keeps_upd]
    | with_reducible apply Keeps.ite
    | with_reducible apply Keeps.ite_snd
    | with_reducible apply Keeps.ite_snd_snd
    | with_reducible apply Keeps.ite_snd_fst
    | with_reducible apply keeps_reachUp
    | with_reducible apply keeps_modArr

theorem keeps_execArrayClockGate (part) (array) (s : State) : ∃ t, execArrayClockGate part array s = .next t ∧ Keeps s t := by
  unfold execArrayClockGate
  try dsimp only
  repeat' first | with_reducible refine ⟨_, rfl, ?_⟩ | split
  all_goals repeat' first
    | with_reducible apply Keeps.refl
    | with_reducible apply keeps_gateArray

/-! Machine/Quant.lean. -/

theorem keeps_logInputs {s₀} {s : State} (n) (xs) (hk : Keeps s₀ s) : Keeps s₀ (State.logInputs s n xs) := by
  refine hk.trans ?_
  clear hk
  unfold State.logInputs
  try dsimp only
  repeat' first
    | with_reducible apply Keeps.refl
    | with_reducible apply keeps_numLog

theorem keeps_qRead {s₀} {s : State} (n) (w) (r) (hk : Keeps s₀ s) : Keeps s₀ (State.qRead s n w r).2.2 := by
  refine hk.trans ?_
  clear hk
  unfold State.qRead
  try dsimp only
  repeat' first
    | with_reducible apply Keeps.refl
    | with_reducible apply keeps_unitRead

theorem keeps_qNarrowRow {s₀} {s : State} (n) (w) (c) (r) (used) (hk : Keeps s₀ s) : Keeps s₀ (State.qNarrowRow s n w c r used).2.2 := by
  refine hk.trans ?_
  clear hk
  unfold State.qNarrowRow
  try dsimp only
  repeat' first
    | with_reducible apply Keeps.refl
    | with_reducible apply Keeps.ite
    | with_reducible apply Keeps.ite_snd
    | with_reducible apply Keeps.ite_snd_snd
    | with_reducible apply Keeps.ite_snd_fst
    | with_reducible apply keeps_qRead
    | with_reducible apply keeps_readAll
    | with_reducible apply keeps_logInputs
    | with_reducible apply keeps_convertWrite
    | with_reducible apply keeps_csWrite
    | with_reducible apply keeps_afterRow
    | with_reducible apply keeps_numLog
    | with_reducible apply keeps_statistics
    | with_reducible apply keeps_countHist

theorem keeps_qNarrowRows {s₀} {s : State} (n) (w) (c) (a1) (a2) (a3) (hk : Keeps s₀ s) : Keeps s₀ (State.qNarrowRows s n w c a1 a2 a3).2 := by
  refine hk.trans ?_
  clear hk
  fun_induction State.qNarrowRows s n w c a1 a2 a3 <;> try dsimp only
  all_goals repeat' first
    | with_reducible apply Keeps.refl
    | with_reducible apply keeps_qNarrowRow
    | (with_reducible apply Keeps.trans; on_goal 2 => with_reducible assumption)

theorem keeps_actRead {s₀} {s : State} (n) (w) (r) (hk : Keeps s₀ s) : Keeps s₀ (State.actRead s n w r).2.2 := by
  refine hk.trans ?_
  clear hk
  unfold State.actRead
  try dsimp only
  repeat' first
    | with_reducible apply Keeps.refl
    | with_reducible apply Keeps.ite
    | with_reducible apply Keeps.ite_snd
    | with_reducible apply Keeps.ite_snd_snd
    | with_reducible apply Keeps.ite_snd_fst
    | with_reducible apply keeps_unitRead

theorem keeps_qRestoreRow {s₀} {s : State} (n) (w) (c) (r) (hk : Keeps s₀ s) : Keeps s₀ (State.qRestoreRow s n w c r).2.2 := by
  refine hk.trans ?_
  clear hk
  unfold State.qRestoreRow
  try dsimp only
  repeat' first
    | with_reducible apply Keeps.refl
    | with_reducible apply Keeps.ite
    | with_reducible apply Keeps.ite_snd
    | with_reducible apply Keeps.ite_snd_snd
    | with_reducible apply Keeps.ite_snd_fst
    | with_reducible apply keeps_actRead
    | with_reducible apply keeps_readAll
    | with_reducible apply keeps_count
    | with_reducible apply keeps_numLog
    | with_reducible apply keeps_csWrite
    | with_reducible apply keeps_writeOutliers
    | with_reducible apply keeps_histogram
    | split

theorem keeps_qRestoreRows {s₀} {s : State} (n) (w) (c) (a1) (a2) (a3) (hk : Keeps s₀ s) : Keeps s₀ (State.qRestoreRows s n w c a1 a2 a3).2 := by
  refine hk.trans ?_
  clear hk
  fun_induction State.qRestoreRows s n w c a1 a2 a3 <;> try dsimp only
  all_goals repeat' first
    | with_reducible apply Keeps.refl
    | with_reducible apply Keeps.ite
    | with_reducible apply keeps_qRestoreRow
    | with_reducible apply keeps_qzLog
    | (with_reducible apply Keeps.trans; on_goal 2 => with_reducible assumption)

theorem keeps_qRun {s₀} (n) (h) (g) {s : State} (hk : Keeps s₀ s) : Keeps s₀ (State.qRun n h g s) := by
  refine hk.trans ?_
  clear hk
  unfold State.qRun
  try dsimp only
  repeat' first
    | with_reducible apply Keeps.refl
    | with_reducible apply Keeps.ite
    | with_reducible apply Keeps.ite_snd
    | with_reducible apply keeps_unitRead
    | with_reducible apply keeps_startDone
    | with_reducible apply keeps_qRestoreRows
    | with_reducible apply keeps_qNarrowRows

theorem keeps_qDispatch {s₀} {s : State} (n) (op) (hk : Keeps s₀ s) : Keeps s₀ (State.qDispatch s n op) := by
  refine hk.trans ?_
  clear hk
  unfold State.qDispatch
  try dsimp only
  repeat' first
    | with_reducible apply Keeps.refl
    | with_reducible apply keeps_dispatch
    | with_reducible apply keeps_qRun
    | intro _

theorem keeps_execQuantNarrow (seat) (s : State) : ∃ t, execQuantNarrow seat s = .next t ∧ Keeps s t := by
  unfold execQuantNarrow
  try dsimp only
  repeat' first | with_reducible refine ⟨_, rfl, ?_⟩ | split
  all_goals repeat' first
    | with_reducible apply Keeps.refl
    | with_reducible apply keeps_qDispatch

theorem keeps_execQuantRestore (seat) (s : State) : ∃ t, execQuantRestore seat s = .next t ∧ Keeps s t := by
  unfold execQuantRestore
  try dsimp only
  repeat' first | with_reducible refine ⟨_, rfl, ?_⟩ | split
  all_goals repeat' first
    | with_reducible apply Keeps.refl
    | with_reducible apply keeps_qDispatch

theorem keeps_execQuantStats (seat) (s : State) : ∃ t, execQuantStats seat s = .next t ∧ Keeps s t := by
  unfold execQuantStats
  try dsimp only
  repeat' first | with_reducible refine ⟨_, rfl, ?_⟩ | split
  all_goals repeat' first
    | with_reducible apply Keeps.refl
    | with_reducible apply keeps_qDispatch

/-! Machine/Wide.lean. -/

theorem keeps_logD4 {s₀} {s : State} (n) (b) (xs) (hk : Keeps s₀ s) : Keeps s₀ (State.logD4 s n b xs) := by
  refine hk.trans ?_
  clear hk
  unfold State.logD4
  try dsimp only
  repeat' first
    | with_reducible apply Keeps.refl
    | with_reducible apply keeps_numLog

theorem keeps_wRowsLoop {s₀} (f) (a1) (a2) {a3 : State} (hk : Keeps s₀ a3) (hgo : ∀ r s₀ u, Keeps s₀ u → Keeps s₀ (f u r).2) : Keeps s₀ (wRowsLoop f a1 a2 a3).2 := by
  refine hk.trans ?_
  clear hk
  fun_induction wRowsLoop f a1 a2 a3 <;> try dsimp only
  all_goals repeat' first
    | with_reducible apply Keeps.refl
    | with_reducible apply hgo
    | (with_reducible apply Keeps.trans; on_goal 2 => with_reducible assumption)

theorem keeps_wRead {s₀} {s : State} (n) (f) (a) (cols) (hk : Keeps s₀ s) : Keeps s₀ (State.wRead s n f a cols).2.2 := by
  refine hk.trans ?_
  clear hk
  unfold State.wRead
  try dsimp only
  repeat' first
    | with_reducible apply Keeps.refl
    | with_reducible apply keeps_unitRead
    | with_reducible apply keeps_logInputs

theorem keeps_wConst {s₀} {s : State} (n) (rec) (i) (hk : Keeps s₀ s) : Keeps s₀ (State.wConst s n rec i).2 := by
  refine hk.trans ?_
  clear hk
  unfold State.wConst
  try dsimp only
  repeat' first
    | with_reducible apply Keeps.refl
    | with_reducible apply keeps_logInputs

theorem keeps_logResults {s₀} {s : State} (n) (ys) (hk : Keeps s₀ s) : Keeps s₀ (State.logResults s n ys) := by
  refine hk.trans ?_
  clear hk
  unfold State.logResults
  try dsimp only
  repeat' first
    | with_reducible apply Keeps.refl
    | with_reducible apply keeps_numLog

theorem keeps_wWrite {s₀} {s : State} (n) (f) (a) (ys) (hk : Keeps s₀ s) : Keeps s₀ (State.wWrite s n f a ys) := by
  refine hk.trans ?_
  clear hk
  unfold State.wWrite
  try dsimp only
  repeat' first
    | with_reducible apply Keeps.refl
    | with_reducible apply keeps_csWrite
    | with_reducible apply keeps_logResults

theorem keeps_wReadRows {s₀} {s : State} (n) (f) (base) (pitch) (cols) (a1) (a2) (hk : Keeps s₀ s) : Keeps s₀ (State.wReadRows s n f base pitch cols a1 a2).2.2 := by
  refine hk.trans ?_
  clear hk
  fun_induction State.wReadRows s n f base pitch cols a1 a2 <;> try dsimp only
  all_goals repeat' first
    | with_reducible apply Keeps.refl
    | with_reducible apply keeps_wRead
    | (with_reducible apply Keeps.trans; on_goal 2 => with_reducible assumption)

theorem keeps_wideDotRun {s₀} {s : State} (n) (w) (hk : Keeps s₀ s) : Keeps s₀ (State.wideDotRun s n w).2 := by
  refine hk.trans ?_
  clear hk
  unfold State.wideDotRun
  try dsimp only
  repeat' first
    | with_reducible apply Keeps.refl
    | with_reducible assumption
    | with_reducible apply Keeps.ite_snd
    | with_reducible apply keeps_wReadRows
    | with_reducible apply keeps_wRowsLoop
    | with_reducible apply keeps_wRead
    | with_reducible apply keeps_count
    | with_reducible apply keeps_wWrite
    | split
    | intro _

theorem keeps_wideEwiseRun {s₀} {s : State} (n) (w) (rec) (hk : Keeps s₀ s) : Keeps s₀ (State.wideEwiseRun s n w rec).2 := by
  refine hk.trans ?_
  clear hk
  unfold State.wideEwiseRun
  try dsimp only
  repeat' first
    | with_reducible apply Keeps.refl
    | with_reducible assumption
    | with_reducible apply Keeps.ite_snd
    | with_reducible apply keeps_wConst
    | with_reducible apply keeps_wRowsLoop
    | with_reducible apply keeps_wRead
    | with_reducible apply keeps_wWrite
    | split
    | intro _

theorem keeps_wideRmsRun {s₀} {s : State} (n) (w) (rec) (hk : Keeps s₀ s) : Keeps s₀ (State.wideRmsRun s n w rec).2 := by
  refine hk.trans ?_
  clear hk
  unfold State.wideRmsRun
  try dsimp only
  repeat' first
    | with_reducible apply Keeps.refl
    | with_reducible assumption
    | with_reducible apply Keeps.ite_snd
    | with_reducible apply keeps_wConst
    | with_reducible apply keeps_wRead
    | with_reducible apply keeps_wRowsLoop
    | with_reducible apply keeps_wWrite
    | split
    | intro _

theorem keeps_wideSoftRun {s₀} {s : State} (n) (w) (rec) (hk : Keeps s₀ s) : Keeps s₀ (State.wideSoftRun s n w rec).2 := by
  refine hk.trans ?_
  clear hk
  unfold State.wideSoftRun
  try dsimp only
  repeat' first
    | with_reducible apply Keeps.refl
    | with_reducible assumption
    | with_reducible apply keeps_wConst
    | with_reducible apply keeps_wRowsLoop
    | with_reducible apply keeps_wRead
    | with_reducible apply keeps_wWrite
    | split
    | intro _

theorem keeps_wideCastRun {s₀} {s : State} (n) (w) (rec) (hk : Keeps s₀ s) : Keeps s₀ (State.wideCastRun s n w rec).2 := by
  refine hk.trans ?_
  clear hk
  unfold State.wideCastRun
  try dsimp only
  repeat' first
    | with_reducible apply Keeps.refl
    | with_reducible assumption
    | with_reducible apply Keeps.ite
    | with_reducible apply Keeps.ite_snd
    | with_reducible apply Keeps.ite_snd_snd
    | with_reducible apply Keeps.ite_snd_fst
    | with_reducible apply keeps_wRowsLoop
    | with_reducible apply keeps_unitRead
    | with_reducible apply keeps_logInputs
    | with_reducible apply keeps_logD4
    | with_reducible apply keeps_csWrite
    | with_reducible apply keeps_wWrite
    | split
    | intro _

theorem keeps_wideGo {s₀} (n) (run) (h) (g) {s : State} (hk : Keeps s₀ s) (hgo : ∀ w r s₀ u, Keeps s₀ u → Keeps s₀ (run u w r).2) : Keeps s₀ (wideGo n run h g s) := by
  refine hk.trans ?_
  clear hk
  unfold wideGo
  try dsimp only
  repeat' first
    | with_reducible apply Keeps.refl
    | with_reducible apply Keeps.ite
    | with_reducible apply keeps_unitRead
    | with_reducible apply keeps_startDone
    | with_reducible apply hgo

theorem keeps_widePlain {s₀} {s : State} (n) (mine) (run) (hk : Keeps s₀ s) (hgo : ∀ w r s₀ u, Keeps s₀ u → Keeps s₀ (run u w r).2) : Keeps s₀ (State.widePlain s n mine run) := by
  refine hk.trans ?_
  clear hk
  unfold State.widePlain
  try dsimp only
  repeat' first
    | with_reducible apply Keeps.refl
    | with_reducible assumption
    | with_reducible apply keeps_dispatch
    | with_reducible apply keeps_wideGo
    | intro _

theorem keeps_execWideDot (seat) (s : State) : ∃ t, execWideDot seat s = .next t ∧ Keeps s t := by
  unfold execWideDot
  try dsimp only
  repeat' first | with_reducible refine ⟨_, rfl, ?_⟩ | split
  all_goals repeat' first
    | with_reducible apply Keeps.refl
    | with_reducible apply keeps_widePlain
    | with_reducible apply keeps_wideDotRun
    | intro _

theorem keeps_execEwiseAdd (seat) (s : State) : ∃ t, execEwiseAdd seat s = .next t ∧ Keeps s t := by
  unfold execEwiseAdd
  try dsimp only
  repeat' first | with_reducible refine ⟨_, rfl, ?_⟩ | split
  all_goals repeat' first
    | with_reducible apply Keeps.refl
    | with_reducible apply keeps_widePlain
    | with_reducible apply keeps_wideEwiseRun
    | intro _

theorem keeps_execEwiseMul (seat) (s : State) : ∃ t, execEwiseMul seat s = .next t ∧ Keeps s t := by
  unfold execEwiseMul
  try dsimp only
  repeat' first | with_reducible refine ⟨_, rfl, ?_⟩ | split
  all_goals repeat' first
    | with_reducible apply Keeps.refl
    | with_reducible apply keeps_widePlain
    | with_reducible apply keeps_wideEwiseRun
    | intro _

theorem keeps_execEwiseAxpby (seat) (s : State) : ∃ t, execEwiseAxpby seat s = .next t ∧ Keeps s t := by
  unfold execEwiseAxpby
  try dsimp only
  repeat' first | with_reducible refine ⟨_, rfl, ?_⟩ | split
  all_goals repeat' first
    | with_reducible apply Keeps.refl
    | with_reducible apply keeps_widePlain
    | with_reducible apply keeps_wideEwiseRun
    | intro _

theorem keeps_execEwiseRelu (seat) (s : State) : ∃ t, execEwiseRelu seat s = .next t ∧ Keeps s t := by
  unfold execEwiseRelu
  try dsimp only
  repeat' first | with_reducible refine ⟨_, rfl, ?_⟩ | split
  all_goals repeat' first
    | with_reducible apply Keeps.refl
    | with_reducible apply keeps_widePlain
    | with_reducible apply keeps_wideEwiseRun
    | intro _

theorem keeps_execEwiseSilu (seat) (s : State) : ∃ t, execEwiseSilu seat s = .next t ∧ Keeps s t := by
  unfold execEwiseSilu
  try dsimp only
  repeat' first | with_reducible refine ⟨_, rfl, ?_⟩ | split
  all_goals repeat' first
    | with_reducible apply Keeps.refl
    | with_reducible apply keeps_widePlain
    | with_reducible apply keeps_wideEwiseRun
    | intro _

theorem keeps_execEwiseSiluMul (seat) (s : State) : ∃ t, execEwiseSiluMul seat s = .next t ∧ Keeps s t := by
  unfold execEwiseSiluMul
  try dsimp only
  repeat' first | with_reducible refine ⟨_, rfl, ?_⟩ | split
  all_goals repeat' first
    | with_reducible apply Keeps.refl
    | with_reducible apply keeps_widePlain
    | with_reducible apply keeps_wideEwiseRun
    | intro _

theorem keeps_execWideRmsnorm (seat) (s : State) : ∃ t, execWideRmsnorm seat s = .next t ∧ Keeps s t := by
  unfold execWideRmsnorm
  try dsimp only
  repeat' first | with_reducible refine ⟨_, rfl, ?_⟩ | split
  all_goals repeat' first
    | with_reducible apply Keeps.refl
    | with_reducible apply keeps_widePlain
    | with_reducible apply keeps_wideRmsRun
    | intro _

theorem keeps_execWideSoftmax (seat) (s : State) : ∃ t, execWideSoftmax seat s = .next t ∧ Keeps s t := by
  unfold execWideSoftmax
  try dsimp only
  repeat' first | with_reducible refine ⟨_, rfl, ?_⟩ | split
  all_goals repeat' first
    | with_reducible apply Keeps.refl
    | with_reducible apply keeps_widePlain
    | with_reducible apply keeps_wideSoftRun
    | intro _

theorem keeps_execWideCast (seat) (s : State) : ∃ t, execWideCast seat s = .next t ∧ Keeps s t := by
  unfold execWideCast
  try dsimp only
  repeat' first | with_reducible refine ⟨_, rfl, ?_⟩ | split
  all_goals repeat' first
    | with_reducible apply Keeps.refl
    | with_reducible apply keeps_widePlain
    | with_reducible apply keeps_wideCastRun
    | intro _

/-! Machine/Train.lean. -/

theorem keeps_trainLog {s₀} {s : State} (n) (mask) (hk : Keeps s₀ s) : Keeps s₀ (State.trainLog s n mask) := by
  refine hk.trans ?_
  clear hk
  unfold State.trainLog
  try dsimp only
  repeat' first
    | with_reducible apply Keeps.refl
    | with_reducible apply keeps_raise

theorem keeps_uRead {s₀} {s : State} (n) (t) (r) (cols) (hk : Keeps s₀ s) : Keeps s₀ (State.uRead s n t r cols).2.2 := by
  refine hk.trans ?_
  clear hk
  unfold State.uRead
  try dsimp only
  repeat' first
    | with_reducible apply Keeps.refl
    | with_reducible apply Keeps.ite
    | with_reducible apply Keeps.ite_snd
    | with_reducible apply Keeps.ite_snd_snd
    | with_reducible apply Keeps.ite_snd_fst
    | with_reducible apply keeps_unitRead
    | with_reducible apply keeps_logD4
    | with_reducible apply keeps_logInputs

theorem keeps_uWrite {s₀} {s : State} (n) (t) (stoch) (tensor) (step) (seed) (e0) (r) (xs) (hk : Keeps s₀ s) : Keeps s₀ (State.uWrite s n t stoch tensor step seed e0 r xs) := by
  refine hk.trans ?_
  clear hk
  unfold State.uWrite
  try dsimp only
  repeat' first
    | with_reducible apply Keeps.refl
    | with_reducible apply Keeps.ite
    | with_reducible apply Keeps.ite_snd
    | with_reducible apply Keeps.ite_snd_snd
    | with_reducible apply Keeps.ite_snd_fst
    | with_reducible apply keeps_csWrite
    | with_reducible apply keeps_logD4
    | with_reducible apply keeps_wWrite

theorem keeps_nativeRead {s₀} {s : State} (n) (c) (r) (cols) (hk : Keeps s₀ s) : Keeps s₀ (State.nativeRead s n c r cols).2.2 := by
  refine hk.trans ?_
  clear hk
  unfold State.nativeRead
  try dsimp only
  repeat' first
    | with_reducible apply Keeps.refl
    | with_reducible apply Keeps.fold
    | with_reducible apply Keeps.fold_snd
    | with_reducible apply Keeps.fold_snd_snd
    | with_reducible apply keeps_unitRead
    | with_reducible apply keeps_logD4
    | intro _

theorem keeps_nativeWrite {s₀} {s : State} (c) (r) (q) (hk : Keeps s₀ s) : Keeps s₀ (State.nativeWrite s c r q) := by
  refine hk.trans ?_
  clear hk
  unfold State.nativeWrite
  try dsimp only
  repeat' first
    | with_reducible apply Keeps.refl
    | with_reducible apply Keeps.fold
    | with_reducible apply keeps_csWrite
    | intro _

theorem keeps_updateRow {s₀} {s : State} (n) (w) (c) (zero) (gs) (r) (hk : Keeps s₀ s) : Keeps s₀ (State.updateRow s n w c zero gs r).2 := by
  refine hk.trans ?_
  clear hk
  unfold State.updateRow
  try dsimp only
  repeat' first
    | with_reducible apply Keeps.refl
    | with_reducible apply Keeps.ite
    | with_reducible apply Keeps.ite_snd
    | with_reducible apply Keeps.ite_snd_snd
    | with_reducible apply keeps_uRead
    | with_reducible apply keeps_nativeRead
    | with_reducible apply keeps_wRead
    | with_reducible apply keeps_numLog
    | with_reducible apply keeps_trainLog
    | with_reducible apply keeps_nativeWrite
    | with_reducible apply keeps_draw
    | with_reducible apply keeps_wWrite
    | with_reducible apply keeps_uWrite

theorem keeps_updateRun {s₀} {s : State} (n) (w) (c) (hk : Keeps s₀ s) : Keeps s₀ (State.updateRun s n w c).2 := by
  refine hk.trans ?_
  clear hk
  unfold State.updateRun
  try dsimp only
  repeat' first
    | with_reducible apply Keeps.refl
    | with_reducible apply Keeps.ite_snd
    | with_reducible apply keeps_unitRead
    | with_reducible apply keeps_logInputs
    | with_reducible apply keeps_wRowsLoop
    | with_reducible apply keeps_updateRow
    | with_reducible apply keeps_numLog
    | with_reducible apply keeps_bumpObj
    | with_reducible apply keeps_trainLog
    | intro _

theorem keeps_execWideUpdate (seat) (s : State) : ∃ t, execWideUpdate seat s = .next t ∧ Keeps s t := by
  unfold execWideUpdate
  try dsimp only
  repeat' first | with_reducible refine ⟨_, rfl, ?_⟩ | split
  all_goals repeat' first
    | with_reducible apply Keeps.refl
    | with_reducible assumption
    | with_reducible apply keeps_dispatch
    | with_reducible apply keeps_wideGo
    | with_reducible apply keeps_updateRun
    | intro _

theorem keeps_maskBit {s₀} {s : State} (a) (i) (v) (hk : Keeps s₀ s) : Keeps s₀ (State.maskBit s a i v) := by
  refine hk.trans ?_
  clear hk
  unfold State.maskBit
  try dsimp only
  repeat' first
    | with_reducible apply Keeps.refl
    | with_reducible apply keeps_csWrite

theorem keeps_evalOne {s₀} {s : State} (n) (r) (i) (hk : Keeps s₀ s) : Keeps s₀ (State.evalOne s n r i).2 := by
  refine hk.trans ?_
  clear hk
  unfold State.evalOne
  try dsimp only
  repeat' first
    | with_reducible apply Keeps.refl
    | with_reducible apply Keeps.ite
    | with_reducible apply Keeps.ite_snd
    | with_reducible apply Keeps.ite_snd_snd
    | with_reducible apply Keeps.ite_snd_fst
    | with_reducible apply keeps_unitRead
    | with_reducible apply keeps_trainLog
    | with_reducible apply keeps_logInputs
    | with_reducible apply keeps_logResults
    | with_reducible apply keeps_csWrite
    | with_reducible apply keeps_maskBit

theorem keeps_applyAll {s₀} {s : State} (n) (r) (mask) (a1) (a2) (a3) (hk : Keeps s₀ s) : Keeps s₀ (State.applyAll s n r mask a1 a2 a3).2.2 := by
  refine hk.trans ?_
  clear hk
  fun_induction State.applyAll s n r mask a1 a2 a3 <;> try dsimp only
  all_goals repeat' first
    | with_reducible apply Keeps.refl
    | with_reducible apply Keeps.ite
    | with_reducible apply keeps_unitRead
    | with_reducible apply keeps_trainLog
    | with_reducible apply keeps_csWrite
    | with_reducible apply keeps_bumpObj
    | (with_reducible apply Keeps.trans; on_goal 2 => with_reducible assumption)

theorem keeps_applyRun {s₀} {s : State} (n) (r) (hk : Keeps s₀ s) : Keeps s₀ (State.applyRun s n r).2 := by
  refine hk.trans ?_
  clear hk
  unfold State.applyRun
  try dsimp only
  repeat' first
    | with_reducible apply Keeps.refl
    | with_reducible apply Keeps.ite
    | with_reducible apply Keeps.ite_snd
    | with_reducible apply keeps_unitRead
    | with_reducible apply keeps_applyAll
    | with_reducible apply keeps_csWrite
    | with_reducible apply keeps_bumpObj
    | with_reducible apply keeps_trainLog

theorem keeps_watchRun {s₀} {s : State} (n) (m) (r) (hk : Keeps s₀ s) : Keeps s₀ (State.watchRun s n m r).2 := by
  refine hk.trans ?_
  clear hk
  unfold State.watchRun
  try dsimp only
  repeat' first
    | with_reducible apply Keeps.refl
    | with_reducible apply Keeps.ite_snd
    | with_reducible apply keeps_wRowsLoop
    | with_reducible apply keeps_evalOne
    | with_reducible apply keeps_applyRun
    | intro _

theorem keeps_watchDispatch {s₀} {s : State} (n) (m) (hk : Keeps s₀ s) : Keeps s₀ (State.watchDispatch s n m) := by
  refine hk.trans ?_
  clear hk
  unfold State.watchDispatch
  try dsimp only
  repeat' first
    | with_reducible apply Keeps.refl
    | with_reducible assumption
    | with_reducible apply keeps_dispatch
    | with_reducible apply keeps_wideGo
    | with_reducible apply keeps_watchRun
    | intro _

theorem keeps_execWatchEvaluate (seat) (s : State) : ∃ t, execWatchEvaluate seat s = .next t ∧ Keeps s t := by
  unfold execWatchEvaluate
  try dsimp only
  repeat' first | with_reducible refine ⟨_, rfl, ?_⟩ | split
  all_goals repeat' first
    | with_reducible apply Keeps.refl
    | with_reducible apply keeps_watchDispatch

theorem keeps_execWatchApply (seat) (s : State) : ∃ t, execWatchApply seat s = .next t ∧ Keeps s t := by
  unfold execWatchApply
  try dsimp only
  repeat' first | with_reducible refine ⟨_, rfl, ?_⟩ | split
  all_goals repeat' first
    | with_reducible apply Keeps.refl
    | with_reducible apply keeps_watchDispatch

theorem keeps_execWatchBoth (seat) (s : State) : ∃ t, execWatchBoth seat s = .next t ∧ Keeps s t := by
  unfold execWatchBoth
  try dsimp only
  repeat' first | with_reducible refine ⟨_, rfl, ?_⟩ | split
  all_goals repeat' first
    | with_reducible apply Keeps.refl
    | with_reducible apply keeps_watchDispatch

/-! Machine/Copy.lean. -/

theorem keeps_cvRestarts {s₀} {s : State} (p) (e) (hk : Keeps s₀ s) : Keeps s₀ (State.cvRestarts s p e) := by
  refine hk.trans ?_
  clear hk
  unfold State.cvRestarts
  try dsimp only
  repeat' first
    | with_reducible apply Keeps.refl
    | simp only [↓keeps_upd]
    | with_reducible apply Keeps.ite
    | with_reducible apply Keeps.ite_snd
    | with_reducible apply Keeps.ite_snd_snd
    | with_reducible apply Keeps.ite_snd_fst
    | with_reducible apply Keeps.fold
    | with_reducible apply Keeps.fold_snd
    | with_reducible apply Keeps.fold_snd_snd
    | with_reducible apply keeps_modRun
    | with_reducible apply keeps_raise
    | split
    | intro _

theorem keeps_cRead {s₀} {s : State} (n) (hbm) (a) (len) (hk : Keeps s₀ s) : Keeps s₀ (State.cRead s n hbm a len).2 := by
  refine hk.trans ?_
  clear hk
  unfold State.cRead
  try dsimp only
  repeat' first
    | with_reducible apply Keeps.refl
    | with_reducible apply Keeps.ite_snd
    | with_reducible apply keeps_hbmReadMarked
    | with_reducible apply keeps_unitRead

theorem keeps_cReadAll {s₀} {s : State} (n) (hbm) (a1) (hk : Keeps s₀ s) : Keeps s₀ (State.cReadAll s n hbm a1).2 := by
  refine hk.trans ?_
  clear hk
  fun_induction State.cReadAll s n hbm a1 <;> try dsimp only
  all_goals repeat' first
    | with_reducible apply Keeps.refl
    | with_reducible apply keeps_cRead
    | (with_reducible apply Keeps.trans; on_goal 2 => with_reducible assumption)

theorem keeps_cWrite {s₀} {s : State} (n) (hbm) (a) (bs) (hk : Keeps s₀ s) : Keeps s₀ (State.cWrite s n hbm a bs) := by
  refine hk.trans ?_
  clear hk
  unfold State.cWrite
  try dsimp only
  repeat' first
    | with_reducible apply Keeps.refl
    | with_reducible apply Keeps.ite
    | with_reducible apply keeps_hbmWriteMarked
    | with_reducible apply keeps_csWriteMarked

theorem keeps_cFree {s₀} {s : State} (src) (hk : Keeps s₀ s) : Keeps s₀ (State.cFree s src).2 := by
  refine hk.trans ?_
  clear hk
  unfold State.cFree
  try dsimp only
  repeat' first
    | with_reducible apply Keeps.refl
    | with_reducible apply keeps_draw

theorem keeps_csumVerify {s₀} {s : State} (n) (w) (own) (hk : Keeps s₀ s) : Keeps s₀ (State.csumVerify s n w own).2 := by
  refine hk.trans ?_
  clear hk
  unfold State.csumVerify
  try dsimp only
  repeat' first
    | with_reducible apply Keeps.refl
    | with_reducible apply Keeps.ite
    | with_reducible apply Keeps.ite_snd
    | with_reducible apply keeps_unitRead
    | with_reducible apply keeps_raise
    | with_reducible apply keeps_setRegN

theorem keeps_cvUse {s₀} {s : State} (n) (w) (v) (hk : Keeps s₀ s) : Keeps s₀ (State.cvUse s n w v).2 := by
  refine hk.trans ?_
  clear hk
  unfold State.cvUse
  try dsimp only
  repeat' first
    | with_reducible apply Keeps.refl
    | with_reducible apply Keeps.ite
    | with_reducible apply Keeps.ite_snd
    | with_reducible apply Keeps.ite_snd_snd
    | with_reducible apply Keeps.ite_snd_fst
    | with_reducible apply keeps_csWrite
    | with_reducible apply keeps_raise

theorem keeps_cvSettle {s₀} {s : State} (n) (r) (v) (again) (hk : Keeps s₀ s) : Keeps s₀ (State.cvSettle s n r v again) := by
  refine hk.trans ?_
  clear hk
  unfold State.cvSettle
  try dsimp only
  repeat' first
    | with_reducible apply Keeps.refl
    | with_reducible apply Keeps.ite
    | with_reducible apply Keeps.ite_snd
    | with_reducible apply Keeps.ite_snd_snd
    | with_reducible apply Keeps.ite_snd_fst
    | with_reducible apply keeps_cReadAll
    | with_reducible apply keeps_cvUse
    | with_reducible apply keeps_endRun

theorem keeps_copyHash {s₀} {s : State} (n) (w) (src) (hk : Keeps s₀ s) : Keeps s₀ (State.copyHash s n w src).2 := by
  refine hk.trans ?_
  clear hk
  unfold State.copyHash
  try dsimp only
  repeat' first
    | with_reducible apply Keeps.refl
    | with_reducible apply Keeps.ite_snd
    | with_reducible apply keeps_unitRead
    | with_reducible apply keeps_csWriteMarked

theorem keeps_copyRun {s₀} {s : State} (n) (e) (w) (later) (hk : Keeps s₀ s) : Keeps s₀ (State.copyRun s n e w later).2.2 := by
  refine hk.trans ?_
  clear hk
  unfold State.copyRun
  try dsimp only
  repeat' first
    | with_reducible apply Keeps.refl
    | with_reducible apply Keeps.ite
    | with_reducible apply Keeps.ite_snd
    | with_reducible apply Keeps.ite_snd_snd
    | with_reducible apply Keeps.ite_snd_fst
    | with_reducible apply Keeps.fold
    | with_reducible apply Keeps.fold_snd
    | with_reducible apply Keeps.fold_snd_snd
    | with_reducible apply keeps_cReadAll
    | with_reducible apply keeps_cFree
    | with_reducible apply keeps_cWrite
    | with_reducible apply keeps_count
    | with_reducible apply keeps_copyHash
    | with_reducible apply keeps_raise
    | with_reducible apply keeps_csWrite
    | with_reducible apply keeps_csumVerify
    | with_reducible apply keeps_cvUse
    | split
    | intro _

theorem keeps_copyStart {s₀} {s : State} (n) (cop) (hk : Keeps s₀ s) : Keeps s₀ (State.copyStart s n cop) := by
  refine hk.trans ?_
  clear hk
  unfold State.copyStart
  try dsimp only
  repeat' first
    | with_reducible apply Keeps.refl
    | with_reducible assumption
    | simp only [↓keeps_upd]
    | with_reducible apply Keeps.ite
    | with_reducible apply Keeps.ite_snd
    | with_reducible apply Keeps.ite_snd_snd
    | with_reducible apply Keeps.ite_snd_fst
    | with_reducible apply keeps_dispatch
    | with_reducible apply keeps_copyRun
    | with_reducible apply keeps_addRun
    | with_reducible apply keeps_cvRestarts
    | split
    | intro _

theorem keeps_atomicStart {s₀} {s : State} (n) (aop) (hk : Keeps s₀ s) : Keeps s₀ (State.atomicStart s n aop) := by
  refine hk.trans ?_
  clear hk
  unfold State.atomicStart
  try dsimp only
  repeat' first
    | with_reducible apply Keeps.refl
    | with_reducible assumption
    | with_reducible apply keeps_dispatch
    | with_reducible apply keeps_addRun
    | with_reducible apply keeps_lineStart
    | split
    | intro _

theorem keeps_execCopyLinear (seat) (s : State) : ∃ t, execCopyLinear seat s = .next t ∧ Keeps s t := by
  unfold execCopyLinear
  try dsimp only
  repeat' first | with_reducible refine ⟨_, rfl, ?_⟩ | split
  all_goals repeat' first
    | with_reducible apply Keeps.refl
    | with_reducible apply keeps_copyStart

theorem keeps_execCopySkewSerial (seat) (s : State) : ∃ t, execCopySkewSerial seat s = .next t ∧ Keeps s t := by
  unfold execCopySkewSerial
  try dsimp only
  repeat' first | with_reducible refine ⟨_, rfl, ?_⟩ | split
  all_goals repeat' first
    | with_reducible apply Keeps.refl
    | with_reducible apply keeps_copyStart

theorem keeps_execCopySkewParallel (seat) (s : State) : ∃ t, execCopySkewParallel seat s = .next t ∧ Keeps s t := by
  unfold execCopySkewParallel
  try dsimp only
  repeat' first | with_reducible refine ⟨_, rfl, ?_⟩ | split
  all_goals repeat' first
    | with_reducible apply Keeps.refl
    | with_reducible apply keeps_copyStart

theorem keeps_execCopyTransposeParallel (seat) (s : State) : ∃ t, execCopyTransposeParallel seat s = .next t ∧ Keeps s t := by
  unfold execCopyTransposeParallel
  try dsimp only
  repeat' first | with_reducible refine ⟨_, rfl, ?_⟩ | split
  all_goals repeat' first
    | with_reducible apply Keeps.refl
    | with_reducible apply keeps_copyStart

theorem keeps_execCopyFill (seat) (s : State) : ∃ t, execCopyFill seat s = .next t ∧ Keeps s t := by
  unfold execCopyFill
  try dsimp only
  repeat' first | with_reducible refine ⟨_, rfl, ?_⟩ | split
  all_goals repeat' first
    | with_reducible apply Keeps.refl
    | with_reducible apply keeps_copyStart

theorem keeps_execAtomicAdd (seat) (s : State) : ∃ t, execAtomicAdd seat s = .next t ∧ Keeps s t := by
  unfold execAtomicAdd
  try dsimp only
  repeat' first | with_reducible refine ⟨_, rfl, ?_⟩ | split
  all_goals repeat' first
    | with_reducible apply Keeps.refl
    | with_reducible apply keeps_atomicStart

theorem keeps_execAtomicAnd (seat) (s : State) : ∃ t, execAtomicAnd seat s = .next t ∧ Keeps s t := by
  unfold execAtomicAnd
  try dsimp only
  repeat' first | with_reducible refine ⟨_, rfl, ?_⟩ | split
  all_goals repeat' first
    | with_reducible apply Keeps.refl
    | with_reducible apply keeps_atomicStart

theorem keeps_execAtomicOr (seat) (s : State) : ∃ t, execAtomicOr seat s = .next t ∧ Keeps s t := by
  unfold execAtomicOr
  try dsimp only
  repeat' first | with_reducible refine ⟨_, rfl, ?_⟩ | split
  all_goals repeat' first
    | with_reducible apply Keeps.refl
    | with_reducible apply keeps_atomicStart

theorem keeps_execAtomicXor (seat) (s : State) : ∃ t, execAtomicXor seat s = .next t ∧ Keeps s t := by
  unfold execAtomicXor
  try dsimp only
  repeat' first | with_reducible refine ⟨_, rfl, ?_⟩ | split
  all_goals repeat' first
    | with_reducible apply Keeps.refl
    | with_reducible apply keeps_atomicStart

theorem keeps_execAtomicSmin (seat) (s : State) : ∃ t, execAtomicSmin seat s = .next t ∧ Keeps s t := by
  unfold execAtomicSmin
  try dsimp only
  repeat' first | with_reducible refine ⟨_, rfl, ?_⟩ | split
  all_goals repeat' first
    | with_reducible apply Keeps.refl
    | with_reducible apply keeps_atomicStart

theorem keeps_execAtomicSmax (seat) (s : State) : ∃ t, execAtomicSmax seat s = .next t ∧ Keeps s t := by
  unfold execAtomicSmax
  try dsimp only
  repeat' first | with_reducible refine ⟨_, rfl, ?_⟩ | split
  all_goals repeat' first
    | with_reducible apply Keeps.refl
    | with_reducible apply keeps_atomicStart

theorem keeps_execAtomicUmin (seat) (s : State) : ∃ t, execAtomicUmin seat s = .next t ∧ Keeps s t := by
  unfold execAtomicUmin
  try dsimp only
  repeat' first | with_reducible refine ⟨_, rfl, ?_⟩ | split
  all_goals repeat' first
    | with_reducible apply Keeps.refl
    | with_reducible apply keeps_atomicStart

theorem keeps_execAtomicUmax (seat) (s : State) : ∃ t, execAtomicUmax seat s = .next t ∧ Keeps s t := by
  unfold execAtomicUmax
  try dsimp only
  repeat' first | with_reducible refine ⟨_, rfl, ?_⟩ | split
  all_goals repeat' first
    | with_reducible apply Keeps.refl
    | with_reducible apply keeps_atomicStart

theorem keeps_execAtomicSwap (seat) (s : State) : ∃ t, execAtomicSwap seat s = .next t ∧ Keeps s t := by
  unfold execAtomicSwap
  try dsimp only
  repeat' first | with_reducible refine ⟨_, rfl, ?_⟩ | split
  all_goals repeat' first
    | with_reducible apply Keeps.refl
    | with_reducible apply keeps_atomicStart

theorem keeps_execAtomicCas (seat) (s : State) : ∃ t, execAtomicCas seat s = .next t ∧ Keeps s t := by
  unfold execAtomicCas
  try dsimp only
  repeat' first | with_reducible refine ⟨_, rfl, ?_⟩ | split
  all_goals repeat' first
    | with_reducible apply Keeps.refl
    | with_reducible apply keeps_atomicStart

theorem keeps_execAtomicLoad (seat) (s : State) : ∃ t, execAtomicLoad seat s = .next t ∧ Keeps s t := by
  unfold execAtomicLoad
  try dsimp only
  repeat' first | with_reducible refine ⟨_, rfl, ?_⟩ | split
  all_goals repeat' first
    | with_reducible apply Keeps.refl
    | with_reducible apply keeps_atomicStart

theorem keeps_issueRead {s₀} {s : State} (n) (idx) (host) (cs) (len) (tag) (fence) (hk : Keeps s₀ s) : Keeps s₀ (State.issueRead s n idx host cs len tag fence) := by
  refine hk.trans ?_
  clear hk
  unfold State.issueRead
  try dsimp only
  repeat' first
    | with_reducible apply Keeps.refl
    | simp only [↓keeps_upd]
    | with_reducible apply Keeps.ite
    | with_reducible apply keeps_emit

theorem keeps_pumpReads {s₀} {s : State} (hk : Keeps s₀ s) : Keeps s₀ (State.pumpReads s) := by
  refine hk.trans ?_
  clear hk
  unfold State.pumpReads
  try dsimp only
  repeat' first
    | with_reducible apply Keeps.refl
    | with_reducible apply Keeps.ite
    | with_reducible apply Keeps.fold
    | with_reducible apply keeps_modRun
    | with_reducible apply keeps_issueRead
    | split
    | intro _

theorem keeps_hxStart {s₀} {s : State} (n) (dir) (go) (hk : Keeps s₀ s) (hgo : ∀ h g e s₀ u, Keeps s₀ u → Keeps s₀ (go h g e u)) : Keeps s₀ (State.hxStart s n dir go) := by
  refine hk.trans ?_
  clear hk
  unfold State.hxStart
  try dsimp only
  repeat' first
    | with_reducible apply Keeps.refl
    | with_reducible apply keeps_dispatch
    | with_reducible apply keeps_addRun
    | with_reducible apply hgo
    | split
    | intro _

theorem keeps_execHostXferToCs (seat) (s : State) : ∃ t, execHostXferToCs seat s = .next t ∧ Keeps s t := by
  unfold execHostXferToCs
  try dsimp only
  repeat' first | with_reducible refine ⟨_, rfl, ?_⟩ | split
  all_goals repeat' first
    | with_reducible apply Keeps.refl
    | with_reducible assumption
    | simp only [↓keeps_upd]
    | with_reducible apply keeps_hxStart
    | with_reducible apply keeps_addRun
    | with_reducible apply keeps_cvRestarts
    | with_reducible apply keeps_pumpReads
    | intro _

theorem keeps_hostWrites {s₀} {s : State} (n) (host) (bs) (hk : Keeps s₀ s) : Keeps s₀ (State.hostWrites s n host bs) := by
  refine hk.trans ?_
  clear hk
  unfold State.hostWrites
  try dsimp only
  repeat' first
    | with_reducible apply Keeps.refl
    | with_reducible apply Keeps.fold
    | with_reducible apply keeps_emit
    | intro _

theorem keeps_execHostXferToHost (seat) (s : State) : ∃ t, execHostXferToHost seat s = .next t ∧ Keeps s t := by
  unfold execHostXferToHost
  try dsimp only
  repeat' first | with_reducible refine ⟨_, rfl, ?_⟩ | split
  all_goals repeat' first
    | with_reducible apply Keeps.refl
    | with_reducible assumption
    | simp only [↓keeps_upd]
    | with_reducible apply Keeps.ite
    | with_reducible apply Keeps.ite_snd
    | with_reducible apply Keeps.ite_snd_snd
    | with_reducible apply Keeps.ite_snd_fst
    | with_reducible apply keeps_hxStart
    | with_reducible apply keeps_unitRead
    | with_reducible apply keeps_hostWrites
    | with_reducible apply keeps_count
    | with_reducible apply keeps_raise
    | with_reducible apply keeps_addRun
    | with_reducible apply keeps_cvRestarts
    | split
    | intro _

theorem keeps_hostReadEnd {s₀} {s : State} (h) (ok) (data) (hk : Keeps s₀ s) : Keeps s₀ (State.hostReadEnd s h ok data) := by
  refine hk.trans ?_
  clear hk
  unfold State.hostReadEnd
  try dsimp only
  repeat' first
    | with_reducible apply Keeps.refl
    | simp only [↓keeps_upd]
    | with_reducible apply Keeps.ite
    | with_reducible apply keeps_endRun
    | with_reducible apply keeps_csWrite
    | with_reducible apply keeps_count
    | with_reducible apply keeps_record
    | with_reducible apply keeps_modRun
    | split

theorem keeps_execHostReadCompletion (tag) (status) (data) (s : State) : ∃ t, execHostReadCompletion tag status data s = .next t ∧ Keeps s t := by
  unfold execHostReadCompletion
  try dsimp only
  repeat' first | with_reducible refine ⟨_, rfl, ?_⟩ | split
  all_goals repeat' first
    | with_reducible apply Keeps.refl
    | with_reducible apply keeps_pumpReads
    | with_reducible apply keeps_hostReadEnd

theorem keeps_execHostCompletionTimeout (tag) (s : State) : ∃ t, execHostCompletionTimeout tag s = .next t ∧ Keeps s t := by
  unfold execHostCompletionTimeout
  try dsimp only
  repeat' first | with_reducible refine ⟨_, rfl, ?_⟩ | split
  all_goals repeat' first
    | with_reducible apply Keeps.refl
    | with_reducible apply keeps_pumpReads
    | with_reducible apply keeps_hostReadEnd

/-! Machine/Sync.lean. -/

theorem keeps_fenceStart {s₀} {s : State} (n) (kind) (hk : Keeps s₀ s) : Keeps s₀ (State.fenceStart s n kind) := by
  refine hk.trans ?_
  clear hk
  unfold State.fenceStart
  try dsimp only
  repeat' first
    | with_reducible apply Keeps.refl
    | with_reducible assumption
    | with_reducible apply keeps_dispatch
    | with_reducible apply keeps_pumpReads
    | with_reducible apply keeps_addRun
    | intro _

theorem keeps_execFenceLocal (seat) (s : State) : ∃ t, execFenceLocal seat s = .next t ∧ Keeps s t := by
  unfold execFenceLocal
  try dsimp only
  repeat' first | with_reducible refine ⟨_, rfl, ?_⟩ | split
  all_goals repeat' first
    | with_reducible apply Keeps.refl
    | with_reducible apply keeps_fenceStart

theorem keeps_execFenceChip (seat) (s : State) : ∃ t, execFenceChip seat s = .next t ∧ Keeps s t := by
  unfold execFenceChip
  try dsimp only
  repeat' first | with_reducible refine ⟨_, rfl, ?_⟩ | split
  all_goals repeat' first
    | with_reducible apply Keeps.refl
    | with_reducible apply keeps_fenceStart

theorem keeps_execFenceFabric (seat) (s : State) : ∃ t, execFenceFabric seat s = .next t ∧ Keeps s t := by
  unfold execFenceFabric
  try dsimp only
  repeat' first | with_reducible refine ⟨_, rfl, ?_⟩ | split
  all_goals repeat' first
    | with_reducible apply Keeps.refl
    | with_reducible apply keeps_fenceStart

theorem keeps_execFenceHost (seat) (s : State) : ∃ t, execFenceHost seat s = .next t ∧ Keeps s t := by
  unfold execFenceHost
  try dsimp only
  repeat' first | with_reducible refine ⟨_, rfl, ?_⟩ | split
  all_goals repeat' first
    | with_reducible apply Keeps.refl
    | with_reducible apply keeps_fenceStart

theorem keeps_tumblerResult {s₀} {s : State} (w) (old) (hk : Keeps s₀ s) : Keeps s₀ (State.tumblerResult s w old) := by
  refine hk.trans ?_
  clear hk
  unfold State.tumblerResult
  try dsimp only
  repeat' first
    | with_reducible apply Keeps.refl
    | with_reducible apply Keeps.ite
    | with_reducible apply keeps_csWrite

theorem keeps_tumblerDo {s₀} {s : State} (n) (idx) (w) (hk : Keeps s₀ s) : Keeps s₀ (State.tumblerDo s n idx w) := by
  refine hk.trans ?_
  clear hk
  unfold State.tumblerDo
  try dsimp only
  repeat' first
    | with_reducible apply Keeps.refl
    | with_reducible apply Keeps.ite
    | with_reducible apply keeps_endRun
    | with_reducible apply keeps_tumblerResult
    | with_reducible apply keeps_setTumbler
    | with_reducible apply keeps_targetReset
    | split

theorem keeps_remoteDo {s₀} {s : State} (n) (idx) (w) (hk : Keeps s₀ s) : Keeps s₀ (State.remoteDo s n idx w) := by
  refine hk.trans ?_
  clear hk
  unfold State.remoteDo
  try dsimp only
  repeat' first
    | with_reducible apply Keeps.refl
    | with_reducible apply keeps_post
    | with_reducible apply keeps_sendOpen
    | with_reducible apply keeps_endRun
    | split

theorem keeps_releaseDo {s₀} {s : State} (n) (r) (hk : Keeps s₀ s) : Keeps s₀ (State.releaseDo s n r) := by
  refine hk.trans ?_
  clear hk
  unfold State.releaseDo
  try dsimp only
  repeat' first
    | with_reducible apply Keeps.refl
    | with_reducible apply Keeps.ite
    | with_reducible apply keeps_remoteDo
    | with_reducible apply keeps_tumblerDo
    | with_reducible apply keeps_lineStart
    | split

theorem keeps_tumblerStart {s₀} {s : State} (n) (top) (hk : Keeps s₀ s) : Keeps s₀ (State.tumblerStart s n top) := by
  refine hk.trans ?_
  clear hk
  unfold State.tumblerStart
  try dsimp only
  repeat' first
    | with_reducible apply Keeps.refl
    | with_reducible assumption
    | with_reducible apply keeps_dispatch
    | with_reducible apply keeps_addRun
    | with_reducible apply keeps_releaseDo
    | split
    | intro _

theorem keeps_execTumblerSet (seat) (s : State) : ∃ t, execTumblerSet seat s = .next t ∧ Keeps s t := by
  unfold execTumblerSet
  try dsimp only
  repeat' first | with_reducible refine ⟨_, rfl, ?_⟩ | split
  all_goals repeat' first
    | with_reducible apply Keeps.refl
    | with_reducible apply keeps_tumblerStart

theorem keeps_execTumblerAdd (seat) (s : State) : ∃ t, execTumblerAdd seat s = .next t ∧ Keeps s t := by
  unfold execTumblerAdd
  try dsimp only
  repeat' first | with_reducible refine ⟨_, rfl, ?_⟩ | split
  all_goals repeat' first
    | with_reducible apply Keeps.refl
    | with_reducible apply keeps_tumblerStart

theorem keeps_execTumblerRemoteAdd (seat) (s : State) : ∃ t, execTumblerRemoteAdd seat s = .next t ∧ Keeps s t := by
  unfold execTumblerRemoteAdd
  try dsimp only
  repeat' first | with_reducible refine ⟨_, rfl, ?_⟩ | split
  all_goals repeat' first
    | with_reducible apply Keeps.refl
    | with_reducible apply keeps_tumblerStart

theorem keeps_execTumblerRead (seat) (s : State) : ∃ t, execTumblerRead seat s = .next t ∧ Keeps s t := by
  unfold execTumblerRead
  try dsimp only
  repeat' first | with_reducible refine ⟨_, rfl, ?_⟩ | split
  all_goals repeat' first
    | with_reducible apply Keeps.refl
    | with_reducible apply keeps_tumblerStart

theorem keeps_haspStart {s₀} {s : State} (n) (hop) (hk : Keeps s₀ s) : Keeps s₀ (State.haspStart s n hop) := by
  refine hk.trans ?_
  clear hk
  unfold State.haspStart
  try dsimp only
  repeat' first
    | with_reducible apply Keeps.refl
    | with_reducible assumption
    | with_reducible apply keeps_dispatch
    | with_reducible apply keeps_addRun
    | with_reducible apply keeps_releaseDo
    | split
    | intro _

theorem keeps_execHaspAcquire (seat) (s : State) : ∃ t, execHaspAcquire seat s = .next t ∧ Keeps s t := by
  unfold execHaspAcquire
  try dsimp only
  repeat' first | with_reducible refine ⟨_, rfl, ?_⟩ | split
  all_goals repeat' first
    | with_reducible apply Keeps.refl
    | with_reducible apply keeps_haspStart

theorem keeps_execHaspTry (seat) (s : State) : ∃ t, execHaspTry seat s = .next t ∧ Keeps s t := by
  unfold execHaspTry
  try dsimp only
  repeat' first | with_reducible refine ⟨_, rfl, ?_⟩ | split
  all_goals repeat' first
    | with_reducible apply Keeps.refl
    | with_reducible apply keeps_haspStart

theorem keeps_execHaspRelease (seat) (s : State) : ∃ t, execHaspRelease seat s = .next t ∧ Keeps s t := by
  unfold execHaspRelease
  try dsimp only
  repeat' first | with_reducible refine ⟨_, rfl, ?_⟩ | split
  all_goals repeat' first
    | with_reducible apply Keeps.refl
    | with_reducible apply keeps_haspStart

theorem keeps_execHaspRepair (seat) (s : State) : ∃ t, execHaspRepair seat s = .next t ∧ Keeps s t := by
  unfold execHaspRepair
  try dsimp only
  repeat' first | with_reducible refine ⟨_, rfl, ?_⟩ | split
  all_goals repeat' first
    | with_reducible apply Keeps.refl
    | with_reducible apply keeps_haspStart

theorem keeps_execHaspInspect (seat) (s : State) : ∃ t, execHaspInspect seat s = .next t ∧ Keeps s t := by
  unfold execHaspInspect
  try dsimp only
  repeat' first | with_reducible refine ⟨_, rfl, ?_⟩ | split
  all_goals repeat' first
    | with_reducible apply Keeps.refl
    | with_reducible apply keeps_haspStart

theorem keeps_haspEndAll {s₀} {s : State} (ws) (status) (result) (hk : Keeps s₀ s) : Keeps s₀ (State.haspEndAll s ws status result) := by
  refine hk.trans ?_
  clear hk
  unfold State.haspEndAll
  try dsimp only
  repeat' first
    | with_reducible apply Keeps.refl
    | with_reducible apply Keeps.fold
    | with_reducible apply keeps_lineResult
    | with_reducible apply keeps_raise
    | with_reducible apply keeps_endRun
    | split
    | intro _

theorem keeps_haspTry_need {s₀} {s : State} (p) (ln) (hk : Keeps s₀ s) : Keeps s₀ (State.haspTry.need s p ln) := by
  refine hk.trans ?_
  clear hk
  unfold State.haspTry.need
  try dsimp only
  repeat' first
    | with_reducible apply Keeps.refl
    | simp only [↓keeps_upd]
    | with_reducible apply keeps_lineWake
    | with_reducible apply keeps_count
    | with_reducible apply keeps_fillLine
    | split

theorem keeps_haspTry {s₀} {s : State} (a) (l) (ws) (hk : Keeps s₀ s) : Keeps s₀ (State.haspTry s a l ws) := by
  refine hk.trans ?_
  clear hk
  unfold State.haspTry
  try dsimp only
  repeat' first
    | with_reducible apply Keeps.refl
    | simp only [↓keeps_upd]
    | with_reducible apply Keeps.ite
    | with_reducible apply Keeps.ite_snd
    | with_reducible apply Keeps.ite_snd_snd
    | with_reducible apply Keeps.ite_snd_fst
    | with_reducible apply keeps_putLine
    | with_reducible apply keeps_raise
    | with_reducible apply keeps_haspEndAll
    | with_reducible apply keeps_count
    | with_reducible apply keeps_fillLine
    | with_reducible apply keeps_lineWake
    | split

theorem keeps_haspAgain {s₀} {s : State} (p) (addr) (ws) (hk : Keeps s₀ s) : Keeps s₀ (State.haspAgain s p addr ws) := by
  refine hk.trans ?_
  clear hk
  unfold State.haspAgain
  try dsimp only
  repeat' first
    | with_reducible apply Keeps.refl
    | with_reducible apply keeps_haspTry_need
    | with_reducible apply keeps_haspTry
    | split

theorem keeps_execHaspRetry (part) (addr) (s : State) : ∃ t, execHaspRetry part addr s = .next t ∧ Keeps s t := by
  unfold execHaspRetry
  try dsimp only
  repeat' first | with_reducible refine ⟨_, rfl, ?_⟩ | split
  all_goals repeat' first
    | with_reducible apply Keeps.refl
    | with_reducible apply Keeps.fold
    | with_reducible apply keeps_haspDue
    | with_reducible apply keeps_targetReset
    | with_reducible apply keeps_haspAgain
    | intro _

/-! Machine/Collective.lean. -/

theorem keeps_collLog {s₀} {s : State} (n) (mask) (b) (hk : Keeps s₀ s) : Keeps s₀ (State.collLog s n mask b) := by
  refine hk.trans ?_
  clear hk
  unfold State.collLog
  try dsimp only
  repeat' first
    | with_reducible apply Keeps.refl
    | with_reducible apply Keeps.ite
    | with_reducible apply keeps_raise

theorem keeps_contrib {s₀} {s : State} (n) (w) (g) (c) (hk : Keeps s₀ s) : Keeps s₀ (State.contrib s n w g c).2.2 := by
  refine hk.trans ?_
  clear hk
  unfold State.contrib
  try dsimp only
  repeat' first
    | with_reducible apply Keeps.refl
    | with_reducible apply Keeps.ite_snd_snd
    | with_reducible apply keeps_unitRead
    | with_reducible apply keeps_collLog

theorem keeps_putResult {s₀} {s : State} (w) (g) (bytes) (poison) (hk : Keeps s₀ s) : Keeps s₀ (State.putResult s w g bytes poison) := by
  refine hk.trans ?_
  clear hk
  unfold State.putResult
  try dsimp only
  repeat' first
    | with_reducible apply Keeps.refl
    | with_reducible apply Keeps.ite
    | with_reducible apply keeps_csWrite
    | with_reducible apply keeps_csPoisonRange

theorem keeps_modColl {s₀} {s : State} (n) (idx) (f) (hk : Keeps s₀ s) : Keeps s₀ (State.modColl s n idx f) := by
  refine hk.trans ?_
  clear hk
  unfold State.modColl
  try dsimp only
  repeat' first
    | with_reducible apply Keeps.refl
    | with_reducible apply keeps_modRun

theorem keeps_queueFlow {s₀} {s : State} (n) (r) (c) (hk : Keeps s₀ s) : Keeps s₀ (State.queueFlow s n r c) := by
  refine hk.trans ?_
  clear hk
  unfold State.queueFlow
  try dsimp only
  repeat' first
    | with_reducible apply Keeps.refl
    | simp only [↓keeps_upd]
    | with_reducible apply Keeps.ite
    | with_reducible apply Keeps.ite_snd
    | with_reducible apply Keeps.ite_snd_snd
    | with_reducible apply Keeps.ite_snd_fst
    | with_reducible apply keeps_modPort
    | with_reducible apply keeps_post
    | with_reducible apply keeps_modColl
    | split

theorem keeps_queueGather {s₀} {s : State} (n) (r) (ports) (part) (seq) (bs) (poison) (hk : Keeps s₀ s) : Keeps s₀ (State.queueGather s n r ports part seq bs poison) := by
  refine hk.trans ?_
  clear hk
  unfold State.queueGather
  try dsimp only
  repeat' first
    | with_reducible apply Keeps.refl
    | with_reducible apply Keeps.fold
    | with_reducible apply Keeps.fold_snd
    | with_reducible apply Keeps.fold_snd_snd
    | with_reducible apply keeps_queueFlow
    | intro _

theorem keeps_applyPlaced {s₀} {s : State} (n) (r) (all) (hk : Keeps s₀ s) : Keeps s₀ (State.applyPlaced s n r all) := by
  refine hk.trans ?_
  clear hk
  unfold State.applyPlaced
  try dsimp only
  repeat' first
    | with_reducible apply Keeps.refl
    | simp only [↓keeps_upd]
    | with_reducible apply Keeps.fold
    | with_reducible apply Keeps.fold_snd
    | with_reducible apply Keeps.fold_snd_snd
    | with_reducible apply keeps_putResult
    | with_reducible apply keeps_modColl
    | split
    | intro _

theorem keeps_place {s₀} {s : State} (n) (r) (p) (hk : Keeps s₀ s) : Keeps s₀ (State.place s n r p) := by
  refine hk.trans ?_
  clear hk
  unfold State.place
  try dsimp only
  repeat' first
    | with_reducible apply Keeps.refl
    | simp only [↓keeps_upd]
    | with_reducible apply keeps_modColl

theorem keeps_seedSide {s₀} {s : State} (n) (r) (vs) (hk : Keeps s₀ s) : Keeps s₀ (State.seedSide s n r vs) := by
  refine hk.trans ?_
  clear hk
  unfold State.seedSide
  try dsimp only
  repeat' first
    | with_reducible apply Keeps.refl
    | simp only [↓keeps_upd]
    | with_reducible apply Keeps.ite
    | with_reducible apply Keeps.ite_snd
    | with_reducible apply Keeps.ite_snd_snd
    | with_reducible apply Keeps.ite_snd_fst
    | with_reducible apply Keeps.fold
    | with_reducible apply Keeps.fold_snd
    | with_reducible apply Keeps.fold_snd_snd
    | with_reducible apply keeps_modColl
    | with_reducible apply keeps_collLog
    | split

theorem keeps_finishCell {s₀} {s : State} (n) (r) (part) (seq) (vs) (poison) (doneBefore) (doneAfter) (hk : Keeps s₀ s) : Keeps s₀ (State.finishCell s n r part seq vs poison doneBefore doneAfter) := by
  refine hk.trans ?_
  clear hk
  unfold State.finishCell
  try dsimp only
  repeat' first
    | with_reducible apply Keeps.refl
    | with_reducible apply Keeps.ite
    | with_reducible apply Keeps.ite_snd
    | with_reducible apply Keeps.ite_snd_snd
    | with_reducible apply Keeps.ite_snd_fst
    | with_reducible apply Keeps.fold
    | with_reducible apply Keeps.fold_snd
    | with_reducible apply Keeps.fold_snd_snd
    | with_reducible apply keeps_numLog
    | with_reducible apply keeps_place
    | with_reducible apply keeps_seedSide
    | with_reducible apply keeps_queueGather
    | split
    | intro _

theorem keeps_sendContrib {s₀} {s : State} (n) (r) (port) (part) (rank) (hk : Keeps s₀ s) : Keeps s₀ (State.sendContrib s n r port part rank) := by
  refine hk.trans ?_
  clear hk
  unfold State.sendContrib
  try dsimp only
  repeat' first
    | with_reducible apply Keeps.refl
    | simp only [↓keeps_upd]
    | with_reducible apply Keeps.ite
    | with_reducible apply Keeps.ite_snd
    | with_reducible apply Keeps.ite_snd_snd
    | with_reducible apply Keeps.ite_snd_fst
    | with_reducible apply Keeps.fold
    | with_reducible apply Keeps.fold_snd
    | with_reducible apply Keeps.fold_snd_snd
    | with_reducible apply keeps_contrib
    | with_reducible apply keeps_modColl
    | with_reducible apply keeps_queueFlow
    | split
    | intro _

theorem keeps_copyOwn {s₀} {s : State} (n) (r) (g) (c) (hk : Keeps s₀ s) : Keeps s₀ (State.copyOwn s n r g c) := by
  refine hk.trans ?_
  clear hk
  unfold State.copyOwn
  try dsimp only
  repeat' first
    | with_reducible apply Keeps.refl
    | with_reducible apply Keeps.ite
    | with_reducible apply keeps_unitRead
    | with_reducible apply keeps_csWriteMarked
    | with_reducible apply keeps_modColl

theorem keeps_gatherSrc {s₀} {s : State} (n) (r) (ports) (part) (seq) (g0) (hk : Keeps s₀ s) : Keeps s₀ (State.gatherSrc s n r ports part seq g0) := by
  refine hk.trans ?_
  clear hk
  unfold State.gatherSrc
  try dsimp only
  repeat' first
    | with_reducible apply Keeps.refl
    | with_reducible apply keeps_unitRead
    | with_reducible apply keeps_queueGather

theorem keeps_gatherOwn {s₀} {s : State} (n) (r) (hk : Keeps s₀ s) : Keeps s₀ (State.gatherOwn s n r) := by
  refine hk.trans ?_
  clear hk
  unfold State.gatherOwn
  try dsimp only
  repeat' first
    | with_reducible apply Keeps.refl
    | with_reducible apply Keeps.ite
    | with_reducible apply Keeps.ite_snd
    | with_reducible apply Keeps.ite_snd_snd
    | with_reducible apply Keeps.ite_snd_fst
    | with_reducible apply Keeps.fold
    | with_reducible apply Keeps.fold_snd
    | with_reducible apply Keeps.fold_snd_snd
    | with_reducible apply keeps_gatherSrc
    | split
    | intro _

theorem keeps_rootCells {s₀} {s : State} (n) (r) (hk : Keeps s₀ s) : Keeps s₀ (State.rootCells s n r) := by
  refine hk.trans ?_
  clear hk
  unfold State.rootCells
  try dsimp only
  repeat' first
    | with_reducible apply Keeps.refl
    | with_reducible apply Keeps.fold
    | with_reducible apply Keeps.fold_snd
    | with_reducible apply Keeps.fold_snd_snd
    | with_reducible apply keeps_gatherSrc
    | intro _

theorem keeps_collBegin {s₀} {s : State} (n) (r) (hk : Keeps s₀ s) : Keeps s₀ (State.collBegin s n r) := by
  refine hk.trans ?_
  clear hk
  unfold State.collBegin
  try dsimp only
  repeat' first
    | with_reducible apply Keeps.refl
    | with_reducible apply Keeps.ite
    | with_reducible apply Keeps.fold
    | with_reducible apply keeps_modColl
    | with_reducible apply keeps_sendContrib
    | with_reducible apply keeps_gatherOwn
    | with_reducible apply keeps_copyOwn
    | with_reducible apply keeps_rootCells
    | split
    | intro _

theorem keeps_sidePump {s₀} {s : State} (n) (r) (hk : Keeps s₀ s) : Keeps s₀ (State.sidePump s n r) := by
  refine hk.trans ?_
  clear hk
  unfold State.sidePump
  try dsimp only
  repeat' first
    | with_reducible apply Keeps.refl
    | with_reducible apply Keeps.ite
    | with_reducible apply Keeps.fold
    | with_reducible apply keeps_modColl
    | with_reducible apply keeps_queueCtrl
    | split
    | intro _

theorem keeps_endTransfer {s₀} {s : State} (n) (t) (hk : Keeps s₀ s) : Keeps s₀ (State.endTransfer s n t) := by
  refine hk.trans ?_
  clear hk
  unfold State.endTransfer
  try dsimp only
  repeat' first
    | with_reducible apply Keeps.refl
    | with_reducible apply Keeps.ite
    | with_reducible apply keeps_settle
    | with_reducible apply keeps_raise
    | with_reducible apply keeps_modSeat

theorem keeps_collUnscheduled {s₀} {s : State} (n) (r) (hk : Keeps s₀ s) : Keeps s₀ (State.collUnscheduled s n r) := by
  refine hk.trans ?_
  clear hk
  unfold State.collUnscheduled
  try dsimp only
  repeat' first
    | with_reducible apply Keeps.refl
    | with_reducible apply Keeps.fold
    | with_reducible apply keeps_endTransfer
    | with_reducible apply keeps_modPort
    | with_reducible apply keeps_collLog
    | with_reducible apply keeps_endRun
    | intro _

theorem keeps_sideStart {s₀} {s : State} (n) (w) (hk : Keeps s₀ s) : Keeps s₀ (State.sideStart s n w).2.2 := by
  refine hk.trans ?_
  clear hk
  unfold State.sideStart
  try dsimp only
  repeat' first
    | with_reducible apply Keeps.refl
    | with_reducible apply Keeps.ite_snd
    | with_reducible apply keeps_unitRead
    | split

theorem keeps_collGo {s₀} {s : State} (n) (h) (g) (hk : Keeps s₀ s) : Keeps s₀ (State.collGo n h g s) := by
  refine hk.trans ?_
  clear hk
  unfold State.collGo
  try dsimp only
  repeat' first
    | with_reducible apply Keeps.refl
    | simp only [↓keeps_upd]
    | with_reducible apply Keeps.ite
    | with_reducible apply Keeps.ite_snd
    | with_reducible apply Keeps.ite_snd_snd
    | with_reducible apply Keeps.ite_snd_fst
    | with_reducible apply keeps_sideStart
    | with_reducible apply keeps_addRun
    | with_reducible apply keeps_collUnscheduled

theorem keeps_collStart {s₀} {s : State} (n) (kind) (hk : Keeps s₀ s) : Keeps s₀ (State.collStart s n kind) := by
  refine hk.trans ?_
  clear hk
  unfold State.collStart
  try dsimp only
  repeat' first
    | with_reducible apply Keeps.refl
    | with_reducible apply keeps_dispatch
    | with_reducible apply keeps_collGo
    | intro _

theorem keeps_execCollectiveAllreduce (seat) (s : State) : ∃ t, execCollectiveAllreduce seat s = .next t ∧ Keeps s t := by
  unfold execCollectiveAllreduce
  try dsimp only
  repeat' first | with_reducible refine ⟨_, rfl, ?_⟩ | split
  all_goals repeat' first
    | with_reducible apply Keeps.refl
    | with_reducible apply keeps_collStart

theorem keeps_execCollectiveReduceScatter (seat) (s : State) : ∃ t, execCollectiveReduceScatter seat s = .next t ∧ Keeps s t := by
  unfold execCollectiveReduceScatter
  try dsimp only
  repeat' first | with_reducible refine ⟨_, rfl, ?_⟩ | split
  all_goals repeat' first
    | with_reducible apply Keeps.refl
    | with_reducible apply keeps_collStart

theorem keeps_execCollectiveAllgather (seat) (s : State) : ∃ t, execCollectiveAllgather seat s = .next t ∧ Keeps s t := by
  unfold execCollectiveAllgather
  try dsimp only
  repeat' first | with_reducible refine ⟨_, rfl, ?_⟩ | split
  all_goals repeat' first
    | with_reducible apply Keeps.refl
    | with_reducible apply keeps_collStart

theorem keeps_execCollectiveBroadcast (seat) (s : State) : ∃ t, execCollectiveBroadcast seat s = .next t ∧ Keeps s t := by
  unfold execCollectiveBroadcast
  try dsimp only
  repeat' first | with_reducible refine ⟨_, rfl, ?_⟩ | split
  all_goals repeat' first
    | with_reducible apply Keeps.refl
    | with_reducible apply keeps_collStart

theorem keeps_putCell {s₀} {s : State} (n) (r) (post) (total) (i) (hk : Keeps s₀ s) : Keeps s₀ (State.putCell s n r post total i) := by
  refine hk.trans ?_
  clear hk
  unfold State.putCell
  try dsimp only
  repeat' first
    | with_reducible apply Keeps.refl
    | simp only [↓keeps_upd]
    | with_reducible apply Keeps.ite
    | with_reducible apply Keeps.ite_snd
    | with_reducible apply Keeps.ite_snd_snd
    | with_reducible apply Keeps.ite_snd_fst
    | with_reducible apply keeps_unitRead
    | with_reducible apply keeps_sendOpen
    | with_reducible apply keeps_modRun

theorem keeps_putPump {s₀} {s : State} (n) (r) (left) (hk : Keeps s₀ s) : Keeps s₀ (State.putPump s n r left) := by
  refine hk.trans ?_
  clear hk
  unfold State.putPump
  try dsimp only
  repeat' first
    | with_reducible apply Keeps.refl
    | simp only [↓keeps_upd]
    | with_reducible apply Keeps.ite
    | with_reducible apply Keeps.ite_snd
    | with_reducible apply Keeps.ite_snd_snd
    | with_reducible apply Keeps.ite_snd_fst
    | with_reducible apply Keeps.fold
    | with_reducible apply Keeps.fold_snd
    | with_reducible apply Keeps.fold_snd_snd
    | with_reducible apply keeps_modRun
    | with_reducible apply keeps_putCell
    | split
    | intro _

theorem keeps_execCollectivePut (seat) (s : State) : ∃ t, execCollectivePut seat s = .next t ∧ Keeps s t := by
  unfold execCollectivePut
  try dsimp only
  repeat' first | with_reducible refine ⟨_, rfl, ?_⟩ | split
  all_goals repeat' first
    | with_reducible apply Keeps.refl
    | with_reducible assumption
    | simp only [↓keeps_upd]
    | with_reducible apply keeps_dispatch
    | with_reducible apply keeps_addRun
    | with_reducible apply keeps_post
    | with_reducible apply keeps_putPump
    | intro _

theorem keeps_ackTransfer {s₀} {s : State} (n) (port) (hk : Keeps s₀ s) : Keeps s₀ (State.ackTransfer s n port) := by
  refine hk.trans ?_
  clear hk
  unfold State.ackTransfer
  try dsimp only
  repeat' first
    | with_reducible apply Keeps.refl
    | with_reducible apply keeps_queueCtrl
    | with_reducible apply keeps_draw

theorem keeps_refuseFlow {s₀} {s : State} (x) (hk : Keeps s₀ s) : Keeps s₀ (State.refuseFlow s x) := by
  refine hk.trans ?_
  clear hk
  unfold State.refuseFlow
  try dsimp only
  repeat' first
    | with_reducible apply Keeps.refl
    | simp only [↓keeps_upd]
    | with_reducible apply Keeps.ite
    | with_reducible apply Keeps.ite_snd
    | with_reducible apply Keeps.ite_snd_snd
    | with_reducible apply Keeps.ite_snd_fst
    | with_reducible apply keeps_queueCtrl
    | with_reducible apply keeps_modPort
    | with_reducible apply keeps_draw

theorem keeps_placeCell {s₀} {s : State} (n) (r) (port) (flow) (part) (seq) (hk : Keeps s₀ s) : Keeps s₀ (State.placeCell s n r port flow part seq) := by
  refine hk.trans ?_
  clear hk
  unfold State.placeCell
  try dsimp only
  repeat' first
    | with_reducible apply Keeps.refl
    | simp only [↓keeps_upd]
    | with_reducible apply Keeps.ite
    | with_reducible apply Keeps.ite_snd
    | with_reducible apply Keeps.ite_snd_snd
    | with_reducible apply Keeps.ite_snd_fst
    | with_reducible apply keeps_modColl

theorem keeps_closeTransfers {s₀} {s : State} (n) (r) (all) (hk : Keeps s₀ s) : Keeps s₀ (State.closeTransfers s n r all) := by
  refine hk.trans ?_
  clear hk
  unfold State.closeTransfers
  try dsimp only
  repeat' first
    | with_reducible apply Keeps.refl
    | simp only [↓keeps_upd]
    | with_reducible apply Keeps.ite
    | with_reducible apply Keeps.ite_snd
    | with_reducible apply Keeps.ite_snd_snd
    | with_reducible apply Keeps.ite_snd_fst
    | with_reducible apply Keeps.fold
    | with_reducible apply Keeps.fold_snd
    | with_reducible apply Keeps.fold_snd_snd
    | with_reducible apply keeps_ackTransfer
    | with_reducible apply keeps_modColl
    | with_reducible apply keeps_applyPlaced
    | split
    | intro _

theorem keeps_loseCell {s₀} {s : State} (port) (flow) (body) (hk : Keeps s₀ s) : Keeps s₀ (State.loseCell s port flow body) := by
  refine hk.trans ?_
  clear hk
  unfold State.loseCell
  try dsimp only
  repeat' first
    | with_reducible apply Keeps.refl
    | simp only [↓keeps_upd]
    | with_reducible apply Keeps.ite
    | with_reducible apply Keeps.ite_snd
    | with_reducible apply Keeps.ite_snd_snd
    | with_reducible apply Keeps.ite_snd_fst
    | with_reducible apply keeps_modPort
    | with_reducible apply keeps_modColl
    | split

theorem keeps_boardCell {s₀} {s : State} (n) (r) (c) (x) (hk : Keeps s₀ s) : Keeps s₀ (State.boardCell s n r c x) := by
  refine hk.trans ?_
  clear hk
  unfold State.boardCell
  try dsimp only
  repeat' first
    | with_reducible apply Keeps.refl
    | with_reducible apply Keeps.ite
    | with_reducible apply keeps_placeCell
    | with_reducible apply keeps_modColl
    | with_reducible apply keeps_contrib
    | with_reducible apply keeps_numLog
    | with_reducible apply keeps_collLog
    | with_reducible apply keeps_finishCell

theorem keeps_ringCell {s₀} {s : State} (n) (r) (c) (x) (hk : Keeps s₀ s) : Keeps s₀ (State.ringCell s n r c x) := by
  refine hk.trans ?_
  clear hk
  unfold State.ringCell
  try dsimp only
  repeat' first
    | with_reducible apply Keeps.refl
    | with_reducible apply Keeps.ite
    | with_reducible apply keeps_placeCell
    | with_reducible apply keeps_contrib
    | with_reducible apply keeps_modColl
    | with_reducible apply keeps_numLog
    | with_reducible apply keeps_collLog
    | with_reducible apply keeps_finishCell
    | with_reducible apply keeps_queueFlow

theorem keeps_gatherCell {s₀} {s : State} (n) (r) (c) (x) (hk : Keeps s₀ s) : Keeps s₀ (State.gatherCell s n r c x) := by
  refine hk.trans ?_
  clear hk
  unfold State.gatherCell
  try dsimp only
  repeat' first
    | with_reducible apply Keeps.refl
    | simp only [↓keeps_upd]
    | with_reducible apply Keeps.ite
    | with_reducible apply Keeps.ite_snd
    | with_reducible apply Keeps.ite_snd_snd
    | with_reducible apply Keeps.ite_snd_fst
    | with_reducible apply keeps_placeCell
    | with_reducible apply keeps_place
    | with_reducible apply keeps_queueFlow

theorem keeps_schedCell {s₀} {s : State} (port) (flow) (body) (hk : Keeps s₀ s) : Keeps s₀ (State.schedCell s port flow body) := by
  refine hk.trans ?_
  clear hk
  unfold State.schedCell
  try dsimp only
  repeat' first
    | with_reducible apply Keeps.refl
    | with_reducible apply Keeps.ite
    | with_reducible apply Keeps.ite_snd
    | with_reducible apply Keeps.ite_snd_snd
    | with_reducible apply Keeps.ite_snd_fst
    | with_reducible apply keeps_refuseFlow
    | with_reducible apply keeps_collLog
    | with_reducible apply keeps_boardCell
    | with_reducible apply keeps_ringCell
    | with_reducible apply keeps_gatherCell
    | with_reducible apply keeps_closeTransfers
    | split

theorem keeps_sideLog {s₀} {s : State} (n) (v) (hk : Keeps s₀ s) : Keeps s₀ (State.sideLog s n v) := by
  refine hk.trans ?_
  clear hk
  unfold State.sideLog
  try dsimp only
  repeat' first
    | with_reducible apply Keeps.refl
    | with_reducible apply keeps_collLog

theorem keeps_sideArrives {s₀} {s : State} (port) (body) (hk : Keeps s₀ s) : Keeps s₀ (State.sideArrives s port body) := by
  refine hk.trans ?_
  clear hk
  unfold State.sideArrives
  try dsimp only
  repeat' first
    | with_reducible apply Keeps.refl
    | simp only [↓keeps_upd]
    | with_reducible apply Keeps.ite
    | with_reducible apply Keeps.ite_snd
    | with_reducible apply Keeps.ite_snd_snd
    | with_reducible apply Keeps.ite_snd_fst
    | with_reducible apply keeps_modColl
    | with_reducible apply keeps_collLog
    | with_reducible apply keeps_sideLog
    | with_reducible apply keeps_queueCtrl
    | split

theorem keeps_collEnd {s₀} {s : State} (n) (r) (c) (hk : Keeps s₀ s) : Keeps s₀ (State.collEnd s n r c) := by
  refine hk.trans ?_
  clear hk
  unfold State.collEnd
  try dsimp only
  repeat' first
    | with_reducible apply Keeps.refl
    | simp only [↓keeps_upd]
    | with_reducible apply Keeps.ite
    | with_reducible apply Keeps.ite_snd
    | with_reducible apply Keeps.ite_snd_snd
    | with_reducible apply Keeps.ite_snd_fst
    | with_reducible apply Keeps.fold
    | with_reducible apply Keeps.fold_snd
    | with_reducible apply Keeps.fold_snd_snd
    | with_reducible apply keeps_modPort
    | with_reducible apply keeps_closeTransfers
    | with_reducible apply keeps_endRun
    | with_reducible apply keeps_collLog
    | with_reducible apply keeps_sideLog
    | with_reducible apply keeps_csWrite
    | split
    | intro _

theorem keeps_collCount {s₀} {s : State} (r) (hk : Keeps s₀ s) : Keeps s₀ (State.collCount s r) := by
  refine hk.trans ?_
  clear hk
  unfold State.collCount
  try dsimp only
  repeat' first
    | with_reducible apply Keeps.refl
    | with_reducible apply Keeps.ite
    | with_reducible apply Keeps.ite_snd
    | with_reducible apply Keeps.ite_snd_snd
    | with_reducible apply Keeps.ite_snd_fst
    | with_reducible apply keeps_status
    | with_reducible apply keeps_bumpObj

theorem keeps_collEnds {s₀} {s : State} (k) (hk : Keeps s₀ s) : Keeps s₀ (State.collEnds s k) := by
  refine hk.trans ?_
  clear hk
  unfold State.collEnds
  try dsimp only
  repeat' first
    | with_reducible apply Keeps.refl
    | with_reducible apply Keeps.ite
    | with_reducible apply Keeps.ite_snd
    | with_reducible apply Keeps.ite_snd_snd
    | with_reducible apply Keeps.ite_snd_fst
    | with_reducible apply Keeps.fold
    | with_reducible apply Keeps.fold_snd
    | with_reducible apply Keeps.fold_snd_snd
    | with_reducible apply keeps_collEnd
    | split
    | intro _

theorem keeps_collBegins {s₀} {s : State} (k) (hk : Keeps s₀ s) : Keeps s₀ (State.collBegins s k) := by
  refine hk.trans ?_
  clear hk
  unfold State.collBegins
  try dsimp only
  repeat' first
    | with_reducible apply Keeps.refl
    | with_reducible apply Keeps.ite
    | with_reducible apply Keeps.ite_snd
    | with_reducible apply Keeps.ite_snd_snd
    | with_reducible apply Keeps.ite_snd_fst
    | with_reducible apply Keeps.fold
    | with_reducible apply Keeps.fold_snd
    | with_reducible apply Keeps.fold_snd_snd
    | with_reducible apply keeps_start
    | with_reducible apply keeps_collBegin
    | with_reducible apply keeps_sidePump
    | split
    | intro _

theorem keeps_collSwap {s₀} {s : State} (hk : Keeps s₀ s) : Keeps s₀ (State.collSwap s) := by
  refine hk.trans ?_
  clear hk
  unfold State.collSwap
  try dsimp only
  repeat' first
    | with_reducible apply Keeps.refl
    | with_reducible apply Keeps.ite
    | with_reducible apply Keeps.ite_snd
    | with_reducible apply Keeps.ite_snd_snd
    | with_reducible apply Keeps.ite_snd_fst
    | with_reducible apply Keeps.fold
    | with_reducible apply Keeps.fold_snd
    | with_reducible apply Keeps.fold_snd_snd
    | with_reducible apply keeps_collUnscheduled
    | split
    | intro _

theorem keeps_sideStep {s₀} {s : State} (n) (r) (hk : Keeps s₀ s) : Keeps s₀ (State.sideStep s n r) := by
  refine hk.trans ?_
  clear hk
  unfold State.sideStep
  try dsimp only
  repeat' first
    | with_reducible apply Keeps.refl
    | with_reducible apply Keeps.ite
    | with_reducible apply keeps_bumpObj
    | with_reducible apply keeps_collLog
    | with_reducible apply keeps_originate

/-! Machine/Descriptor.lean. -/

theorem keeps_launch {s₀} {s : State} (n) (g) (count) (asker) (hk : Keeps s₀ s) : Keeps s₀ (State.launch s n g count asker).2 := by
  refine hk.trans ?_
  clear hk
  unfold State.launch
  try dsimp only
  repeat' first
    | with_reducible apply Keeps.refl
    | simp only [↓keeps_upd]
    | with_reducible apply Keeps.ite_snd
    | with_reducible apply keeps_raise

theorem keeps_launchOne {s₀} {s : State} (l) (hk : Keeps s₀ s) : Keeps s₀ (State.launchOne s l) := by
  refine hk.trans ?_
  clear hk
  unfold State.launchOne
  try dsimp only
  repeat' first
    | with_reducible apply Keeps.refl
    | simp only [↓keeps_upd]
    | with_reducible apply Keeps.ite
    | with_reducible apply Keeps.ite_snd
    | with_reducible apply Keeps.ite_snd_snd
    | with_reducible apply Keeps.ite_snd_fst
    | with_reducible apply Keeps.fold
    | with_reducible apply Keeps.fold_snd
    | with_reducible apply Keeps.fold_snd_snd
    | with_reducible apply keeps_reach
    | with_reducible apply keeps_modSeat
    | with_reducible apply keeps_count
    | with_reducible apply keeps_refreshWd
    | with_reducible apply keeps_endRun
    | split
    | intro _

theorem keeps_launchEffect {s₀} {s : State} (g) (hk : Keeps s₀ s) : Keeps s₀ (State.launchEffect s g) := by
  refine hk.trans ?_
  clear hk
  unfold State.launchEffect
  try dsimp only
  repeat' first
    | with_reducible apply Keeps.refl
    | with_reducible apply Keeps.fold
    | with_reducible apply Keeps.fold_snd
    | with_reducible apply Keeps.fold_snd_snd
    | with_reducible apply keeps_launchOne
    | split
    | intro _

theorem keeps_ringRead {s₀} {s : State} (n) (i) (hk : Keeps s₀ s) : Keeps s₀ (State.ringRead s n i).2.2 := by
  refine hk.trans ?_
  clear hk
  unfold State.ringRead
  try dsimp only
  repeat' first
    | with_reducible apply Keeps.refl
    | with_reducible apply keeps_csRead

theorem keeps_ringReadMany {s₀} {s : State} (n) (a1) (a2) (hk : Keeps s₀ s) : Keeps s₀ (State.ringReadMany s n a1 a2).2.2 := by
  refine hk.trans ?_
  clear hk
  fun_induction State.ringReadMany s n a1 a2 <;> try dsimp only
  all_goals repeat' first
    | with_reducible apply Keeps.refl
    | with_reducible apply keeps_ringRead
    | (with_reducible apply Keeps.trans; on_goal 2 => with_reducible assumption)

theorem keeps_readHead {s₀} {s : State} (n) (hk : Keeps s₀ s) : Keeps s₀ (State.readHead s n) := by
  refine hk.trans ?_
  clear hk
  unfold State.readHead
  try dsimp only
  repeat' first
    | with_reducible apply Keeps.refl
    | with_reducible apply Keeps.ite
    | with_reducible apply keeps_ringRead
    | with_reducible apply keeps_ringReadMany
    | with_reducible apply keeps_refuse
    | with_reducible apply keeps_modSeat
    | split

theorem keeps_descriptorHead {s₀} {s : State} (n) (hk : Keeps s₀ s) : Keeps s₀ (State.descriptorHead s n) := by
  refine hk.trans ?_
  clear hk
  unfold State.descriptorHead
  try dsimp only
  repeat' first
    | with_reducible apply Keeps.refl
    | with_reducible apply Keeps.ite
    | with_reducible apply keeps_readHead
    | with_reducible apply keeps_refuse
    | split

theorem keeps_execDescriptorHead (seat) (s : State) : ∃ t, execDescriptorHead seat s = .next t ∧ Keeps s t := by
  unfold execDescriptorHead
  try dsimp only
  repeat' first | with_reducible refine ⟨_, rfl, ?_⟩ | split
  all_goals repeat' first
    | with_reducible apply Keeps.refl
    | with_reducible apply keeps_descriptorHead

theorem keeps_execNop (seat) (s : State) : ∃ t, execNop seat s = .next t ∧ Keeps s t := by
  unfold execNop
  try dsimp only
  repeat' first | with_reducible refine ⟨_, rfl, ?_⟩ | split
  all_goals repeat' first
    | with_reducible apply Keeps.refl
    | with_reducible apply keeps_dispatch
    | with_reducible apply keeps_startDone
    | intro _

theorem keeps_execGroupLaunch (seat) (s : State) : ∃ t, execGroupLaunch seat s = .next t ∧ Keeps s t := by
  unfold execGroupLaunch
  try dsimp only
  repeat' first | with_reducible refine ⟨_, rfl, ?_⟩ | split
  all_goals repeat' first
    | with_reducible apply Keeps.refl
    | with_reducible assumption
    | with_reducible apply keeps_dispatch
    | with_reducible apply keeps_launch
    | with_reducible apply keeps_addRun
    | with_reducible apply keeps_startDone
    | split
    | intro _

theorem keeps_endOf {s₀} {s : State} (n) (r) (hk : Keeps s₀ s) : Keeps s₀ (State.endOf s n r) := by
  refine hk.trans ?_
  clear hk
  unfold State.endOf
  try dsimp only
  repeat' first
    | with_reducible apply Keeps.refl
    | simp only [↓keeps_upd]
    | with_reducible apply Keeps.ite
    | with_reducible apply Keeps.ite_snd
    | with_reducible apply Keeps.ite_snd_snd
    | with_reducible apply Keeps.ite_snd_fst
    | with_reducible apply keeps_modSeat
    | with_reducible apply keeps_status
    | with_reducible apply keeps_raise
    | with_reducible apply keeps_collCount
    | with_reducible apply keeps_complete
    | with_reducible apply keeps_sideStep
    | with_reducible apply keeps_pumpReads

theorem keeps_lastWork {s₀} {s : State} (n) (r) (hk : Keeps s₀ s) : Keeps s₀ (State.lastWork s n r) := by
  refine hk.trans ?_
  clear hk
  unfold State.lastWork
  try dsimp only
  repeat' first
    | with_reducible apply Keeps.refl
    | with_reducible apply Keeps.ite
    | with_reducible apply Keeps.ite_snd
    | with_reducible apply Keeps.ite_snd_snd
    | with_reducible apply Keeps.ite_snd_fst
    | with_reducible apply keeps_releaseDo
    | with_reducible apply keeps_cvSettle
    | with_reducible apply keeps_putPump
    | split

theorem keeps_descriptorComplete {s₀} {s : State} (n) (idx) (hk : Keeps s₀ s) : Keeps s₀ (State.descriptorComplete s n idx) := by
  refine hk.trans ?_
  clear hk
  unfold State.descriptorComplete
  try dsimp only
  repeat' first
    | with_reducible apply Keeps.refl
    | with_reducible apply Keeps.ite
    | with_reducible apply Keeps.ite_snd
    | with_reducible apply Keeps.ite_snd_snd
    | with_reducible apply Keeps.ite_snd_fst
    | with_reducible apply keeps_lastWork
    | with_reducible apply keeps_endOf
    | split

theorem keeps_execDescriptorComplete (seat) (index) (s : State) : ∃ t, execDescriptorComplete seat index s = .next t ∧ Keeps s t := by
  unfold execDescriptorComplete
  try dsimp only
  repeat' first | with_reducible refine ⟨_, rfl, ?_⟩ | split
  all_goals repeat' first
    | with_reducible apply Keeps.refl
    | with_reducible apply keeps_descriptorComplete

end Sys2Proof.Machine
end

