-- ==== Sys2Proof/Laws/KeepsNet.lean ====
section
/-! SUPPORT. Every operation of links, fabric, schedule, recorder, seats and store leaves the queue, the identity
of the part and the canonical form of the memories as `Keeps` says. -/

set_option Elab.async false

namespace Sys2Proof.Machine

/-! Machine/Links.lean. -/

theorem keeps_enterHoldover {s₀} {s : State} (hk : Keeps s₀ s) : Keeps s₀ (State.enterHoldover s) := by
  refine hk.trans ?_
  clear hk
  unfold State.enterHoldover
  try dsimp only
  repeat' first
    | with_reducible apply Keeps.refl
    | simp only [↓keeps_upd]

theorem keeps_takeParent {s₀} {s : State} (c) (hk : Keeps s₀ s) : Keeps s₀ (State.takeParent s c) := by
  refine hk.trans ?_
  clear hk
  unfold State.takeParent
  try dsimp only
  repeat' first
    | with_reducible apply Keeps.refl
    | simp only [↓keeps_upd]

theorem keeps_choose {s₀} {s : State} (hk : Keeps s₀ s) : Keeps s₀ (State.choose s) := by
  refine hk.trans ?_
  clear hk
  unfold State.choose
  try dsimp only
  repeat' first
    | with_reducible apply Keeps.refl
    | with_reducible apply keeps_takeParent
    | split

theorem keeps_reparent {s₀} {s : State} (hk : Keeps s₀ s) : Keeps s₀ (State.reparent s) := by
  refine hk.trans ?_
  clear hk
  unfold State.reparent
  try dsimp only
  repeat' first
    | with_reducible apply Keeps.refl
    | simp only [↓keeps_upd]
    | with_reducible apply Keeps.ite
    | with_reducible apply Keeps.ite_snd
    | with_reducible apply Keeps.ite_snd_snd
    | with_reducible apply Keeps.ite_snd_fst
    | with_reducible apply keeps_raise
    | with_reducible apply keeps_choose
    | with_reducible apply keeps_takeParent
    | with_reducible apply keeps_enterHoldover
    | split

theorem keeps_heard {s₀} {s : State} (n) (source) (hops) (locked) (hk : Keeps s₀ s) : Keeps s₀ (State.heard s n source hops locked) := by
  refine hk.trans ?_
  clear hk
  unfold State.heard
  try dsimp only
  repeat' first
    | with_reducible apply Keeps.refl
    | simp only [↓keeps_upd]
    | with_reducible apply Keeps.ite
    | with_reducible apply Keeps.ite_snd
    | with_reducible apply Keeps.ite_snd_snd
    | with_reducible apply Keeps.ite_snd_fst
    | with_reducible apply keeps_modPort
    | with_reducible apply keeps_reparent

theorem keeps_setLocked {s₀} {s : State} (hk : Keeps s₀ s) : Keeps s₀ (State.setLocked s) := by
  refine hk.trans ?_
  clear hk
  unfold State.setLocked
  try dsimp only
  repeat' first
    | with_reducible apply Keeps.refl
    | simp only [↓keeps_upd]

theorem keeps_execLocked (s : State) : ∃ t, execLocked s = .next t ∧ Keeps s t := by
  unfold execLocked
  try dsimp only
  repeat' first | with_reducible refine ⟨_, rfl, ?_⟩ | split
  all_goals repeat' first
    | with_reducible apply Keeps.refl
    | with_reducible apply keeps_setLocked

theorem keeps_execHoldoverTimeout (s : State) : ∃ t, execHoldoverTimeout s = .next t ∧ Keeps s t := by
  unfold execHoldoverTimeout
  try dsimp only
  repeat' first | with_reducible refine ⟨_, rfl, ?_⟩ | split
  all_goals repeat' first
    | with_reducible apply Keeps.refl
    | with_reducible assumption
    | simp only [↓keeps_upd]
    | with_reducible apply keeps_reachUp
    | with_reducible apply keeps_raise

theorem keeps_execTrefLock (s : State) : ∃ t, execTrefLock s = .next t ∧ Keeps s t := by
  unfold execTrefLock
  try dsimp only
  repeat' first | with_reducible refine ⟨_, rfl, ?_⟩ | split
  all_goals repeat' first
    | with_reducible apply Keeps.refl
    | simp only [↓keeps_upd]
    | with_reducible apply keeps_setLocked

theorem keeps_execTrefPpsEdge (s : State) : ∃ t, execTrefPpsEdge s = .next t ∧ Keeps s t := by
  unfold execTrefPpsEdge
  try dsimp only
  repeat' first | with_reducible refine ⟨_, rfl, ?_⟩ | split
  all_goals repeat' first
    | with_reducible apply Keeps.refl
    | with_reducible apply keeps_setRegN

theorem keeps_execTrefLost (s : State) : ∃ t, execTrefLost s = .next t ∧ Keeps s t := by
  unfold execTrefLost
  try dsimp only
  repeat' first | with_reducible refine ⟨_, rfl, ?_⟩ | split
  all_goals repeat' first
    | with_reducible apply Keeps.refl
    | simp only [↓keeps_upd]
    | with_reducible apply keeps_raise
    | with_reducible apply keeps_enterHoldover

theorem keeps_tbCtrlSet {s₀} {s : State} (v) (hk : Keeps s₀ s) : Keeps s₀ (State.tbCtrlSet s v) := by
  refine hk.trans ?_
  clear hk
  unfold State.tbCtrlSet
  try dsimp only
  repeat' first
    | with_reducible apply Keeps.refl
    | simp only [↓keeps_upd]
    | with_reducible apply Keeps.ite
    | with_reducible apply keeps_setReg
    | with_reducible apply keeps_setLocked
    | with_reducible apply keeps_reparent

theorem keeps_train {s₀} {s : State} (n) (hk : Keeps s₀ s) : Keeps s₀ (State.train s n) := by
  refine hk.trans ?_
  clear hk
  unfold State.train
  try dsimp only
  repeat' first
    | with_reducible apply Keeps.refl
    | simp only [↓keeps_upd]
    | with_reducible apply Keeps.ite
    | with_reducible apply Keeps.ite_snd
    | with_reducible apply Keeps.ite_snd_snd
    | with_reducible apply Keeps.ite_snd_fst
    | with_reducible apply keeps_modPort
    | with_reducible apply keeps_reparent

theorem keeps_retryLater {s₀} {s : State} (n) (st) (hk : Keeps s₀ s) : Keeps s₀ (State.retryLater s n st) := by
  refine hk.trans ?_
  clear hk
  unfold State.retryLater
  try dsimp only
  repeat' first
    | with_reducible apply Keeps.refl
    | with_reducible apply keeps_modPort

theorem keeps_execPortTrainingStart (port) (s : State) : ∃ t, execPortTrainingStart port s = .next t ∧ Keeps s t := by
  unfold execPortTrainingStart
  try dsimp only
  repeat' first | with_reducible refine ⟨_, rfl, ?_⟩ | split
  all_goals repeat' first
    | with_reducible apply Keeps.refl
    | with_reducible apply keeps_train
    | with_reducible apply keeps_reachUp

theorem keeps_execLinkTrained (port) (s : State) : ∃ t, execLinkTrained port s = .next t ∧ Keeps s t := by
  unfold execLinkTrained
  try dsimp only
  repeat' first | with_reducible refine ⟨_, rfl, ?_⟩ | split
  all_goals repeat' first
    | with_reducible apply Keeps.refl
    | with_reducible assumption
    | simp only [↓keeps_upd]
    | with_reducible apply Keeps.ite
    | with_reducible apply Keeps.ite_snd
    | with_reducible apply Keeps.ite_snd_snd
    | with_reducible apply Keeps.ite_snd_fst
    | with_reducible apply keeps_modPort

theorem keeps_keyFail {s₀} {s : State} (n) (hk : Keeps s₀ s) : Keeps s₀ (State.keyFail s n) := by
  refine hk.trans ?_
  clear hk
  unfold State.keyFail
  try dsimp only
  repeat' first
    | with_reducible apply Keeps.refl
    | with_reducible apply keeps_retryLater
    | with_reducible apply keeps_raise

theorem keeps_execIdentReceived (port) (ident) (s : State) : ∃ t, execIdentReceived port ident s = .next t ∧ Keeps s t := by
  unfold execIdentReceived
  try dsimp only
  repeat' first | with_reducible refine ⟨_, rfl, ?_⟩ | split
  all_goals repeat' first
    | with_reducible apply Keeps.refl
    | with_reducible assumption
    | simp only [↓keeps_upd]
    | with_reducible apply Keeps.ite
    | with_reducible apply Keeps.ite_snd
    | with_reducible apply Keeps.ite_snd_snd
    | with_reducible apply Keeps.ite_snd_fst
    | with_reducible apply keeps_modPort
    | with_reducible apply keeps_keyFail
    | with_reducible apply keeps_raise

theorem keeps_execKeyShareReceived (port) (chain) (share) (s : State) : ∃ t, execKeyShareReceived port chain share s = .next t ∧ Keeps s t := by
  unfold execKeyShareReceived
  try dsimp only
  repeat' first | with_reducible refine ⟨_, rfl, ?_⟩ | split
  all_goals repeat' first
    | with_reducible apply Keeps.refl
    | with_reducible assumption
    | simp only [↓keeps_upd]
    | with_reducible apply Keeps.ite
    | with_reducible apply Keeps.ite_snd
    | with_reducible apply Keeps.ite_snd_snd
    | with_reducible apply Keeps.ite_snd_fst
    | with_reducible apply keeps_modPort
    | with_reducible apply keeps_keyFail

theorem keeps_execTrainingTimeout (port) (s : State) : ∃ t, execTrainingTimeout port s = .next t ∧ Keeps s t := by
  unfold execTrainingTimeout
  try dsimp only
  repeat' first | with_reducible refine ⟨_, rfl, ?_⟩ | split
  all_goals repeat' first
    | with_reducible apply Keeps.refl
    | with_reducible apply keeps_retryLater
    | with_reducible apply keeps_reachUp

theorem keeps_execTrainingRetry (port) (s : State) : ∃ t, execTrainingRetry port s = .next t ∧ Keeps s t := by
  unfold execTrainingRetry
  try dsimp only
  repeat' first | with_reducible refine ⟨_, rfl, ?_⟩ | split
  all_goals repeat' first
    | with_reducible apply Keeps.refl
    | with_reducible apply keeps_train
    | with_reducible apply keeps_reachUp

theorem keeps_execMiswiredRetrain (port) (s : State) : ∃ t, execMiswiredRetrain port s = .next t ∧ Keeps s t := by
  unfold execMiswiredRetrain
  try dsimp only
  repeat' first | with_reducible refine ⟨_, rfl, ?_⟩ | split
  all_goals repeat' first
    | with_reducible apply Keeps.refl
    | with_reducible apply keeps_train
    | with_reducible apply keeps_reachUp

theorem keeps_execPortUp (port) (s : State) : ∃ t, execPortUp port s = .next t ∧ Keeps s t := by
  unfold execPortUp
  try dsimp only
  repeat' first | with_reducible refine ⟨_, rfl, ?_⟩ | split
  all_goals repeat' first
    | with_reducible apply Keeps.refl
    | with_reducible apply keeps_modPort

theorem keeps_goDown {s₀} {s : State} (n) (hk : Keeps s₀ s) : Keeps s₀ (State.goDown s n) := by
  refine hk.trans ?_
  clear hk
  unfold State.goDown
  try dsimp only
  repeat' first
    | with_reducible apply Keeps.refl
    | simp only [↓keeps_upd]
    | with_reducible apply Keeps.ite
    | with_reducible apply Keeps.ite_snd
    | with_reducible apply Keeps.ite_snd_snd
    | with_reducible apply Keeps.ite_snd_fst
    | with_reducible apply Keeps.fold
    | with_reducible apply Keeps.fold_snd
    | with_reducible apply Keeps.fold_snd_snd
    | with_reducible apply keeps_freeCell
    | with_reducible apply keeps_post
    | with_reducible apply keeps_setDue
    | with_reducible apply keeps_raise
    | with_reducible apply keeps_modPort
    | with_reducible apply keeps_reparent
    | split
    | intro _

theorem keeps_idlePorts {s₀} {s : State} (hk : Keeps s₀ s) : Keeps s₀ (State.idlePorts s) := by
  refine hk.trans ?_
  clear hk
  unfold State.idlePorts
  try dsimp only
  repeat' first
    | with_reducible apply Keeps.refl
    | simp only [↓keeps_upd]
    | with_reducible apply Keeps.ite
    | with_reducible apply Keeps.ite_snd
    | with_reducible apply Keeps.ite_snd_snd
    | with_reducible apply Keeps.ite_snd_fst
    | with_reducible apply Keeps.fold
    | with_reducible apply Keeps.fold_snd
    | with_reducible apply Keeps.fold_snd_snd
    | with_reducible apply keeps_modPort
    | with_reducible apply keeps_goDown
    | split
    | intro _

theorem keeps_execLossOfSignal (port) (lane) (s : State) : ∃ t, execLossOfSignal port lane s = .next t ∧ Keeps s t := by
  unfold execLossOfSignal
  try dsimp only
  repeat' first | with_reducible refine ⟨_, rfl, ?_⟩ | split
  all_goals repeat' first
    | with_reducible apply Keeps.refl
    | with_reducible apply keeps_goDown

theorem keeps_execPortDown (port) (s : State) : ∃ t, execPortDown port s = .next t ∧ Keeps s t := by
  unfold execPortDown
  try dsimp only
  repeat' first | with_reducible refine ⟨_, rfl, ?_⟩ | split
  all_goals repeat' first
    | with_reducible apply Keeps.refl
    | with_reducible apply keeps_goDown

theorem keeps_execFecUncorrectable (port) (word) (s : State) : ∃ t, execFecUncorrectable port word s = .next t ∧ Keeps s t := by
  unfold execFecUncorrectable
  try dsimp only
  repeat' first | with_reducible refine ⟨_, rfl, ?_⟩ | split
  all_goals repeat' first
    | with_reducible apply Keeps.refl
    | with_reducible assumption
    | simp only [↓keeps_upd]
    | with_reducible apply Keeps.ite
    | with_reducible apply Keeps.ite_snd
    | with_reducible apply Keeps.ite_snd_snd
    | with_reducible apply Keeps.ite_snd_fst
    | with_reducible apply keeps_count
    | with_reducible apply keeps_raise
    | with_reducible apply keeps_modPort
    | with_reducible apply keeps_goDown

theorem keeps_fbCtrlSet {s₀} {s : State} (n) (v) (hk : Keeps s₀ s) : Keeps s₀ (State.fbCtrlSet s n v) := by
  refine hk.trans ?_
  clear hk
  unfold State.fbCtrlSet
  try dsimp only
  repeat' first
    | with_reducible apply Keeps.refl
    | with_reducible apply Keeps.ite
    | with_reducible apply keeps_setReg
    | with_reducible apply keeps_goDown
    | with_reducible apply keeps_modPort
    | with_reducible apply keeps_reparent

theorem keeps_execTimeReqReceived (port) (group) (t2) (s : State) : ∃ t, execTimeReqReceived port group t2 s = .next t ∧ Keeps s t := by
  unfold execTimeReqReceived
  try dsimp only
  repeat' first | with_reducible refine ⟨_, rfl, ?_⟩ | split
  all_goals repeat' first
    | with_reducible apply Keeps.refl
    | with_reducible assumption
    | simp only [↓keeps_upd]
    | with_reducible apply Keeps.ite
    | with_reducible apply Keeps.ite_snd
    | with_reducible apply Keeps.ite_snd_snd
    | with_reducible apply Keeps.ite_snd_fst
    | with_reducible apply keeps_modPort

theorem keeps_discipline {s₀} {s : State} (o2) (hk : Keeps s₀ s) : Keeps s₀ (State.discipline s o2) := by
  refine hk.trans ?_
  clear hk
  unfold State.discipline
  try dsimp only
  repeat' first
    | with_reducible apply Keeps.refl
    | simp only [↓keeps_upd]
    | with_reducible apply Keeps.ite

theorem keeps_execTimeReplyReceived (port) (t1) (t2) (t3) (t4) (s : State) : ∃ t, execTimeReplyReceived port t1 t2 t3 t4 s = .next t ∧ Keeps s t := by
  unfold execTimeReplyReceived
  try dsimp only
  repeat' first | with_reducible refine ⟨_, rfl, ?_⟩ | split
  all_goals repeat' first
    | with_reducible apply Keeps.refl
    | with_reducible assumption
    | simp only [↓keeps_upd]
    | with_reducible apply Keeps.ite
    | with_reducible apply Keeps.ite_snd
    | with_reducible apply Keeps.ite_snd_snd
    | with_reducible apply Keeps.ite_snd_fst
    | with_reducible apply keeps_setReg
    | with_reducible apply keeps_modPort
    | with_reducible apply keeps_discipline

theorem keeps_timeSnap {s₀} {s : State} (value) (hk : Keeps s₀ s) : Keeps s₀ (State.timeSnap s value) := by
  refine hk.trans ?_
  clear hk
  unfold State.timeSnap
  try dsimp only
  repeat' first
    | with_reducible apply Keeps.refl
    | with_reducible apply Keeps.ite
    | with_reducible apply keeps_setRegN

theorem keeps_execTimeSnap (value) (s : State) : ∃ t, execTimeSnap value s = .next t ∧ Keeps s t := by
  unfold execTimeSnap
  try dsimp only
  repeat' first | with_reducible refine ⟨_, rfl, ?_⟩ | split
  all_goals repeat' first
    | with_reducible apply Keeps.refl
    | with_reducible apply keeps_timeSnap

/-! Machine/Recorder.lean. -/

theorem keeps_recRefused {s₀} {s : State} (hk : Keeps s₀ s) : Keeps s₀ (State.recRefused s) := by
  refine hk.trans ?_
  clear hk
  unfold State.recRefused
  try dsimp only
  repeat' first
    | with_reducible apply Keeps.refl
    | with_reducible apply keeps_raise

theorem keeps_recBegin {s₀} {s : State} (hk : Keeps s₀ s) : Keeps s₀ (State.recBegin s) := by
  refine hk.trans ?_
  clear hk
  unfold State.recBegin
  try dsimp only
  repeat' first
    | with_reducible apply Keeps.refl
    | simp only [↓keeps_upd]
    | with_reducible apply Keeps.ite
    | with_reducible apply keeps_absentAccess
    | with_reducible apply keeps_recRefused
    | with_reducible apply keeps_raise

theorem keeps_recEnd {s₀} {s : State} (hk : Keeps s₀ s) : Keeps s₀ (State.recEnd s) := by
  refine hk.trans ?_
  clear hk
  unfold State.recEnd
  try dsimp only
  repeat' first
    | with_reducible apply Keeps.refl
    | simp only [↓keeps_upd]
    | with_reducible apply Keeps.ite
    | with_reducible apply keeps_absentAccess

theorem keeps_execRecBegin (s : State) : ∃ t, execRecBegin s = .next t ∧ Keeps s t := by
  unfold execRecBegin
  try dsimp only
  repeat' first | with_reducible refine ⟨_, rfl, ?_⟩ | split
  all_goals repeat' first
    | with_reducible apply Keeps.refl
    | with_reducible apply keeps_recBegin

theorem keeps_execRecEnd (s : State) : ∃ t, execRecEnd s = .next t ∧ Keeps s t := by
  unfold execRecEnd
  try dsimp only
  repeat' first | with_reducible refine ⟨_, rfl, ?_⟩ | split
  all_goals repeat' first
    | with_reducible apply Keeps.refl
    | with_reducible apply keeps_recEnd

theorem keeps_stepEnd {s₀} {s : State} (hk : Keeps s₀ s) : Keeps s₀ (State.stepEnd s) := by
  refine hk.trans ?_
  clear hk
  unfold State.stepEnd
  try dsimp only
  repeat' first
    | with_reducible apply Keeps.refl
    | simp only [↓keeps_upd]
    | with_reducible apply Keeps.ite
    | with_reducible apply keeps_ringPut
    | with_reducible apply keeps_setReg
    | with_reducible apply keeps_indexEntry
    | with_reducible apply keeps_bumpObj
    | split

theorem keeps_stepEnds {s₀} {s : State} (hk : Keeps s₀ s) : Keeps s₀ (State.stepEnds s) := by
  refine hk.trans ?_
  clear hk
  unfold State.stepEnds
  try dsimp only
  repeat' first
    | with_reducible apply Keeps.refl
    | with_reducible apply Keeps.fold
    | with_reducible apply Keeps.fold_snd
    | with_reducible apply Keeps.fold_snd_snd
    | with_reducible apply keeps_stepEnd
    | intro _

theorem keeps_closeStep {s₀} {s : State} (hk : Keeps s₀ s) : Keeps s₀ (State.closeStep s) := by
  refine hk.trans ?_
  clear hk
  unfold State.closeStep
  try dsimp only
  repeat' first
    | with_reducible apply Keeps.refl
    | simp only [↓keeps_upd]
    | with_reducible apply Keeps.ite
    | with_reducible apply Keeps.ite_snd
    | with_reducible apply Keeps.ite_snd_snd
    | with_reducible apply Keeps.ite_snd_fst
    | with_reducible apply keeps_count
    | with_reducible apply keeps_stepEnds
    | split

theorem keeps_ringGet {s₀} {s : State} (base) (size) (a1) (a2) (hk : Keeps s₀ s) : Keeps s₀ (State.ringGet s base size a1 a2).2 := by
  refine hk.trans ?_
  clear hk
  fun_induction State.ringGet s base size a1 a2 <;> try dsimp only
  all_goals repeat' first
    | with_reducible apply Keeps.refl
    | with_reducible apply keeps_csRead
    | (with_reducible apply Keeps.trans; on_goal 2 => with_reducible assumption)

theorem keeps_nextRecord {s₀} {s : State} (hk : Keeps s₀ s) : Keeps s₀ (State.nextRecord s).2 := by
  refine hk.trans ?_
  clear hk
  unfold State.nextRecord
  try dsimp only
  repeat' first
    | with_reducible apply Keeps.refl
    | with_reducible apply Keeps.ite_snd
    | with_reducible apply keeps_ringGet

theorem keeps_eatRecord {s₀} {s : State} (bs) (hk : Keeps s₀ s) : Keeps s₀ (State.eatRecord s bs) := by
  refine hk.trans ?_
  clear hk
  unfold State.eatRecord
  try dsimp only
  repeat' first
    | with_reducible apply Keeps.refl
    | with_reducible apply keeps_setReg

theorem keeps_badRecord {s₀} {s : State} (hk : Keeps s₀ s) : Keeps s₀ (State.badRecord s) := by
  refine hk.trans ?_
  clear hk
  unfold State.badRecord
  try dsimp only
  repeat' first
    | with_reducible apply Keeps.refl
    | simp only [↓keeps_upd]
    | with_reducible apply keeps_raise

theorem keeps_openStepAt {s₀} {s : State} (n) (step) (hk : Keeps s₀ s) : Keeps s₀ (State.openStepAt s n step) := by
  refine hk.trans ?_
  clear hk
  unfold State.openStepAt
  try dsimp only
  repeat' first
    | with_reducible apply Keeps.refl
    | simp only [↓keeps_upd]
    | with_reducible apply Keeps.ite
    | with_reducible apply keeps_nextRecord
    | with_reducible apply keeps_eatRecord
    | with_reducible apply keeps_badRecord
    | with_reducible apply keeps_recWrite
    | split

theorem keeps_recBoundary {s₀} {s : State} (n) (hk : Keeps s₀ s) : Keeps s₀ (State.recBoundary s n) := by
  refine hk.trans ?_
  clear hk
  unfold State.recBoundary
  try dsimp only
  repeat' first
    | with_reducible apply Keeps.refl
    | with_reducible apply Keeps.ite
    | with_reducible apply keeps_closeStep
    | with_reducible apply keeps_openStepAt
    | split

theorem keeps_execRecorderStepEnd (s : State) : ∃ t, execRecorderStepEnd s = .next t ∧ Keeps s t := by
  unfold execRecorderStepEnd
  try dsimp only
  repeat' first | with_reducible refine ⟨_, rfl, ?_⟩ | split
  all_goals repeat' first
    | with_reducible apply Keeps.refl
    | with_reducible apply keeps_stepEnd

theorem keeps_detCtrlSet {s₀} {s : State} (v) (hk : Keeps s₀ s) : Keeps s₀ (State.detCtrlSet s v) := by
  refine hk.trans ?_
  clear hk
  unfold State.detCtrlSet
  try dsimp only
  repeat' first
    | with_reducible apply Keeps.refl
    | with_reducible apply Keeps.ite
    | with_reducible apply keeps_setReg
    | with_reducible apply keeps_setObj
    | with_reducible apply keeps_raise

/-! Machine/Fabric.lean. -/

theorem keeps_missWatch {s₀} {s : State} (p) (hk : Keeps s₀ s) : Keeps s₀ (State.missWatch s p) := by
  refine hk.trans ?_
  clear hk
  unfold State.missWatch
  try dsimp only
  repeat' first
    | with_reducible apply Keeps.refl
    | with_reducible apply Keeps.ite
    | with_reducible apply Keeps.fold
    | with_reducible apply keeps_logFault
    | with_reducible apply keeps_modPort
    | with_reducible apply keeps_originate
    | intro _

theorem keeps_execTurnMissWatchdog (port) (s : State) : ∃ t, execTurnMissWatchdog port s = .next t ∧ Keeps s t := by
  unfold execTurnMissWatchdog
  try dsimp only
  repeat' first | with_reducible refine ⟨_, rfl, ?_⟩ | split
  all_goals repeat' first
    | with_reducible apply Keeps.refl
    | with_reducible apply keeps_missWatch

theorem keeps_countMiss {s₀} {s : State} (p) (turn) (hk : Keeps s₀ s) : Keeps s₀ (State.countMiss s p turn) := by
  refine hk.trans ?_
  clear hk
  unfold State.countMiss
  try dsimp only
  repeat' first
    | with_reducible apply Keeps.refl
    | with_reducible apply Keeps.ite
    | with_reducible apply keeps_raise
    | with_reducible apply keeps_count
    | with_reducible apply keeps_modPort

theorem keeps_loseSide {s₀} {s : State} (p) (body) (hk : Keeps s₀ s) : Keeps s₀ (State.loseSide s p body) := by
  refine hk.trans ?_
  clear hk
  unfold State.loseSide
  try dsimp only
  repeat' first
    | with_reducible apply Keeps.refl
    | simp only [↓keeps_upd]
    | with_reducible apply keeps_modColl
    | split

theorem keeps_loseCells {s₀} {s : State} (p) (r) (hk : Keeps s₀ s) : Keeps s₀ (State.loseCells s p r) := by
  refine hk.trans ?_
  clear hk
  unfold State.loseCells
  try dsimp only
  repeat' first
    | with_reducible apply Keeps.refl
    | with_reducible apply Keeps.ite
    | with_reducible apply Keeps.ite_snd
    | with_reducible apply Keeps.ite_snd_snd
    | with_reducible apply Keeps.ite_snd_fst
    | with_reducible apply Keeps.fold
    | with_reducible apply Keeps.fold_snd
    | with_reducible apply Keeps.fold_snd_snd
    | with_reducible apply keeps_loseCell
    | with_reducible apply keeps_loseSide
    | split
    | intro _

theorem keeps_recordCells {s₀} {s : State} (p) (g) (r) (hk : Keeps s₀ s) : Keeps s₀ (State.recordCells s p g r) := by
  refine hk.trans ?_
  clear hk
  unfold State.recordCells
  try dsimp only
  repeat' first
    | with_reducible apply Keeps.refl
    | with_reducible apply Keeps.ite
    | with_reducible apply Keeps.ite_snd
    | with_reducible apply Keeps.ite_snd_snd
    | with_reducible apply Keeps.ite_snd_fst
    | with_reducible apply Keeps.fold
    | with_reducible apply Keeps.fold_snd
    | with_reducible apply Keeps.fold_snd_snd
    | with_reducible apply keeps_record
    | split
    | intro _

theorem keeps_partCells {s₀} {s : State} (hk : Keeps s₀ s) : Keeps s₀ (State.partCells s) := by
  refine hk.trans ?_
  clear hk
  unfold State.partCells
  try dsimp only
  repeat' first
    | with_reducible apply Keeps.refl
    | simp only [↓keeps_upd]
    | with_reducible apply Keeps.ite
    | with_reducible apply Keeps.ite_snd
    | with_reducible apply Keeps.ite_snd_snd
    | with_reducible apply Keeps.ite_snd_fst
    | with_reducible apply Keeps.fold
    | with_reducible apply Keeps.fold_snd
    | with_reducible apply Keeps.fold_snd_snd
    | with_reducible apply keeps_recordCells
    | with_reducible apply keeps_modPort
    | split
    | intro _

theorem keeps_confirmTurn {s₀} {s : State} (p) (g) (r) (hk : Keeps s₀ s) : Keeps s₀ (State.confirmTurn s p g r) := by
  refine hk.trans ?_
  clear hk
  unfold State.confirmTurn
  try dsimp only
  repeat' first
    | with_reducible apply Keeps.refl
    | simp only [↓keeps_upd]
    | with_reducible apply Keeps.ite
    | with_reducible apply Keeps.ite_snd
    | with_reducible apply Keeps.ite_snd_snd
    | with_reducible apply Keeps.ite_snd_fst
    | with_reducible apply keeps_modPort
    | with_reducible apply keeps_recordCells
    | with_reducible apply keeps_closeTransfers
    | split

theorem keeps_judgeTurn {s₀} {s : State} (p) (g) (r) (m) (hk : Keeps s₀ s) : Keeps s₀ (State.judgeTurn s p g r m) := by
  refine hk.trans ?_
  clear hk
  unfold State.judgeTurn
  try dsimp only
  repeat' first
    | with_reducible apply Keeps.refl
    | with_reducible apply Keeps.ite
    | with_reducible apply Keeps.ite_snd
    | with_reducible apply Keeps.ite_snd_snd
    | with_reducible apply Keeps.ite_snd_fst
    | with_reducible apply keeps_confirmTurn
    | with_reducible apply keeps_countMiss
    | with_reducible apply keeps_loseCells

theorem keeps_markReceived {s₀} {s : State} (p) (g) (m) (corrected) (hk : Keeps s₀ s) : Keeps s₀ (State.markReceived s p g m corrected) := by
  refine hk.trans ?_
  clear hk
  unfold State.markReceived
  try dsimp only
  repeat' first
    | with_reducible apply Keeps.refl
    | simp only [↓keeps_upd]
    | with_reducible apply Keeps.ite
    | with_reducible apply Keeps.ite_snd
    | with_reducible apply Keeps.ite_snd_snd
    | with_reducible apply Keeps.ite_snd_fst
    | with_reducible apply keeps_count
    | with_reducible apply keeps_judgeTurn
    | with_reducible apply keeps_raise
    | with_reducible apply keeps_countMiss
    | with_reducible apply keeps_modPort
    | with_reducible apply keeps_heard
    | split

theorem keeps_execMarkReceived (port) (group) (mark) (s : State) : ∃ t, execMarkReceived port group mark s = .next t ∧ Keeps s t := by
  unfold execMarkReceived
  try dsimp only
  repeat' first | with_reducible refine ⟨_, rfl, ?_⟩ | split
  all_goals repeat' first
    | with_reducible apply Keeps.refl
    | with_reducible assumption
    | with_reducible apply keeps_markReceived

theorem keeps_execTurnMiss (port) (group) (s : State) : ∃ t, execTurnMiss port group s = .next t ∧ Keeps s t := by
  unfold execTurnMiss
  try dsimp only
  repeat' first | with_reducible refine ⟨_, rfl, ?_⟩ | split
  all_goals repeat' first
    | with_reducible apply Keeps.refl
    | with_reducible assumption
    | simp only [↓keeps_upd]
    | with_reducible apply Keeps.ite
    | with_reducible apply Keeps.ite_snd
    | with_reducible apply Keeps.ite_snd_snd
    | with_reducible apply Keeps.ite_snd_fst
    | with_reducible apply keeps_modPort
    | with_reducible apply keeps_countMiss

theorem keeps_rxAccept {s₀} {s t : State} {loc kind tkind body r} (h : s.rxAccept loc kind tkind body = some (r, t))
    (hk : Keeps s₀ s) : Keeps s₀ t := by
  unfold State.rxAccept at h
  dsimp only at h
  split at h
  · simp at h
  · split at h
    · obtain ⟨-, rfl⟩ := Prod.mk.inj (Option.some.inj h)
      exact keeps_modPort _ _ hk
    · simp at h

theorem keeps_execSchedCellReceived (loc) (body) (s : State) : ∃ t, execSchedCellReceived loc body s = .next t ∧ Keeps s t := by
  unfold execSchedCellReceived
  try dsimp only
  repeat' first | with_reducible refine ⟨_, rfl, ?_⟩ | split
  all_goals repeat' first
    | with_reducible apply Keeps.refl
    | with_reducible refine keeps_rxAccept ‹_› ?_
    | with_reducible apply keeps_schedCell

theorem keeps_ackOpen {s₀} {s : State} (body) (hk : Keeps s₀ s) : Keeps s₀ (State.ackOpen s body) := by
  refine hk.trans ?_
  clear hk
  unfold State.ackOpen
  try dsimp only
  repeat' first
    | with_reducible apply Keeps.refl
    | with_reducible apply keeps_sendCtrl

theorem keeps_refuseOpen {s₀} {s : State} (body) (cause) (hk : Keeps s₀ s) : Keeps s₀ (State.refuseOpen s body cause) := by
  refine hk.trans ?_
  clear hk
  unfold State.refuseOpen
  try dsimp only
  repeat' first
    | with_reducible apply Keeps.refl
    | with_reducible apply keeps_sendCtrl

theorem keeps_noteRefusal {s₀} {s : State} (body) (more) (hk : Keeps s₀ s) : Keeps s₀ (State.noteRefusal s body more) := by
  refine hk.trans ?_
  clear hk
  unfold State.noteRefusal
  try dsimp only
  repeat' first
    | with_reducible apply Keeps.refl
    | simp only [↓keeps_upd]

theorem keeps_endRefused {s₀} {s : State} (body) (hk : Keeps s₀ s) : Keeps s₀ (State.endRefused s body) := by
  refine hk.trans ?_
  clear hk
  unfold State.endRefused
  try dsimp only
  repeat' first
    | with_reducible apply Keeps.refl
    | simp only [↓keeps_upd]

theorem keeps_applyPut {s₀} {s : State} (body) (hk : Keeps s₀ s) : Keeps s₀ (State.applyPut s body) := by
  refine hk.trans ?_
  clear hk
  unfold State.applyPut
  try dsimp only
  repeat' first
    | with_reducible apply Keeps.refl
    | with_reducible apply Keeps.ite
    | with_reducible apply keeps_endRefused
    | with_reducible apply keeps_noteRefusal
    | with_reducible apply keeps_refuseOpen
    | with_reducible apply keeps_csWrite
    | with_reducible apply keeps_ackOpen
    | split

theorem keeps_applyAdd {s₀} {s : State} (body) (hk : Keeps s₀ s) : Keeps s₀ (State.applyAdd s body) := by
  refine hk.trans ?_
  clear hk
  unfold State.applyAdd
  try dsimp only
  repeat' first
    | with_reducible apply Keeps.refl
    | with_reducible apply Keeps.ite
    | with_reducible apply Keeps.ite_snd
    | with_reducible apply Keeps.ite_snd_snd
    | with_reducible apply Keeps.ite_snd_fst
    | with_reducible apply keeps_draw
    | with_reducible apply keeps_refuseOpen
    | with_reducible apply keeps_noteRefusal
    | with_reducible apply keeps_setTumbler
    | with_reducible apply keeps_ackOpen
    | split

theorem keeps_takeOpen {s₀} {s : State} (p) (okind) (body) (hk : Keeps s₀ s) : Keeps s₀ (State.takeOpen s p okind body) := by
  refine hk.trans ?_
  clear hk
  unfold State.takeOpen
  try dsimp only
  repeat' first
    | with_reducible apply Keeps.refl
    | with_reducible apply Keeps.ite
    | with_reducible apply Keeps.ite_snd
    | with_reducible apply Keeps.ite_snd_snd
    | with_reducible apply Keeps.ite_snd_fst
    | with_reducible apply keeps_freeCell
    | with_reducible apply keeps_sendOpen
    | with_reducible apply keeps_applyPut
    | with_reducible apply keeps_applyAdd

theorem keeps_openReceived {s₀} {s : State} (loc) (okind) (body) (hk : Keeps s₀ s) : Keeps s₀ (State.openReceived s loc okind body) := by
  refine hk.trans ?_
  clear hk
  unfold State.openReceived
  try dsimp only
  repeat' first
    | with_reducible apply Keeps.refl
    | with_reducible refine keeps_rxAccept ‹_› ?_
    | with_reducible apply keeps_modPort
    | with_reducible apply keeps_takeOpen
    | split

theorem keeps_execPutCellReceived (loc) (body) (s : State) : ∃ t, execPutCellReceived loc body s = .next t ∧ Keeps s t := by
  unfold execPutCellReceived
  try dsimp only
  repeat' first | with_reducible refine ⟨_, rfl, ?_⟩ | split
  all_goals repeat' first
    | with_reducible apply Keeps.refl
    | with_reducible apply keeps_openReceived

theorem keeps_execRemoteAddCellReceived (loc) (body) (s : State) : ∃ t, execRemoteAddCellReceived loc body s = .next t ∧ Keeps s t := by
  unfold execRemoteAddCellReceived
  try dsimp only
  repeat' first | with_reducible refine ⟨_, rfl, ?_⟩ | split
  all_goals repeat' first
    | with_reducible apply Keeps.refl
    | with_reducible apply keeps_openReceived

theorem keeps_forfeitArrives {s₀} {s : State} (p) (body) (hk : Keeps s₀ s) : Keeps s₀ (State.forfeitArrives s p body) := by
  refine hk.trans ?_
  clear hk
  unfold State.forfeitArrives
  try dsimp only
  repeat' first
    | with_reducible apply Keeps.refl
    | simp only [↓keeps_upd]
    | with_reducible apply Keeps.ite
    | with_reducible apply keeps_queueCtrlAll
    | with_reducible apply keeps_bumpObj
    | with_reducible apply keeps_logFault

theorem keeps_takeCtrl {s₀} {s : State} (p) (kind) (body) (hk : Keeps s₀ s) : Keeps s₀ (State.takeCtrl s p kind body) := by
  refine hk.trans ?_
  clear hk
  unfold State.takeCtrl
  try dsimp only
  repeat' first
    | with_reducible apply Keeps.refl
    | with_reducible apply Keeps.ite
    | with_reducible apply keeps_sendCtrl
    | with_reducible apply keeps_settle
    | with_reducible apply keeps_lateRefusal
    | with_reducible apply keeps_forfeitArrives
    | with_reducible apply keeps_sideArrives
    | split

theorem keeps_ctrlReceived {s₀} {s : State} (loc) (kind) (body) (hk : Keeps s₀ s) : Keeps s₀ (State.ctrlReceived s loc kind body) := by
  refine hk.trans ?_
  clear hk
  unfold State.ctrlReceived
  try dsimp only
  repeat' first
    | with_reducible apply Keeps.refl
    | with_reducible refine keeps_rxAccept ‹_› ?_
    | with_reducible apply keeps_takeCtrl
    | split

theorem keeps_execAckReceived (loc) (body) (s : State) : ∃ t, execAckReceived loc body s = .next t ∧ Keeps s t := by
  unfold execAckReceived
  try dsimp only
  repeat' first | with_reducible refine ⟨_, rfl, ?_⟩ | split
  all_goals repeat' first
    | with_reducible apply Keeps.refl
    | with_reducible apply keeps_ctrlReceived

theorem keeps_execRefusalReceived (loc) (body) (s : State) : ∃ t, execRefusalReceived loc body s = .next t ∧ Keeps s t := by
  unfold execRefusalReceived
  try dsimp only
  repeat' first | with_reducible refine ⟨_, rfl, ?_⟩ | split
  all_goals repeat' first
    | with_reducible apply Keeps.refl
    | with_reducible apply keeps_ctrlReceived

theorem keeps_execForfeitCellReceived (loc) (body) (s : State) : ∃ t, execForfeitCellReceived loc body s = .next t ∧ Keeps s t := by
  unfold execForfeitCellReceived
  try dsimp only
  repeat' first | with_reducible refine ⟨_, rfl, ?_⟩ | split
  all_goals repeat' first
    | with_reducible apply Keeps.refl
    | with_reducible apply keeps_ctrlReceived

theorem keeps_execSideCellReceived (loc) (body) (s : State) : ∃ t, execSideCellReceived loc body s = .next t ∧ Keeps s t := by
  unfold execSideCellReceived
  try dsimp only
  repeat' first | with_reducible refine ⟨_, rfl, ?_⟩ | split
  all_goals repeat' first
    | with_reducible apply Keeps.refl
    | with_reducible apply keeps_ctrlReceived

theorem keeps_authFail {s₀} {s : State} (p) (hk : Keeps s₀ s) : Keeps s₀ (State.authFail s p) := by
  refine hk.trans ?_
  clear hk
  unfold State.authFail
  try dsimp only
  repeat' first
    | with_reducible apply Keeps.refl
    | with_reducible apply Keeps.fold
    | with_reducible apply keeps_bumpObj
    | with_reducible apply keeps_raise
    | with_reducible apply keeps_missWatch
    | with_reducible apply keeps_modPort
    | with_reducible apply keeps_originate
    | with_reducible apply keeps_goDown
    | intro _

theorem keeps_execAuthTagReceived (port) (tag) (s : State) : ∃ t, execAuthTagReceived port tag s = .next t ∧ Keeps s t := by
  unfold execAuthTagReceived
  try dsimp only
  repeat' first | with_reducible refine ⟨_, rfl, ?_⟩ | split
  all_goals repeat' first
    | with_reducible apply Keeps.refl
    | with_reducible assumption
    | simp only [↓keeps_upd]
    | with_reducible apply Keeps.ite
    | with_reducible apply Keeps.ite_snd
    | with_reducible apply Keeps.ite_snd_snd
    | with_reducible apply Keeps.ite_snd_fst
    | with_reducible apply keeps_authFail
    | with_reducible apply keeps_modPort

/-! Machine/Schedule.lean. -/

theorem keeps_sendMarks {s₀} {s : State} (n) (round) (turn) (t) (id) (hk : Keeps s₀ s) : Keeps s₀ (State.sendMarks s n round turn t id) := by
  refine hk.trans ?_
  clear hk
  unfold State.sendMarks
  try dsimp only
  repeat' first
    | with_reducible apply Keeps.refl
    | with_reducible apply Keeps.fold
    | with_reducible apply keeps_modPort
    | with_reducible apply keeps_emit
    | intro _

theorem keeps_sendCells {s₀} {s : State} (n) (kind) (cells) (hk : Keeps s₀ s) : Keeps s₀ (State.sendCells s n kind cells) := by
  refine hk.trans ?_
  clear hk
  unfold State.sendCells
  try dsimp only
  repeat' first
    | with_reducible apply Keeps.refl
    | simp only [↓keeps_upd]
    | with_reducible apply Keeps.ite
    | with_reducible apply Keeps.ite_snd
    | with_reducible apply Keeps.ite_snd_snd
    | with_reducible apply Keeps.ite_snd_fst
    | with_reducible apply Keeps.fold
    | with_reducible apply Keeps.fold_snd
    | with_reducible apply Keeps.fold_snd_snd
    | with_reducible apply keeps_emit
    | with_reducible apply keeps_modPort
    | split
    | intro _

theorem keeps_flowSent {s₀} {s : State} (c) (hk : Keeps s₀ s) : Keeps s₀ (State.flowSent s c) := by
  refine hk.trans ?_
  clear hk
  unfold State.flowSent
  try dsimp only
  repeat' first
    | with_reducible apply Keeps.refl
    | with_reducible apply keeps_modColl
    | with_reducible apply keeps_setDue
    | split

theorem keeps_schedTurn {s₀} {s : State} (n) (flow) (slots) (start) (hk : Keeps s₀ s) : Keeps s₀ (State.schedTurn s n flow slots start) := by
  refine hk.trans ?_
  clear hk
  unfold State.schedTurn
  try dsimp only
  repeat' first
    | with_reducible apply Keeps.refl
    | simp only [↓keeps_upd]
    | with_reducible apply Keeps.fold
    | with_reducible apply Keeps.fold_snd
    | with_reducible apply Keeps.fold_snd_snd
    | with_reducible apply keeps_modPort
    | with_reducible apply keeps_sendCells
    | with_reducible apply keeps_flowSent
    | with_reducible apply keeps_sidePump
    | split
    | intro _

theorem keeps_putsGoOn {s₀} {s : State} (n) (hk : Keeps s₀ s) : Keeps s₀ (State.putsGoOn s n) := by
  refine hk.trans ?_
  clear hk
  unfold State.putsGoOn
  try dsimp only
  repeat' first
    | with_reducible apply Keeps.refl
    | with_reducible apply Keeps.ite
    | with_reducible apply Keeps.fold
    | with_reducible apply keeps_putPump
    | split
    | intro _

theorem keeps_openTurn {s₀} {s : State} (n) (cap) (hk : Keeps s₀ s) : Keeps s₀ (State.openTurn s n cap) := by
  refine hk.trans ?_
  clear hk
  unfold State.openTurn
  try dsimp only
  repeat' first
    | with_reducible apply Keeps.refl
    | simp only [↓keeps_upd]
    | with_reducible apply Keeps.ite
    | with_reducible apply Keeps.ite_snd
    | with_reducible apply Keeps.ite_snd_snd
    | with_reducible apply Keeps.ite_snd_fst
    | with_reducible apply Keeps.fold
    | with_reducible apply Keeps.fold_snd
    | with_reducible apply Keeps.fold_snd_snd
    | with_reducible apply keeps_modPort
    | with_reducible apply keeps_sendCells
    | with_reducible apply keeps_freeCell
    | with_reducible apply keeps_post
    | with_reducible apply keeps_setDue
    | with_reducible apply keeps_promoteOpen
    | with_reducible apply keeps_putsGoOn
    | split
    | intro _

theorem keeps_ctrlTurn {s₀} {s : State} (n) (cap) (hk : Keeps s₀ s) : Keeps s₀ (State.ctrlTurn s n cap) := by
  refine hk.trans ?_
  clear hk
  unfold State.ctrlTurn
  try dsimp only
  repeat' first
    | with_reducible apply Keeps.refl
    | simp only [↓keeps_upd]
    | with_reducible apply keeps_modPort
    | with_reducible apply keeps_sendCells

theorem keeps_sendMaint {s₀} {s : State} (n) (c) (t) (hk : Keeps s₀ s) : Keeps s₀ (State.sendMaint s n c t) := by
  refine hk.trans ?_
  clear hk
  unfold State.sendMaint
  try dsimp only
  repeat' first
    | with_reducible apply Keeps.refl
    | with_reducible apply keeps_emit
    | split

theorem keeps_maintTurn {s₀} {s : State} (n) (start) (cap) (hk : Keeps s₀ s) : Keeps s₀ (State.maintTurn s n start cap) := by
  refine hk.trans ?_
  clear hk
  unfold State.maintTurn
  try dsimp only
  repeat' first
    | with_reducible apply Keeps.refl
    | simp only [↓keeps_upd]
    | with_reducible apply Keeps.ite
    | with_reducible apply Keeps.ite_snd
    | with_reducible apply Keeps.ite_snd_snd
    | with_reducible apply Keeps.ite_snd_fst
    | with_reducible apply Keeps.fold
    | with_reducible apply Keeps.fold_snd
    | with_reducible apply Keeps.fold_snd_snd
    | with_reducible apply keeps_modPort
    | with_reducible apply keeps_emit
    | with_reducible apply keeps_sendMaint
    | with_reducible apply keeps_draw
    | split
    | intro _

theorem keeps_execCellReady (port) (s : State) : ∃ t, execCellReady port s = .next t ∧ Keeps s t := by
  unfold execCellReady
  try dsimp only
  repeat' first | with_reducible refine ⟨_, rfl, ?_⟩ | split
  all_goals repeat' first
    | with_reducible apply Keeps.refl
    | with_reducible assumption
    | with_reducible apply keeps_reach

theorem keeps_schedResult {s₀} {s : State} (cause) (hk : Keeps s₀ s) : Keeps s₀ (State.schedResult s cause) := by
  refine hk.trans ?_
  clear hk
  unfold State.schedResult
  try dsimp only
  repeat' first
    | with_reducible apply Keeps.refl
    | with_reducible apply keeps_setRegN

theorem keeps_schedInstall {s₀} {s : State} (hk : Keeps s₀ s) : Keeps s₀ (State.schedInstall s) := by
  refine hk.trans ?_
  clear hk
  unfold State.schedInstall
  try dsimp only
  repeat' first
    | with_reducible apply Keeps.refl
    | simp only [↓keeps_upd]
    | with_reducible apply Keeps.ite
    | with_reducible apply keeps_setRegN

theorem keeps_execSchedInstall (s : State) : ∃ t, execSchedInstall s = .next t ∧ Keeps s t := by
  unfold execSchedInstall
  try dsimp only
  repeat' first | with_reducible refine ⟨_, rfl, ?_⟩ | split
  all_goals repeat' first
    | with_reducible apply Keeps.refl
    | with_reducible apply keeps_schedInstall

theorem keeps_installDone {s₀} {s : State} (hk : Keeps s₀ s) : Keeps s₀ (State.installDone s) := by
  refine hk.trans ?_
  clear hk
  unfold State.installDone
  try dsimp only
  repeat' first
    | with_reducible apply Keeps.refl
    | simp only [↓keeps_upd]
    | with_reducible apply Keeps.ite
    | with_reducible apply keeps_raise
    | with_reducible apply keeps_schedResult
    | with_reducible apply keeps_csRead
    | split

theorem keeps_execInstallComplete (s : State) : ∃ t, execInstallComplete s = .next t ∧ Keeps s t := by
  unfold execInstallComplete
  try dsimp only
  repeat' first | with_reducible refine ⟨_, rfl, ?_⟩ | split
  all_goals repeat' first
    | with_reducible apply Keeps.refl
    | with_reducible apply keeps_installDone

theorem keeps_schedArm {s₀} {s : State} (hk : Keeps s₀ s) : Keeps s₀ (State.schedArm s) := by
  refine hk.trans ?_
  clear hk
  unfold State.schedArm
  try dsimp only
  repeat' first
    | with_reducible apply Keeps.refl
    | simp only [↓keeps_upd]
    | with_reducible apply Keeps.ite
    | with_reducible apply keeps_raise
    | with_reducible apply keeps_schedResult
    | split

theorem keeps_execSchedArm (s : State) : ∃ t, execSchedArm s = .next t ∧ Keeps s t := by
  unfold execSchedArm
  try dsimp only
  repeat' first | with_reducible refine ⟨_, rfl, ?_⟩ | split
  all_goals repeat' first
    | with_reducible apply Keeps.refl
    | with_reducible apply keeps_schedArm

theorem keeps_schedCancel {s₀} {s : State} (hk : Keeps s₀ s) : Keeps s₀ (State.schedCancel s) := by
  refine hk.trans ?_
  clear hk
  unfold State.schedCancel
  try dsimp only
  repeat' first
    | with_reducible apply Keeps.refl
    | simp only [↓keeps_upd]
    | with_reducible apply Keeps.ite
    | with_reducible apply keeps_schedResult

theorem keeps_execSchedCancel (s : State) : ∃ t, execSchedCancel s = .next t ∧ Keeps s t := by
  unfold execSchedCancel
  try dsimp only
  repeat' first | with_reducible refine ⟨_, rfl, ?_⟩ | split
  all_goals repeat' first
    | with_reducible apply Keeps.refl
    | with_reducible apply keeps_schedCancel

theorem keeps_renumber {s₀} {s : State} (d) (hk : Keeps s₀ s) : Keeps s₀ (State.renumber s d) := by
  refine hk.trans ?_
  clear hk
  unfold State.renumber
  try dsimp only
  repeat' first
    | with_reducible apply Keeps.refl
    | simp only [↓keeps_upd]

theorem keeps_portsAt {s₀} {s : State} (n) (hk : Keeps s₀ s) : Keeps s₀ (State.portsAt s n) := by
  refine hk.trans ?_
  clear hk
  unfold State.portsAt
  try dsimp only
  repeat' first
    | with_reducible apply Keeps.refl
    | with_reducible apply Keeps.ite
    | with_reducible apply Keeps.fold
    | with_reducible apply keeps_modPort
    | intro _

theorem keeps_emptyBanks {s₀} {s : State} (hk : Keeps s₀ s) : Keeps s₀ (State.emptyBanks s) := by
  refine hk.trans ?_
  clear hk
  unfold State.emptyBanks
  try dsimp only
  repeat' first
    | with_reducible apply Keeps.refl
    | simp only [↓keeps_upd]
    | with_reducible apply Keeps.ite
    | with_reducible apply keeps_renumber

theorem keeps_swap {s₀} {s : State} (n) (hk : Keeps s₀ s) : Keeps s₀ (State.swap s n) := by
  refine hk.trans ?_
  clear hk
  unfold State.swap
  try dsimp only
  repeat' first
    | with_reducible apply Keeps.refl
    | simp only [↓keeps_upd]
    | with_reducible apply Keeps.ite
    | with_reducible apply keeps_collSwap
    | with_reducible apply keeps_portsAt
    | split

theorem keeps_activate {s₀} {s : State} (k) (b) (hk : Keeps s₀ s) : Keeps s₀ (State.activate s k b) := by
  refine hk.trans ?_
  clear hk
  unfold State.activate
  try dsimp only
  repeat' first
    | with_reducible apply Keeps.refl
    | simp only [↓keeps_upd]
    | with_reducible apply keeps_reach
    | with_reducible apply keeps_portsAt
    | with_reducible apply keeps_renumber

theorem keeps_forfeitEffect {s₀} {s : State} (t) (f) (hk : Keeps s₀ s) : Keeps s₀ (State.forfeitEffect s t f) := by
  refine hk.trans ?_
  clear hk
  unfold State.forfeitEffect
  try dsimp only
  repeat' first
    | with_reducible apply Keeps.refl
    | simp only [↓keeps_upd]
    | with_reducible apply Keeps.ite
    | with_reducible apply Keeps.fold
    | with_reducible apply keeps_voidSeat
    | with_reducible apply keeps_toState
    | with_reducible apply keeps_errorRecord
    | intro _

theorem keeps_forfeitsOf {s₀} {s : State} (n) (sel) (hk : Keeps s₀ s) : Keeps s₀ (State.forfeitsOf s n sel) := by
  refine hk.trans ?_
  clear hk
  unfold State.forfeitsOf
  try dsimp only
  repeat' first
    | with_reducible apply Keeps.refl
    | with_reducible apply Keeps.ite
    | with_reducible apply Keeps.ite_snd
    | with_reducible apply Keeps.ite_snd_snd
    | with_reducible apply Keeps.ite_snd_fst
    | with_reducible apply Keeps.fold
    | with_reducible apply Keeps.fold_snd
    | with_reducible apply Keeps.fold_snd_snd
    | with_reducible apply keeps_forfeitEffect
    | split
    | intro _

theorem keeps_forfeitsAt {s₀} {s : State} (n) (hk : Keeps s₀ s) : Keeps s₀ (State.forfeitsAt s n) := by
  refine hk.trans ?_
  clear hk
  unfold State.forfeitsAt
  try dsimp only
  repeat' first
    | with_reducible apply Keeps.refl
    | with_reducible apply keeps_forfeitsOf

theorem keeps_downMisses {s₀} {s : State} (hk : Keeps s₀ s) : Keeps s₀ (State.downMisses s) := by
  refine hk.trans ?_
  clear hk
  unfold State.downMisses
  try dsimp only
  repeat' first
    | with_reducible apply Keeps.refl
    | with_reducible apply Keeps.ite
    | with_reducible apply Keeps.fold
    | with_reducible apply keeps_modPort
    | intro _

theorem keeps_boundary {s₀} {s : State} (n) (hk : Keeps s₀ s) : Keeps s₀ (State.boundary s n) := by
  refine hk.trans ?_
  clear hk
  unfold State.boundary
  try dsimp only
  repeat' first
    | with_reducible apply Keeps.refl
    | simp only [↓keeps_upd]
    | with_reducible apply Keeps.ite
    | with_reducible apply Keeps.ite_snd
    | with_reducible apply Keeps.ite_snd_snd
    | with_reducible apply Keeps.ite_snd_fst
    | with_reducible apply Keeps.fold
    | with_reducible apply Keeps.fold_snd
    | with_reducible apply Keeps.fold_snd_snd
    | with_reducible apply keeps_collEnds
    | with_reducible apply keeps_forfeitsAt
    | with_reducible apply keeps_swap
    | with_reducible apply keeps_collBegins
    | with_reducible apply keeps_downMisses
    | with_reducible apply keeps_partCells
    | with_reducible apply keeps_recBoundary
    | with_reducible apply keeps_goDown
    | split
    | intro _

theorem keeps_roundBoundary {s₀} {s : State} (hk : Keeps s₀ s) : Keeps s₀ (State.roundBoundary s) := by
  refine hk.trans ?_
  clear hk
  unfold State.roundBoundary
  try dsimp only
  repeat' first
    | with_reducible apply Keeps.refl
    | with_reducible apply Keeps.ite
    | with_reducible apply keeps_boundary
    | with_reducible apply keeps_activate
    | with_reducible apply keeps_reach
    | split

theorem keeps_execRoundBoundary (s : State) : ∃ t, execRoundBoundary s = .next t ∧ Keeps s t := by
  unfold execRoundBoundary
  try dsimp only
  repeat' first | with_reducible refine ⟨_, rfl, ?_⟩ | split
  all_goals repeat' first
    | with_reducible apply Keeps.refl
    | with_reducible apply keeps_roundBoundary

theorem keeps_catchUp {s₀} {s : State} (t) (hk : Keeps s₀ s) : Keeps s₀ (State.catchUp s t) := by
  refine hk.trans ?_
  clear hk
  unfold State.catchUp
  try dsimp only
  repeat' first
    | with_reducible apply Keeps.refl
    | with_reducible apply Keeps.ite
    | with_reducible apply Keeps.ite_snd
    | with_reducible apply Keeps.ite_snd_snd
    | with_reducible apply Keeps.ite_snd_fst
    | with_reducible apply keeps_roundBoundary
    | with_reducible apply keeps_reach

theorem keeps_runTurn {s₀} {s : State} (n) (hk : Keeps s₀ s) : Keeps s₀ (State.runTurn s n) := by
  refine hk.trans ?_
  clear hk
  unfold State.runTurn
  try dsimp only
  repeat' first
    | with_reducible apply Keeps.refl
    | simp only [↓keeps_upd]
    | with_reducible apply Keeps.ite
    | with_reducible apply Keeps.ite_snd
    | with_reducible apply Keeps.ite_snd_snd
    | with_reducible apply Keeps.ite_snd_fst
    | with_reducible apply keeps_reach
    | with_reducible apply keeps_sendMarks
    | with_reducible apply keeps_modPort
    | with_reducible apply keeps_maintTurn
    | with_reducible apply keeps_schedTurn
    | with_reducible apply keeps_openTurn
    | with_reducible apply keeps_ctrlTurn
    | split

theorem keeps_turnBegin {s₀} {s : State} (n) (hk : Keeps s₀ s) : Keeps s₀ (State.turnBegin s n) := by
  refine hk.trans ?_
  clear hk
  unfold State.turnBegin
  try dsimp only
  repeat' first
    | with_reducible apply Keeps.refl
    | with_reducible apply Keeps.ite
    | with_reducible apply Keeps.ite_snd
    | with_reducible apply Keeps.ite_snd_snd
    | with_reducible apply Keeps.ite_snd_fst
    | with_reducible apply keeps_catchUp
    | with_reducible apply keeps_runTurn

theorem keeps_execTurnBegin (port) (s : State) : ∃ t, execTurnBegin port s = .next t ∧ Keeps s t := by
  unfold execTurnBegin
  try dsimp only
  repeat' first | with_reducible refine ⟨_, rfl, ?_⟩ | split
  all_goals repeat' first
    | with_reducible apply Keeps.refl
    | with_reducible apply keeps_turnBegin

theorem keeps_stallShare {s₀} {s : State} (i) (stalled) (slots) (hk : Keeps s₀ s) : Keeps s₀ (State.stallShare s i stalled slots) := by
  refine hk.trans ?_
  clear hk
  unfold State.stallShare
  try dsimp only
  repeat' first
    | with_reducible apply Keeps.refl
    | simp only [↓keeps_upd]
    | with_reducible apply Keeps.ite
    | with_reducible apply Keeps.ite_snd
    | with_reducible apply Keeps.ite_snd_snd
    | with_reducible apply Keeps.ite_snd_fst
    | with_reducible apply keeps_status
    | with_reducible apply keeps_setRegN
    | with_reducible apply keeps_modPort

theorem keeps_execStallWindowEnd (withheld) (s : State) : ∃ t, execStallWindowEnd withheld s = .next t ∧ Keeps s t := by
  unfold execStallWindowEnd
  try dsimp only
  repeat' first | with_reducible refine ⟨_, rfl, ?_⟩ | split
  all_goals repeat' first
    | with_reducible apply Keeps.refl
    | with_reducible assumption
    | with_reducible apply Keeps.ite
    | with_reducible apply Keeps.ite_snd
    | with_reducible apply Keeps.ite_snd_snd
    | with_reducible apply Keeps.ite_snd_fst
    | with_reducible apply Keeps.fold
    | with_reducible apply Keeps.fold_snd
    | with_reducible apply Keeps.fold_snd_snd
    | with_reducible apply keeps_reach
    | with_reducible apply keeps_stallShare
    | split
    | intro _

theorem keeps_execSlip (source) (s : State) : ∃ t, execSlip source s = .next t ∧ Keeps s t := by
  unfold execSlip
  try dsimp only
  repeat' first | with_reducible refine ⟨_, rfl, ?_⟩ | split
  all_goals repeat' first
    | with_reducible apply Keeps.refl
    | with_reducible assumption
    | simp only [↓keeps_upd]
    | with_reducible apply Keeps.ite
    | with_reducible apply Keeps.ite_snd
    | with_reducible apply Keeps.ite_snd_snd
    | with_reducible apply Keeps.ite_snd_fst
    | with_reducible apply keeps_modPort
    | with_reducible apply keeps_raise
    | with_reducible apply keeps_bumpObj

/-! Machine/Seats.lean. -/

theorem keeps_denied {s₀} {s : State} (hk : Keeps s₀ s) : Keeps s₀ (State.denied s) := by
  refine hk.trans ?_
  clear hk
  unfold State.denied
  try dsimp only
  repeat' first
    | with_reducible apply Keeps.refl
    | with_reducible apply keeps_raise

theorem keeps_muted {s₀} {s : State} (hk : Keeps s₀ s) : Keeps s₀ (State.muted s) := by
  refine hk.trans ?_
  clear hk
  unfold State.muted
  try dsimp only
  repeat' first
    | with_reducible apply Keeps.refl
    | with_reducible apply keeps_raise

theorem keeps_execGroupLaunchEffect (gq) (s : State) : ∃ t, execGroupLaunchEffect gq s = .next t ∧ Keeps s t := by
  unfold execGroupLaunchEffect
  try dsimp only
  repeat' first | with_reducible refine ⟨_, rfl, ?_⟩ | split
  all_goals repeat' first
    | with_reducible apply Keeps.refl
    | with_reducible apply keeps_launchEffect

theorem keeps_ringBell {s₀} {s : State} (n) (off) (v) (hk : Keeps s₀ s) : Keeps s₀ (State.ringBell s n off v).2 := by
  refine hk.trans ?_
  clear hk
  unfold State.ringBell
  try dsimp only
  repeat' first
    | with_reducible apply Keeps.refl
    | with_reducible apply Keeps.ite_snd
    | with_reducible apply keeps_raise
    | with_reducible apply keeps_refreshWd
    | with_reducible apply keeps_modSeat
    | with_reducible apply keeps_launch
    | with_reducible apply keeps_endOf
    | split

theorem keeps_bell {s₀} {s : State} (n) (off) (b) (hk : Keeps s₀ s) : Keeps s₀ (State.bell s n off b) := by
  refine hk.trans ?_
  clear hk
  unfold State.bell
  try dsimp only
  repeat' first
    | with_reducible apply Keeps.refl
    | simp only [↓keeps_upd]
    | with_reducible apply Keeps.ite
    | with_reducible apply Keeps.ite_snd
    | with_reducible apply Keeps.ite_snd_snd
    | with_reducible apply Keeps.ite_snd_fst
    | with_reducible apply keeps_absentAccess
    | with_reducible apply keeps_muted
    | with_reducible apply keeps_raise
    | with_reducible apply keeps_denied
    | with_reducible apply keeps_modSeat
    | with_reducible apply keeps_ringBell
    | with_reducible apply keeps_recordHost
    | split

theorem keeps_execRingProd (seat) (b) (s : State) : ∃ t, execRingProd seat b s = .next t ∧ Keeps s t := by
  unfold execRingProd
  try dsimp only
  repeat' first | with_reducible refine ⟨_, rfl, ?_⟩ | split
  all_goals repeat' first
    | with_reducible apply Keeps.refl
    | with_reducible apply keeps_bell

theorem keeps_execGqLaunch (seat) (b) (s : State) : ∃ t, execGqLaunch seat b s = .next t ∧ Keeps s t := by
  unfold execGqLaunch
  try dsimp only
  repeat' first | with_reducible refine ⟨_, rfl, ?_⟩ | split
  all_goals repeat' first
    | with_reducible apply Keeps.refl
    | with_reducible apply keeps_bell

theorem keeps_execCqCons (seat) (b) (s : State) : ∃ t, execCqCons seat b s = .next t ∧ Keeps s t := by
  unfold execCqCons
  try dsimp only
  repeat' first | with_reducible refine ⟨_, rfl, ?_⟩ | split
  all_goals repeat' first
    | with_reducible apply Keeps.refl
    | with_reducible apply keeps_bell

theorem keeps_execEqCons (seat) (b) (s : State) : ∃ t, execEqCons seat b s = .next t ∧ Keeps s t := by
  unfold execEqCons
  try dsimp only
  repeat' first | with_reducible refine ⟨_, rfl, ?_⟩ | split
  all_goals repeat' first
    | with_reducible apply Keeps.refl
    | with_reducible apply keeps_bell

theorem keeps_drbgStep {s₀} {s : State} (hk : Keeps s₀ s) : Keeps s₀ (State.drbgStep s) := by
  refine hk.trans ?_
  clear hk
  unfold State.drbgStep
  try dsimp only
  repeat' first
    | with_reducible apply Keeps.refl
    | simp only [↓keeps_upd]

theorem keeps_createEnds {s₀} {s : State} (n) (cause) (hk : Keeps s₀ s) : Keeps s₀ (State.createEnds s n cause) := by
  refine hk.trans ?_
  clear hk
  unfold State.createEnds
  try dsimp only
  repeat' first
    | with_reducible apply Keeps.refl
    | with_reducible apply keeps_seatResult

theorem keeps_createSeat {s₀} {s : State} (n) (hk : Keeps s₀ s) : Keeps s₀ (State.createSeat s n) := by
  refine hk.trans ?_
  clear hk
  unfold State.createSeat
  try dsimp only
  repeat' first
    | with_reducible apply Keeps.refl
    | with_reducible apply Keeps.ite
    | with_reducible apply keeps_setRegN
    | with_reducible apply keeps_setReg
    | with_reducible apply keeps_drbgStep
    | with_reducible apply keeps_modSeat
    | with_reducible apply keeps_modPart
    | with_reducible apply keeps_takeBack
    | with_reducible apply keeps_toState
    | with_reducible apply keeps_createEnds

theorem keeps_runCreate {s₀} {s : State} (n) (hk : Keeps s₀ s) : Keeps s₀ (State.runCreate s n) := by
  refine hk.trans ?_
  clear hk
  unfold State.runCreate
  try dsimp only
  repeat' first
    | with_reducible apply Keeps.refl
    | with_reducible apply Keeps.ite
    | with_reducible apply keeps_createSeat
    | with_reducible apply keeps_createEnds

theorem keeps_seatCreate {s₀} {s : State} (p) (l) (hk : Keeps s₀ s) : Keeps s₀ (State.seatCreate s p l) := by
  refine hk.trans ?_
  clear hk
  unfold State.seatCreate
  try dsimp only
  repeat' first
    | with_reducible apply Keeps.refl
    | simp only [↓keeps_upd]
    | with_reducible apply Keeps.ite
    | with_reducible apply keeps_absentAccess
    | with_reducible apply keeps_raise
    | with_reducible apply keeps_seatResult
    | with_reducible apply keeps_runCreate

theorem keeps_execSeatCreate (part) (loc) (s : State) : ∃ t, execSeatCreate part loc s = .next t ∧ Keeps s t := by
  unfold execSeatCreate
  try dsimp only
  repeat' first | with_reducible refine ⟨_, rfl, ?_⟩ | split
  all_goals repeat' first
    | with_reducible apply Keeps.refl
    | with_reducible apply keeps_seatCreate

theorem keeps_seatRelease {s₀} {s : State} (p) (l) (hk : Keeps s₀ s) : Keeps s₀ (State.seatRelease s p l) := by
  refine hk.trans ?_
  clear hk
  unfold State.seatRelease
  try dsimp only
  repeat' first
    | with_reducible apply Keeps.refl
    | with_reducible apply Keeps.ite
    | with_reducible apply keeps_absentAccess
    | with_reducible apply keeps_raise
    | with_reducible apply keeps_seatResult
    | with_reducible apply keeps_startRelease

theorem keeps_execSeatRelease (part) (loc) (s : State) : ∃ t, execSeatRelease part loc s = .next t ∧ Keeps s t := by
  unfold execSeatRelease
  try dsimp only
  repeat' first | with_reducible refine ⟨_, rfl, ?_⟩ | split
  all_goals repeat' first
    | with_reducible apply Keeps.refl
    | with_reducible apply keeps_seatRelease

theorem keeps_releaseDone {s₀} {s : State} (n) (hk : Keeps s₀ s) : Keeps s₀ (State.releaseDone s n) := by
  refine hk.trans ?_
  clear hk
  unfold State.releaseDone
  try dsimp only
  repeat' first
    | with_reducible apply Keeps.refl
    | simp only [↓keeps_upd]
    | with_reducible apply Keeps.ite
    | with_reducible apply Keeps.ite_snd
    | with_reducible apply Keeps.ite_snd_snd
    | with_reducible apply Keeps.ite_snd_fst
    | with_reducible apply keeps_voidSeat
    | with_reducible apply keeps_csClear
    | with_reducible apply keeps_zeroTumblers
    | with_reducible apply keeps_modSeat
    | with_reducible apply keeps_toState
    | with_reducible apply keeps_leaveForfeited
    | with_reducible apply keeps_seatResult
    | with_reducible apply keeps_gatePart

theorem keeps_execSeatReleaseComplete (seat) (s : State) : ∃ t, execSeatReleaseComplete seat s = .next t ∧ Keeps s t := by
  unfold execSeatReleaseComplete
  try dsimp only
  repeat' first | with_reducible refine ⟨_, rfl, ?_⟩ | split
  all_goals repeat' first
    | with_reducible apply Keeps.refl
    | with_reducible apply keeps_releaseDone

theorem keeps_gatingDone {s₀} {s : State} (p) (hk : Keeps s₀ s) : Keeps s₀ (State.gatingDone s p) := by
  refine hk.trans ?_
  clear hk
  unfold State.gatingDone
  try dsimp only
  repeat' first
    | with_reducible apply Keeps.refl
    | simp only [↓keeps_upd]
    | with_reducible apply Keeps.ite
    | with_reducible apply Keeps.ite_snd
    | with_reducible apply Keeps.ite_snd_snd
    | with_reducible apply Keeps.ite_snd_fst
    | with_reducible apply Keeps.fold
    | with_reducible apply Keeps.fold_snd
    | with_reducible apply Keeps.fold_snd_snd
    | with_reducible apply keeps_reachUp
    | with_reducible apply keeps_foldPart
    | with_reducible apply keeps_dropWorking
    | with_reducible apply keeps_takeBack
    | with_reducible apply keeps_modArr
    | with_reducible apply keeps_modPart
    | split
    | intro _

theorem keeps_execGatingComplete (part) (s : State) : ∃ t, execGatingComplete part s = .next t ∧ Keeps s t := by
  unfold execGatingComplete
  try dsimp only
  repeat' first | with_reducible refine ⟨_, rfl, ?_⟩ | split
  all_goals repeat' first
    | with_reducible apply Keeps.refl
    | with_reducible apply keeps_gatingDone

theorem keeps_loadQzDefaults {s₀} {s : State} (p) (hk : Keeps s₀ s) : Keeps s₀ (State.loadQzDefaults s p) := by
  refine hk.trans ?_
  clear hk
  unfold State.loadQzDefaults
  try dsimp only
  repeat' first
    | with_reducible apply Keeps.refl
    | with_reducible apply keeps_setRegN

theorem keeps_ringHeld {s₀} {s : State} (n) (hk : Keeps s₀ s) : Keeps s₀ (State.ringHeld s n) := by
  refine hk.trans ?_
  clear hk
  unfold State.ringHeld
  try dsimp only
  repeat' first
    | with_reducible apply Keeps.refl
    | with_reducible apply Keeps.ite
    | with_reducible apply Keeps.fold
    | with_reducible apply keeps_modSeat
    | with_reducible apply keeps_ringBell
    | with_reducible apply keeps_recordHost
    | intro _

theorem keeps_wakeDone {s₀} {s : State} (p) (hk : Keeps s₀ s) : Keeps s₀ (State.wakeDone s p) := by
  refine hk.trans ?_
  clear hk
  unfold State.wakeDone
  try dsimp only
  repeat' first
    | with_reducible apply Keeps.refl
    | with_reducible apply Keeps.ite
    | with_reducible apply Keeps.fold
    | with_reducible apply keeps_reachUp
    | with_reducible apply keeps_modPart
    | with_reducible apply keeps_loadQzDefaults
    | with_reducible apply keeps_ringHeld
    | with_reducible apply keeps_createEnds
    | with_reducible apply keeps_toState
    | with_reducible apply keeps_startPartReset
    | split
    | intro _

theorem keeps_execWakeComplete (part) (s : State) : ∃ t, execWakeComplete part s = .next t ∧ Keeps s t := by
  unfold execWakeComplete
  try dsimp only
  repeat' first | with_reducible refine ⟨_, rfl, ?_⟩ | split
  all_goals repeat' first
    | with_reducible apply Keeps.refl
    | with_reducible apply keeps_wakeDone

theorem keeps_bar2Read {s₀} {s : State} (a) (len) (t) (hk : Keeps s₀ s) : Keeps s₀ (State.bar2Read s a len t).2.2 := by
  refine hk.trans ?_
  clear hk
  unfold State.bar2Read
  try dsimp only
  repeat' first
    | with_reducible apply Keeps.refl
    | with_reducible apply Keeps.ite
    | with_reducible apply Keeps.ite_snd
    | with_reducible apply Keeps.ite_snd_snd
    | with_reducible apply Keeps.ite_snd_fst
    | with_reducible apply keeps_denied
    | with_reducible apply keeps_raise
    | with_reducible apply keeps_csRead
    | split

theorem keeps_execBar2Read (addr) (len) (tlp) (s : State) : ∃ t, execBar2Read addr len tlp s = .next t ∧ Keeps s t := by
  unfold execBar2Read
  try dsimp only
  repeat' first | with_reducible refine ⟨_, rfl, ?_⟩ | split
  all_goals repeat' first
    | with_reducible apply Keeps.refl
    | with_reducible apply keeps_emit
    | with_reducible apply keeps_bar2Read

theorem keeps_bar2Write {s₀} {s : State} (a) (bs) (t) (hk : Keeps s₀ s) : Keeps s₀ (State.bar2Write s a bs t) := by
  refine hk.trans ?_
  clear hk
  unfold State.bar2Write
  try dsimp only
  repeat' first
    | with_reducible apply Keeps.refl
    | with_reducible apply Keeps.ite
    | with_reducible apply keeps_muted
    | with_reducible apply keeps_denied
    | with_reducible apply keeps_raise
    | with_reducible apply keeps_recordHost
    | with_reducible apply keeps_csWrite
    | split

theorem keeps_execBar2Write (addr) (data) (tlp) (s : State) : ∃ t, execBar2Write addr data tlp s = .next t ∧ Keeps s t := by
  unfold execBar2Write
  try dsimp only
  repeat' first | with_reducible refine ⟨_, rfl, ?_⟩ | split
  all_goals repeat' first
    | with_reducible apply Keeps.refl
    | with_reducible apply keeps_bar2Write

theorem keeps_seatHoldoffEnd {s₀} {s : State} (n) (hk : Keeps s₀ s) : Keeps s₀ (State.seatHoldoffEnd s n) := by
  refine hk.trans ?_
  clear hk
  unfold State.seatHoldoffEnd
  try dsimp only
  repeat' first
    | with_reducible apply Keeps.refl
    | with_reducible apply Keeps.ite
    | with_reducible apply keeps_reachUp
    | with_reducible apply keeps_signalSeat
    | with_reducible apply keeps_modSeat

theorem keeps_execSeatVectorHoldoffEnd (seat) (s : State) : ∃ t, execSeatVectorHoldoffEnd seat s = .next t ∧ Keeps s t := by
  unfold execSeatVectorHoldoffEnd
  try dsimp only
  repeat' first | with_reducible refine ⟨_, rfl, ?_⟩ | split
  all_goals repeat' first
    | with_reducible apply Keeps.refl
    | with_reducible apply keeps_seatHoldoffEnd

theorem keeps_ecHoldoffEnd {s₀} {s : State} (hk : Keeps s₀ s) : Keeps s₀ (State.ecHoldoffEnd s) := by
  refine hk.trans ?_
  clear hk
  unfold State.ecHoldoffEnd
  try dsimp only
  repeat' first
    | with_reducible apply Keeps.refl
    | simp only [↓keeps_upd]
    | with_reducible apply Keeps.ite
    | with_reducible apply keeps_reachUp
    | with_reducible apply keeps_signalEc

theorem keeps_execEcVectorHoldoffEnd (s : State) : ∃ t, execEcVectorHoldoffEnd s = .next t ∧ Keeps s t := by
  unfold execEcVectorHoldoffEnd
  try dsimp only
  repeat' first | with_reducible refine ⟨_, rfl, ?_⟩ | split
  all_goals repeat' first
    | with_reducible apply Keeps.refl
    | with_reducible apply keeps_ecHoldoffEnd

theorem keeps_execConfigRequest (s : State) : ∃ t, execConfigRequest s = .next t ∧ Keeps s t := by
  unfold execConfigRequest
  try dsimp only
  repeat' first | with_reducible refine ⟨_, rfl, ?_⟩ | split
  all_goals repeat' first
    | with_reducible apply Keeps.refl
    | with_reducible apply keeps_emit

theorem keeps_execPcieAtomicopRequest (s : State) : ∃ t, execPcieAtomicopRequest s = .next t ∧ Keeps s t := by
  unfold execPcieAtomicopRequest
  try dsimp only
  repeat' first | with_reducible refine ⟨_, rfl, ?_⟩ | split
  all_goals repeat' first
    | with_reducible apply Keeps.refl
    | with_reducible apply keeps_emit

theorem keeps_execPerstN (s : State) : ∃ t, execPerstN s = .next t ∧ Keeps s t := by
  unfold execPerstN
  try dsimp only
  repeat' first | with_reducible refine ⟨_, rfl, ?_⟩ | split
  all_goals repeat' first
    | with_reducible apply Keeps.refl
    | simp only [↓keeps_upd]
    | with_reducible apply Keeps.fold
    | with_reducible apply keeps_resetRegs
    | with_reducible apply keeps_tdiError
    | intro _

theorem keeps_execPerstNRelease (s : State) : ∃ t, execPerstNRelease s = .next t ∧ Keeps s t := by
  unfold execPerstNRelease
  try dsimp only
  repeat' first | with_reducible refine ⟨_, rfl, ?_⟩ | split
  all_goals repeat' first
    | with_reducible apply Keeps.refl
    | simp only [↓keeps_upd]
    | with_reducible apply keeps_setRegField

theorem keeps_execTlpIntegrityFail (stream) (s : State) : ∃ t, execTlpIntegrityFail stream s = .next t ∧ Keeps s t := by
  unfold execTlpIntegrityFail
  try dsimp only
  repeat' first | with_reducible refine ⟨_, rfl, ?_⟩ | split
  all_goals repeat' first
    | with_reducible apply Keeps.refl
    | simp only [↓keeps_upd]
    | with_reducible apply Keeps.ite
    | with_reducible apply Keeps.fold
    | with_reducible apply keeps_raise
    | with_reducible apply keeps_tdiError
    | intro _

/-! Machine/Store.lean. -/

theorem keeps_flushCache {s₀} {s : State} (hk : Keeps s₀ s) : Keeps s₀ (State.flushCache s) := by
  refine hk.trans ?_
  clear hk
  unfold State.flushCache
  try dsimp only
  repeat' first
    | with_reducible apply Keeps.refl
    | simp only [↓keeps_upd]
    | with_reducible apply Keeps.fold
    | with_reducible apply keeps_writeBack
    | intro _

theorem keeps_scResize {s₀} {s : State} (size) (hk : Keeps s₀ s) : Keeps s₀ (State.scResize s size).2 := by
  refine hk.trans ?_
  clear hk
  unfold State.scResize
  try dsimp only
  repeat' first
    | with_reducible apply Keeps.refl
    | simp only [↓keeps_upd]
    | with_reducible apply Keeps.ite_snd
    | with_reducible apply keeps_raise
    | with_reducible apply keeps_flushCache
    | with_reducible apply keeps_setRegN
    | with_reducible apply keeps_csClear

theorem keeps_resizeDone {s₀} {s : State} (hk : Keeps s₀ s) : Keeps s₀ (State.resizeDone s) := by
  refine hk.trans ?_
  clear hk
  unfold State.resizeDone
  try dsimp only
  repeat' first
    | with_reducible apply Keeps.refl
    | simp only [↓keeps_upd]
    | with_reducible apply Keeps.ite
    | with_reducible apply Keeps.fold
    | with_reducible apply keeps_runCreate
    | intro _

theorem keeps_execScResizeComplete (s : State) : ∃ t, execScResizeComplete s = .next t ∧ Keeps s t := by
  unfold execScResizeComplete
  try dsimp only
  repeat' first | with_reducible refine ⟨_, rfl, ?_⟩ | split
  all_goals repeat' first
    | with_reducible apply Keeps.refl
    | with_reducible apply keeps_resizeDone

theorem keeps_csScrubSet {s₀} {s : State} (v) (hk : Keeps s₀ s) : Keeps s₀ (State.csScrubSet s v) := by
  refine hk.trans ?_
  clear hk
  unfold State.csScrubSet
  try dsimp only
  repeat' first
    | with_reducible apply Keeps.refl
    | simp only [↓keeps_upd]
    | with_reducible apply keeps_setReg

theorem keeps_execCsPatrolScrub (sector) (seen) (s : State) : ∃ t, execCsPatrolScrub sector seen s = .next t ∧ Keeps s t := by
  unfold execCsPatrolScrub
  try dsimp only
  repeat' first | with_reducible refine ⟨_, rfl, ?_⟩ | split
  all_goals repeat' first
    | with_reducible apply Keeps.refl
    | simp only [↓keeps_upd]
    | with_reducible apply keeps_csFetch

end Sys2Proof.Machine
end

