-- ==== Sys2Proof/Laws/KeepsSystem.lean ====
section
/-! SUPPORT. Every operation of HBM, reliability, field network, security, power, objects, service, registers and replay leaves the queue, the identity
of the part and the canonical form of the memories as `Keeps` says. -/

set_option Elab.async false

namespace Sys2Proof.Machine

/-! Machine/Hbm.lean. -/

theorem keeps_coolCheck {s₀} {s : State} (k) (hk : Keeps s₀ s) : Keeps s₀ (State.coolCheck s k) := by
  refine hk.trans ?_
  clear hk
  unfold State.coolCheck
  try dsimp only
  repeat' first
    | with_reducible apply Keeps.refl
    | with_reducible apply keeps_modStack

theorem keeps_setStep {s₀} {s : State} (k) (v) (hk : Keeps s₀ s) : Keeps s₀ (State.setStep s k v) := by
  refine hk.trans ?_
  clear hk
  unfold State.setStep
  try dsimp only
  repeat' first
    | with_reducible apply Keeps.refl
    | with_reducible apply Keeps.ite
    | with_reducible apply keeps_raise
    | with_reducible apply keeps_setRegField
    | with_reducible apply keeps_shortfall
    | with_reducible apply keeps_modStack

theorem keeps_setPower {s₀} {s : State} (v) (hk : Keeps s₀ s) : Keeps s₀ (State.setPower s v) := by
  refine hk.trans ?_
  clear hk
  unfold State.setPower
  try dsimp only
  repeat' first
    | with_reducible apply Keeps.refl
    | simp only [↓keeps_upd]
    | with_reducible apply Keeps.ite
    | with_reducible apply keeps_setRegField
    | with_reducible apply keeps_raise

theorem keeps_tempReadout {s₀} {s : State} (k) (t) (hk : Keeps s₀ s) : Keeps s₀ (State.tempReadout s k t) := by
  refine hk.trans ?_
  clear hk
  unfold State.tempReadout
  try dsimp only
  repeat' first
    | with_reducible apply Keeps.refl
    | with_reducible apply Keeps.ite
    | with_reducible apply keeps_setRegN
    | with_reducible apply keeps_modStack
    | with_reducible apply keeps_setStep
    | with_reducible apply keeps_status
    | with_reducible apply keeps_coolCheck
    | with_reducible apply keeps_setPower

theorem keeps_execHbmTempReadout (stack) (temp) (s : State) : ∃ t, execHbmTempReadout stack temp s = .next t ∧ Keeps s t := by
  unfold execHbmTempReadout
  try dsimp only
  repeat' first | with_reducible refine ⟨_, rfl, ?_⟩ | split
  all_goals repeat' first
    | with_reducible apply Keeps.refl
    | with_reducible apply keeps_tempReadout

theorem keeps_execThrottleStepFall (stack) (s : State) : ∃ t, execThrottleStepFall stack s = .next t ∧ Keeps s t := by
  unfold execThrottleStepFall
  try dsimp only
  repeat' first | with_reducible refine ⟨_, rfl, ?_⟩ | split
  all_goals repeat' first
    | with_reducible apply Keeps.refl
    | with_reducible apply keeps_reachUp
    | with_reducible apply keeps_coolCheck
    | with_reducible apply keeps_setStep

theorem keeps_execTempReadoutTimeout (stack) (s : State) : ∃ t, execTempReadoutTimeout stack s = .next t ∧ Keeps s t := by
  unfold execTempReadoutTimeout
  try dsimp only
  repeat' first | with_reducible refine ⟨_, rfl, ?_⟩ | split
  all_goals repeat' first
    | with_reducible apply Keeps.refl
    | with_reducible assumption
    | with_reducible apply Keeps.ite
    | with_reducible apply Keeps.ite_snd
    | with_reducible apply Keeps.ite_snd_snd
    | with_reducible apply Keeps.ite_snd_fst
    | with_reducible apply keeps_reachUp
    | with_reducible apply keeps_status
    | with_reducible apply keeps_setStep
    | with_reducible apply keeps_coolCheck

theorem keeps_hbCtrlSet {s₀} {s : State} (k) (v) (hk : Keeps s₀ s) : Keeps s₀ (State.hbCtrlSet s k v) := by
  refine hk.trans ?_
  clear hk
  unfold State.hbCtrlSet
  try dsimp only
  repeat' first
    | with_reducible apply Keeps.refl
    | with_reducible apply Keeps.ite
    | with_reducible apply keeps_setReg
    | with_reducible apply keeps_coolCheck
    | with_reducible apply keeps_setStep

theorem keeps_execHbmRefresh (stack) (s : State) : ∃ t, execHbmRefresh stack s = .next t ∧ Keeps s t := by
  unfold execHbmRefresh
  try dsimp only
  repeat' first | with_reducible refine ⟨_, rfl, ?_⟩ | split
  all_goals repeat' first
    | with_reducible apply Keeps.refl
    | with_reducible apply keeps_status

theorem keeps_execHbmCalibration (stack) (s : State) : ∃ t, execHbmCalibration stack s = .next t ∧ Keeps s t := by
  unfold execHbmCalibration
  try dsimp only
  repeat' first | with_reducible refine ⟨_, rfl, ?_⟩ | split
  all_goals repeat' first
    | with_reducible apply Keeps.refl
    | with_reducible apply keeps_modStack

theorem keeps_startRetrain {s₀} {s : State} (k) (c) (hk : Keeps s₀ s) : Keeps s₀ (State.startRetrain s k c) := by
  refine hk.trans ?_
  clear hk
  unfold State.startRetrain
  try dsimp only
  repeat' first
    | with_reducible apply Keeps.refl
    | simp only [↓keeps_upd]
    | with_reducible apply keeps_modStack
    | with_reducible apply keeps_status

theorem keeps_execChannelRetrainComplete (stack) (chan) (ok) (s : State) : ∃ t, execChannelRetrainComplete stack chan ok s = .next t ∧ Keeps s t := by
  unfold execChannelRetrainComplete
  try dsimp only
  repeat' first | with_reducible refine ⟨_, rfl, ?_⟩ | split
  all_goals repeat' first
    | with_reducible apply Keeps.refl
    | with_reducible assumption
    | simp only [↓keeps_upd]
    | with_reducible apply Keeps.ite
    | with_reducible apply Keeps.ite_snd
    | with_reducible apply Keeps.ite_snd_snd
    | with_reducible apply Keeps.ite_snd_fst
    | with_reducible apply keeps_raise
    | with_reducible apply keeps_startRetrain
    | with_reducible apply keeps_retrainEnds
    | with_reducible apply keeps_modStack
    | with_reducible apply keeps_retireDevice

theorem keeps_execRowRepairPending (stack) (chan) (row) (s : State) : ∃ t, execRowRepairPending stack chan row s = .next t ∧ Keeps s t := by
  unfold execRowRepairPending
  try dsimp only
  repeat' first | with_reducible refine ⟨_, rfl, ?_⟩ | split
  all_goals repeat' first
    | with_reducible apply Keeps.refl
    | with_reducible assumption
    | with_reducible apply Keeps.ite
    | with_reducible apply Keeps.ite_snd
    | with_reducible apply Keeps.ite_snd_snd
    | with_reducible apply Keeps.ite_snd_fst
    | with_reducible apply keeps_raise
    | with_reducible apply keeps_retireDevice

theorem keeps_bringUpStack {s₀} {s : State} (k) (f) (hk : Keeps s₀ s) : Keeps s₀ (State.bringUpStack s k f).2 := by
  refine hk.trans ?_
  clear hk
  unfold State.bringUpStack
  try dsimp only
  repeat' first
    | with_reducible apply Keeps.refl
    | with_reducible apply Keeps.ite
    | with_reducible apply Keeps.ite_snd
    | with_reducible apply Keeps.ite_snd_snd
    | with_reducible apply Keeps.ite_snd_fst
    | with_reducible apply Keeps.fold
    | with_reducible apply Keeps.fold_snd
    | with_reducible apply Keeps.fold_snd_snd
    | with_reducible apply keeps_modStack

theorem keeps_hbmBringUp {s₀} {s : State} (found) (hk : Keeps s₀ s) : Keeps s₀ (State.hbmBringUp s found) := by
  refine hk.trans ?_
  clear hk
  unfold State.hbmBringUp
  try dsimp only
  repeat' first
    | with_reducible apply Keeps.refl
    | simp only [↓keeps_upd]
    | with_reducible apply Keeps.ite
    | with_reducible apply Keeps.fold
    | with_reducible apply Keeps.fold_snd
    | with_reducible apply keeps_bringUpStack
    | with_reducible apply keeps_retireDevice
    | split
    | intro _

theorem keeps_hbScrubSet {s₀} {s : State} (k) (v) (hk : Keeps s₀ s) : Keeps s₀ (State.hbScrubSet s k v) := by
  refine hk.trans ?_
  clear hk
  unfold State.hbScrubSet
  try dsimp only
  repeat' first
    | with_reducible apply Keeps.refl
    | simp only [↓keeps_upd]
    | with_reducible apply Keeps.ite
    | with_reducible apply Keeps.ite_snd
    | with_reducible apply Keeps.ite_snd_snd
    | with_reducible apply Keeps.ite_snd_fst
    | with_reducible apply keeps_setReg
    | with_reducible apply keeps_status
    | with_reducible apply keeps_modStack

theorem keeps_passNow {s₀} {s : State} (k) (hk : Keeps s₀ s) : Keeps s₀ (State.passNow s k) := by
  refine hk.trans ?_
  clear hk
  unfold State.passNow
  try dsimp only
  repeat' first
    | with_reducible apply Keeps.refl
    | simp only [↓keeps_upd]
    | with_reducible apply Keeps.ite
    | with_reducible apply Keeps.ite_snd
    | with_reducible apply Keeps.ite_snd_snd
    | with_reducible apply Keeps.ite_snd_fst
    | with_reducible apply keeps_reachUp
    | with_reducible apply keeps_status
    | with_reducible apply keeps_modStack
    | split

theorem keeps_patrolRead {s₀} {s : State} (k) (c) (i) (seen) (hk : Keeps s₀ s) : Keeps s₀ (State.patrolRead s k c i seen) := by
  refine hk.trans ?_
  clear hk
  unfold State.patrolRead
  try dsimp only
  repeat' first
    | with_reducible apply Keeps.refl
    | simp only [↓keeps_upd]
    | with_reducible apply Keeps.ite
    | with_reducible apply Keeps.ite_snd
    | with_reducible apply Keeps.ite_snd_snd
    | with_reducible apply Keeps.ite_snd_fst
    | with_reducible apply keeps_hbmFetch
    | with_reducible apply keeps_modStack
    | with_reducible apply keeps_status
    | split

theorem keeps_execHbPatrolScrub (stack) (chan) (sector) (seen) (s : State) : ∃ t, execHbPatrolScrub stack chan sector seen s = .next t ∧ Keeps s t := by
  unfold execHbPatrolScrub
  try dsimp only
  repeat' first | with_reducible refine ⟨_, rfl, ?_⟩ | split
  all_goals repeat' first
    | with_reducible apply Keeps.refl
    | with_reducible assumption
    | with_reducible apply Keeps.ite
    | with_reducible apply Keeps.ite_snd
    | with_reducible apply Keeps.ite_snd_snd
    | with_reducible apply Keeps.ite_snd_fst
    | with_reducible apply keeps_passNow
    | with_reducible apply keeps_patrolRead
    | with_reducible apply keeps_raise
    | with_reducible apply keeps_startRetrain

theorem keeps_execScrubLate (stack) (s : State) : ∃ t, execScrubLate stack s = .next t ∧ Keeps s t := by
  unfold execScrubLate
  try dsimp only
  repeat' first | with_reducible refine ⟨_, rfl, ?_⟩ | split
  all_goals repeat' first
    | with_reducible apply Keeps.refl
    | with_reducible assumption
    | with_reducible apply Keeps.ite
    | with_reducible apply Keeps.ite_snd
    | with_reducible apply Keeps.ite_snd_snd
    | with_reducible apply Keeps.ite_snd_fst
    | with_reducible apply keeps_reachUp
    | with_reducible apply keeps_status

/-! Machine/Reliability.lean. -/

theorem keeps_seatStall {s₀} {s : State} (n) (hk : Keeps s₀ s) : Keeps s₀ (State.seatStall s n) := by
  refine hk.trans ?_
  clear hk
  unfold State.seatStall
  try dsimp only
  repeat' first
    | with_reducible apply Keeps.refl
    | simp only [↓keeps_upd]
    | with_reducible apply Keeps.ite
    | with_reducible apply Keeps.ite_snd
    | with_reducible apply Keeps.ite_snd_snd
    | with_reducible apply Keeps.ite_snd_fst
    | with_reducible apply keeps_reach
    | with_reducible apply keeps_errorRecord
    | with_reducible apply keeps_toState
    | with_reducible apply keeps_voidSeat
    | with_reducible apply keeps_modSeat
    | with_reducible apply keeps_logFault
    | with_reducible apply keeps_originate
    | split

theorem keeps_execSeatWatchdogExpiry (seat) (s : State) : ∃ t, execSeatWatchdogExpiry seat s = .next t ∧ Keeps s t := by
  unfold execSeatWatchdogExpiry
  try dsimp only
  repeat' first | with_reducible refine ⟨_, rfl, ?_⟩ | split
  all_goals repeat' first
    | with_reducible apply Keeps.refl
    | with_reducible apply keeps_seatStall

theorem keeps_seatDrain {s₀} {s : State} (n) (hk : Keeps s₀ s) : Keeps s₀ (State.seatDrain s n) := by
  refine hk.trans ?_
  clear hk
  unfold State.seatDrain
  try dsimp only
  repeat' first
    | with_reducible apply Keeps.refl
    | simp only [↓keeps_upd]
    | with_reducible apply Keeps.ite
    | with_reducible apply Keeps.ite_snd
    | with_reducible apply Keeps.ite_snd_snd
    | with_reducible apply Keeps.ite_snd_fst
    | with_reducible apply keeps_reach
    | with_reducible apply keeps_modSeat
    | with_reducible apply keeps_logFault
    | with_reducible apply keeps_startPartReset
    | split

theorem keeps_execSeatDrainExpiry (seat) (s : State) : ∃ t, execSeatDrainExpiry seat s = .next t ∧ Keeps s t := by
  unfold execSeatDrainExpiry
  try dsimp only
  repeat' first | with_reducible refine ⟨_, rfl, ?_⟩ | split
  all_goals repeat' first
    | with_reducible apply Keeps.refl
    | with_reducible apply keeps_seatDrain

theorem keeps_partStall {s₀} {s : State} (p) (hk : Keeps s₀ s) : Keeps s₀ (State.partStall s p) := by
  refine hk.trans ?_
  clear hk
  unfold State.partStall
  try dsimp only
  repeat' first
    | with_reducible apply Keeps.refl
    | with_reducible apply Keeps.ite
    | with_reducible apply Keeps.ite_snd
    | with_reducible apply Keeps.ite_snd_snd
    | with_reducible apply Keeps.ite_snd_fst
    | with_reducible apply keeps_reach
    | with_reducible apply keeps_logFault
    | with_reducible apply keeps_startPartReset
    | split

theorem keeps_execPartWatchdogExpiry (part) (s : State) : ∃ t, execPartWatchdogExpiry part s = .next t ∧ Keeps s t := by
  unfold execPartWatchdogExpiry
  try dsimp only
  repeat' first | with_reducible refine ⟨_, rfl, ?_⟩ | split
  all_goals repeat' first
    | with_reducible apply Keeps.refl
    | with_reducible apply keeps_partStall

theorem keeps_resetParts {s₀} {s : State} (v) (hk : Keeps s₀ s) : Keeps s₀ (State.resetParts s v) := by
  refine hk.trans ?_
  clear hk
  unfold State.resetParts
  try dsimp only
  repeat' first
    | with_reducible apply Keeps.refl
    | with_reducible apply Keeps.fold
    | with_reducible apply keeps_startPartReset
    | intro _

theorem keeps_execPartitionResetCmd (value) (s : State) : ∃ t, execPartitionResetCmd value s = .next t ∧ Keeps s t := by
  unfold execPartitionResetCmd
  try dsimp only
  repeat' first | with_reducible refine ⟨_, rfl, ?_⟩ | split
  all_goals repeat' first
    | with_reducible apply Keeps.refl
    | with_reducible apply keeps_resetParts

theorem keeps_execPartitionReset (part) (cause) (s : State) : ∃ t, execPartitionReset part cause s = .next t ∧ Keeps s t := by
  unfold execPartitionReset
  try dsimp only
  repeat' first | with_reducible refine ⟨_, rfl, ?_⟩ | split
  all_goals repeat' first
    | with_reducible apply Keeps.refl
    | with_reducible apply keeps_startPartReset

theorem keeps_partResetEnd {s₀} {s : State} (p) (hk : Keeps s₀ s) : Keeps s₀ (State.partResetEnd s p) := by
  refine hk.trans ?_
  clear hk
  unfold State.partResetEnd
  try dsimp only
  repeat' first
    | with_reducible apply Keeps.refl
    | with_reducible apply Keeps.ite
    | with_reducible apply Keeps.ite_snd
    | with_reducible apply Keeps.ite_snd_snd
    | with_reducible apply Keeps.ite_snd_fst
    | with_reducible apply keeps_logFault
    | with_reducible apply keeps_finishPartReset
    | split

theorem keeps_execPartitionResetEnd (part) (s : State) : ∃ t, execPartitionResetEnd part s = .next t ∧ Keeps s t := by
  unfold execPartitionResetEnd
  try dsimp only
  repeat' first | with_reducible refine ⟨_, rfl, ?_⟩ | split
  all_goals repeat' first
    | with_reducible apply Keeps.refl
    | with_reducible apply keeps_partResetEnd

theorem keeps_selectSlot {s₀} {s : State} (hk : Keeps s₀ s) : Keeps s₀ (State.selectSlot s) := by
  refine hk.trans ?_
  clear hk
  unfold State.selectSlot
  try dsimp only
  repeat' first
    | with_reducible apply Keeps.refl
    | simp only [↓keeps_upd]

theorem keeps_romStart {s₀} {s : State} (hk : Keeps s₀ s) : Keeps s₀ (State.romStart s) := by
  refine hk.trans ?_
  clear hk
  unfold State.romStart
  try dsimp only
  repeat' first
    | with_reducible apply Keeps.refl
    | simp only [↓keeps_upd]
    | with_reducible apply keeps_selectSlot

theorem keeps_newSeed {s₀} {s : State} (hk : Keeps s₀ s) : Keeps s₀ (State.newSeed s) := by
  refine hk.trans ?_
  clear hk
  unfold State.newSeed
  try dsimp only
  repeat' first
    | with_reducible apply Keeps.refl
    | simp only [↓keeps_upd]

theorem keeps_loadTime {s₀} {s : State} (hk : Keeps s₀ s) : Keeps s₀ (State.loadTime s) := by
  refine hk.trans ?_
  clear hk
  unfold State.loadTime
  try dsimp only
  repeat' first
    | with_reducible apply Keeps.refl
    | with_reducible apply keeps_tbCtrlSet

theorem keeps_foldDevice {s₀} {s : State} (hk : Keeps s₀ s) : Keeps s₀ (State.foldDevice s) := by
  refine hk.trans ?_
  clear hk
  unfold State.foldDevice
  try dsimp only
  repeat' first
    | with_reducible apply Keeps.refl
    | with_reducible apply Keeps.fold
    | with_reducible apply keeps_foldPart
    | with_reducible apply keeps_foldWide
    | with_reducible apply keeps_foldNarrow
    | intro _

theorem keeps_keepRegs {s₀} {s : State} (keep) (hk : Keeps s₀ s) : Keeps s₀ (State.keepRegs s keep) := by
  refine hk.trans ?_
  clear hk
  unfold State.keepRegs
  try dsimp only
  repeat' first
    | with_reducible apply Keeps.refl
    | simp only [↓keeps_upd]

theorem keeps_clearSeats {s₀} {s : State} (hk : Keeps s₀ s) : Keeps s₀ (State.clearSeats s) := by
  refine hk.trans ?_
  clear hk
  unfold State.clearSeats
  try dsimp only
  repeat' first
    | with_reducible apply Keeps.refl
    | simp only [↓keeps_upd]
    | with_reducible apply Keeps.ite
    | with_reducible apply Keeps.ite_snd
    | with_reducible apply Keeps.ite_snd_snd
    | with_reducible apply Keeps.ite_snd_fst
    | with_reducible apply Keeps.fold
    | with_reducible apply Keeps.fold_snd
    | with_reducible apply Keeps.fold_snd_snd
    | with_reducible apply keeps_toState
    | split
    | intro _

theorem keeps_clearCore {s₀} {s : State} (hk : Keeps s₀ s) : Keeps s₀ (State.clearCore s) :=
  have h := keeps_clearSeats (keeps_keepRegs (fun o => alwaysOn o || deviceKept o) (keeps_emptyBanks hk))
  ⟨h.pending, h.variant, h.stepping, h.serial, fun _ => rfl, h.hbm⟩

theorem keeps_clearAlways {s₀} {s : State} (hk : Keeps s₀ s) : Keeps s₀ (State.clearAlways s) := by
  refine hk.trans ?_
  clear hk
  unfold State.clearAlways
  try dsimp only
  repeat' first
    | with_reducible apply Keeps.refl
    | simp only [↓keeps_upd]
    | with_reducible apply keeps_keepRegs

theorem keeps_ctrlOut {s₀} {s : State} (n) (hk : Keeps s₀ s) : Keeps s₀ (State.ctrlOut s n) := by
  refine hk.trans ?_
  clear hk
  unfold State.ctrlOut
  try dsimp only
  repeat' first
    | with_reducible apply Keeps.refl
    | with_reducible apply Keeps.ite
    | with_reducible apply Keeps.ite_snd
    | with_reducible apply Keeps.ite_snd_snd
    | with_reducible apply Keeps.ite_snd_fst
    | with_reducible apply Keeps.fold
    | with_reducible apply Keeps.fold_snd
    | with_reducible apply Keeps.fold_snd_snd
    | with_reducible apply keeps_turnBegin
    | split
    | intro _

theorem keeps_allForfeits {s₀} {s : State} (hk : Keeps s₀ s) : Keeps s₀ (State.allForfeits s) := by
  refine hk.trans ?_
  clear hk
  unfold State.allForfeits
  try dsimp only
  repeat' first
    | with_reducible apply Keeps.refl
    | simp only [↓keeps_upd]
    | with_reducible apply Keeps.ite
    | with_reducible apply Keeps.ite_snd
    | with_reducible apply Keeps.ite_snd_snd
    | with_reducible apply Keeps.ite_snd_fst
    | with_reducible apply Keeps.fold
    | with_reducible apply Keeps.fold_snd
    | with_reducible apply Keeps.fold_snd_snd
    | with_reducible apply keeps_ctrlOut
    | with_reducible apply keeps_reach
    | with_reducible apply keeps_forfeitsOf
    | split
    | intro _

theorem keeps_endDeviceParts {s₀} {s : State} (hk : Keeps s₀ s) : Keeps s₀ (State.endDeviceParts s) := by
  refine hk.trans ?_
  clear hk
  unfold State.endDeviceParts
  try dsimp only
  repeat' first
    | with_reducible apply Keeps.refl
    | with_reducible apply Keeps.ite
    | with_reducible apply Keeps.fold
    | with_reducible apply keeps_finishPartReset
    | intro _

theorem keeps_deviceSteps {s₀} {s : State} (found) (hk : Keeps s₀ s) : Keeps s₀ (State.deviceSteps s found) := by
  refine hk.trans ?_
  clear hk
  unfold State.deviceSteps
  try dsimp only
  repeat' first
    | with_reducible apply Keeps.refl
    | simp only [↓keeps_upd]
    | with_reducible apply Keeps.ite
    | with_reducible apply Keeps.ite_snd
    | with_reducible apply Keeps.ite_snd_snd
    | with_reducible apply Keeps.ite_snd_fst
    | with_reducible apply Keeps.fold
    | with_reducible apply Keeps.fold_snd
    | with_reducible apply Keeps.fold_snd_snd
    | with_reducible apply keeps_clearAlways
    | with_reducible apply keeps_romStart
    | with_reducible apply keeps_wakeDone
    | with_reducible apply keeps_allForfeits
    | with_reducible apply keeps_foldDevice
    | with_reducible apply keeps_clearCore
    | with_reducible apply keeps_newSeed
    | with_reducible apply keeps_hbmBringUp
    | with_reducible apply keeps_endDeviceParts
    | split
    | intro _

theorem keeps_hostDeviceReset {s₀} {s : State} (hk : Keeps s₀ s) : Keeps s₀ (State.hostDeviceReset s) := by
  refine hk.trans ?_
  clear hk
  unfold State.hostDeviceReset
  try dsimp only
  repeat' first
    | with_reducible apply Keeps.refl
    | with_reducible apply Keeps.ite
    | with_reducible apply keeps_startDeviceReset

theorem keeps_execDeviceResetCmd (value) (s : State) : ∃ t, execDeviceResetCmd value s = .next t ∧ Keeps s t := by
  unfold execDeviceResetCmd
  try dsimp only
  repeat' first | with_reducible refine ⟨_, rfl, ?_⟩ | split
  all_goals repeat' first
    | with_reducible apply Keeps.refl
    | with_reducible apply keeps_hostDeviceReset

theorem keeps_deviceReset {s₀} {s : State} (cause) (found) (hk : Keeps s₀ s) : Keeps s₀ (State.deviceReset s cause found) := by
  refine hk.trans ?_
  clear hk
  unfold State.deviceReset
  try dsimp only
  repeat' first
    | with_reducible apply Keeps.refl
    | with_reducible apply Keeps.ite
    | with_reducible apply keeps_deviceSteps
    | with_reducible apply keeps_startDeviceReset

theorem keeps_execDeviceReset (cause) (found) (s : State) : ∃ t, execDeviceReset cause found s = .next t ∧ Keeps s t := by
  unfold execDeviceReset
  try dsimp only
  repeat' first | with_reducible refine ⟨_, rfl, ?_⟩ | split
  all_goals repeat' first
    | with_reducible apply Keeps.refl
    | with_reducible apply keeps_deviceReset

theorem keeps_execDeviceResetEnd (s : State) : ∃ t, execDeviceResetEnd s = .next t ∧ Keeps s t := by
  unfold execDeviceResetEnd
  try dsimp only
  repeat' first | with_reducible refine ⟨_, rfl, ?_⟩ | split
  all_goals repeat' first
    | with_reducible apply Keeps.refl
    | simp only [↓keeps_upd]

theorem keeps_forfeitCmd {s₀} {s : State} (value) (hk : Keeps s₀ s) : Keeps s₀ (State.forfeitCmd s value) := by
  refine hk.trans ?_
  clear hk
  unfold State.forfeitCmd
  try dsimp only
  repeat' first
    | with_reducible apply Keeps.refl
    | with_reducible apply Keeps.ite
    | with_reducible apply keeps_originate

theorem keeps_execForfeitCmd (value) (s : State) : ∃ t, execForfeitCmd value s = .next t ∧ Keeps s t := by
  unfold execForfeitCmd
  try dsimp only
  repeat' first | with_reducible refine ⟨_, rfl, ?_⟩ | split
  all_goals repeat' first
    | with_reducible apply Keeps.refl
    | with_reducible apply keeps_forfeitCmd

theorem keeps_pairMaskSet {s₀} {s : State} (v) (hk : Keeps s₀ s) : Keeps s₀ (State.pairMaskSet s v) := by
  refine hk.trans ?_
  clear hk
  unfold State.pairMaskSet
  try dsimp only
  repeat' first
    | with_reducible apply Keeps.refl
    | with_reducible apply Keeps.ite
    | with_reducible apply keeps_setRegN
    | with_reducible apply keeps_logConfig

theorem keeps_shake {s₀} {s : State} (p) (u) (test) (cond) (hottest) (hk : Keeps s₀ s) : Keeps s₀ (State.shake s p u test cond hottest) := by
  refine hk.trans ?_
  clear hk
  unfold State.shake
  try dsimp only
  repeat' first
    | with_reducible apply Keeps.refl
    | simp only [↓keeps_upd]
    | with_reducible apply Keeps.ite
    | with_reducible apply keeps_reachUp
    | with_reducible apply keeps_modPart

theorem keeps_execShakerTest (part) (unit) (test) (cond) (hottest) (s : State) : ∃ t, execShakerTest part unit test cond hottest s = .next t ∧ Keeps s t := by
  unfold execShakerTest
  try dsimp only
  repeat' first | with_reducible refine ⟨_, rfl, ?_⟩ | split
  all_goals repeat' first
    | with_reducible apply Keeps.refl
    | with_reducible apply keeps_shake

theorem keeps_shakeFailed {s₀} {s : State} (p) (u) (cond) (hk : Keeps s₀ s) : Keeps s₀ (State.shakeFailed s p u cond) := by
  refine hk.trans ?_
  clear hk
  unfold State.shakeFailed
  try dsimp only
  repeat' first
    | with_reducible apply Keeps.refl
    | with_reducible apply Keeps.ite
    | with_reducible apply keeps_logArray
    | with_reducible apply keeps_setObj
    | with_reducible apply keeps_countFault
    | with_reducible apply keeps_status
    | with_reducible apply keeps_bumpObj
    | split

theorem keeps_shakeEnd {s₀} {s : State} (p) (u) (passed) (hk : Keeps s₀ s) : Keeps s₀ (State.shakeEnd s p u passed) := by
  refine hk.trans ?_
  clear hk
  unfold State.shakeEnd
  try dsimp only
  repeat' first
    | with_reducible apply Keeps.refl
    | with_reducible apply Keeps.ite
    | with_reducible apply keeps_takeBack
    | with_reducible apply keeps_shakeFailed
    | with_reducible apply keeps_gatePart
    | with_reducible apply keeps_modPart
    | split

theorem keeps_execShakerTestEnd (part) (unit) (passed) (s : State) : ∃ t, execShakerTestEnd part unit passed s = .next t ∧ Keeps s t := by
  unfold execShakerTestEnd
  try dsimp only
  repeat' first | with_reducible refine ⟨_, rfl, ?_⟩ | split
  all_goals repeat' first
    | with_reducible apply Keeps.refl
    | with_reducible apply keeps_shakeEnd

/-! Machine/FieldNet.lean. -/

theorem keeps_setErrs {s₀} {s : State} (tec) (rx) (hk : Keeps s₀ s) : Keeps s₀ (State.setErrs s tec rx) := by
  refine hk.trans ?_
  clear hk
  unfold State.setErrs
  try dsimp only
  repeat' first
    | with_reducible apply Keeps.refl
    | simp only [↓keeps_upd]
    | with_reducible apply Keeps.ite
    | with_reducible apply keeps_raise

theorem keeps_frameIn {s₀} {s : State} (hk : Keeps s₀ s) : Keeps s₀ (State.frameIn s) := by
  refine hk.trans ?_
  clear hk
  unfold State.frameIn
  try dsimp only
  repeat' first
    | with_reducible apply Keeps.refl
    | with_reducible apply keeps_setErrs
    | with_reducible apply keeps_bumpObj

theorem keeps_queueFrame {s₀} {s : State} (code) (data) (hk : Keeps s₀ s) : Keeps s₀ (State.queueFrame s code data) := by
  refine hk.trans ?_
  clear hk
  unfold State.queueFrame
  try dsimp only
  repeat' first
    | with_reducible apply Keeps.refl
    | simp only [↓keeps_upd]
    | with_reducible apply Keeps.ite

theorem keeps_frameSent {s₀} {s : State} (acked) (hk : Keeps s₀ s) : Keeps s₀ (State.frameSent s acked) := by
  refine hk.trans ?_
  clear hk
  unfold State.frameSent
  try dsimp only
  repeat' first
    | with_reducible apply Keeps.refl
    | simp only [↓keeps_upd]
    | with_reducible apply Keeps.ite
    | with_reducible apply keeps_emit
    | with_reducible apply keeps_bumpObj
    | with_reducible apply keeps_setErrs
    | split

theorem keeps_execCanFrameSent (acked) (s : State) : ∃ t, execCanFrameSent acked s = .next t ∧ Keeps s t := by
  unfold execCanFrameSent
  try dsimp only
  repeat' first | with_reducible refine ⟨_, rfl, ?_⟩ | split
  all_goals repeat' first
    | with_reducible apply Keeps.refl
    | with_reducible apply keeps_frameSent

theorem keeps_execLonely (s : State) : ∃ t, execLonely s = .next t ∧ Keeps s t := by
  unfold execLonely
  try dsimp only
  repeat' first | with_reducible refine ⟨_, rfl, ?_⟩ | split
  all_goals repeat' first
    | with_reducible apply Keeps.refl
    | simp only [↓keeps_upd]
    | with_reducible apply keeps_bumpObj
    | with_reducible apply keeps_raise

theorem keeps_execBusOffRecovery (s : State) : ∃ t, execBusOffRecovery s = .next t ∧ Keeps s t := by
  unfold execBusOffRecovery
  try dsimp only
  repeat' first | with_reducible refine ⟨_, rfl, ?_⟩ | split
  all_goals repeat' first
    | with_reducible apply Keeps.refl
    | simp only [↓keeps_upd]

theorem keeps_execCanReceiveError (amount) (s : State) : ∃ t, execCanReceiveError amount s = .next t ∧ Keeps s t := by
  unfold execCanReceiveError
  try dsimp only
  repeat' first | with_reducible refine ⟨_, rfl, ?_⟩ | split
  all_goals repeat' first
    | with_reducible apply Keeps.refl
    | with_reducible apply keeps_setErrs

theorem keeps_execDataPhaseRateChange (s : State) : ∃ t, execDataPhaseRateChange s = .next t ∧ Keeps s t := by
  unfold execDataPhaseRateChange
  try dsimp only
  repeat' first | with_reducible refine ⟨_, rfl, ?_⟩ | split
  all_goals repeat' first
    | with_reducible apply Keeps.refl
    | simp only [↓keeps_upd]
    | with_reducible apply keeps_reachUp

theorem keeps_listen {s₀} {s : State} (hk : Keeps s₀ s) : Keeps s₀ (State.listen s) := by
  refine hk.trans ?_
  clear hk
  unfold State.listen
  try dsimp only
  repeat' first
    | with_reducible apply Keeps.refl
    | simp only [↓keeps_upd]

theorem keeps_elect {s₀} {s : State} (hk : Keeps s₀ s) : Keeps s₀ (State.elect s) := by
  refine hk.trans ?_
  clear hk
  unfold State.elect
  try dsimp only
  repeat' first
    | with_reducible apply Keeps.refl
    | simp only [↓keeps_upd]

theorem keeps_chainFallback {s₀} {s : State} (hk : Keeps s₀ s) : Keeps s₀ (State.chainFallback s) := by
  refine hk.trans ?_
  clear hk
  unfold State.chainFallback
  try dsimp only
  repeat' first
    | with_reducible apply Keeps.refl
    | with_reducible apply keeps_elect
    | with_reducible apply keeps_raise

theorem keeps_takeAddress {s₀} {s : State} (addr) (source) (index) (hk : Keeps s₀ s) : Keeps s₀ (State.takeAddress s addr source index) := by
  refine hk.trans ?_
  clear hk
  unfold State.takeAddress
  try dsimp only
  repeat' first
    | with_reducible apply Keeps.refl
    | simp only [↓keeps_upd]
    | with_reducible apply keeps_queueFrame

theorem keeps_takeIndex {s₀} {s : State} (k) (hk : Keeps s₀ s) : Keeps s₀ (State.takeIndex s k) := by
  refine hk.trans ?_
  clear hk
  unfold State.takeIndex
  try dsimp only
  repeat' first
    | with_reducible apply Keeps.refl
    | with_reducible apply Keeps.ite
    | with_reducible apply keeps_chainFallback
    | with_reducible apply keeps_takeAddress

theorem keeps_enableNet {s₀} {s : State} (hk : Keeps s₀ s) : Keeps s₀ (State.enableNet s) := by
  refine hk.trans ?_
  clear hk
  unfold State.enableNet
  try dsimp only
  repeat' first
    | with_reducible apply Keeps.refl
    | simp only [↓keeps_upd]
    | with_reducible apply Keeps.ite
    | with_reducible apply keeps_listen

theorem keeps_execChainInFrame (count) (s : State) : ∃ t, execChainInFrame count s = .next t ∧ Keeps s t := by
  unfold execChainInFrame
  try dsimp only
  repeat' first | with_reducible refine ⟨_, rfl, ?_⟩ | split
  all_goals repeat' first
    | with_reducible apply Keeps.refl
    | simp only [↓keeps_upd]
    | with_reducible apply keeps_takeIndex

theorem keeps_execChainInHighTimeout (s : State) : ∃ t, execChainInHighTimeout s = .next t ∧ Keeps s t := by
  unfold execChainInHighTimeout
  try dsimp only
  repeat' first | with_reducible refine ⟨_, rfl, ?_⟩ | split
  all_goals repeat' first
    | with_reducible apply Keeps.refl
    | with_reducible apply keeps_takeIndex
    | with_reducible apply keeps_reachUp

theorem keeps_execChainInLowTimeout (s : State) : ∃ t, execChainInLowTimeout s = .next t ∧ Keeps s t := by
  unfold execChainInLowTimeout
  try dsimp only
  repeat' first | with_reducible refine ⟨_, rfl, ?_⟩ | split
  all_goals repeat' first
    | with_reducible apply Keeps.refl
    | with_reducible apply keeps_chainFallback
    | with_reducible apply keeps_reachUp

theorem keeps_execChainOutFrame (s : State) : ∃ t, execChainOutFrame s = .next t ∧ Keeps s t := by
  unfold execChainOutFrame
  try dsimp only
  repeat' first | with_reducible refine ⟨_, rfl, ?_⟩ | split
  all_goals repeat' first
    | with_reducible apply Keeps.refl
    | simp only [↓keeps_upd]
    | with_reducible apply keeps_reachUp
    | with_reducible apply keeps_emit

theorem keeps_execElectionListenEnd (s : State) : ∃ t, execElectionListenEnd s = .next t ∧ Keeps s t := by
  unfold execElectionListenEnd
  try dsimp only
  repeat' first | with_reducible refine ⟨_, rfl, ?_⟩ | split
  all_goals repeat' first
    | with_reducible apply Keeps.refl
    | simp only [↓keeps_upd]
    | with_reducible apply keeps_reachUp

theorem keeps_bid {s₀} {s : State} (r) (hk : Keeps s₀ s) : Keeps s₀ (State.bid s r) := by
  refine hk.trans ?_
  clear hk
  unfold State.bid
  try dsimp only
  repeat' first
    | with_reducible apply Keeps.refl
    | simp only [↓keeps_upd]

theorem keeps_execElectionOpen (s : State) : ∃ t, execElectionOpen s = .next t ∧ Keeps s t := by
  unfold execElectionOpen
  try dsimp only
  repeat' first | with_reducible refine ⟨_, rfl, ?_⟩ | split
  all_goals repeat' first
    | with_reducible apply Keeps.refl
    | with_reducible apply keeps_bid
    | with_reducible apply keeps_reachUp

theorem keeps_bidSeen {s₀} {s : State} (digit) (hk : Keeps s₀ s) : Keeps s₀ (State.bidSeen s digit) := by
  refine hk.trans ?_
  clear hk
  unfold State.bidSeen
  try dsimp only
  repeat' first
    | with_reducible apply Keeps.refl
    | simp only [↓keeps_upd]
    | with_reducible apply Keeps.ite
    | with_reducible apply keeps_frameIn
    | with_reducible apply keeps_bid
    | with_reducible apply keeps_takeAddress
    | split

theorem keeps_execBidReceived (digit) (s : State) : ∃ t, execBidReceived digit s = .next t ∧ Keeps s t := by
  unfold execBidReceived
  try dsimp only
  repeat' first | with_reducible refine ⟨_, rfl, ?_⟩ | split
  all_goals repeat' first
    | with_reducible apply Keeps.refl
    | with_reducible apply keeps_bidSeen

theorem keeps_hearFrom {s₀} {s : State} (a) (hk : Keeps s₀ s) : Keeps s₀ (State.hearFrom s a) := by
  refine hk.trans ?_
  clear hk
  unfold State.hearFrom
  try dsimp only
  repeat' first
    | with_reducible apply Keeps.refl
    | simp only [↓keeps_upd]
    | with_reducible apply Keeps.ite
    | with_reducible apply keeps_frameIn
    | with_reducible apply keeps_raise
    | with_reducible apply keeps_elect

theorem keeps_execClaimReceived (addr) (_serial) (s : State) : ∃ t, execClaimReceived addr _serial s = .next t ∧ Keeps s t := by
  unfold execClaimReceived
  try dsimp only
  repeat' first | with_reducible refine ⟨_, rfl, ?_⟩ | split
  all_goals repeat' first
    | with_reducible apply Keeps.refl
    | with_reducible apply keeps_hearFrom

theorem keeps_execHeartbeatReceived (addr) (s : State) : ∃ t, execHeartbeatReceived addr s = .next t ∧ Keeps s t := by
  unfold execHeartbeatReceived
  try dsimp only
  repeat' first | with_reducible refine ⟨_, rfl, ?_⟩ | split
  all_goals repeat' first
    | with_reducible apply Keeps.refl
    | with_reducible apply keeps_hearFrom

theorem keeps_execReaddress (target) (s : State) : ∃ t, execReaddress target s = .next t ∧ Keeps s t := by
  unfold execReaddress
  try dsimp only
  repeat' first | with_reducible refine ⟨_, rfl, ?_⟩ | split
  all_goals repeat' first
    | with_reducible apply Keeps.refl
    | with_reducible apply keeps_frameIn
    | with_reducible apply keeps_listen

theorem keeps_execHeartbeatSend (s : State) : ∃ t, execHeartbeatSend s = .next t ∧ Keeps s t := by
  unfold execHeartbeatSend
  generalize 1000000000 = d
  refine ⟨_, rfl, ?_⟩
  apply Keeps.ite
  · exact Keeps.refl s
  · refine keeps_queueFrame _ _ ?_
    simp only [↓keeps_upd]
    exact keeps_reachUp _ (Keeps.refl s)

theorem keeps_execAlarmSend (s : State) : ∃ t, execAlarmSend s = .next t ∧ Keeps s t := by
  unfold execAlarmSend
  try dsimp only
  repeat' first | with_reducible refine ⟨_, rfl, ?_⟩ | split
  all_goals repeat' first
    | with_reducible apply Keeps.refl
    | simp only [↓keeps_upd]
    | with_reducible apply keeps_reachUp
    | with_reducible apply keeps_queueFrame

theorem keeps_tunnelIn {s₀} {s : State} (first) (last) (counter) (data) (hk : Keeps s₀ s) : Keeps s₀ (State.tunnelIn s first last counter data) := by
  refine hk.trans ?_
  clear hk
  unfold State.tunnelIn
  try dsimp only
  repeat' first
    | with_reducible apply Keeps.refl
    | simp only [↓keeps_upd]
    | with_reducible apply Keeps.ite
    | split

theorem keeps_execTunnelReq (first) (last) (counter) (data) (s : State) : ∃ t, execTunnelReq first last counter data s = .next t ∧ Keeps s t := by
  unfold execTunnelReq
  try dsimp only
  repeat' first | with_reducible refine ⟨_, rfl, ?_⟩ | split
  all_goals repeat' first
    | with_reducible apply Keeps.refl
    | with_reducible apply keeps_tunnelIn
    | with_reducible apply keeps_frameIn

theorem keeps_tunnelOut {s₀} {s : State} (msg) (hk : Keeps s₀ s) : Keeps s₀ (State.tunnelOut s msg) := by
  refine hk.trans ?_
  clear hk
  unfold State.tunnelOut
  try dsimp only
  repeat' first
    | with_reducible apply Keeps.refl
    | with_reducible apply Keeps.fold
    | with_reducible apply keeps_queueFrame
    | intro _

/-! Machine/Security.lean. -/

theorem keeps_respond {s₀} {s : State} (path) (msg) (hk : Keeps s₀ s) : Keeps s₀ (State.respond s path msg) := by
  refine hk.trans ?_
  clear hk
  unfold State.respond
  try dsimp only
  repeat' first
    | with_reducible apply Keeps.refl
    | simp only [↓keeps_upd]
    | with_reducible apply keeps_emit
    | with_reducible apply keeps_tunnelOut
    | split

theorem keeps_spdm (s : State) (path) (go) (hgo : ∀ s₀ u, Keeps s₀ u → Keeps s₀ (go u).2) : ∃ t, State.spdm s path go = .next t ∧ Keeps s t := by
  unfold State.spdm
  try dsimp only
  repeat' first | with_reducible refine ⟨_, rfl, ?_⟩ | split
  all_goals repeat' first
    | with_reducible apply Keeps.refl
    | with_reducible apply keeps_respond
    | with_reducible apply hgo

theorem keeps_execSpdmGetVersion (path) (s : State) : ∃ t, execSpdmGetVersion path s = .next t ∧ Keeps s t := by
  unfold execSpdmGetVersion
  try dsimp only
  repeat' first | with_reducible apply keeps_spdm | with_reducible refine ⟨_, rfl, ?_⟩ | split
  all_goals try dsimp only
  all_goals repeat' first
    | with_reducible assumption
    | intro _

theorem keeps_execSpdmGetCapabilities (path) (s : State) : ∃ t, execSpdmGetCapabilities path s = .next t ∧ Keeps s t := by
  unfold execSpdmGetCapabilities
  try dsimp only
  repeat' first | with_reducible apply keeps_spdm | with_reducible refine ⟨_, rfl, ?_⟩ | split
  all_goals try dsimp only
  all_goals repeat' with_reducible apply keeps_draw

theorem keeps_execSpdmNegotiateAlgorithms (path) (request) (s : State) : ∃ t, execSpdmNegotiateAlgorithms path request s = .next t ∧ Keeps s t := by
  unfold execSpdmNegotiateAlgorithms
  try dsimp only
  repeat' first | with_reducible apply keeps_spdm | with_reducible refine ⟨_, rfl, ?_⟩ | split
  all_goals try dsimp only
  all_goals repeat' first
    | with_reducible assumption
    | intro _

theorem keeps_execSpdmGetDigests (path) (s : State) : ∃ t, execSpdmGetDigests path s = .next t ∧ Keeps s t := by
  unfold execSpdmGetDigests
  try dsimp only
  repeat' first | with_reducible apply keeps_spdm | with_reducible refine ⟨_, rfl, ?_⟩ | split
  all_goals try dsimp only
  all_goals repeat' first
    | with_reducible assumption
    | intro _

theorem keeps_execSpdmGetCertificate (path) (slot) (offset) (length) (s : State) : ∃ t, execSpdmGetCertificate path slot offset length s = .next t ∧ Keeps s t := by
  unfold execSpdmGetCertificate
  try dsimp only
  repeat' first | with_reducible apply keeps_spdm | with_reducible refine ⟨_, rfl, ?_⟩ | split
  all_goals repeat' first
    | with_reducible assumption
    | split
    | intro _

theorem keeps_execSpdmChallenge (path) (slot) (nonce) (s : State) : ∃ t, execSpdmChallenge path slot nonce s = .next t ∧ Keeps s t := by
  unfold execSpdmChallenge
  try dsimp only
  repeat' first | with_reducible apply keeps_spdm | with_reducible refine ⟨_, rfl, ?_⟩ | split
  all_goals try dsimp only
  all_goals repeat' first
    | with_reducible assumption
    | with_reducible apply keeps_drbgStep
    | intro _

theorem keeps_execSpdmGetMeasurements (path) (index) (nonce) (s : State) : ∃ t, execSpdmGetMeasurements path index nonce s = .next t ∧ Keeps s t := by
  unfold execSpdmGetMeasurements
  try dsimp only
  repeat' first | with_reducible apply keeps_spdm | with_reducible refine ⟨_, rfl, ?_⟩ | split
  all_goals try dsimp only
  all_goals repeat' first
    | with_reducible assumption
    | with_reducible apply keeps_drbgStep
    | intro _

theorem keeps_execSpdmKeyExchange (path) (share) (s : State) : ∃ t, execSpdmKeyExchange path share s = .next t ∧ Keeps s t := by
  unfold execSpdmKeyExchange
  try dsimp only
  repeat' first | with_reducible apply keeps_spdm | with_reducible refine ⟨_, rfl, ?_⟩ | split
  all_goals repeat' first
    | with_reducible assumption
    | simp only [↓keeps_upd]
    | with_reducible apply keeps_drbgStep
    | split
    | intro _

theorem keeps_dropSession {s₀} {s : State} (k) (hk : Keeps s₀ s) : Keeps s₀ (State.dropSession s k) := by
  refine hk.trans ?_
  clear hk
  unfold State.dropSession
  try dsimp only
  repeat' first
    | with_reducible apply Keeps.refl
    | simp only [↓keeps_upd]

theorem keeps_execSpdmFinish (path) (session) (verifyData) (s : State) : ∃ t, execSpdmFinish path session verifyData s = .next t ∧ Keeps s t := by
  unfold execSpdmFinish
  try dsimp only
  repeat' first | with_reducible apply keeps_spdm | with_reducible refine ⟨_, rfl, ?_⟩ | split
  all_goals repeat' first
    | with_reducible assumption
    | simp only [↓keeps_upd]
    | with_reducible apply keeps_dropSession
    | split
    | intro _

theorem keeps_execSpdmEndSession (path) (session) (s : State) : ∃ t, execSpdmEndSession path session s = .next t ∧ Keeps s t := by
  unfold execSpdmEndSession
  try dsimp only
  repeat' first | with_reducible apply keeps_spdm | with_reducible refine ⟨_, rfl, ?_⟩ | split
  all_goals repeat' first
    | with_reducible assumption
    | with_reducible apply keeps_dropSession
    | split
    | intro _

theorem keeps_inSession (s : State) (k) (go) (hgo : ∀ s₀ u, Keeps s₀ u → Keeps s₀ (go u).2) : ∃ t, State.inSession s k go = .next t ∧ Keeps s t := by
  unfold State.inSession
  try dsimp only
  repeat' first | with_reducible apply keeps_spdm | with_reducible refine ⟨_, rfl, ?_⟩ | split
  all_goals try dsimp only
  all_goals repeat' first
    | with_reducible apply Keeps.refl
    | with_reducible assumption
    | intro _

theorem keeps_streamLost {s₀} {s : State} (n) (hk : Keeps s₀ s) : Keeps s₀ (State.streamLost s n) := by
  refine hk.trans ?_
  clear hk
  unfold State.streamLost
  try dsimp only
  repeat' first
    | with_reducible apply Keeps.refl
    | simp only [↓keeps_upd]
    | with_reducible apply Keeps.ite
    | with_reducible apply Keeps.fold
    | with_reducible apply keeps_tdiError
    | intro _

theorem keeps_ideSet {s₀} {s : State} (a1) (hk : Keeps s₀ s) : Keeps s₀ (State.ideSet s a1) := by
  refine hk.trans ?_
  clear hk
  unfold State.ideSet
  try dsimp only
  repeat' first
    | with_reducible apply Keeps.refl
    | simp only [↓keeps_upd]
    | with_reducible apply keeps_streamLost
    | split

theorem keeps_execIdeKm (session) (action) (_key) (s : State) : ∃ t, execIdeKm session action _key s = .next t ∧ Keeps s t := by
  unfold execIdeKm
  try dsimp only
  repeat' first | with_reducible apply keeps_inSession | with_reducible refine ⟨_, rfl, ?_⟩ | split
  all_goals try dsimp only
  all_goals repeat' first
    | with_reducible apply keeps_ideSet
    | intro _

theorem keeps_tdisp (s : State) (k) (n) (go) (hgo : ∀ s₀ u, Keeps s₀ u → Keeps s₀ (go u).2) : ∃ t, State.tdisp s k n go = .next t ∧ Keeps s t := by
  unfold State.tdisp
  try dsimp only
  repeat' first | with_reducible apply keeps_inSession | with_reducible refine ⟨_, rfl, ?_⟩ | split
  all_goals repeat' first
    | with_reducible assumption
    | with_reducible apply hgo
    | split
    | intro _

theorem keeps_execTdispGetVersion (session) (seat) (s : State) : ∃ t, execTdispGetVersion session seat s = .next t ∧ Keeps s t := by
  unfold execTdispGetVersion
  try dsimp only
  repeat' first | with_reducible apply keeps_tdisp | with_reducible refine ⟨_, rfl, ?_⟩ | split
  all_goals try dsimp only
  all_goals repeat' first
    | with_reducible assumption
    | intro _

theorem keeps_execTdispGetCapabilities (session) (seat) (s : State) : ∃ t, execTdispGetCapabilities session seat s = .next t ∧ Keeps s t := by
  unfold execTdispGetCapabilities
  try dsimp only
  repeat' first | with_reducible apply keeps_tdisp | with_reducible refine ⟨_, rfl, ?_⟩ | split
  all_goals try dsimp only
  all_goals repeat' with_reducible apply keeps_draw

theorem keeps_execLockInterface (session) (seat) (stream) (s : State) : ∃ t, execLockInterface session seat stream s = .next t ∧ Keeps s t := by
  unfold execLockInterface
  try dsimp only
  repeat' first | with_reducible apply keeps_tdisp | with_reducible refine ⟨_, rfl, ?_⟩ | split
  all_goals repeat' first
    | with_reducible assumption
    | with_reducible apply keeps_modSeat
    | with_reducible apply keeps_drbgStep
    | split
    | intro _

theorem keeps_execGetInterfaceReport (session) (seat) (s : State) : ∃ t, execGetInterfaceReport session seat s = .next t ∧ Keeps s t := by
  unfold execGetInterfaceReport
  try dsimp only
  repeat' first | with_reducible apply keeps_tdisp | with_reducible refine ⟨_, rfl, ?_⟩ | split
  all_goals repeat' first
    | with_reducible assumption
    | split
    | intro _

theorem keeps_execGetInterfaceState (session) (seat) (s : State) : ∃ t, execGetInterfaceState session seat s = .next t ∧ Keeps s t := by
  unfold execGetInterfaceState
  try dsimp only
  repeat' first | with_reducible apply keeps_tdisp | with_reducible refine ⟨_, rfl, ?_⟩ | split
  all_goals try dsimp only
  all_goals repeat' first
    | with_reducible assumption
    | intro _

theorem keeps_execStartInterface (session) (seat) (nonce) (s : State) : ∃ t, execStartInterface session seat nonce s = .next t ∧ Keeps s t := by
  unfold execStartInterface
  try dsimp only
  repeat' first | with_reducible apply keeps_tdisp | with_reducible refine ⟨_, rfl, ?_⟩ | split
  all_goals repeat' first
    | with_reducible assumption
    | with_reducible apply keeps_modSeat
    | split
    | intro _

theorem keeps_execStopInterface (session) (seat) (s : State) : ∃ t, execStopInterface session seat s = .next t ∧ Keeps s t := by
  unfold execStopInterface
  try dsimp only
  repeat' first | with_reducible apply keeps_tdisp | with_reducible refine ⟨_, rfl, ?_⟩ | split
  all_goals try dsimp only
  all_goals repeat' first
    | with_reducible assumption
    | with_reducible apply keeps_startRelease
    | with_reducible apply keeps_modSeat
    | split
    | intro _

theorem keeps_signGo {s₀} {s : State} (t) (hk : Keeps s₀ s) : Keeps s₀ (State.signGo s t) := by
  refine hk.trans ?_
  clear hk
  unfold State.signGo
  try dsimp only
  repeat' first
    | with_reducible apply Keeps.refl
    | simp only [↓keeps_upd]
    | with_reducible apply Keeps.ite
    | with_reducible apply keeps_raise
    | with_reducible apply keeps_setRegN

theorem keeps_execSign (tlp) (s : State) : ∃ t, execSign tlp s = .next t ∧ Keeps s t := by
  unfold execSign
  try dsimp only
  repeat' first | with_reducible refine ⟨_, rfl, ?_⟩ | split
  all_goals repeat' first
    | with_reducible apply Keeps.refl
    | with_reducible apply keeps_signGo

theorem keeps_signEnd {s₀} {s : State} (x) (hk : Keeps s₀ s) : Keeps s₀ (State.signEnd s x) := by
  refine hk.trans ?_
  clear hk
  unfold State.signEnd
  try dsimp only
  repeat' first
    | with_reducible apply Keeps.refl
    | simp only [↓keeps_upd]
    | with_reducible apply Keeps.ite
    | with_reducible apply keeps_setRegN
    | with_reducible apply keeps_csRead
    | with_reducible apply keeps_csWrite
    | with_reducible apply keeps_bumpObj

theorem keeps_execSignComplete (s : State) : ∃ t, execSignComplete s = .next t ∧ Keeps s t := by
  unfold execSignComplete
  try dsimp only
  repeat' first | with_reducible refine ⟨_, rfl, ?_⟩ | split
  all_goals repeat' first
    | with_reducible apply Keeps.refl
    | with_reducible apply keeps_signEnd

/-! Machine/Power.lean. -/

theorem keeps_powerOn {s₀} {s : State} (hk : Keeps s₀ s) : Keeps s₀ (State.powerOn s) :=
  ⟨hk.pending, hk.variant, hk.stepping, hk.serial, fun _ => rfl, fun _ => rfl⟩

theorem keeps_execPowerOnReset (s : State) : ∃ t, execPowerOnReset s = .next t ∧ Keeps s t := by
  unfold execPowerOnReset
  try dsimp only
  repeat' first | with_reducible refine ⟨_, rfl, ?_⟩ | split
  all_goals repeat' first
    | with_reducible apply Keeps.refl
    | with_reducible apply keeps_powerOn

theorem keeps_execSysResetRelease (s : State) : ∃ t, execSysResetRelease s = .next t ∧ Keeps s t := by
  unfold execSysResetRelease
  try dsimp only
  repeat' first | with_reducible refine ⟨_, rfl, ?_⟩ | split
  all_goals repeat' first
    | with_reducible apply Keeps.refl
    | simp only [↓keeps_upd]
    | with_reducible apply keeps_romStart

theorem keeps_execPosSample (pos) (s : State) : ∃ t, execPosSample pos s = .next t ∧ Keeps s t := by
  unfold execPosSample
  try dsimp only
  repeat' first | with_reducible refine ⟨_, rfl, ?_⟩ | split
  all_goals repeat' first
    | with_reducible apply Keeps.refl
    | simp only [↓keeps_upd]
    | with_reducible apply keeps_reachUp

theorem keeps_measure {s₀} {s : State} (vin) (iin) (power) (tj) (part) (hk : Keeps s₀ s) : Keeps s₀ (State.measure s vin iin power tj part) := by
  refine hk.trans ?_
  clear hk
  unfold State.measure
  try dsimp only
  repeat' first
    | with_reducible apply Keeps.refl
    | simp only [↓keeps_upd]
    | with_reducible apply keeps_setRegN

theorem keeps_evalPower {s₀} {s : State} (vin) (iin) (power) (tj) (part) (hk : Keeps s₀ s) : Keeps s₀ (State.evalPower s vin iin power tj part) := by
  refine hk.trans ?_
  clear hk
  unfold State.evalPower
  try dsimp only
  repeat' first
    | with_reducible apply Keeps.refl
    | simp only [↓keeps_upd]
    | with_reducible apply Keeps.ite
    | with_reducible apply keeps_measure
    | with_reducible apply keeps_reachUp
    | with_reducible apply keeps_setPower
    | split

theorem keeps_execPowerStepEvaluation (vin) (iin) (power) (tjMax) (part) (s : State) : ∃ t, execPowerStepEvaluation vin iin power tjMax part s = .next t ∧ Keeps s t := by
  unfold execPowerStepEvaluation
  try dsimp only
  repeat' first | with_reducible refine ⟨_, rfl, ?_⟩ | split
  all_goals repeat' first
    | with_reducible apply Keeps.refl
    | with_reducible apply keeps_evalPower

theorem keeps_execThermalTrip (temp) (part) (s : State) : ∃ t, execThermalTrip temp part s = .next t ∧ Keeps s t := by
  unfold execThermalTrip
  try dsimp only
  repeat' first | with_reducible refine ⟨_, rfl, ?_⟩ | split
  all_goals repeat' first
    | with_reducible apply Keeps.refl
    | simp only [↓keeps_upd]
    | with_reducible apply keeps_raise
    | with_reducible apply keeps_setRegN
    | with_reducible apply keeps_emit
    | with_reducible apply keeps_setPower

theorem keeps_execThermAlertRelease (s : State) : ∃ t, execThermAlertRelease s = .next t ∧ Keeps s t := by
  unfold execThermAlertRelease
  try dsimp only
  repeat' first | with_reducible refine ⟨_, rfl, ?_⟩ | split
  all_goals repeat' first
    | with_reducible apply Keeps.refl
    | simp only [↓keeps_upd]
    | with_reducible apply keeps_reachUp
    | with_reducible apply keeps_emit

theorem keeps_coreLoss {s₀} {s : State} (cause) (hk : Keeps s₀ s) : Keeps s₀ (State.coreLoss s cause) :=
  have h : Keeps s₀ _ := Keeps.fold (f := fun s p => (s.captureCause p .device).setPart p
      { PartRec.fresh with resetting := some { cause := .device, start := s.uptime, jobs := [] } })
    (fun _ _ => keeps_setPart _ _ (keeps_captureCause _ _ (Keeps.refl _)))
    (l := ((s.raise (pwReg 8) (match cause with | .thermal => 4 | .vin => 8)).recorderLost.clearCore.reparent).partList)
    (keeps_reparent (keeps_clearCore (keeps_recorderLost (keeps_raise _ _ hk))))
  ⟨h.pending, h.variant, h.stepping, h.serial, h.csMem, fun _ => rfl⟩

theorem keeps_execCoreLoss (cause) (s : State) : ∃ t, execCoreLoss cause s = .next t ∧ Keeps s t := by
  unfold execCoreLoss
  try dsimp only
  repeat' first | with_reducible refine ⟨_, rfl, ?_⟩ | split
  all_goals repeat' first
    | with_reducible apply Keeps.refl
    | with_reducible apply keeps_coreLoss

theorem keeps_coreRestart {s₀} {s : State} (t) (found) (hk : Keeps s₀ s) : Keeps s₀ (State.coreRestart s t found) := by
  refine hk.trans ?_
  clear hk
  unfold State.coreRestart
  try dsimp only
  repeat' first
    | with_reducible apply Keeps.refl
    | simp only [↓keeps_upd]
    | with_reducible apply Keeps.ite
    | with_reducible apply Keeps.ite_snd
    | with_reducible apply Keeps.ite_snd_snd
    | with_reducible apply Keeps.ite_snd_fst
    | with_reducible apply keeps_reachUp
    | with_reducible apply keeps_bumpObj
    | with_reducible apply keeps_newSeed
    | with_reducible apply keeps_logFault
    | with_reducible apply keeps_hbmBringUp
    | with_reducible apply keeps_endDeviceParts
    | with_reducible apply keeps_trialFails
    | with_reducible apply keeps_startDeviceReset

theorem keeps_execCoreRestart (found) (s : State) : ∃ t, execCoreRestart found s = .next t ∧ Keeps s t := by
  unfold execCoreRestart
  try dsimp only
  repeat' first | with_reducible refine ⟨_, rfl, ?_⟩ | split
  all_goals repeat' first
    | with_reducible apply Keeps.refl
    | with_reducible apply keeps_coreRestart

/-! Machine/Objects.lean. -/

theorem keeps_writeBlock {s₀} {s : State} (b) (hk : Keeps s₀ s) : Keeps s₀ (State.writeBlock s b) := by
  refine hk.trans ?_
  clear hk
  unfold State.writeBlock
  try dsimp only
  repeat' first
    | with_reducible apply Keeps.refl
    | simp only [↓keeps_upd]

theorem keeps_startTrial {s₀} {s : State} (hk : Keeps s₀ s) : Keeps s₀ (State.startTrial s) := by
  refine hk.trans ?_
  clear hk
  unfold State.startTrial
  try dsimp only
  repeat' first
    | with_reducible apply Keeps.refl
    | simp only [↓keeps_upd]
    | with_reducible apply keeps_startDeviceReset

theorem keeps_raiseSvn {s₀} {s : State} (hk : Keeps s₀ s) : Keeps s₀ (State.raiseSvn s) := by
  refine hk.trans ?_
  clear hk
  unfold State.raiseSvn
  try dsimp only
  repeat' first
    | with_reducible apply Keeps.refl
    | simp only [↓keeps_upd]
    | with_reducible apply Keeps.ite
    | with_reducible apply keeps_raise
    | with_reducible apply keeps_draw

theorem keeps_commitTrial {s₀} {s : State} (hk : Keeps s₀ s) : Keeps s₀ (State.commitTrial s) := by
  refine hk.trans ?_
  clear hk
  unfold State.commitTrial
  try dsimp only
  repeat' first
    | with_reducible apply Keeps.refl
    | simp only [↓keeps_upd]
    | with_reducible apply keeps_writeBlock
    | with_reducible apply keeps_raiseSvn

theorem keeps_clearRetirement {s₀} {s : State} (hk : Keeps s₀ s) : Keeps s₀ (State.clearRetirement s) := by
  refine hk.trans ?_
  clear hk
  unfold State.clearRetirement
  try dsimp only
  repeat' first
    | with_reducible apply Keeps.refl
    | simp only [↓keeps_upd]

theorem keeps_clearArrays {s₀} {s : State} (hk : Keeps s₀ s) : Keeps s₀ (State.clearArrays s) := by
  refine hk.trans ?_
  clear hk
  unfold State.clearArrays
  try dsimp only
  repeat' first
    | with_reducible apply Keeps.refl
    | simp only [↓keeps_upd]

theorem keeps_loadEc {s₀} {s : State} (hk : Keeps s₀ s) : Keeps s₀ (State.loadEc s) := by
  refine hk.trans ?_
  clear hk
  unfold State.loadEc
  try dsimp only
  repeat' first
    | with_reducible apply Keeps.refl
    | with_reducible apply keeps_setRegN

theorem keeps_loadHbScrub {s₀} {s : State} (hk : Keeps s₀ s) : Keeps s₀ (State.loadHbScrub s) := by
  refine hk.trans ?_
  clear hk
  unfold State.loadHbScrub
  try dsimp only
  repeat' first
    | with_reducible apply Keeps.refl
    | with_reducible apply Keeps.fold
    | with_reducible apply keeps_hbScrubSet
    | intro _

theorem keeps_ecEntry {s₀} {s : State} (index) (sub) (v) (hk : Keeps s₀ s) : Keeps s₀ (State.ecEntry s index sub v) := by
  refine hk.trans ?_
  clear hk
  unfold State.ecEntry
  try dsimp only
  repeat' first
    | with_reducible apply Keeps.refl
    | with_reducible apply keeps_setRegField
    | split

theorem keeps_qzEntry {s₀} {s : State} (sub) (v) (hk : Keeps s₀ s) : Keeps s₀ (State.qzEntry s sub v) := by
  refine hk.trans ?_
  clear hk
  unfold State.qzEntry
  try dsimp only
  repeat' first
    | with_reducible apply Keeps.refl
    | with_reducible apply Keeps.fold
    | with_reducible apply keeps_setRegField
    | split
    | intro _

theorem keeps_tbEntry {s₀} {s : State} (sub) (v) (hk : Keeps s₀ s) : Keeps s₀ (State.tbEntry s sub v) := by
  refine hk.trans ?_
  clear hk
  unfold State.tbEntry
  try dsimp only
  repeat' first
    | with_reducible apply Keeps.refl
    | with_reducible apply Keeps.ite
    | with_reducible apply keeps_tbCtrlSet
    | with_reducible apply keeps_setRegField

theorem keeps_coreEffect {s₀} {s : State} (index) (sub) (v) (hk : Keeps s₀ s) : Keeps s₀ (State.coreEffect s index sub v) := by
  refine hk.trans ?_
  clear hk
  unfold State.coreEffect
  try dsimp only
  repeat' first
    | with_reducible apply Keeps.refl
    | with_reducible apply keeps_qzEntry
    | with_reducible apply keeps_scResize
    | with_reducible apply keeps_csScrubSet
    | with_reducible apply keeps_loadHbScrub
    | with_reducible apply keeps_idlePorts
    | with_reducible apply keeps_tbEntry
    | with_reducible apply keeps_detCtrlSet
    | with_reducible apply keeps_ecEntry
    | with_reducible apply keeps_resetParts
    | split

theorem keeps_objEffect {s₀} {s : State} (index) (sub) (v) (hk : Keeps s₀ s) : Keeps s₀ (State.objEffect s index sub v) := by
  refine hk.trans ?_
  clear hk
  unfold State.objEffect
  try dsimp only
  repeat' first
    | with_reducible apply Keeps.refl
    | simp only [↓keeps_upd]
    | with_reducible apply Keeps.ite
    | with_reducible apply keeps_setRegField
    | with_reducible apply keeps_clearRetirement
    | with_reducible apply keeps_clearArrays
    | with_reducible apply keeps_hostDeviceReset
    | with_reducible apply keeps_startTrial
    | with_reducible apply keeps_commitTrial
    | with_reducible apply keeps_startDeviceReset
    | with_reducible apply keeps_trialFails
    | with_reducible apply keeps_reserve
    | with_reducible apply keeps_coreEffect
    | split

theorem keeps_recordObject {s₀} {s : State} (index) (sub) (data) (hk : Keeps s₀ s) : Keeps s₀ (State.recordObject s index sub data) := by
  refine hk.trans ?_
  clear hk
  unfold State.recordObject
  try dsimp only
  repeat' first
    | with_reducible apply Keeps.refl
    | with_reducible apply keeps_record

theorem keeps_writeScalar {s₀} {s : State} (path) (i) (o) (data) (hk : Keeps s₀ s) : Keeps s₀ (State.writeScalar s path i o data).2 := by
  refine hk.trans ?_
  clear hk
  unfold State.writeScalar
  try dsimp only
  repeat' first
    | with_reducible apply Keeps.refl
    | with_reducible apply Keeps.ite
    | with_reducible apply Keeps.ite_snd
    | with_reducible apply keeps_scResize
    | with_reducible apply keeps_draw
    | with_reducible apply keeps_recordObject
    | with_reducible apply keeps_setObj
    | with_reducible apply keeps_writeBlock
    | with_reducible apply keeps_objEffect
    | split

theorem keeps_download {s₀} {s : State} (bs) (c) (hk : Keeps s₀ s) : Keeps s₀ (State.download s bs c).2 := by
  refine hk.trans ?_
  clear hk
  unfold State.download
  try dsimp only
  repeat' first
    | with_reducible apply Keeps.refl
    | simp only [↓keeps_upd]
    | with_reducible apply Keeps.ite
    | with_reducible apply Keeps.ite_snd
    | with_reducible apply Keeps.ite_snd_snd
    | with_reducible apply Keeps.ite_snd_fst
    | with_reducible apply keeps_recordObject

theorem keeps_writeValue {s₀} {s : State} (f) (o) (data) (c) (hk : Keeps s₀ s) : Keeps s₀ (State.writeValue s f o data c).2 := by
  refine hk.trans ?_
  clear hk
  unfold State.writeValue
  try dsimp only
  repeat' first
    | with_reducible apply Keeps.refl
    | with_reducible apply Keeps.ite_snd
    | with_reducible apply keeps_writeScalar
    | with_reducible apply keeps_download

theorem keeps_reply {s₀} {s : State} (path) (bs) (hk : Keeps s₀ s) : Keeps s₀ (State.reply s path bs) := by
  refine hk.trans ?_
  clear hk
  unfold State.reply
  try dsimp only
  repeat' first
    | with_reducible apply Keeps.refl
    | with_reducible apply keeps_queueFrame
    | with_reducible apply keeps_emit
    | split

theorem keeps_answer {s₀} {s : State} (f) (code) (hk : Keeps s₀ s) : Keeps s₀ (State.answer s f code) := by
  refine hk.trans ?_
  clear hk
  unfold State.answer
  try dsimp only
  repeat' first
    | with_reducible apply Keeps.refl
    | with_reducible apply keeps_reply

theorem keeps_frameArrives {s₀} {s : State} (path) (go) (hk : Keeps s₀ s) (hgo : ∀ s₀ u, Keeps s₀ u → Keeps s₀ (go u)) : Keeps s₀ (State.frameArrives s path go) := by
  refine hk.trans ?_
  clear hk
  unfold State.frameArrives
  try dsimp only
  repeat' first
    | with_reducible apply Keeps.refl
    | with_reducible apply Keeps.ite
    | with_reducible apply keeps_frameIn
    | with_reducible apply hgo
    | split

theorem keeps_request {s₀} {s : State} (op) (f) (go) (hk : Keeps s₀ s) (hgo : ∀ s₀ u, Keeps s₀ u → Keeps s₀ (go u)) : Keeps s₀ (State.request s op f go) := by
  refine hk.trans ?_
  clear hk
  unfold State.request
  try dsimp only
  repeat' first
    | with_reducible apply Keeps.refl
    | with_reducible assumption
    | with_reducible apply Keeps.ite
    | with_reducible apply keeps_frameArrives
    | with_reducible apply keeps_answer
    | intro _

theorem keeps_readObject {s₀} {s : State} (f) (hk : Keeps s₀ s) : Keeps s₀ (State.readObject s f) := by
  refine hk.trans ?_
  clear hk
  unfold State.readObject
  try dsimp only
  repeat' first
    | with_reducible apply Keeps.refl
    | with_reducible apply Keeps.ite
    | with_reducible apply keeps_answer
    | with_reducible apply keeps_reply
    | split

theorem keeps_writeObject {s₀} {s : State} (f) (hk : Keeps s₀ s) : Keeps s₀ (State.writeObject s f) := by
  refine hk.trans ?_
  clear hk
  unfold State.writeObject
  try dsimp only
  repeat' first
    | with_reducible apply Keeps.refl
    | with_reducible apply Keeps.ite
    | with_reducible apply keeps_answer
    | with_reducible apply keeps_writeValue
    | split

theorem keeps_setSeg {s₀} {s : State} (path) (b) (hk : Keeps s₀ s) : Keeps s₀ (State.setSeg s path b) := by
  refine hk.trans ?_
  clear hk
  unfold State.setSeg
  try dsimp only
  repeat' first
    | with_reducible apply Keeps.refl
    | simp only [↓keeps_upd]
    | split

theorem keeps_writeSegment {s₀} {s : State} (f) (check) (hk : Keeps s₀ s) : Keeps s₀ (State.writeSegment s f check) := by
  refine hk.trans ?_
  clear hk
  unfold State.writeSegment
  try dsimp only
  repeat' first
    | with_reducible apply Keeps.refl
    | with_reducible apply Keeps.ite
    | with_reducible apply keeps_answer
    | with_reducible apply keeps_setSeg
    | with_reducible apply keeps_writeValue
    | split

theorem keeps_execObjectRead (f) (s : State) : ∃ t, execObjectRead f s = .next t ∧ Keeps s t := by
  unfold execObjectRead
  try dsimp only
  repeat' first | with_reducible refine ⟨_, rfl, ?_⟩ | split
  all_goals repeat' first
    | with_reducible apply Keeps.refl
    | with_reducible apply keeps_request
    | with_reducible apply keeps_readObject
    | intro _

theorem keeps_execObjectWrite (f) (s : State) : ∃ t, execObjectWrite f s = .next t ∧ Keeps s t := by
  unfold execObjectWrite
  try dsimp only
  repeat' first | with_reducible refine ⟨_, rfl, ?_⟩ | split
  all_goals repeat' first
    | with_reducible apply Keeps.refl
    | with_reducible apply keeps_request
    | with_reducible apply keeps_writeObject
    | intro _

theorem keeps_execObjectWriteSeg (f) (check) (s : State) : ∃ t, execObjectWriteSeg f check s = .next t ∧ Keeps s t := by
  unfold execObjectWriteSeg
  try dsimp only
  repeat' first | with_reducible refine ⟨_, rfl, ?_⟩ | split
  all_goals repeat' first
    | with_reducible apply Keeps.refl
    | with_reducible apply keeps_request
    | with_reducible apply keeps_writeSegment
    | intro _

theorem keeps_namedWrite {s₀} {s : State} (index) (sub) (f) (hk : Keeps s₀ s) : Keeps s₀ (State.namedWrite s index sub f) := by
  refine hk.trans ?_
  clear hk
  unfold State.namedWrite
  try dsimp only
  repeat' first
    | with_reducible apply Keeps.refl
    | with_reducible apply Keeps.ite
    | with_reducible apply keeps_request
    | with_reducible apply keeps_writeObject
    | intro _

theorem keeps_execStartTrial (f) (s : State) : ∃ t, execStartTrial f s = .next t ∧ Keeps s t := by
  unfold execStartTrial
  try dsimp only
  repeat' first | with_reducible refine ⟨_, rfl, ?_⟩ | split
  all_goals repeat' first
    | with_reducible apply Keeps.refl
    | with_reducible apply keeps_namedWrite

theorem keeps_execCommit (f) (s : State) : ∃ t, execCommit f s = .next t ∧ Keeps s t := by
  unfold execCommit
  try dsimp only
  repeat' first | with_reducible refine ⟨_, rfl, ?_⟩ | split
  all_goals repeat' first
    | with_reducible apply Keeps.refl
    | with_reducible apply keeps_namedWrite

theorem keeps_execFallBack (f) (s : State) : ∃ t, execFallBack f s = .next t ∧ Keeps s t := by
  unfold execFallBack
  try dsimp only
  repeat' first | with_reducible refine ⟨_, rfl, ?_⟩ | split
  all_goals repeat' first
    | with_reducible apply Keeps.refl
    | with_reducible apply keeps_namedWrite

theorem keeps_execClearRetirementRecord (f) (s : State) : ∃ t, execClearRetirementRecord f s = .next t ∧ Keeps s t := by
  unfold execClearRetirementRecord
  try dsimp only
  repeat' first | with_reducible refine ⟨_, rfl, ?_⟩ | split
  all_goals repeat' first
    | with_reducible apply Keeps.refl
    | with_reducible apply keeps_namedWrite

theorem keeps_execClearArrayCounts (f) (s : State) : ∃ t, execClearArrayCounts f s = .next t ∧ Keeps s t := by
  unfold execClearArrayCounts
  try dsimp only
  repeat' first | with_reducible refine ⟨_, rfl, ?_⟩ | split
  all_goals repeat' first
    | with_reducible apply Keeps.refl
    | with_reducible apply keeps_namedWrite

/-! Machine/Service.lean. -/

theorem keeps_loadSettings {s₀} {s : State} (hk : Keeps s₀ s) : Keeps s₀ (State.loadSettings s) := by
  refine hk.trans ?_
  clear hk
  unfold State.loadSettings
  try dsimp only
  repeat' first
    | with_reducible apply Keeps.refl
    | simp only [↓keeps_upd]

theorem keeps_firstBringUp {s₀} {s : State} (found) (hk : Keeps s₀ s) : Keeps s₀ (State.firstBringUp s found) := by
  refine hk.trans ?_
  clear hk
  unfold State.firstBringUp
  try dsimp only
  repeat' first
    | with_reducible apply Keeps.refl
    | simp only [↓keeps_upd]
    | with_reducible apply Keeps.ite
    | with_reducible apply keeps_endDeviceParts
    | with_reducible apply keeps_hbmBringUp
    | with_reducible apply keeps_newSeed

theorem keeps_planTraining {s₀} {s : State} (hk : Keeps s₀ s) : Keeps s₀ (State.planTraining s) := by
  refine hk.trans ?_
  clear hk
  unfold State.planTraining
  try dsimp only
  repeat' first
    | with_reducible apply Keeps.refl
    | with_reducible apply Keeps.fold
    | with_reducible apply keeps_modPort
    | intro _

theorem keeps_accepted {s₀} {s : State} (found) (hk : Keeps s₀ s) : Keeps s₀ (State.accepted s found) := by
  refine hk.trans ?_
  clear hk
  unfold State.accepted
  try dsimp only
  repeat' first
    | with_reducible apply Keeps.refl
    | simp only [↓keeps_upd]
    | with_reducible apply Keeps.ite
    | with_reducible apply keeps_loadSettings
    | with_reducible apply keeps_loadTime
    | with_reducible apply keeps_enableNet
    | with_reducible apply keeps_planTraining
    | with_reducible apply keeps_firstBringUp
    | with_reducible apply keeps_raiseSvn

theorem keeps_verifyBoot {s₀} {s : State} (a) (b) (found) (hk : Keeps s₀ s) : Keeps s₀ (State.verifyBoot s a b found) := by
  refine hk.trans ?_
  clear hk
  unfold State.verifyBoot
  try dsimp only
  repeat' first
    | with_reducible apply Keeps.refl
    | simp only [↓keeps_upd]
    | with_reducible apply Keeps.ite
    | with_reducible apply keeps_accepted
    | with_reducible apply keeps_enableNet

theorem keeps_execFirmwareVerified (checkA) (checkB) (found) (s : State) : ∃ t, execFirmwareVerified checkA checkB found s = .next t ∧ Keeps s t := by
  unfold execFirmwareVerified
  try dsimp only
  repeat' first | with_reducible refine ⟨_, rfl, ?_⟩ | split
  all_goals repeat' first
    | with_reducible apply Keeps.refl
    | with_reducible apply keeps_verifyBoot

theorem keeps_applySettings {s₀} {s : State} (hk : Keeps s₀ s) : Keeps s₀ (State.applySettings s) := by
  refine hk.trans ?_
  clear hk
  unfold State.applySettings
  try dsimp only
  repeat' first
    | with_reducible apply Keeps.refl
    | with_reducible apply Keeps.fold
    | with_reducible apply keeps_setRegN
    | with_reducible apply keeps_csScrubSet
    | with_reducible apply keeps_loadEc
    | with_reducible apply keeps_loadHbScrub
    | with_reducible apply keeps_loadQzDefaults
    | with_reducible apply keeps_setRegField
    | intro _

theorem keeps_becomeReady {s₀} {s : State} (hk : Keeps s₀ s) : Keeps s₀ (State.becomeReady s) := by
  refine hk.trans ?_
  clear hk
  unfold State.becomeReady
  try dsimp only
  repeat' first
    | with_reducible apply Keeps.refl
    | simp only [↓keeps_upd]
    | with_reducible apply Keeps.ite
    | with_reducible apply keeps_applySettings
    | with_reducible apply keeps_planTraining

theorem keeps_execFwReady (s : State) : ∃ t, execFwReady s = .next t ∧ Keeps s t := by
  unfold execFwReady
  try dsimp only
  repeat' first | with_reducible refine ⟨_, rfl, ?_⟩ | split
  all_goals repeat' first
    | with_reducible apply Keeps.refl
    | with_reducible apply keeps_becomeReady

theorem keeps_failTrial {s₀} {s : State} (hk : Keeps s₀ s) : Keeps s₀ (State.failTrial s) := by
  refine hk.trans ?_
  clear hk
  unfold State.failTrial
  try dsimp only
  repeat' first
    | with_reducible apply Keeps.refl
    | with_reducible apply keeps_startDeviceReset
    | with_reducible apply keeps_trialFails

theorem keeps_execTrialReadyTimeout (s : State) : ∃ t, execTrialReadyTimeout s = .next t ∧ Keeps s t := by
  unfold execTrialReadyTimeout
  try dsimp only
  repeat' first | with_reducible refine ⟨_, rfl, ?_⟩ | split
  all_goals repeat' first
    | with_reducible apply Keeps.refl
    | with_reducible apply keeps_failTrial
    | with_reducible apply keeps_reachUp

theorem keeps_execTrialWindowEnd (s : State) : ∃ t, execTrialWindowEnd s = .next t ∧ Keeps s t := by
  unfold execTrialWindowEnd
  try dsimp only
  repeat' first | with_reducible refine ⟨_, rfl, ?_⟩ | split
  all_goals repeat' first
    | with_reducible apply Keeps.refl
    | simp only [↓keeps_upd]
    | with_reducible apply keeps_reachUp
    | with_reducible apply keeps_failTrial

theorem keeps_uartLine {s₀} {s : State} (line) (hk : Keeps s₀ s) : Keeps s₀ (State.uartLine s line) := by
  refine hk.trans ?_
  clear hk
  unfold State.uartLine
  try dsimp only
  repeat' first
    | with_reducible apply Keeps.refl
    | with_reducible apply Keeps.ite
    | with_reducible apply keeps_emit

theorem keeps_uartErr {s₀} {s : State} (c) (hk : Keeps s₀ s) : Keeps s₀ (State.uartErr s c) := by
  refine hk.trans ?_
  clear hk
  unfold State.uartErr
  try dsimp only
  repeat' first
    | with_reducible apply Keeps.refl
    | with_reducible apply keeps_uartLine

theorem keeps_uartRead {s₀} {s : State} (i) (hk : Keeps s₀ s) : Keeps s₀ (State.uartRead s i) := by
  refine hk.trans ?_
  clear hk
  unfold State.uartRead
  try dsimp only
  repeat' first
    | with_reducible apply Keeps.refl
    | with_reducible apply keeps_uartLine
    | with_reducible apply keeps_uartErr
    | split

theorem keeps_execUartReadObject (obj) (s : State) : ∃ t, execUartReadObject obj s = .next t ∧ Keeps s t := by
  unfold execUartReadObject
  try dsimp only
  repeat' first | with_reducible refine ⟨_, rfl, ?_⟩ | split
  all_goals repeat' first
    | with_reducible apply Keeps.refl
    | with_reducible apply keeps_uartRead

theorem keeps_uartReadAt {s₀} {s : State} (i) (offset) (hk : Keeps s₀ s) : Keeps s₀ (State.uartReadAt s i offset) := by
  refine hk.trans ?_
  clear hk
  unfold State.uartReadAt
  try dsimp only
  repeat' first
    | with_reducible apply Keeps.refl
    | with_reducible apply Keeps.ite
    | with_reducible apply keeps_uartErr
    | with_reducible apply keeps_uartLine
    | split

theorem keeps_execUartReadOffset (obj) (offset) (s : State) : ∃ t, execUartReadOffset obj offset s = .next t ∧ Keeps s t := by
  unfold execUartReadOffset
  try dsimp only
  repeat' first | with_reducible refine ⟨_, rfl, ?_⟩ | split
  all_goals repeat' first
    | with_reducible apply Keeps.refl
    | with_reducible apply keeps_uartReadAt

theorem keeps_execUartStatus (s : State) : ∃ t, execUartStatus s = .next t ∧ Keeps s t := by
  unfold execUartStatus
  try dsimp only
  repeat' first | with_reducible refine ⟨_, rfl, ?_⟩ | split
  all_goals repeat' first
    | with_reducible apply Keeps.refl
    | with_reducible apply keeps_uartLine

theorem keeps_execUartVersion (s : State) : ∃ t, execUartVersion s = .next t ∧ Keeps s t := by
  unfold execUartVersion
  try dsimp only
  repeat' first | with_reducible refine ⟨_, rfl, ?_⟩ | split
  all_goals repeat' first
    | with_reducible apply Keeps.refl
    | with_reducible apply keeps_uartLine

theorem keeps_traceText {s₀} {s : State} (b) (hk : Keeps s₀ s) : Keeps s₀ (State.traceText s b) := by
  refine hk.trans ?_
  clear hk
  unfold State.traceText
  try dsimp only
  repeat' first
    | with_reducible apply Keeps.refl
    | simp only [↓keeps_upd]
    | with_reducible apply Keeps.ite

theorem keeps_execTraceTextStart (s : State) : ∃ t, execTraceTextStart s = .next t ∧ Keeps s t := by
  unfold execTraceTextStart
  try dsimp only
  repeat' first | with_reducible refine ⟨_, rfl, ?_⟩ | split
  all_goals repeat' first
    | with_reducible apply Keeps.refl
    | with_reducible apply keeps_traceText

theorem keeps_execTraceTextStop (s : State) : ∃ t, execTraceTextStop s = .next t ∧ Keeps s t := by
  unfold execTraceTextStop
  try dsimp only
  repeat' first | with_reducible refine ⟨_, rfl, ?_⟩ | split
  all_goals repeat' first
    | with_reducible apply Keeps.refl
    | with_reducible apply keeps_traceText

theorem keeps_execUartBadLine (s : State) : ∃ t, execUartBadLine s = .next t ∧ Keeps s t := by
  unfold execUartBadLine
  try dsimp only
  repeat' first | with_reducible refine ⟨_, rfl, ?_⟩ | split
  all_goals repeat' first
    | with_reducible apply Keeps.refl
    | with_reducible apply keeps_uartErr

theorem keeps_execUartOverrun (s : State) : ∃ t, execUartOverrun s = .next t ∧ Keeps s t := by
  unfold execUartOverrun
  try dsimp only
  repeat' first | with_reducible refine ⟨_, rfl, ?_⟩ | split
  all_goals repeat' first
    | with_reducible apply Keeps.refl
    | with_reducible apply keeps_raise

theorem keeps_execUartFraming (s : State) : ∃ t, execUartFraming s = .next t ∧ Keeps s t := by
  unfold execUartFraming
  try dsimp only
  repeat' first | with_reducible refine ⟨_, rfl, ?_⟩ | split
  all_goals repeat' first
    | with_reducible apply Keeps.refl
    | with_reducible apply keeps_bumpObj
    | with_reducible apply keeps_raise

theorem keeps_execUartBreak (s : State) : ∃ t, execUartBreak s = .next t ∧ Keeps s t := by
  unfold execUartBreak
  try dsimp only
  repeat' first | with_reducible refine ⟨_, rfl, ?_⟩ | split
  all_goals repeat' first
    | with_reducible apply Keeps.refl
    | with_reducible apply keeps_bumpObj
    | with_reducible apply keeps_raise

theorem keeps_execUartRateChange (s : State) : ∃ t, execUartRateChange s = .next t ∧ Keeps s t := by
  unfold execUartRateChange
  try dsimp only
  repeat' first | with_reducible refine ⟨_, rfl, ?_⟩ | split
  all_goals repeat' first
    | with_reducible apply Keeps.refl
    | simp only [↓keeps_upd]

theorem keeps_execTraceRecordDrop (s : State) : ∃ t, execTraceRecordDrop s = .next t ∧ Keeps s t := by
  unfold execTraceRecordDrop
  try dsimp only
  repeat' first | with_reducible refine ⟨_, rfl, ?_⟩ | split
  all_goals repeat' first
    | with_reducible apply Keeps.refl
    | with_reducible apply keeps_bumpObj
    | with_reducible apply keeps_setReg
    | with_reducible apply keeps_draw
    | with_reducible apply keeps_csWrite

/-! Machine/Registers.lean. -/

theorem keeps_upsetReg {s₀} {s : State} (off) (hk : Keeps s₀ s) : Keeps s₀ (State.upsetReg s off) := by
  refine hk.trans ?_
  clear hk
  unfold State.upsetReg
  try dsimp only
  repeat' first
    | with_reducible apply Keeps.refl
    | simp only [↓keeps_upd]
    | with_reducible apply Keeps.ite
    | with_reducible apply keeps_setReg
    | with_reducible apply keeps_draw

theorem keeps_parityFault {s₀} {s : State} (off) (hk : Keeps s₀ s) : Keeps s₀ (State.parityFault s off) := by
  refine hk.trans ?_
  clear hk
  unfold State.parityFault
  try dsimp only
  repeat' first
    | with_reducible apply Keeps.refl
    | simp only [↓keeps_upd]
    | with_reducible apply Keeps.ite
    | with_reducible apply keeps_logConfig
    | with_reducible apply keeps_setRegN
    | with_reducible apply keeps_seatFault
    | with_reducible apply keeps_raise
    | with_reducible apply keeps_startPartReset
    | with_reducible apply keeps_startDeviceReset
    | split

theorem keeps_checkParity {s₀} {s : State} (off) (hk : Keeps s₀ s) : Keeps s₀ (State.checkParity s off) := by
  refine hk.trans ?_
  clear hk
  unfold State.checkParity
  try dsimp only
  repeat' first
    | with_reducible apply Keeps.refl
    | with_reducible apply Keeps.ite
    | with_reducible apply keeps_parityFault

theorem keeps_bar0Read {s₀} {s : State} (off) (size) (upset) (hk : Keeps s₀ s) : Keeps s₀ (State.bar0Read s off size upset) := by
  refine hk.trans ?_
  clear hk
  unfold State.bar0Read
  try dsimp only
  repeat' first
    | with_reducible apply Keeps.refl
    | with_reducible apply Keeps.ite
    | with_reducible apply Keeps.fold
    | with_reducible apply keeps_emit
    | with_reducible apply keeps_upsetReg
    | with_reducible apply keeps_checkParity
    | intro _

theorem keeps_execParityCheckedRead (offset) (size) (upset) (s : State) : ∃ t, execParityCheckedRead offset size upset s = .next t ∧ Keeps s t := by
  unfold execParityCheckedRead
  try dsimp only
  repeat' first | with_reducible refine ⟨_, rfl, ?_⟩ | split
  all_goals repeat' first
    | with_reducible apply Keeps.refl
    | with_reducible apply keeps_bar0Read

theorem keeps_execParitySweep (upsets) (s : State) : ∃ t, execParitySweep upsets s = .next t ∧ Keeps s t := by
  unfold execParitySweep
  try dsimp only
  repeat' first | with_reducible refine ⟨_, rfl, ?_⟩ | split
  all_goals repeat' first
    | with_reducible apply Keeps.refl
    | with_reducible assumption
    | with_reducible apply Keeps.ite
    | with_reducible apply Keeps.ite_snd
    | with_reducible apply Keeps.ite_snd_snd
    | with_reducible apply Keeps.ite_snd_fst
    | with_reducible apply Keeps.fold
    | with_reducible apply Keeps.fold_snd
    | with_reducible apply Keeps.fold_snd_snd
    | with_reducible apply keeps_upsetReg
    | with_reducible apply keeps_checkParity
    | split
    | intro _

theorem keeps_hostTumbler {s₀} {s : State} (t) (off) (raw) (v) (tlp) (hk : Keeps s₀ s) : Keeps s₀ (State.hostTumbler s t off raw v tlp) := by
  refine hk.trans ?_
  clear hk
  unfold State.hostTumbler
  try dsimp only
  repeat' first
    | with_reducible apply Keeps.refl
    | with_reducible apply Keeps.ite
    | with_reducible apply Keeps.ite_snd
    | with_reducible apply Keeps.ite_snd_snd
    | with_reducible apply Keeps.ite_snd_fst
    | with_reducible apply keeps_muted
    | with_reducible apply keeps_denied
    | with_reducible apply keeps_setTumbler
    | with_reducible apply keeps_recordHost
    | split

theorem keeps_seatConfig {s₀} {s : State} (n) (off) (v) (hk : Keeps s₀ s) : Keeps s₀ (State.seatConfig s n off v) := by
  refine hk.trans ?_
  clear hk
  unfold State.seatConfig
  try dsimp only
  repeat' first
    | with_reducible apply Keeps.refl
    | with_reducible apply Keeps.ite
    | with_reducible apply keeps_setReg
    | with_reducible apply keeps_raise

theorem keeps_traceCtrl {s₀} {s : State} (v) (hk : Keeps s₀ s) : Keeps s₀ (State.traceCtrl s v) := by
  refine hk.trans ?_
  clear hk
  unfold State.traceCtrl
  try dsimp only
  repeat' first
    | with_reducible apply Keeps.refl
    | with_reducible apply Keeps.ite
    | with_reducible apply keeps_setReg

theorem keeps_traceBase {s₀} {s : State} (v) (hk : Keeps s₀ s) : Keeps s₀ (State.traceBase s v) := by
  refine hk.trans ?_
  clear hk
  unfold State.traceBase
  try dsimp only
  repeat' first
    | with_reducible apply Keeps.refl
    | with_reducible apply Keeps.ite
    | with_reducible apply keeps_setReg

theorem keeps_recConfig {s₀} {s : State} (off) (v) (hk : Keeps s₀ s) : Keeps s₀ (State.recConfig s off v) := by
  refine hk.trans ?_
  clear hk
  unfold State.recConfig
  try dsimp only
  repeat' first
    | with_reducible apply Keeps.refl
    | with_reducible apply Keeps.ite
    | with_reducible apply keeps_recRefused
    | with_reducible apply keeps_setReg

theorem keeps_ecConfig {s₀} {s : State} (o) (v) (hk : Keeps s₀ s) : Keeps s₀ (State.ecConfig s o v) := by
  refine hk.trans ?_
  clear hk
  unfold State.ecConfig
  try dsimp only
  repeat' first
    | with_reducible apply Keeps.refl
    | with_reducible apply Keeps.ite
    | with_reducible apply Keeps.ite_snd
    | with_reducible apply Keeps.ite_snd_snd
    | with_reducible apply Keeps.ite_snd_fst
    | with_reducible apply keeps_setReg
    | with_reducible apply keeps_pairMaskSet
    | with_reducible apply keeps_detCtrlSet
    | with_reducible apply keeps_recConfig
    | with_reducible apply keeps_stepEnds
    | split

theorem keeps_msixWrite {s₀} {s : State} (off) (v) (hk : Keeps s₀ s) : Keeps s₀ (State.msixWrite s off v) := by
  refine hk.trans ?_
  clear hk
  unfold State.msixWrite
  try dsimp only
  repeat' first
    | with_reducible apply Keeps.refl
    | with_reducible apply Keeps.ite
    | with_reducible apply keeps_setReg
    | with_reducible apply keeps_msix
    | with_reducible apply keeps_status

theorem keeps_scWrite {s₀} {s : State} (off) (v) (tlp) (hk : Keeps s₀ s) : Keeps s₀ (State.scWrite s off v tlp) := by
  refine hk.trans ?_
  clear hk
  unfold State.scWrite
  try dsimp only
  repeat' first
    | with_reducible apply Keeps.refl
    | simp only [↓keeps_upd]
    | with_reducible apply Keeps.ite
    | with_reducible apply keeps_seatConfig
    | with_reducible apply keeps_setReg

theorem keeps_configWrite {s₀} {s : State} (off) (acc) (raw) (v) (tlp) (hk : Keeps s₀ s) : Keeps s₀ (State.configWrite s off acc raw v tlp) := by
  refine hk.trans ?_
  clear hk
  unfold State.configWrite
  try dsimp only
  repeat' first
    | with_reducible apply Keeps.refl
    | with_reducible apply Keeps.ite
    | with_reducible apply keeps_traceCtrl
    | with_reducible apply keeps_traceBase
    | with_reducible apply keeps_setReg
    | with_reducible apply keeps_scWrite
    | with_reducible apply keeps_ecConfig
    | with_reducible apply keeps_hostTumbler
    | with_reducible apply keeps_scResize
    | with_reducible apply keeps_csScrubSet
    | with_reducible apply keeps_tbCtrlSet
    | with_reducible apply keeps_msixWrite
    | with_reducible apply keeps_hbCtrlSet
    | with_reducible apply keeps_hbScrubSet
    | with_reducible apply keeps_fbCtrlSet
    | with_reducible apply keeps_seatConfig
    | split

theorem keeps_commandWrite {s₀} {s : State} (off) (v) (tlp) (hk : Keeps s₀ s) : Keeps s₀ (State.commandWrite s off v tlp) := by
  refine hk.trans ?_
  clear hk
  unfold State.commandWrite
  try dsimp only
  repeat' first
    | with_reducible apply Keeps.refl
    | with_reducible apply Keeps.ite
    | with_reducible apply keeps_signGo
    | with_reducible apply keeps_resetParts
    | with_reducible apply keeps_hostDeviceReset
    | with_reducible apply keeps_forfeitCmd
    | with_reducible apply keeps_recBegin
    | with_reducible apply keeps_recEnd
    | with_reducible apply keeps_timeSnap
    | with_reducible apply keeps_schedInstall
    | with_reducible apply keeps_schedArm
    | with_reducible apply keeps_schedCancel
    | with_reducible apply keeps_seatCreate
    | with_reducible apply keeps_seatRelease
    | split

theorem keeps_writeWord {s₀} {s : State} (off) (v) (tlp) (hk : Keeps s₀ s) : Keeps s₀ (State.writeWord s off v tlp) := by
  refine hk.trans ?_
  clear hk
  unfold State.writeWord
  try dsimp only
  repeat' first
    | with_reducible apply Keeps.refl
    | with_reducible apply Keeps.ite
    | with_reducible apply keeps_absentAccess
    | with_reducible apply keeps_configWrite
    | with_reducible apply keeps_setReg
    | with_reducible apply keeps_commandWrite
    | split

theorem keeps_bar0Write {s₀} {s : State} (w) (hk : Keeps s₀ s) : Keeps s₀ (State.bar0Write s w) := by
  refine hk.trans ?_
  clear hk
  unfold State.bar0Write
  try dsimp only
  repeat' first
    | with_reducible apply Keeps.refl
    | with_reducible apply Keeps.ite
    | with_reducible apply keeps_writeWord
    | with_reducible apply keeps_absentAccess

theorem keeps_execRegisterWrite (w) (s : State) : ∃ t, execRegisterWrite w s = .next t ∧ Keeps s t := by
  unfold execRegisterWrite
  try dsimp only
  repeat' first | with_reducible refine ⟨_, rfl, ?_⟩ | split
  all_goals repeat' first
    | with_reducible apply Keeps.refl
    | with_reducible apply keeps_bar0Write

theorem keeps_ownWrite {s₀} {s : State} (block) (reg) (w) (hk : Keeps s₀ s) : Keeps s₀ (State.ownWrite s block reg w) := by
  refine hk.trans ?_
  clear hk
  unfold State.ownWrite
  try dsimp only
  repeat' first
    | with_reducible apply Keeps.refl
    | with_reducible apply Keeps.ite
    | with_reducible apply keeps_bar0Write

theorem keeps_execTumblerHostWrite (w) (s : State) : ∃ t, execTumblerHostWrite w s = .next t ∧ Keeps s t := by
  unfold execTumblerHostWrite
  try dsimp only
  repeat' first | with_reducible refine ⟨_, rfl, ?_⟩ | split
  all_goals repeat' first
    | with_reducible apply Keeps.refl
    | with_reducible apply keeps_bar0Write

theorem keeps_execScResize (w) (s : State) : ∃ t, execScResize w s = .next t ∧ Keeps s t := by
  unfold execScResize
  try dsimp only
  repeat' first | with_reducible refine ⟨_, rfl, ?_⟩ | split
  all_goals repeat' first
    | with_reducible apply Keeps.refl
    | with_reducible apply keeps_ownWrite

theorem keeps_execCsScrubCfgWrite (w) (s : State) : ∃ t, execCsScrubCfgWrite w s = .next t ∧ Keeps s t := by
  unfold execCsScrubCfgWrite
  try dsimp only
  repeat' first | with_reducible refine ⟨_, rfl, ?_⟩ | split
  all_goals repeat' first
    | with_reducible apply Keeps.refl
    | with_reducible apply keeps_ownWrite

theorem keeps_execFbCtrlWrite (port) (w) (s : State) : ∃ t, execFbCtrlWrite port w s = .next t ∧ Keeps s t := by
  unfold execFbCtrlWrite
  try dsimp only
  repeat' first | with_reducible refine ⟨_, rfl, ?_⟩ | split
  all_goals repeat' first
    | with_reducible apply Keeps.refl
    | with_reducible apply keeps_ownWrite

theorem keeps_execTbCtrlWrite (w) (s : State) : ∃ t, execTbCtrlWrite w s = .next t ∧ Keeps s t := by
  unfold execTbCtrlWrite
  try dsimp only
  repeat' first | with_reducible refine ⟨_, rfl, ?_⟩ | split
  all_goals repeat' first
    | with_reducible apply Keeps.refl
    | with_reducible apply keeps_ownWrite

theorem keeps_execDetCtrlWrite (w) (s : State) : ∃ t, execDetCtrlWrite w s = .next t ∧ Keeps s t := by
  unfold execDetCtrlWrite
  try dsimp only
  repeat' first | with_reducible refine ⟨_, rfl, ?_⟩ | split
  all_goals repeat' first
    | with_reducible apply Keeps.refl
    | with_reducible apply keeps_ownWrite

theorem keeps_execHbScrubCfgWrite (stack) (w) (s : State) : ∃ t, execHbScrubCfgWrite stack w s = .next t ∧ Keeps s t := by
  unfold execHbScrubCfgWrite
  try dsimp only
  repeat' first | with_reducible refine ⟨_, rfl, ?_⟩ | split
  all_goals repeat' first
    | with_reducible apply Keeps.refl
    | with_reducible apply keeps_ownWrite

theorem keeps_execPairMaskWrite (w) (s : State) : ∃ t, execPairMaskWrite w s = .next t ∧ Keeps s t := by
  unfold execPairMaskWrite
  try dsimp only
  repeat' first | with_reducible refine ⟨_, rfl, ?_⟩ | split
  all_goals repeat' first
    | with_reducible apply Keeps.refl
    | with_reducible apply keeps_ownWrite

theorem keeps_execTraceCtrlWrite (w) (s : State) : ∃ t, execTraceCtrlWrite w s = .next t ∧ Keeps s t := by
  unfold execTraceCtrlWrite
  try dsimp only
  repeat' first | with_reducible refine ⟨_, rfl, ?_⟩ | split
  all_goals repeat' first
    | with_reducible apply Keeps.refl
    | with_reducible apply keeps_bar0Write

/-! Machine/Replay.lean. -/

theorem keeps_replayHost {s₀} {s : State} (kind) (addr) (value) (data) (hk : Keeps s₀ s) : Keeps s₀ (State.replayHost s kind addr value data) := by
  refine hk.trans ?_
  clear hk
  unfold State.replayHost
  try dsimp only
  repeat' first
    | with_reducible apply Keeps.refl
    | with_reducible apply Keeps.ite
    | with_reducible apply Keeps.ite_snd
    | with_reducible apply Keeps.ite_snd_snd
    | with_reducible apply Keeps.ite_snd_fst
    | with_reducible apply keeps_csWrite
    | with_reducible apply keeps_ringBell
    | with_reducible apply keeps_setTumbler
    | with_reducible apply keeps_writeValue
    | split

theorem keeps_replayCell {s₀} {s : State} (p) (kind) (body) (hk : Keeps s₀ s) : Keeps s₀ (State.replayCell s p kind body) := by
  refine hk.trans ?_
  clear hk
  unfold State.replayCell
  try dsimp only
  repeat' first
    | with_reducible apply Keeps.refl
    | with_reducible apply keeps_schedCell
    | with_reducible apply keeps_takeOpen
    | with_reducible apply keeps_takeCtrl
    | split

theorem keeps_applyRecord {s₀} {s : State} (bs) (hk : Keeps s₀ s) : Keeps s₀ (State.applyRecord s bs) := by
  refine hk.trans ?_
  clear hk
  unfold State.applyRecord
  try dsimp only
  repeat' first
    | with_reducible apply Keeps.refl
    | simp only [↓keeps_upd]
    | with_reducible apply Keeps.ite
    | with_reducible apply Keeps.ite_snd
    | with_reducible apply Keeps.ite_snd_snd
    | with_reducible apply Keeps.ite_snd_fst
    | with_reducible apply keeps_badRecord
    | with_reducible apply keeps_reach
    | with_reducible apply keeps_eatRecord
    | with_reducible apply keeps_hostReadEnd
    | with_reducible apply keeps_pumpReads
    | with_reducible apply keeps_replayCell
    | with_reducible apply keeps_closeStep
    | with_reducible apply keeps_replayHost
    | split

theorem keeps_execReplayRecordApply (s : State) : ∃ t, execReplayRecordApply s = .next t ∧ Keeps s t := by
  unfold execReplayRecordApply
  try dsimp only
  repeat' first | with_reducible refine ⟨_, rfl, ?_⟩ | split
  all_goals repeat' first
    | with_reducible apply Keeps.refl
    | with_reducible apply keeps_nextRecord
    | with_reducible apply keeps_applyRecord

end Sys2Proof.Machine
end

