-- ==== Sys2Proof/Laws/PerInstr.lean ====
section
/-! SUPPORT. One law per command about the command as syntax: a well-formed command carries at most the bytes of the
largest message of its interface, a certificate chain of 65,536 bytes with its key share of 192. -/

set_option Elab.async false

namespace Sys2Proof.Laws.WellSized

/-- How many data bytes a command carries: the body of a cell, the data of a write, a frame or a message. -/
def carried : Instr → Nat
  | .bar2Write _ data _ => data.length
  | .hostReadCompletion _ _ data => data.length
  | .schedCellReceived _ b => b.length
  | .putCellReceived _ b => b.length
  | .remoteAddCellReceived _ b => b.length
  | .ackReceived _ b => b.length
  | .refusalReceived _ b => b.length
  | .forfeitCellReceived _ b => b.length
  | .sideCellReceived _ b => b.length
  | .keyShareReceived _ b c => b.length + c.length
  | .spdmNegotiateAlgorithms _ b => b.length
  | .spdmChallenge _ _ c => c.length
  | .spdmGetMeasurements _ _ c => c.length
  | .spdmKeyExchange _ b => b.length
  | .spdmFinish _ _ c => c.length
  | .ideKm _ _ c => c.length
  | .tunnelReq _ _ _ d => d.length
  | .objectRead f => f.data.length
  | .objectWrite f => f.data.length
  | .objectWriteSeg f _ => f.data.length
  | .startTrial f => f.data.length
  | .commit f => f.data.length
  | .fallBack f => f.data.length
  | .clearRetirementRecord f => f.data.length
  | .clearArrayCounts f => f.data.length
  | _ => 0

/-- A well-formed command carries at most 65,728 bytes. -/
def Statement (i : Instr) : Prop := wellFormed i = true → carried i ≤ 65728

theorem registerWrite : ∀ x, Statement (.registerWrite x) := fun _ _ => Nat.zero_le _
theorem parityCheckedRead : ∀ x y z, Statement (.parityCheckedRead x y z) := fun _ _ _ _ => Nat.zero_le _
theorem paritySweep : ∀ x, Statement (.paritySweep x) := fun _ _ => Nat.zero_le _
theorem bar2Read : ∀ x y z, Statement (.bar2Read x y z) := fun _ _ _ _ => Nat.zero_le _
theorem bar2Write : ∀ x y z, Statement (.bar2Write x y z) := by
  intro x y z h; simp only [wellFormed, bar2Ok, decide_eq_true_eq] at h; simp only [carried]; omega
theorem ringProd : ∀ x y, Statement (.ringProd x y) := fun _ _ _ => Nat.zero_le _
theorem gqLaunch : ∀ x y, Statement (.gqLaunch x y) := fun _ _ _ => Nat.zero_le _
theorem cqCons : ∀ x y, Statement (.cqCons x y) := fun _ _ _ => Nat.zero_le _
theorem eqCons : ∀ x y, Statement (.eqCons x y) := fun _ _ _ => Nat.zero_le _
theorem groupLaunchEffect : ∀ x, Statement (.groupLaunchEffect x) := fun _ _ => Nat.zero_le _
theorem seatCreate : ∀ x y, Statement (.seatCreate x y) := fun _ _ _ => Nat.zero_le _
theorem seatRelease : ∀ x y, Statement (.seatRelease x y) := fun _ _ _ => Nat.zero_le _
theorem seatReleaseComplete : ∀ x, Statement (.seatReleaseComplete x) := fun _ _ => Nat.zero_le _
theorem gatingComplete : ∀ x, Statement (.gatingComplete x) := fun _ _ => Nat.zero_le _
theorem wakeComplete : ∀ x, Statement (.wakeComplete x) := fun _ _ => Nat.zero_le _
theorem descriptorHead : ∀ x, Statement (.descriptorHead x) := fun _ _ => Nat.zero_le _
theorem nop : ∀ x, Statement (.nop x) := fun _ _ => Nat.zero_le _
theorem matrixSingle : ∀ x, Statement (.matrixSingle x) := fun _ _ => Nat.zero_le _
theorem matrixOpen : ∀ x, Statement (.matrixOpen x) := fun _ _ => Nat.zero_le _
theorem matrixContinue : ∀ x, Statement (.matrixContinue x) := fun _ _ => Nat.zero_le _
theorem matrixClose : ∀ x, Statement (.matrixClose x) := fun _ _ => Nat.zero_le _
theorem matrixOpenLoad : ∀ x, Statement (.matrixOpenLoad x) := fun _ _ => Nat.zero_le _
theorem tileComplete : ∀ x y z u, Statement (.tileComplete x y z u) := fun _ _ _ _ _ => Nat.zero_le _
theorem arrayRetired : ∀ x y, Statement (.arrayRetired x y) := fun _ _ _ => Nat.zero_le _
theorem groupSlotGrant : ∀ x y, Statement (.groupSlotGrant x y) := fun _ _ _ => Nat.zero_le _
theorem arrayClockGate : ∀ x y, Statement (.arrayClockGate x y) := fun _ _ _ => Nat.zero_le _
theorem quantNarrow : ∀ x, Statement (.quantNarrow x) := fun _ _ => Nat.zero_le _
theorem quantRestore : ∀ x, Statement (.quantRestore x) := fun _ _ => Nat.zero_le _
theorem quantStats : ∀ x, Statement (.quantStats x) := fun _ _ => Nat.zero_le _
theorem wideDot : ∀ x, Statement (.wideDot x) := fun _ _ => Nat.zero_le _
theorem ewiseAdd : ∀ x, Statement (.ewiseAdd x) := fun _ _ => Nat.zero_le _
theorem ewiseMul : ∀ x, Statement (.ewiseMul x) := fun _ _ => Nat.zero_le _
theorem ewiseAxpby : ∀ x, Statement (.ewiseAxpby x) := fun _ _ => Nat.zero_le _
theorem ewiseRelu : ∀ x, Statement (.ewiseRelu x) := fun _ _ => Nat.zero_le _
theorem ewiseSilu : ∀ x, Statement (.ewiseSilu x) := fun _ _ => Nat.zero_le _
theorem ewiseSiluMul : ∀ x, Statement (.ewiseSiluMul x) := fun _ _ => Nat.zero_le _
theorem wideRmsnorm : ∀ x, Statement (.wideRmsnorm x) := fun _ _ => Nat.zero_le _
theorem wideSoftmax : ∀ x, Statement (.wideSoftmax x) := fun _ _ => Nat.zero_le _
theorem wideUpdate : ∀ x, Statement (.wideUpdate x) := fun _ _ => Nat.zero_le _
theorem wideCast : ∀ x, Statement (.wideCast x) := fun _ _ => Nat.zero_le _
theorem watchEvaluate : ∀ x, Statement (.watchEvaluate x) := fun _ _ => Nat.zero_le _
theorem watchApply : ∀ x, Statement (.watchApply x) := fun _ _ => Nat.zero_le _
theorem watchBoth : ∀ x, Statement (.watchBoth x) := fun _ _ => Nat.zero_le _
theorem copyLinear : ∀ x, Statement (.copyLinear x) := fun _ _ => Nat.zero_le _
theorem copySkewSerial : ∀ x, Statement (.copySkewSerial x) := fun _ _ => Nat.zero_le _
theorem copySkewParallel : ∀ x, Statement (.copySkewParallel x) := fun _ _ => Nat.zero_le _
theorem copyTransposeParallel : ∀ x, Statement (.copyTransposeParallel x) := fun _ _ => Nat.zero_le _
theorem copyFill : ∀ x, Statement (.copyFill x) := fun _ _ => Nat.zero_le _
theorem atomicAdd : ∀ x, Statement (.atomicAdd x) := fun _ _ => Nat.zero_le _
theorem atomicAnd : ∀ x, Statement (.atomicAnd x) := fun _ _ => Nat.zero_le _
theorem atomicOr : ∀ x, Statement (.atomicOr x) := fun _ _ => Nat.zero_le _
theorem atomicXor : ∀ x, Statement (.atomicXor x) := fun _ _ => Nat.zero_le _
theorem atomicSmin : ∀ x, Statement (.atomicSmin x) := fun _ _ => Nat.zero_le _
theorem atomicSmax : ∀ x, Statement (.atomicSmax x) := fun _ _ => Nat.zero_le _
theorem atomicUmin : ∀ x, Statement (.atomicUmin x) := fun _ _ => Nat.zero_le _
theorem atomicUmax : ∀ x, Statement (.atomicUmax x) := fun _ _ => Nat.zero_le _
theorem atomicSwap : ∀ x, Statement (.atomicSwap x) := fun _ _ => Nat.zero_le _
theorem atomicCas : ∀ x, Statement (.atomicCas x) := fun _ _ => Nat.zero_le _
theorem atomicLoad : ∀ x, Statement (.atomicLoad x) := fun _ _ => Nat.zero_le _
theorem lineFillComplete : ∀ x y, Statement (.lineFillComplete x y) := fun _ _ _ => Nat.zero_le _
theorem hostXferToCs : ∀ x, Statement (.hostXferToCs x) := fun _ _ => Nat.zero_le _
theorem hostXferToHost : ∀ x, Statement (.hostXferToHost x) := fun _ _ => Nat.zero_le _
theorem hostReadCompletion : ∀ x y z, Statement (.hostReadCompletion x y z) := by
  intro x y z h; simp only [wellFormed, decide_eq_true_eq] at h; simp only [carried]; omega
theorem hostCompletionTimeout : ∀ x, Statement (.hostCompletionTimeout x) := fun _ _ => Nat.zero_le _
theorem fenceLocal : ∀ x, Statement (.fenceLocal x) := fun _ _ => Nat.zero_le _
theorem fenceChip : ∀ x, Statement (.fenceChip x) := fun _ _ => Nat.zero_le _
theorem fenceFabric : ∀ x, Statement (.fenceFabric x) := fun _ _ => Nat.zero_le _
theorem fenceHost : ∀ x, Statement (.fenceHost x) := fun _ _ => Nat.zero_le _
theorem tumblerSet : ∀ x, Statement (.tumblerSet x) := fun _ _ => Nat.zero_le _
theorem tumblerAdd : ∀ x, Statement (.tumblerAdd x) := fun _ _ => Nat.zero_le _
theorem tumblerRemoteAdd : ∀ x, Statement (.tumblerRemoteAdd x) := fun _ _ => Nat.zero_le _
theorem tumblerRead : ∀ x, Statement (.tumblerRead x) := fun _ _ => Nat.zero_le _
theorem tumblerHostWrite : ∀ x, Statement (.tumblerHostWrite x) := fun _ _ => Nat.zero_le _
theorem haspAcquire : ∀ x, Statement (.haspAcquire x) := fun _ _ => Nat.zero_le _
theorem haspTry : ∀ x, Statement (.haspTry x) := fun _ _ => Nat.zero_le _
theorem haspRelease : ∀ x, Statement (.haspRelease x) := fun _ _ => Nat.zero_le _
theorem haspRepair : ∀ x, Statement (.haspRepair x) := fun _ _ => Nat.zero_le _
theorem haspInspect : ∀ x, Statement (.haspInspect x) := fun _ _ => Nat.zero_le _
theorem haspRetry : ∀ x y, Statement (.haspRetry x y) := fun _ _ _ => Nat.zero_le _
theorem groupLaunch : ∀ x, Statement (.groupLaunch x) := fun _ _ => Nat.zero_le _
theorem collectiveAllreduce : ∀ x, Statement (.collectiveAllreduce x) := fun _ _ => Nat.zero_le _
theorem collectiveReduceScatter : ∀ x, Statement (.collectiveReduceScatter x) := fun _ _ => Nat.zero_le _
theorem collectiveAllgather : ∀ x, Statement (.collectiveAllgather x) := fun _ _ => Nat.zero_le _
theorem collectiveBroadcast : ∀ x, Statement (.collectiveBroadcast x) := fun _ _ => Nat.zero_le _
theorem collectivePut : ∀ x, Statement (.collectivePut x) := fun _ _ => Nat.zero_le _
theorem descriptorComplete : ∀ x y, Statement (.descriptorComplete x y) := fun _ _ _ => Nat.zero_le _
theorem seatVectorHoldoffEnd : ∀ x, Statement (.seatVectorHoldoffEnd x) := fun _ _ => Nat.zero_le _
theorem scResize : ∀ x, Statement (.scResize x) := fun _ _ => Nat.zero_le _
theorem scResizeComplete : Statement .scResizeComplete := fun _ => Nat.zero_le _
theorem csScrubCfgWrite : ∀ x, Statement (.csScrubCfgWrite x) := fun _ _ => Nat.zero_le _
theorem csPatrolScrub : ∀ x y, Statement (.csPatrolScrub x y) := fun _ _ _ => Nat.zero_le _
theorem configRequest : Statement .configRequest := fun _ => Nat.zero_le _
theorem pcieAtomicopRequest : Statement .pcieAtomicopRequest := fun _ => Nat.zero_le _
theorem perstN : Statement .perstN := fun _ => Nat.zero_le _
theorem tlpIntegrityFail : ∀ x, Statement (.tlpIntegrityFail x) := fun _ _ => Nat.zero_le _
theorem markReceived : ∀ x y z, Statement (.markReceived x y z) := fun _ _ _ _ => Nat.zero_le _
theorem schedCellReceived : ∀ x y, Statement (.schedCellReceived x y) := by
  intro x y h; simp only [wellFormed, cellOk, decide_eq_true_eq] at h; simp only [carried]; omega
theorem cellReady : ∀ x, Statement (.cellReady x) := fun _ _ => Nat.zero_le _
theorem putCellReceived : ∀ x y, Statement (.putCellReceived x y) := by
  intro x y h; simp only [wellFormed, cellOk, decide_eq_true_eq] at h; simp only [carried]; omega
theorem remoteAddCellReceived : ∀ x y, Statement (.remoteAddCellReceived x y) := by
  intro x y h; simp only [wellFormed, cellOk, decide_eq_true_eq] at h; simp only [carried]; omega
theorem ackReceived : ∀ x y, Statement (.ackReceived x y) := by
  intro x y h; simp only [wellFormed, cellOk, decide_eq_true_eq] at h; simp only [carried]; omega
theorem refusalReceived : ∀ x y, Statement (.refusalReceived x y) := by
  intro x y h; simp only [wellFormed, cellOk, decide_eq_true_eq] at h; simp only [carried]; omega
theorem noAck : ∀ x, Statement (.noAck x) := fun _ _ => Nat.zero_le _
theorem forfeitCellReceived : ∀ x y, Statement (.forfeitCellReceived x y) := by
  intro x y h; simp only [wellFormed, cellOk, decide_eq_true_eq] at h; simp only [carried]; omega
theorem sideCellReceived : ∀ x y, Statement (.sideCellReceived x y) := by
  intro x y h; simp only [wellFormed, cellOk, decide_eq_true_eq] at h; simp only [carried]; omega
theorem identReceived : ∀ x y, Statement (.identReceived x y) := fun _ _ _ => Nat.zero_le _
theorem timeReqReceived : ∀ x y z, Statement (.timeReqReceived x y z) := fun _ _ _ _ => Nat.zero_le _
theorem timeReplyReceived : ∀ x y z u v, Statement (.timeReplyReceived x y z u v) := fun _ _ _ _ _ _ => Nat.zero_le _
theorem locked : Statement .locked := fun _ => Nat.zero_le _
theorem portUp : ∀ x, Statement (.portUp x) := fun _ _ => Nat.zero_le _
theorem keyShareReceived : ∀ x y z, Statement (.keyShareReceived x y z) := by
  intro x y z h; simp only [wellFormed, decide_eq_true_eq] at h; simp only [carried]; omega
theorem authTagReceived : ∀ x y, Statement (.authTagReceived x y) := fun _ _ _ => Nat.zero_le _
theorem fecUncorrectable : ∀ x y, Statement (.fecUncorrectable x y) := fun _ _ _ => Nat.zero_le _
theorem lossOfSignal : ∀ x y, Statement (.lossOfSignal x y) := fun _ _ _ => Nat.zero_le _
theorem portDown : ∀ x, Statement (.portDown x) := fun _ _ => Nat.zero_le _
theorem portTrainingStart : ∀ x, Statement (.portTrainingStart x) := fun _ _ => Nat.zero_le _
theorem linkTrained : ∀ x, Statement (.linkTrained x) := fun _ _ => Nat.zero_le _
theorem trainingTimeout : ∀ x, Statement (.trainingTimeout x) := fun _ _ => Nat.zero_le _
theorem trainingRetry : ∀ x, Statement (.trainingRetry x) := fun _ _ => Nat.zero_le _
theorem miswiredRetrain : ∀ x, Statement (.miswiredRetrain x) := fun _ _ => Nat.zero_le _
theorem turnBegin : ∀ x, Statement (.turnBegin x) := fun _ _ => Nat.zero_le _
theorem roundBoundary : Statement .roundBoundary := fun _ => Nat.zero_le _
theorem turnMiss : ∀ x y, Statement (.turnMiss x y) := fun _ _ _ => Nat.zero_le _
theorem turnMissWatchdog : ∀ x, Statement (.turnMissWatchdog x) := fun _ _ => Nat.zero_le _
theorem holdoverTimeout : Statement .holdoverTimeout := fun _ => Nat.zero_le _
theorem trefLock : Statement .trefLock := fun _ => Nat.zero_le _
theorem trefPpsEdge : Statement .trefPpsEdge := fun _ => Nat.zero_le _
theorem trefLost : Statement .trefLost := fun _ => Nat.zero_le _
theorem timeSnap : ∀ x, Statement (.timeSnap x) := fun _ _ => Nat.zero_le _
theorem schedInstall : Statement .schedInstall := fun _ => Nat.zero_le _
theorem installComplete : Statement .installComplete := fun _ => Nat.zero_le _
theorem schedArm : Statement .schedArm := fun _ => Nat.zero_le _
theorem schedCancel : Statement .schedCancel := fun _ => Nat.zero_le _
theorem stallWindowEnd : ∀ x, Statement (.stallWindowEnd x) := fun _ _ => Nat.zero_le _
theorem slip : ∀ x, Statement (.slip x) := fun _ _ => Nat.zero_le _
theorem fbCtrlWrite : ∀ x y, Statement (.fbCtrlWrite x y) := fun _ _ _ => Nat.zero_le _
theorem tbCtrlWrite : ∀ x, Statement (.tbCtrlWrite x) := fun _ _ => Nat.zero_le _
theorem detCtrlWrite : ∀ x, Statement (.detCtrlWrite x) := fun _ _ => Nat.zero_le _
theorem recBegin : Statement .recBegin := fun _ => Nat.zero_le _
theorem recEnd : Statement .recEnd := fun _ => Nat.zero_le _
theorem recorderStepEnd : Statement .recorderStepEnd := fun _ => Nat.zero_le _
theorem replayRecordApply : Statement .replayRecordApply := fun _ => Nat.zero_le _
theorem seatWatchdogExpiry : ∀ x, Statement (.seatWatchdogExpiry x) := fun _ _ => Nat.zero_le _
theorem seatDrainExpiry : ∀ x, Statement (.seatDrainExpiry x) := fun _ _ => Nat.zero_le _
theorem partWatchdogExpiry : ∀ x, Statement (.partWatchdogExpiry x) := fun _ _ => Nat.zero_le _
theorem partitionResetCmd : ∀ x, Statement (.partitionResetCmd x) := fun _ _ => Nat.zero_le _
theorem partitionReset : ∀ x y, Statement (.partitionReset x y) := fun _ _ _ => Nat.zero_le _
theorem partitionResetEnd : ∀ x, Statement (.partitionResetEnd x) := fun _ _ => Nat.zero_le _
theorem deviceResetCmd : ∀ x, Statement (.deviceResetCmd x) := fun _ _ => Nat.zero_le _
theorem deviceReset : ∀ x y, Statement (.deviceReset x y) := fun _ _ _ => Nat.zero_le _
theorem deviceResetEnd : Statement .deviceResetEnd := fun _ => Nat.zero_le _
theorem forfeitCmd : ∀ x, Statement (.forfeitCmd x) := fun _ _ => Nat.zero_le _
theorem ecVectorHoldoffEnd : Statement .ecVectorHoldoffEnd := fun _ => Nat.zero_le _
theorem pairMaskWrite : ∀ x, Statement (.pairMaskWrite x) := fun _ _ => Nat.zero_le _
theorem shakerTest : ∀ x y z u v, Statement (.shakerTest x y z u v) := fun _ _ _ _ _ _ => Nat.zero_le _
theorem shakerTestEnd : ∀ x y z, Statement (.shakerTestEnd x y z) := fun _ _ _ _ => Nat.zero_le _
theorem hbmRefresh : ∀ x, Statement (.hbmRefresh x) := fun _ _ => Nat.zero_le _
theorem hbmCalibration : ∀ x, Statement (.hbmCalibration x) := fun _ _ => Nat.zero_le _
theorem channelRetrainComplete : ∀ x y z, Statement (.channelRetrainComplete x y z) := fun _ _ _ _ => Nat.zero_le _
theorem hbmTempReadout : ∀ x y, Statement (.hbmTempReadout x y) := fun _ _ _ => Nat.zero_le _
theorem throttleStepFall : ∀ x, Statement (.throttleStepFall x) := fun _ _ => Nat.zero_le _
theorem tempReadoutTimeout : ∀ x, Statement (.tempReadoutTimeout x) := fun _ _ => Nat.zero_le _
theorem hbScrubCfgWrite : ∀ x y, Statement (.hbScrubCfgWrite x y) := fun _ _ _ => Nat.zero_le _
theorem hbPatrolScrub : ∀ x y z u, Statement (.hbPatrolScrub x y z u) := fun _ _ _ _ _ => Nat.zero_le _
theorem rowRepairPending : ∀ x y z, Statement (.rowRepairPending x y z) := fun _ _ _ _ => Nat.zero_le _
theorem spdmGetVersion : ∀ x, Statement (.spdmGetVersion x) := fun _ _ => Nat.zero_le _
theorem spdmGetCapabilities : ∀ x, Statement (.spdmGetCapabilities x) := fun _ _ => Nat.zero_le _
theorem spdmNegotiateAlgorithms : ∀ x y, Statement (.spdmNegotiateAlgorithms x y) := by
  intro x y h; simp only [wellFormed, decide_eq_true_eq] at h; simp only [carried]; omega
theorem spdmGetDigests : ∀ x, Statement (.spdmGetDigests x) := fun _ _ => Nat.zero_le _
theorem spdmGetCertificate : ∀ x y z u, Statement (.spdmGetCertificate x y z u) := fun _ _ _ _ _ => Nat.zero_le _
theorem spdmChallenge : ∀ x y z, Statement (.spdmChallenge x y z) := by
  intro x y z h; simp only [wellFormed, decide_eq_true_eq] at h; simp only [carried]; omega
theorem spdmGetMeasurements : ∀ x y z, Statement (.spdmGetMeasurements x y z) := by
  intro x y z h; simp only [wellFormed, decide_eq_true_eq] at h; simp only [carried]; omega
theorem spdmKeyExchange : ∀ x y, Statement (.spdmKeyExchange x y) := by
  intro x y h; simp only [wellFormed, decide_eq_true_eq] at h; simp only [carried]; omega
theorem spdmFinish : ∀ x y z, Statement (.spdmFinish x y z) := by
  intro x y z h; simp only [wellFormed, decide_eq_true_eq] at h; simp only [carried]; omega
theorem spdmEndSession : ∀ x y, Statement (.spdmEndSession x y) := fun _ _ _ => Nat.zero_le _
theorem ideKm : ∀ x y z, Statement (.ideKm x y z) := by
  intro x y z h; simp only [wellFormed, decide_eq_true_eq] at h; simp only [carried]; omega
theorem tdispGetVersion : ∀ x y, Statement (.tdispGetVersion x y) := fun _ _ _ => Nat.zero_le _
theorem tdispGetCapabilities : ∀ x y, Statement (.tdispGetCapabilities x y) := fun _ _ _ => Nat.zero_le _
theorem lockInterface : ∀ x y z, Statement (.lockInterface x y z) := fun _ _ _ _ => Nat.zero_le _
theorem getInterfaceReport : ∀ x y, Statement (.getInterfaceReport x y) := fun _ _ _ => Nat.zero_le _
theorem getInterfaceState : ∀ x y, Statement (.getInterfaceState x y) := fun _ _ _ => Nat.zero_le _
theorem startInterface : ∀ x y z, Statement (.startInterface x y z) := fun _ _ _ _ => Nat.zero_le _
theorem stopInterface : ∀ x y, Statement (.stopInterface x y) := fun _ _ _ => Nat.zero_le _
theorem sign : ∀ x, Statement (.sign x) := fun _ _ => Nat.zero_le _
theorem signComplete : Statement .signComplete := fun _ => Nat.zero_le _
theorem firmwareVerified : ∀ x y z, Statement (.firmwareVerified x y z) := fun _ _ _ _ => Nat.zero_le _
theorem fwReady : Statement .fwReady := fun _ => Nat.zero_le _
theorem objectRead : ∀ x, Statement (.objectRead x) := by
  intro x h; simp only [wellFormed, reqOk, decide_eq_true_eq] at h; simp only [carried]; omega
theorem objectWrite : ∀ x, Statement (.objectWrite x) := by
  intro x h; simp only [wellFormed, reqOk, decide_eq_true_eq] at h; simp only [carried]; omega
theorem objectWriteSeg : ∀ x y, Statement (.objectWriteSeg x y) := by
  intro x y h; simp only [wellFormed, reqOk, decide_eq_true_eq] at h; simp only [carried]; omega
theorem startTrial : ∀ x, Statement (.startTrial x) := by
  intro x h; simp only [wellFormed, reqOk, decide_eq_true_eq] at h; simp only [carried]; omega
theorem commit : ∀ x, Statement (.commit x) := by
  intro x h; simp only [wellFormed, reqOk, decide_eq_true_eq] at h; simp only [carried]; omega
theorem fallBack : ∀ x, Statement (.fallBack x) := by
  intro x h; simp only [wellFormed, reqOk, decide_eq_true_eq] at h; simp only [carried]; omega
theorem trialReadyTimeout : Statement .trialReadyTimeout := fun _ => Nat.zero_le _
theorem trialWindowEnd : Statement .trialWindowEnd := fun _ => Nat.zero_le _
theorem clearRetirementRecord : ∀ x, Statement (.clearRetirementRecord x) := by
  intro x h; simp only [wellFormed, reqOk, decide_eq_true_eq] at h; simp only [carried]; omega
theorem clearArrayCounts : ∀ x, Statement (.clearArrayCounts x) := by
  intro x h; simp only [wellFormed, reqOk, decide_eq_true_eq] at h; simp only [carried]; omega
theorem readdress : ∀ x, Statement (.readdress x) := fun _ _ => Nat.zero_le _
theorem tunnelReq : ∀ x y z u, Statement (.tunnelReq x y z u) := by
  intro x y z u h; simp only [wellFormed, decide_eq_true_eq] at h; simp only [carried]; omega
theorem claimReceived : ∀ x y, Statement (.claimReceived x y) := fun _ _ _ => Nat.zero_le _
theorem heartbeatReceived : ∀ x, Statement (.heartbeatReceived x) := fun _ _ => Nat.zero_le _
theorem bidReceived : ∀ x, Statement (.bidReceived x) := fun _ _ => Nat.zero_le _
theorem canFrameSent : ∀ x, Statement (.canFrameSent x) := fun _ _ => Nat.zero_le _
theorem lonely : Statement .lonely := fun _ => Nat.zero_le _
theorem busOffRecovery : Statement .busOffRecovery := fun _ => Nat.zero_le _
theorem heartbeatSend : Statement .heartbeatSend := fun _ => Nat.zero_le _
theorem alarmSend : Statement .alarmSend := fun _ => Nat.zero_le _
theorem chainOutFrame : Statement .chainOutFrame := fun _ => Nat.zero_le _
theorem chainInFrame : ∀ x, Statement (.chainInFrame x) := fun _ _ => Nat.zero_le _
theorem chainInHighTimeout : Statement .chainInHighTimeout := fun _ => Nat.zero_le _
theorem chainInLowTimeout : Statement .chainInLowTimeout := fun _ => Nat.zero_le _
theorem electionListenEnd : Statement .electionListenEnd := fun _ => Nat.zero_le _
theorem electionOpen : Statement .electionOpen := fun _ => Nat.zero_le _
theorem uartReadObject : ∀ x, Statement (.uartReadObject x) := fun _ _ => Nat.zero_le _
theorem uartReadOffset : ∀ x y, Statement (.uartReadOffset x y) := fun _ _ _ => Nat.zero_le _
theorem uartStatus : Statement .uartStatus := fun _ => Nat.zero_le _
theorem uartVersion : Statement .uartVersion := fun _ => Nat.zero_le _
theorem traceTextStart : Statement .traceTextStart := fun _ => Nat.zero_le _
theorem traceTextStop : Statement .traceTextStop := fun _ => Nat.zero_le _
theorem uartBadLine : Statement .uartBadLine := fun _ => Nat.zero_le _
theorem uartOverrun : Statement .uartOverrun := fun _ => Nat.zero_le _
theorem uartFraming : Statement .uartFraming := fun _ => Nat.zero_le _
theorem uartBreak : Statement .uartBreak := fun _ => Nat.zero_le _
theorem traceCtrlWrite : ∀ x, Statement (.traceCtrlWrite x) := fun _ _ => Nat.zero_le _
theorem traceRecordDrop : Statement .traceRecordDrop := fun _ => Nat.zero_le _
theorem powerOnReset : Statement .powerOnReset := fun _ => Nat.zero_le _
theorem sysResetRelease : Statement .sysResetRelease := fun _ => Nat.zero_le _
theorem posSample : ∀ x, Statement (.posSample x) := fun _ _ => Nat.zero_le _
theorem powerStepEvaluation : ∀ x y z u v, Statement (.powerStepEvaluation x y z u v) := fun _ _ _ _ _ _ => Nat.zero_le _
theorem thermalTrip : ∀ x y, Statement (.thermalTrip x y) := fun _ _ _ => Nat.zero_le _
theorem thermAlertRelease : Statement .thermAlertRelease := fun _ => Nat.zero_le _
theorem coreLoss : ∀ x, Statement (.coreLoss x) := fun _ _ => Nat.zero_le _
theorem coreRestart : ∀ x, Statement (.coreRestart x) := fun _ _ => Nat.zero_le _
theorem perstNRelease : Statement .perstNRelease := fun _ => Nat.zero_le _
theorem canReceiveError : ∀ x, Statement (.canReceiveError x) := fun _ _ => Nat.zero_le _
theorem scrubLate : ∀ x, Statement (.scrubLate x) := fun _ _ => Nat.zero_le _
theorem dataPhaseRateChange : Statement .dataPhaseRateChange := fun _ => Nat.zero_le _
theorem uartRateChange : Statement .uartRateChange := fun _ => Nat.zero_le _

end Sys2Proof.Laws.WellSized
end

