-- ==== Sys2Proof/Tests/Slice0.lean ====
section
/-! SUPPORT. Tests. First the commands no hardware can send, each refused by well-formedness; then, for every statement
that has hypotheses, states and operands that meet the hypotheses of each of its clauses; then single steps whose
results are worked out by hand from the rules they name. -/

set_option Elab.async false

open Sys2Proof Sys2Proof.Machine

namespace Sys2Proof.Tests

/-! Small states. -/

/-- The command has a next state, and it passes `p`. -/
def ok (o : Host.Outcome State Fault Refusal) (p : State → Bool) : Bool :=
  match o with
  | .next t => p t
  | _ => false

def tlp0 : Tlp := { stream := none, tbit := false }
def bell (v : Word) : Bell := { size := 4, value := v, tlp := tlp0 }

/-- Registers given values. -/
def regsSet (s : State) (rs : List (Nat × Nat)) : State := rs.foldl (fun s r => s.setRegN r.1 r.2) s

/-- Sixteen words of a descriptor, from its first. -/
def words (l : List Nat) : List Word := (l ++ List.replicate (16 - l.length) 0).map (BitVec.ofNat 32)

/-- The windows and rings of seat 0: 1 MiB of the Central Store, of which 512 KiB are the host's; rings of 64 entries at
0, 64 KiB and 128 KiB; tumblers 0 to 63; 1 MiB of HBM; BAR2 and BAR4 on. -/
def seatRegs : List (Nat × Nat) :=
  [(seatReg 0 0x8, 16), (seatReg 0 0x10, 8), (seatReg 0 0x18, 6), (seatReg 0 0x20, 1), (seatReg 0 0x24, 6),
   (seatReg 0 0x2C, 2), (seatReg 0 0x30, 6), (seatReg 0 0x38, 64 * 2 ^ 16), (ceSeatReg 0 4, 16), (hiReg 0, 3)]

/-- A running device whose seat `0` is in state `st`, its partition awake. -/
def dev (st : SeatState) : State :=
  regsSet { State.reset with
    pw := { Power.fresh with state := .on, perstLow := false, csReady := true, hbmReady := true },
    fw := { Firmware.fresh with boot := .ready },
    sc := { Security.fresh with drbgOk := true },
    tb := { TimeBase.fresh with counting := true, timeValid := true },
    seats := [(0, { SeatRec.fresh with state := st, wardKey := some 0 })],
    parts := [(0, { PartRec.fresh with gated := false })] } seatRegs

def live : State := dev .active
def free : State := dev .free

/-- The head of seat 0 is a descriptor of these words. -/
def head (l : List Nat) : Head := { index := 0, words := words l }
def headed (l : List Nat) : State := live.modSeat 0 fun r => { r with head := some (head l), prodAcc := 1 }

/-- Seat 0 has a descriptor of these words in work. -/
def inWork (l : List Nat) (w : Work) (status : Nat) : State :=
  live.modSeat 0 fun r => { r with running := [newRun (head l) w status] }

/-- A host request frame of operation `op` on an object, with data. -/
def req (op : Byte) (index : BitVec 16) (sub : Byte) (data : List Byte) : ReqFrame :=
  { path := .hostMailbox, op := op, tag := 0, obj := { index := index, sub := sub }, requester := 0, offset := 0,
    len := data.length, arg := 0, reserved := false, data := data }

/-! Well-formedness refuses what cannot arise. -/

theorem test_ill_register : wellFormed (.registerWrite (wordWrite 0x4000000 0 tlp0)) = false := by decide
theorem test_ill_size : wellFormed (.parityCheckedRead 0 9 false) = false := by decide
theorem test_ill_own_row : wellFormed (.tbCtrlWrite (wordWrite (tbReg 4) 0 tlp0)) = false := by decide
theorem test_ill_tumbler : wellFormed (.tumblerHostWrite (wordWrite (csReg 0) 0 tlp0)) = false := by decide
theorem test_ill_cell : wellFormed (.cellReady 0) = true ∧
    wellFormed (.ackReceived { port := 0, group := 0, cidx := 0 } []) = false := by decide
theorem test_ill_frame : wellFormed (.commit { req 2 0x7002 3 [1] with len := 2 }) = false := by decide
theorem test_ill_bell : wellFormed (.ringProd 0 { bell 0 with size := 0 }) = false := by decide
theorem test_ill_window : wellFormed (.bar2Read (2 ^ 34 - 1) 2 tlp0) = false := by decide
theorem test_ill_bring_up : wellFormed .fwReady = true ∧ wellFormed (.coreRestart []) = false := by decide
theorem test_ill_parity : wellFormed (.paritySweep [2]) = false := by decide
theorem test_ill_upset : wellFormed (.tileComplete 0 0 [{ partner := false, row := 0, col := 0, delta := 0 }] ⟨.clean, .clean, 0⟩)
    = false := by decide
theorem test_ill_line : wellFormed (.lineFillComplete 0 (2 ^ 28)) = false := by decide
theorem test_ill_data : wellFormed (.hostReadCompletion 0 .success (List.replicate 4097 0)) = false := by decide +kernel
theorem test_ill_hasp : wellFormed (.haspRetry 0 8) = false := by decide
theorem test_ill_sector : wellFormed (.csPatrolScrub (2 ^ 28) .clean) = false ∧
    wellFormed (.hbPatrolScrub 0 0 (2 ^ 25) ⟨.clean, .good⟩) = false := by decide
theorem test_ill_share : wellFormed (.keyShareReceived 0 [] []) = false ∧
    wellFormed (.spdmKeyExchange .hostMailbox []) = false := by decide
theorem test_ill_stalls : wellFormed (.stallWindowEnd 15625) = true ∧ wellFormed (.stallWindowEnd 15626) = false := by decide
theorem test_ill_hottest : wellFormed (.shakerTest 0 (.array 0) .arrayKat .lowV 256) = false := by decide
theorem test_ill_spdm : wellFormed (.spdmGetCertificate .hostMailbox 8 0 0) = false ∧
    wellFormed (.spdmChallenge .hostMailbox 0 []) = false ∧ wellFormed (.spdmGetMeasurements .hostMailbox 0 []) = false ∧
    wellFormed (.spdmFinish .hostMailbox 0 []) = false ∧ wellFormed (.ideKm 0 .stopLink []) = false ∧
    wellFormed (.spdmNegotiateAlgorithms .hostMailbox (List.replicate 4097 0)) = false := by decide +kernel
theorem test_ill_tunnel : wellFormed (.tunnelReq true true 0 (List.replicate 63 0)) = false := by decide
theorem test_ill_can : wellFormed (.canReceiveError 2) = false := by decide

/-! Hypotheses that are met: the machine and its registers. -/

theorem test_meets_StepRunsTheFrontCommand :
    ({ live with pending := [.configRequest, .perstN] } : State).pending = .configRequest :: [.perstN] := rfl

theorem test_meets_EmptyQueueTicks : State.reset.pending = [] ∧ State.reset.tb.counting = false ∧ live.pending = [] ∧
    live.tb.counting = true ∧ live.tb.acc = 0 := by decide +kernel

theorem test_meets_StepTakesOneCommand :
    ok (step { live with pending := [.pcieAtomicopRequest, .perstN] }) (fun t => decide (t.pending = [.perstN])) = true := by
  decide +kernel

theorem test_meets_EveryStepKeepsMemoryForm : live.memoryOk ∧ ok (step live) (fun _ => true) = true := by
  unfold State.memoryOk; decide +kernel

/-- The last group queue's last register and the last partition's MX_CTRL, through every alias; a log register through
its CLR and its TGL alias. -/
theorem test_meets_RegisterAliases : live.barLive = true ∧
    (∀ off ∈ [gqReg 63 0x7C, mxReg 31 0], absentUnit live.variant off = false ∧ plainRegister off = true ∧
      off % 0x10000 < 0x4000 ∧ off % 4 = 0 ∧ (regInfo live.variant off).acc = .rwp) ∧
    absentUnit live.variant (csReg 0xC) = false ∧ blockOf (csReg 0xC) ≠ .msix ∧ csReg 0xC % 0x10000 < 0x4000 ∧
    (regInfo live.variant (csReg 0xC)).acc = .sl := by decide +kernel

theorem test_meets_RegisterAccessAndParity :
    gqReg 0 0 % 8 = 0 ∧ live.barLive = true ∧
    ok (exec (.registerWrite { offset := gqReg 0 0, size := 4, value := 5, tlp := tlp0 }) live)
      (fun t => decide (t.barLive = live.barLive)) = true ∧
    (¬ (2 = 4 ∧ gqReg 0 0 % 4 = 0) ∧ ¬ (2 = 8 ∧ gqReg 0 0 % 8 = 0) ∧
      ∀ i < 2, absentUnit live.variant (gqReg 0 0 + i) = false) ∧
    (live.fw.boot ≠ .failed ∧ live.badParity = []) ∧
    (absentUnit .b28 (mxReg 31 0x3FF) = true ∧ ({ live with variant := .b28 } : State).barLive = true ∧
      ∀ i < 8, absentUnit .b28 (mxReg 31 0 + i) = true) ∧
    (live.aoOn = true ∧ pwReg 0 % 0x10000 < 0x4000 ∧ firmwareKept (pwReg 0) = true ∧ live.hasParity (pwReg 0) = true ∧
      bit (live.reg (ecReg 0x10)) 31 = false ∧ bit ((live.setRegN (ecReg 0x10) (2 ^ 31)).reg (ecReg 0x10)) 31 = true ∧
      (live.setRegN (ecReg 0x10) (2 ^ 31)).badParity = []) := by decide +kernel

/-! Doorbells and the host's window. -/

/-- Seats FREE and WAKING; an index at the ring's end and one beyond it, for each of the three rings. -/
theorem test_meets_RingDoorbells :
    free.bellOpen 0 (bell 1) ∧ (free.seat 0).state ≠ .active ∧ (free.seat 0).state ≠ .waking ∧
    (dev .waking).bellOpen 0 (bell 1) ∧ ((dev .waking).seat 0).state = .waking ∧
    live.bellOpen 0 (bell 64) ∧ live.bellOpen 0 (bell 65) ∧ (live.seat 0).state = .active ∧
    (64 - live.reg (seatReg 0 0x1C)).toNat ≤ 2 ^ live.regField (seatReg 0 0x18) 4 0 ∧
    ¬ (65 - live.reg (seatReg 0 0x1C)).toNat ≤ 2 ^ live.regField (seatReg 0 0x18) 4 0 ∧
    (let s := regsSet live [(seatReg 0 0x28, 64), (seatReg 0 0x34, 64)]
     s.bellOpen 0 (bell 64) ∧ s.bellOpen 0 (bell 65) ∧
     (s.reg (seatReg 0 0x28) - 64).toNat ≤ 2 ^ s.regField (seatReg 0 0x24) 4 0 ∧ (s.seat 0).cqHeld = none ∧
     ¬ (s.reg (seatReg 0 0x28) - 65).toNat ≤ 2 ^ s.regField (seatReg 0 0x24) 4 0 ∧
     (s.reg (seatReg 0 0x34) - 64).toNat ≤ 2 ^ s.regField (seatReg 0 0x30) 4 0 ∧
     ¬ (s.reg (seatReg 0 0x34) - 65).toNat ≤ 2 ^ s.regField (seatReg 0 0x30) 4 0) := by
  simp only [State.bellOpen]; decide +kernel

/-- Group queue 63 of seat 0, enabled, with seat 0 its member. -/
def launcher : State := regsSet live [(gqReg 63 0, 2 ^ 31), (gqReg 63 0x40, 1)]

def goodLaunch (s : State) (g count : Nat) : Prop :=
  bit (s.reg (gqReg g 0)) 31 = true ∧ s.memberGone g = false ∧ s.gqParityBad g = false ∧
    ∀ m ∈ s.gqMembers g, s.prodOk m ((s.seat m).prodAcc + BitVec.ofNat 32 count) = true

theorem test_meets_GroupLaunchDoorbell :
    launcher.launches = [] ∧ launcher.bellOpen 0 (bell (63 * 2 ^ 16 + 64)) ∧ (launcher.seat 0).state = .active ∧ launcher.gqOwner 63 = 0 ∧
    field (63 * 2 ^ 16 + 64 : Word) 21 16 = 63 ∧ (63 * 2 ^ 16 + 64 : Word).toNat % 2 ^ 16 = 64 ∧
    goodLaunch launcher 63 64 ∧ ¬ goodLaunch launcher 63 65 ∧ ¬ goodLaunch launcher 62 1 ∧
    (regsSet launcher [(gqReg 63 0, 2 ^ 31 + 511)]).gqOwner 63 ≠ 0 := by
  simp only [State.bellOpen, goodLaunch]; decide +kernel

def launch0 : Launch := { gq := 63, count := 64, due := 128, asker := none }

/-- A launch of queue 63 alone, and behind one of queue 62 that a descriptor asked for. -/
theorem test_meets_GroupLaunchEffect :
    (∀ l ∈ [[launch0], [{ launch0 with gq := 62, asker := some (0, 0) }, launch0]],
      let s : State := { launcher with launches := l }
      (s.launches.find? fun x => decide (x.gq = 63)) = some launch0 ∧ (s.seat 0).state = .active ∧
        (s.seat 1).state ≠ .active) ∧
    (let l := { launch0 with asker := some (0, 0) }
     let s : State := { inWork [10] (.launch 63) 0 with launches := [l] }
     (s.launches.find? fun x => decide (x.gq = 63)) = some l ∧ (∃ r ∈ (s.seat 0).running, r.index = 0) ∧
       s.tb.counting = true ∧ s.tb.acc = 0 ∧ l.due < 2 ^ 64) := by decide +kernel

/-- The last byte of the window, one beyond it, and a pending output, guarded and not. -/
theorem test_meets_HostWindow :
    live.barLive = true ∧ live.fw.boot ≠ .failed ∧ bit (live.reg (hiReg 0)) 1 = true ∧ live.rec_.replay = false ∧
    live.hostWinSeat 0x80000 1 = none ∧ live.hostWinSeat 0x7FFFF 1 = some 0 ∧ live.tdiAllows 0 tlp0 = true ∧
    live.pendingRegion 0 0x7FFFF 1 = none ∧ live.clean 0x7FFFF 1 ∧ live.recording = false ∧
    (live.modSeat 0 fun r => { r with tdi := .locked }).tdiAllows 0 tlp0 = false ∧
    (∀ on, let s := (regsSet live [(seatReg 0 0, if on then 2 ^ 11 else 0)]).modSeat 0 fun r =>
       { r with running := [{ newRun (head [2]) .done 0 with guard := [{ lo := 4096, hi := 4160 }] }] }
     s.hostWinSeat 4090 8 = some 0 ∧ s.tdiAllows 0 tlp0 = true ∧ s.pendingRegion 0 4090 8 ≠ none ∧
     s.guardOn 0 = on ∧ s.clean 4090 8 ∧ ∀ q ∈ (s.seat 0).running, ∀ g ∈ q.guard, g.holds 4095 = false) := by
  simp only [State.clean]; decide +kernel
/-! Seats, power gating and the host port. -/

theorem test_meets_CreateOfASeat :
    free.barLive = true ∧ partPresent free.variant 0 = true ∧ bit (free.reg (ctReg 0 4)) 31 = false ∧ free.resize = none ∧
    (free.seatResult 0 true 0 0).createCause 0 = 0 ∧ (free.part 0).gated = false ∧ (free.part 0).gatingAt = none ∧
    (free.part 0).wakeAt = none ∧ (free.part 0).lowV = false ∧
    (live.seatResult 0 true 0 0).createCause 0 ≠ 0 ∧ bit (live.reg (ctReg 0 4)) 31 = false ∧
    (let s := { free with parts := [] }
     (s.seatResult 0 true 0 0).createCause 0 = 0 ∧ (s.part 0).gated = true ∧ (s.part 0).gatingAt = none ∧
     (s.part 0).wakeAt = none ∧ (s.part 0).lowV = false) ∧
    bit ((regsSet free [(ctReg 31 4, 2 ^ 31)]).reg (ctReg 31 4)) 31 = true ∧ free.createCause 0 = 0 := by decide +kernel

theorem test_meets_ReleaseOfASeat :
    live.barLive = true ∧ bit (live.reg (ctReg 0 4)) 31 = false ∧ live.resetting 0 = false ∧ (live.seat 0).state ≠ .free ∧
    (free.seat 0).state = .free ∧ free.resetting 0 = false ∧
    ({ live with ec := { live.ec with retiredHbm := true } } : State).resetting 0 = true ∧
    (dev .releasing).resetting 0 = false ∧ ((dev .releasing).seat 0).running = [] ∧
    (let s := (dev .releasing).modSeat 0 fun r =>
       { r with running := [newRun (head []) (.tile { array := 0, slot := 3, tile := 0, tiles := 1, retry := none, listed := none }) 0] }
     (s.seat 0).state = .releasing ∧ ∃ r ∈ (s.seat 0).running, r.tileWork?.isSome = true) ∧
    ((dev .releasing).seat 0).state = .releasing ∧ (dev .releasing).traceOff := by
  unfold State.traceOff; decide +kernel

theorem test_meets_GatingWakeAndHoldoffs :
    ((live.modPart 0 fun r => { r with gatingAt := some 5 }).part 0).gatingAt = some 5 ∧
    (let s := (dev .waking).modPart 0 fun r => { r with gated := true, wakeAt := some 5, creates := [0] }
     (s.part 0).wakeAt = some 5 ∧ (s.part 0).resetQueued = none ∧ (s.part 0).creates = [0] ∧ (s.seat 0).state = .waking ∧
     (s.seat 0).heldBells = []) ∧
    (let s := regsSet (live.modSeat 0 fun r => { r with heldEvent := true }) [(msixReg 12, 0)]
     (s.seat 0).heldEvent = true ∧ s.vectorOpen 0) ∧
    (let s := regsSet { live with ec := { live.ec with held := true } } [(msixReg (512 * 16 + 12), 0)]
     s.ec.held = true ∧ s.vectorOpen 512) := by
  simp only [State.vectorOpen]; decide +kernel

theorem test_meets_HostPortEvents :
    live.hostPort = true ∧ live.coreOn = true ∧ live.fw.boot = .ready ∧ live.aoOn = true ∧ live.pw.perstLow = false ∧
    ({ live with fw := { live.fw with boot := .verified } } : State).hostPort = true ∧
    (let s := live.modSeat 0 fun r => { r with tdi := .run, tdiStream := some 7 }
     (0 ∈ s.seatList) ∧ (s.seat 0).tdiStream = some 7 ∧ (s.seat 0).tdi = .run) := by decide +kernel

/-! Descriptors. -/

/-- A NOP waits in the ring of seat 0: sixteen zero words. -/
def ringed : State := live.modSeat 0 fun r => { r with prodAcc := 64 }

theorem test_meets_HeadOfTheQueue :
    ringed.coreOn = true ∧ (ringed.seat 0).state = .active ∧ ringed.partRuns 0 = true ∧ ringed.blocked 0 = false ∧
    (ringed.seat 0).head = none ∧ (ringed.seat 0).prodAcc ≠ ringed.reg (seatReg 0 0x1C) ∧
    ringed.clean (ringed.ringAddr 0 0) 64 ∧ ringed.headCause 0 64 (ringed.ringWords 0 0 1) = none ∧
    opNamed (ringed.ringWords 0 0 1) = true ∧
    (let s := { ringed with csMem := [(0, 0x0B#8)] }
     s.clean (s.ringAddr 0 0) 64 ∧ s.headCause 0 64 (s.ringWords 0 0 1) ≠ none) ∧
    live.traceOff ∧ live.job 0 = 0 ∧ live.eqFull 0 = false ∧ (regsSet live [(seatReg 0 0x34, 64)]).eqFull 0 = true := by
  simp only [State.clean, State.traceOff]; decide +kernel

theorem test_meets_NopAndGroupLaunchStart :
    (headed [0]).readyHead 0 = some (head [0]) ∧ opcodeOf (head [0]).words = 0 ∧ (headed [0]).traceOff ∧
    (let h := head [10, 0, 0, 0, 63, 1]
     let s := regsSet (headed [10, 0, 0, 0, 63, 1]) [(gqReg 63 0, 2 ^ 31), (gqReg 63 0x40, 1)]
     let off := headed [10, 0, 0, 0, 63, 1]
     let other := regsSet s [(gqReg 63 0, 2 ^ 31 + 511)]
     opcodeOf h.words = 10 ∧ launchReservedOk h.words = true ∧ launchCause h.words = none ∧ wF h.words 4 5 0 = 63 ∧
     wF h.words 5 15 0 = 1 ∧ s.readyHead 0 = some h ∧ s.gqOwner 63 = 0 ∧ s.launches = [] ∧ s.gqMembers 63 = [0] ∧
     bit (s.reg (gqReg 63 0)) 31 = true ∧ s.memberGone 63 = false ∧ s.gqParityBad 63 = false ∧
     (∀ m ∈ s.gqMembers 63, (s.start 0 h 0xFF).prodOk m ((s.seat m).prodAcc + 1) = true) ∧
     off.readyHead 0 = some h ∧ off.gqOwner 63 = 0 ∧ bit (off.reg (gqReg 63 0)) 31 = false ∧
     other.readyHead 0 = some h ∧ other.gqOwner 63 ≠ 0) := by
  simp only [State.traceOff]; decide +kernel

/-- A NOP that advances tumbler 63 and interrupts, and an ATOMIC that ended with an error. -/
theorem test_meets_DescriptorCompletes :
    (let s := inWork [2 ^ 15 + 2 ^ 14, 7, 63 * 2 ^ 16] .done 0
     ∃ r ∈ (s.seat 0).running, s.findRun 0 0 = some r ∧ r.void = false ∧ r.work = .done ∧
       opcodeOf r.words ≠ 6 ∧ s.mustHold 0 r = false ∧ (statusEffect 0 0).1 = true ∧ wB r.words 0 14 = true ∧
       (statusEffect 0 0).2 = false ∧ wB r.words 0 15 = true) ∧
    (inWork [0] .done 0).findRun 0 0 = some (newRun (head [0]) .done 0) ∧
    (inWork [0] .done 0).mustHold 0 (newRun (head [0]) .done 0) = false ∧
    (statusEffect 4 3).2 = true ∧ (inWork [4] .done 3).findRun 0 0 = some (newRun (head [4]) .done 3) ∧
    (inWork [4] .done 3).mustHold 0 (newRun (head [4]) .done 3) = false ∧ ((inWork [4] .done 3).seat 0).state = .active := by
  decide +kernel
/-! Compute. Data lie from 512 KiB up, beyond the rings: unit 0x2000 and on. -/

/-- A MATRIX of operation `op` on array 0: one element of INT8 by INT8, K = 1, to FP32. -/
def matrix (op : Nat) : List Nat :=
  [1, 9, 0, 0, op * 2 ^ 23 + 0x8055, 0, 1, 0, 0x2000, 0x2200, 0, 0, 0x2400, 0x2410, 0x2500, 64]

/-- Seat 0 has group 0 of array 0 open in slot 3, and a MATRIX at its head. -/
def openGroup (op : Nat) : State := (headed (matrix op)).bindSlot 0 0 3 0 0

theorem test_meets_MatrixStarts :
    (∀ op ∈ [0, 1, 4], isOp 1 25 23 op (head (matrix op)).words = true ∧
      let s := headed (matrix op)
      s.canStart 0 (s.mxChecks 0) (s.guardOf 0 (s.mxWrites 0 (head (matrix op)).words)) (head (matrix op))) ∧
    (∀ op ∈ [2, 3], isOp 1 25 23 op (head (matrix op)).words = true ∧
      let s := openGroup op
      s.canStart 0 (s.mxChecks 0) (s.guardOf 0 (s.mxWrites 0 (head (matrix op)).words)) (head (matrix op)) ∧
      s.openSlot 0 0 (mxGroup (head (matrix op)).words) = some 3) := by
  simp only [State.canStart]; decide +kernel

/-- The one tile of a MATRIX in work, its group in slot 3. -/
def tiling (op : Nat) : State :=
  ((inWork (matrix op) (tileWork (words (matrix op)) 0 3) 0).bindSlot 0 0 3 0 0).enterArray 0 0
def tile1 : TileWork := { array := 0, slot := 3, tile := 0, tiles := 1, retry := none, listed := none }

/-- A CLOSE that accumulates nothing, its group holding −6 in the entry of row 0 and column 0. -/
def close0 : List Nat := (matrix 3).set 6 0
def closing : State :=
  let s := ((inWork close0 (tileWork (words close0) 0 3) 0).bindSlot 0 0 3 0 0).enterArray 0 0
  let six : Int := -6 * 2 ^ 126
  s.setSlot 0 0 3 { s.slotOf 0 0 3 with entries := [(0, six)], chk := [(0, six), (128, six), (256, six)] }

theorem test_meets_TilesEnd :
    (∀ op ∈ [1, 2, 4, 0, 3],
      let s := tiling op
      let r := newRun (head (matrix op)) (.tile tile1) 0
      s.findRun 0 0 = some r ∧ r.void = false ∧ tile1.retry = none ∧ mxConverts r.words = decide (op = 0 ∨ op = 3) ∧
        s.inCells 0 r = true ∧ (s.seat 0).state ≠ .releasing ∧ (∀ b ∈ s.pairOf 0 0, (s.arr 0 b).retired = false) ∧
        tile1.tile + 1 = tile1.tiles ∧ s.paired 0 = false) ∧
    (let s := live.modSeat 0 fun r => { r with running := [newRun (head (matrix 0)) (.tile tile1) 0] }
     let r := newRun (head (matrix 0)) (.tile tile1) 0
     s.findRun 0 0 = some r ∧ s.inCells 0 r = false ∧ ∀ b ∈ s.tileArrays 0 tile1, (s.arr 0 b).retired = false) ∧
    (let s := closing
     let r := newRun (head close0) (.tile tile1) 0
     let f := s.streamTile 0 r tile1 [0] 3 0 0 []
     mxConverts r.words = true ∧ s.inCells 0 r = true ∧ f.1 = 0 ∧ (f.2.slotOf 0 0 3).lost = false ∧
       (f.2.judge 0 3 (tagOf r.words) (mxSerialB r.words) [(0, f.2.slotOf 0 0 3)]).1.isSome = true) := by decide +kernel

/-- One fold at the top of the window and one at its foot. -/
theorem test_meets_AccumulationIsExact :
    (let g : Slot := { Slot.fresh with entries := [(0, laMax - 1), (1, laMin + 1)] }
     let items : List (Nat × Rat) := [(0, laUnit 0), (1, -laUnit 0)]
     (items.map Prod.fst).Nodup ∧ (∀ e ∈ items, SMap.get false g.sat e.1 = false) ∧
     (∀ e ∈ items, (e.2 / laUnit g.eff).den = 1) ∧
     ∀ e ∈ items, laMin ≤ (e.2 / laUnit g.eff).num ∧ (e.2 / laUnit g.eff).num ≤ laMax ∧
       laMin ≤ SMap.get 0 g.entries e.1 + (e.2 / laUnit g.eff).num ∧
       SMap.get 0 g.entries e.1 + (e.2 / laUnit g.eff).num ≤ laMax) := by decide +kernel

theorem test_meets_ArrayEvents :
    (let s := live.setArr 0 7 { live.arr 0 7 with faults := 255 }
     partPresent s.variant 0 = true ∧ s.retireLimit ≤ (s.arr 0 7).faults ∧ (s.arr 0 7).retired = false) ∧
    (let s := inWork (matrix 0) (.slotWait 0 0 none) 0
     let r := newRun (head (matrix 0)) (.slotWait 0 0 none) 0
     (∀ b ∈ s.pairOf 0 0, (s.arr 0 b).retired = false) ∧ s.resetting 0 = false ∧ s.slotWinner 0 0 = some (0, r) ∧
       s.freeSlot 0 (s.pairOf 0 0) = some 0 ∧ s.findRun 0 r.index = some r) ∧
    (let s := live.setArr 0 7 { live.arr 0 7 with gated := false }
     (s.arr 0 7).gateIdle ≠ 0 ∧ (s.arr 0 7).busy = none ∧ (s.arr 0 7).gated = false ∧ s.partRuns 0 = true) := by
  decide +kernel

/-- A QUANT of one element: FP32 to BF16, ACT to BF16, and the statistics of FP32. -/
def quant (op fin out : Nat) : List Nat :=
  [3, 9, 0, 0, fin * 2 ^ 28 + out * 2 ^ 24 + op * 2 ^ 22, 0, 0, 0x2000, 64, 0x2100, 64, 0x2200, 0, 0, 0, 0x2300]

/-- A poisoned sector at byte `a`. -/
def poisonAt (s : State) (a : Nat) : State := s.setCsPoison (a / 64) true

theorem test_meets_QuantRuns :
    ∀ q ∈ [(0, 8, 7), (1, 11, 7), (2, 8, 0)],
      let l := quant q.1 q.2.1 q.2.2
      let s := headed l
      let p := poisonAt s (0x2200 * 64)
      isOp 3 23 22 q.1 (head l).words = true ∧
      s.canStart 0 (s.qChecks 0) (s.guardOf 0 (s.qWrites 0 (head l).words)) (head l) ∧
      Marked.poisoned ((s.start 0 (head l) 0xFF).unitRead 0 (0x2200 * 64) 64).1 = false ∧
      p.canStart 0 (p.qChecks 0) (p.guardOf 0 (p.qWrites 0 (head l).words)) (head l) ∧
      Marked.poisoned ((p.start 0 (head l) 0xFF).unitRead 0 (0x2200 * 64) 64).1 = true := by
  simp only [State.canStart]; decide +kernel

/-- A WIDE operation of one row of one FP32 element. -/
def wide (op func k : Nat) : List Nat :=
  [2, 9, 0, 0, op * 2 ^ 28 + 0x8880000 + func * 2 ^ 8, 0, 0, k, 0x2000, 64, 0x2100, 64, 0x2200, 64, 0x2300, 0]

def wideChecks (s : State) : Checks := { reservedOk := wReservedOk, cause := s.wPlainCause 0, nondet := fun _ => false }

theorem test_meets_WideRunsAndFrames :
    ∀ q ∈ [(0, 0, 1), (1, 0, 0), (1, 1, 0), (1, 2, 0), (1, 3, 0), (1, 4, 0), (1, 5, 0), (2, 0, 0), (3, 0, 0), (5, 0, 0)],
      let l := wide q.1 q.2.1 q.2.2
      let s := headed l
      let p := poisonAt s (0x2300 * 64)
      isOp 2 31 28 q.1 (head l).words = true ∧ (q.1 = 1 → isEwise q.2.1 (head l).words = true) ∧ s.traceOff ∧
      s.canStart 0 (wideChecks s) (s.guardOf 0 (wPlainWrites (head l).words (s.wRecord (head l).words))) (head l) ∧
      Marked.poisoned ((s.start 0 (head l) 0xFF).unitRead 0 (0x2300 * 64) (wRecLen (head l).words)).1 = false ∧
      (0 < wRecLen (head l).words →
        p.canStart 0 (wideChecks p) (p.guardOf 0 (wPlainWrites (head l).words (p.wRecord (head l).words))) (head l) ∧
        Marked.poisoned ((p.start 0 (head l) 0xFF).unitRead 0 (0x2300 * 64) (wRecLen (head l).words)).1 = true) := by
  simp only [State.canStart, State.traceOff, wideChecks]; decide +kernel

/-- The three modes of WATCH with one watcher, and an UPDATE whose record names FP32 state and wide weights. -/
theorem test_meets_TrainingRuns :
    (∀ m ∈ [0, 1, 2],
      let l := wide 6 m 0
      let s := { headed l with csMem := [(0x2300 * 64, 1#8), (0x2300 * 64 + 5, 0x24#8), (0x2300 * 64 + 9, 0x25#8),
        (0x2300 * 64 + 17, 0x26#8), (0x2400 * 64 + 29, 0x28#8)] }
      isOp 2 31 28 6 (head l).words = true ∧ wFunc (head l).words = m ∧
      s.canStart 0 { reservedOk := wReservedOk, cause := s.watchCause 0, nondet := fun _ => false }
        (s.guardOf 0 (watchWrites (head l).words (s.wRecord (head l).words))) (head l) ∧
      Marked.poisoned ((s.start 0 (head l) 0xFF).unitRead 0 (0x2300 * 64) (wRecLen (head l).words)).1 = false ∧
      (let p := poisonAt s (0x2300 * 64)
       p.canStart 0 { reservedOk := wReservedOk, cause := p.watchCause 0, nondet := fun _ => false }
         (p.guardOf 0 (watchWrites (head l).words (p.wRecord (head l).words))) (head l) ∧
       Marked.poisoned ((p.start 0 (head l) 0xFF).unitRead 0 (0x2300 * 64) (wRecLen (head l).words)).1 = true)) ∧
    (let l := wide 4 0 0
     let s := { headed l with csMem := [(0x2300 * 64, 0xA4#8), (0x2300 * 64 + 76, 64#8), (0x2300 * 64 + 80, 64#8),
        (0x2300 * 64 + 84, 64#8)] }
     isOp 2 31 28 4 (head l).words = true ∧
     s.canStart 0 { reservedOk := fun w => wReservedOk w && uReservedOk (s.wRecord w), cause := s.uCause 0,
                    nondet := fun _ => false } (s.guardOf 0 (uWrites (head l).words (s.wRecord (head l).words))) (head l) ∧
     Marked.poisoned ((s.start 0 (head l) 0xFF).unitRead 0 (0x2300 * 64) (wRecLen (head l).words)).1 = false ∧
     (let p := poisonAt s (0x2300 * 64)
      p.canStart 0 { reservedOk := fun w => wReservedOk w && uReservedOk (p.wRecord w), cause := p.uCause 0,
                     nondet := fun _ => false } (p.guardOf 0 (uWrites (head l).words (p.wRecord (head l).words))) (head l) ∧
      Marked.poisoned ((p.start 0 (head l) 0xFF).unitRead 0 (0x2300 * 64) (wRecLen (head l).words)).1 = true)) := by
  simp only [State.canStart]; decide +kernel

theorem test_meets_EwiseOfOneRow :
    let w := words (wide 1 0 0)
    let a := live.wRead 0 (wFmtA w) (wAddr w 8) (wCols w)
    wRows w = 1 ∧ wFunc w < 6 ∧ wUsesB w = true ∧ a.1 = false ∧ (a.2.2.wRead 0 (wFmtB w) (wAddr w 10) (wCols w)).1 = false := by
  decide +kernel

theorem test_meets_PatternsRoundTrip :
    (∀ b ∈ [2, 4, 8], ∀ c ∈ [0, 2 ^ b - 1], c < 2 ^ b) ∧ decodeFp32 0x80000000 ≠ .nan ∧ decodeFp32 0xFF800000 ≠ .nan ∧
    decodeFp32 0 ≠ .nan ∧ decodeBf16 0xFFFF = .nan ∧ decodeBf16 0x0001 ≠ .nan := by decide +kernel

/-- A row of the longest kind of list of outliers for its length, and a zero row. -/
theorem test_meets_ActRecordsRoundTrip :
    (let codes := List.replicate 33 15
     let outl := [(0, 65535), (32, 0)]
     1 ≤ codes.length ∧ codes.length ≤ 65536 ∧ (∀ c ∈ codes, c < 16) ∧ 0x7F80 % 0x8000 ≠ 0 ∧
     outl.length ≤ ceilDiv codes.length 32 ∧ rising (outl.map Prod.fst) = true ∧
     ∀ e ∈ outl, e.1 < codes.length ∧ e.2 < 65536) ∧
    (∀ c ∈ [0], 0x8000 % 0x8000 = 0 → c = 0) := by decide +kernel
/-! Copies, host transfers, atomics, fences, tumblers, hasps and collectives. -/

/-- A COPY of one row of 64 bytes, or of one lane of INT8 elements, from unit 0x2000 to 0x2100. -/
def copy (cop : Nat) : List Nat :=
  [4, 9, 0, 0, cop * 2 ^ 28 + 15 * 2 ^ 24 + 5 * 2 ^ 18 + 2 * 2 ^ 16, 64, 0, 0x2000, 0x2100, 64, 64]

theorem test_meets_CopiesRun :
    (∀ cop ∈ [0, 1, 2, 3, 4], let s := headed (copy cop)
      isOp 4 31 28 cop (head (copy cop)).words = true ∧
      s.canStart 0 (s.copyChecks 0) (s.guardOf 0 (copyWrites (head (copy cop)).words)) (head (copy cop)) ∧
      s.newIndex 0 (head (copy cop)) ∧ s.cvSplit (newRun (head (copy cop)) .done 0) = false) ∧
    (∀ cop ∈ [0, 4], let w := words (copy cop)
      cCop w = cop ∧ cPlanes w = 1 ∧ cSrcHbm w = false ∧ cDstHbm w = false ∧ cCsum w = 0 ∧ cCv w = 0 ∧ cHash w = 0 ∧
      cSize w ≤ wN w 10 ∧ ∀ r < cRows w, live.clean (cSrcRow w 0 r) (cSize w) ∧
        (∀ i < cSize w, live.underReset 0 (cSrcRow w 0 r + i) = false) ∧
        ∀ k < cRows w, cSrcRow w 0 r + cSize w ≤ cDstRow w 0 k) := by
  simp only [State.canStart, State.clean, State.newIndex]; decide +kernel

/-- A COPY of 8 KiB with a check value, at the head of its queue; and in work with the value EXPECTED names, or another. -/
def checked : List Nat :=
  [4, 9, 0, 0, 15 * 2 ^ 24 + 5 * 2 ^ 18 + 2 * 2 ^ 16 + 2 ^ 13, 8192, 0, 0x2000, 0x2100, 8192, 8192]
def checking (v : Nat) : State := inWork checked (.checkValue (BitVec.ofNat 32 v) false) 0
theorem test_meets_CheckValues :
    (let s := headed checked
     s.newIndex 0 (head checked) ∧ s.cvSplit (newRun (head checked) .done 0) = true ∧
     s.canStart 0 (s.copyChecks 0) (s.guardOf 0 (copyWrites (head checked).words)) (head checked)) ∧
    (∀ v ∈ [0, 1],
      (checking v).findRun 0 0 = some (newRun (head checked) (.checkValue (BitVec.ofNat 32 v) false) 0) ∧ (checking v).cqFull 0 = false ∧
        ((checking v).seat 0).cqHeld = none) ∧
    opcodeOf (head checked).words = 4 ∧ cCv (head checked).words = 2 ∧ (head checked).words.getD 15 0 = 0 := by
  simp only [State.canStart, State.newIndex]; decide +kernel

/-- An ATOMIC on the 4 bytes at HBM address 4, RESULT at unit 0x2100; the line, and a shared cache of 64 MiB. -/
def atomic (aop : Nat) : List Nat := [4, 9, 0, 0, 5 * 2 ^ 28 + 15 * 2 ^ 24, aop, 0, 4, 0, 5, 0, 0, 0, 0x2100]
def line0 : CacheLine := { part := 0, line := 0, bytes := zeros 128, poison := [false, false], dirty := false }
def cached (s : State) : State := { regsSet s [(csReg 0, 1)] with cache := [line0] }

theorem test_meets_AtomicsAct :
    (∀ aop < 11,
      let h := head (atomic aop)
      let s := cached (headed (atomic aop))
      let miss := { s with cache := [] }
      isOp 4 31 28 5 h.words = true ∧ wF h.words 5 3 0 = aop ∧ s.traceOff ∧
      s.canStart 0 (s.copyChecks 0) (s.guardRegion 0 (wAddr h.words 13) 8) h ∧
      miss.canStart 0 (miss.copyChecks 0) (miss.guardRegion 0 (wAddr h.words 13) 8) h ∧
      s.wordHeld 0 0 4 = false ∧ s.lineGone 0 (State.atomicStart.atomicOp h.words) = false ∧
      s.lineOf 0 0 = some line0 ∧ line0.poisonAt 4 = false ∧ line0.bytes.length = 128 ∧ miss.lineOf 0 0 = none) ∧
    (let s := { live with fills := [(0, 0)] }
     s.fills.contains (0, 0) = true ∧ s.mayFill 0 0 = true) := by
  simp only [State.canStart, State.traceOff]; decide +kernel

/-- A HOST_XFER of 64 bytes, to the device or to the host. -/
def xfer (toHost : Nat) : List Nat := [9, 9, 0, 0, toHost * 2 ^ 31 + 15 * 2 ^ 24, 64, 0x1000, 0, 0x2000]
def locked (s : State) : State := s.modSeat 0 fun r => { r with tdi := .locked }
def reading : State :=
  { inWork (xfer 0) (.hostRead 0x1040 0x80040 0 none) 0 with
    hostReads := [{ tag := 255, seat := 0, index := 0, cs := 0x80000, len := 64, fence := false }] }

theorem test_meets_HostTransfers :
    (∀ d ∈ [0, 1],
      let h := head (xfer d)
      let s := headed (xfer d)
      opcodeOf h.words = 9 ∧ s.newIndex 0 h ∧ wB h.words 4 31 = decide (d = 1) ∧
      s.canStart 0 (s.hxChecks 0) (if d = 1 then [] else s.guardRegion 0 (hxCs h.words) (hxLen h.words)) h ∧
      s.hostDenied 0 = false ∧ (locked s).hostDenied 0 = true ∧ (locked s).newIndex 0 h ∧
      (locked s).canStart 0 ((locked s).hxChecks 0)
        (if d = 1 then [] else (locked s).guardRegion 0 (hxCs h.words) (hxLen h.words)) h) ∧
    (∃ h ∈ reading.hostReads, (reading.hostReads.find? fun q => decide (q.tag = 255)) = some h ∧ h.fence = false ∧
      reading.findRun h.seat h.index = some (newRun (head (xfer 0)) (.hostRead 0x1040 0x80040 0 none) 0) ∧ 0 ≤ h.len ∧
      reading.recording = false) := by
  simp only [State.canStart, State.newIndex]; decide +kernel

/-- A FENCE behind a WIDE operation that has not completed. -/
def fencing (kind : Nat) : State :=
  live.modSeat 0 fun r =>
    { r with running := [newRun { index := 7, words := words [2] } .done 0,
                         newRun (head [6]) (.fence kind false 0 none) 0] }

theorem test_meets_FencesWait :
    ∀ k ∈ [0, 1, 2, 3],
      let l := [6, 9, 0, 0, k * 2 ^ 30]
      isOp 6 31 30 k (head l).words = true ∧ (headed l).canStart 0 fenceChecks [] (head l) ∧
      (headed l).newIndex 0 (head l) ∧
      (fencing k).findRun 0 0 = some (newRun (head [6]) (.fence k false 0 none) 0) ∧
      ∃ q ∈ (fencing k).runsBefore 0 0, q.covered k = true := by
  simp only [State.canStart, State.newIndex]; decide +kernel

/-- A FENCE of the given kind alone in work: the read of a HOST one has come back. A write of its seat has failed, or none. -/
def fenced (kind : Nat) (bad : List (Nat × Nat)) : State :=
  live.modSeat 0 fun r =>
    { r with fenceBad := bad,
             running := [newRun (head [6, 9, 0, 0, kind * 2 ^ 30]) (if kind = 3 then .done else .fence kind false 0 none) 0] }

theorem test_meets_FencesEnd :
    ∀ k ∈ [0, 1, 2, 3], ∀ b ∈ [false, true],
      let s := fenced k (if b then [(if k = 2 then 1 else 0, 0)] else [])
      (let l := [6, 9, 0, 0, k * 2 ^ 30]
       (headed l).canStart 0 fenceChecks [] (head l) ∧ ((headed l).seat 0).running = [] ∧ ((headed l).seat 0).fenceBad = [] ∧
         (headed l).posted = [] ∧ (headed l).cqFull 0 = false ∧ (headed l).freeTag.isSome = true ∧
         (headed l).seatList.all (fun m => decide ((headed l).seat m).running.isEmpty) = true) ∧
      ∃ r ∈ (s.seat 0).running, s.findRun 0 0 = some r ∧ r.void = false ∧ opcodeOf r.words = 6 ∧
        (r.work = .done ∨ r.work = .fence k false 0 none ∧ k ≤ 2) ∧ s.clearBefore 0 0 k = true ∧
        s.fabricClear 0 0 false 0 = true ∧ s.traceOff ∧ (s.fenceStatus 0 r = 0 ↔ b = false ∨ k = 0) ∧
        s.mustHold 0 { r with status := s.fenceStatus 0 r } = false := by
  simp only [State.canStart, State.traceOff]; decide +kernel

/-- Tumbler 63, the last of seat 0, with RESULT at unit 0x2100 or none. -/
def tumbling (top : Nat) : List Nat :=
  [7, 9, 0, 0, top * 2 ^ 28, if top = 2 then 0 else 63, if top = 3 then 0 else 5,
   if top = 2 then 1 else 0, if top = 2 then 0 else 0x2100]

theorem test_meets_TumblersAct :
    ∀ top ∈ [0, 1, 2, 3],
      let h := head (tumbling top)
      let s := headed (tumbling top)
      isOp 7 31 28 top h.words = true ∧ tRelease h.words = false ∧
      s.canStart 0 (s.tumblerChecks 0) (if tResult h.words = 0 then [] else s.guardRegion 0 (tResult h.words) 4) h ∧
      s.tumbOwner (tNum h.words) = some 0 ∧ s.resetting 0 = false ∧
      (top = 2 → (s.seat 0).running = [] ∧ s.posted = [] ∧
        let u := s.modPort 0 fun r => { r with state := .up, trained := true }
        s.route (tDest h.words) = some 0 ∧ u.route (tDest h.words) = some 0 ∧ u.portUp 0 = true ∧ 0 < u.openRoom 0 ∧
        u.canStart 0 (u.tumblerChecks 0) (if tResult h.words = 0 then [] else u.guardRegion 0 (tResult h.words) 4) h) := by
  simp only [State.canStart]; decide +kernel

def hasping (hop : Nat) : List Nat := [8, 9, 0, 0, hop * 2 ^ 28, 8, 0, 0x2100]

/-- Seat 0's own hasp, another seat's, a free one, and one of an old epoch. -/
theorem test_meets_HaspsHaveOneHolder :
    live.cgen 0 < 256 ∧
    (let mine := (live.haspAct 0 0 0).1
     haspHeld mine = true ∧ live.haspMine 0 mine = true ∧ live.haspMine 511 mine = false ∧ haspHeld 0 = false ∧
     (regsSet live [(ctReg 0 8, 1)]).haspStale mine = true) ∧
    (∀ hop ∈ [0, 1, 2, 3, 4],
      let h := head (hasping hop)
      let s := cached (headed (hasping hop))
      let o := haspOp h.words
      isOp 8 31 28 hop h.words = true ∧ (s.seat 0).running = [] ∧ s.traceOff ∧
      s.canStart 0 (s.haspChecks 0) (if hResult h.words = 0 then [] else s.guardRegion 0 (hResult h.words) 8) h ∧
      s.lineGone 0 o = false ∧ s.lineOf o.part (o.addr / 128) = some line0 ∧ line0.poisonAt o.addr = false ∧
      o.addr % 8 = 0 ∧ haspField (BitVec.ofNat 64 (leNat (line0.get o.addr 8))) 31 27 = 0) ∧
    (let o := haspOp (words (hasping 0))
     let s := cached (inWork (hasping 0) (.haspWait o true) 0)
     s.haspRetryDue 0 0 = false ∧ s.haspRetryDue 0 8 = true ∧ s.haspWaiters 0 8 = [(0, 0, o)] ∧ s.lineGone 0 o = false ∧
     s.lineOf 0 (8 / 128) = some line0 ∧ haspHeld (s.haspSeen 0) = false) := by
  simp only [State.canStart, State.traceOff]; decide +kernel

/-- A board collective of 8 elements of XS64, flow 1 (gather flow 2), from the next round for one more. -/
def coll (kind : Nat) : List Nat :=
  [5, 9, 0, 0, kind * 2 ^ 28, 8, 1 + (if kind = 0 then 2 * 2 ^ 16 else 0), 0x2000, 0x2100, 0, 0, 0, 1, 2]
def put : List Nat :=
  [5 + 2 ^ 8, 9, 0, 0, 4 * 2 ^ 28 + 2 * 2 ^ 26 + 7 * 2 ^ 20, 64, 0, 0x2000, 0, 0, 0, 0, 1, 1, 0, 0, 1, 0, 0x2000] ++
    List.replicate 13 0

/-- Seat 0 has JOB 1. -/
def jobbed (s : State) : State := regsSet s [(seatReg 0 0x3C, 1)]

def turns : Schedule :=
  { id := 1, len := 1024, origin := 0, mask := 127,
    tables := List.replicate 7 [{ kind := 1, len := 1, flow := 1 }, { kind := 1, len := 1, flow := 2 }] }

theorem test_meets_CollectivesStart :
    live.job 0 = 0 ∧ (jobbed live).job 0 = 1 ∧
    (∀ kind ∈ [0, 1, 2, 3],
      let h := head (coll kind)
      let off := jobbed (headed (coll kind))
      let s := { off with tb := { off.tb with active := some turns } }
      isOp 5 31 28 kind h.words = true ∧
      off.canStart 0 (off.collChecks 0) (off.guardOf 0 (off.collWrites h.words)) h ∧
      s.canStart 0 (s.collChecks 0) (s.guardOf 0 (s.collWrites h.words)) h ∧
      ((kPorts h.words).all fun p => off.hasTurn p (kFlow h.words) && off.hasTurn p (kGather h.words)) = false ∧
      ((kPorts h.words).all fun p => s.hasTurn p (kFlow h.words) && s.hasTurn p (kGather h.words)) = true) ∧
    (let s := jobbed (headed put)
     isOp 5 31 28 4 (head put).words = true ∧ s.canStart 0 (s.collChecks 0) [] (head put) ∧ s.route (kDest (head put).words) = some 0 ∧
     let u := s.modPort 0 fun r => { r with state := .up, trained := true }
     u.portUp 0 = true ∧ ceilDiv (kElems (head put).words) 608 ≤ u.openRoom 0 ∧ u.canStart 0 (u.collChecks 0) [] (head put)) := by
  simp only [State.canStart]; decide +kernel

/-! Special registers and the store. -/

theorem test_meets_SpecialRegisterWrites :
    live.barLive = true ∧ portPresent live.variant 12 = true ∧ bit (0 : Word) 0 = false ∧ field (3 : Word) 1 0 = 3 ∧
    field (2 : Word) 1 0 ≠ 3 ∧ live.tb.counting = true ∧ bit (1 : Word) 0 ≠ live.deterministic ∧ live.deviceFree = false ∧
    free.deviceFree = true ∧ bit (1 : Word) 0 ≠ free.deterministic ∧ live.allFree 0 = false ∧ free.allFree 31 = true ∧
    bit (1 : Word) 0 ≠ bit (live.reg (ecReg 0x20)) 0 ∧ live.traceOff ∧ ¬ (regsSet live [(mgReg 0x110, 1)]).traceOff ∧
    bit (1 : Word) 0 = true ∧ live.scSize ≠ 17 ∧ free.scSize = field (4 : Word) 4 0 ∧ free.scSize ≠ field (16 : Word) 4 0 ∧
    field (17 : Word) 4 0 = 17 ∧ live.rec_.replay = false ∧
    (live.seatList.find? fun n => live.seatIs n .active && live.ownsTumbler n 8191) = none ∧
    (live.seatList.find? fun n => live.seatIs n .active && live.ownsTumbler n 63) = some 0 ∧
    live.tdiAllows 0 tlp0 = true ∧ (locked live).tdiAllows 0 tlp0 = false ∧ live.recording = false ∧
    ((locked live).seatList.find? fun n => (locked live).seatIs n .active && (locked live).ownsTumbler n 63) = some 0 := by
  unfold State.traceOff; decide +kernel

theorem test_meets_StoreUpkeep :
    live.coreOn = true ∧ ({ live with resize := some 0 } : State).resize.isSome = true ∧ live.heldCreates = [] ∧
    ({ free with resize := some 0, heldCreates := [0] } : State).heldCreates = [0] ∧
    (let s := { live with csScrub := true }
     s.coreOn = true ∧ s.csScrub = true ∧ s.csPoisoned (2 ^ 28 - 1) = false ∧ bit (s.reg (csReg 0x10)) 31 = false) := by
  decide +kernel
/-! The fabric and common time. -/

def mark0 : Mark :=
  { round := 0, turn := 0, tkind := 0, suppressed := false, flow := 0, freed := 0, schedId := 0, prevCheck := 0,
    source := 0, locked := false, hops := 0 }
def loc0 : CellAt := { port := 0, group := 0, cidx := 0 }

/-- The device `s` with port 0 UP, in a turn of TKIND `kind` of flow 1. -/
def turned (s : State) (kind : BitVec 4) : State :=
  s.modPort 0 fun r =>
    { r with state := .up, trained := true,
             rx := [(0, { mark := { mark0 with tkind := kind, flow := 1 }, cells := [], missed := false, round := 0, kept := 0 })] }
def rx0 (kind : BitVec 4) : RxTurn := { mark := { mark0 with tkind := kind, flow := 1 }, cells := [], missed := false, round := 0, kept := 0 }

/-- An OPEN cell: kind, job, tag, its LEN, its address or tumbler, and the word pair after it: ADD and FLAGS. -/
def openCell (kind job len addr : Nat) (rest : Nat := 1) : List Byte :=
  padTo 640 (leBytes 2 kind ++ leBytes 2 job ++ leBytes 4 9 ++ leBytes 2 0 ++ leBytes 2 1 ++ leBytes 2 0 ++ leBytes 2 len ++
    leBytes 8 addr ++ leBytes 8 rest)

theorem test_meets_OpenCellsArrive :
    (let s := turned (jobbed live) 2
     s.turnTakes loc0 2#4 (rx0 2) ∧
     (let b := openCell 0 1 608 (16 * 65536 - 608)
      numAt b 8 2 = s.hallIndex ∧ numAt b 0 1 = 0 ∧ s.putRefused b = false ∧ s.putCause b 608 = none) ∧
     (let b := openCell 0 1 608 (16 * 65536 - 607)
      numAt b 0 1 = 0 ∧ s.putRefused b = false ∧ s.putCause b 608 = some 0x100) ∧
     (let b := openCell 1 1 0 63
      numAt b 8 2 = s.hallIndex ∧ numAt b 0 1 = 1 ∧ s.addCause b = none ∧ numAt b 16 8 < 8192) ∧
     (let b := openCell 1 2 0 63
      numAt b 0 1 = 1 ∧ s.addCause b = some 0x102 ∧ numAt b 28 1 % 2 = 0) ∧
     (let b := openCell 1 2 0 63 (2 ^ 32)
      numAt b 0 1 = 1 ∧ s.addCause b = some 0x102 ∧ numAt b 28 1 % 2 = 1)) := by
  simp only [State.turnTakes]; decide +kernel

/-- An ACK or REFUSAL of the posted write of SEQ_TAG 9, JOB 1, at hall index 1. -/
def settling (kind : Nat) : List Byte := openCell kind 1 0 0
def posted0 : Posted := { id := 3, coll := false, seat := 0, index := 0, job := 1, tag := 9, dest := 1, due := 5 }

theorem test_meets_PostedWritesSettle :
    (let s := { turned live 4 with posted := [posted0] }
     s.turnTakes loc0 4#4 (rx0 4) ∧ (∀ k ∈ [1, 2], numAt (settling k) 0 1 = k ∧ numAt (settling k) 8 2 = s.hallIndex ∧
       s.postedOf (settling k) = some posted0) ∧ (turned live 4).postedOf (settling 1) = none ∧
     (s.seat posted0.seat).state ≠ .free ∧ s.resetting (posted0.seat / 16) = false ∧
     (let w := { posted0 with seat := 1 }
      let u := { s with posted := [w] }
      u.postedOf (settling 2) = some w ∧ (u.seat w.seat).state = .free ∧
      (u.posted.find? fun q => decide (q.id = 3 ∧ q.due ≠ 0)) = some w) ∧
     (s.posted.find? fun q => decide (q.id = 3 ∧ q.due ≠ 0)) = some posted0) := by
  simp only [State.turnTakes]; decide +kernel

/-- A collective bound on every board port, waiting for cell 0 of PART 0 on port 0, or for side values. -/
def coll0 (got : List (Nat × Nat × Nat × Nat)) : CollWork :=
  { start := 1, last := 2, sends := [],
    recvs := [{ port := 0, flow := 1, part := 0, cells := 1, moved := 0, closed := false, post := 0 }],
    got := got, hold := [], placed := [], begun := true, lost := false, poison := false, sidePorts := [], sideExpect := 1,
    side := { sumsq := 0, nonfinite := 0, flags := 0, policy := 0 }, sides := [] }
def bound (l : List Nat) (got : List (Nat × Nat × Nat × Nat)) (kind : BitVec 4) : State :=
  turned (jobbed (inWork l (.coll (coll0 got)) 0)) kind

def sideCell : List Byte :=
  padTo 640 (padTo 44 [4#8, 0#8, 1#8] ++ leBytes 2 1)
def forfeitCell (effect : Nat) : List Byte :=
  padTo 640 (leBytes 2 3 ++ leBytes 2 1 ++ leBytes 4 9 ++ leBytes 4 0x10000 ++ zeros 4 ++ leBytes 8 effect)

theorem test_meets_FlowCells (got : List (Nat × Nat × Nat × Nat)) (h : got = [] ∨ got = [(0, 1, 0, 0)]) :
    let s := bound (coll 2) got 1
    let q := newRun (head (coll 2)) (.coll (coll0 got)) 0
    s.turnTakes loc0 1#4 (rx0 1) ∧ (turned live 1).turnTakes loc0 1#4 (rx0 1) ∧ (turned live 1).binding 0 1 = none ∧
      s.binding 0 1 = some (0, q) ∧ s.collOf 0 0 = some (coll0 got) ∧ kReduces q.words = false ∧ (coll0 got).begun = true ∧
      (s.seat 0).state = .active ∧
      ((coll0 got).recvs.any fun k => decide (k.port = 0 ∧ k.flow = 1 ∧ k.part = 0 ∧ 0 < k.cells)) = true ∧
      ((coll0 got).recvs.any fun k => decide (k.port = 0 ∧ k.flow = 1 ∧ k.part = 0 ∧ 1 < k.cells)) = false ∧
      (got = [] → (0, 1, 0, 0) ∉ got) ∧ (got ≠ [] → (0, 1, 0, 0) ∈ got) := by
  simp only [State.turnTakes]
  rcases h with rfl | rfl <;> decide +kernel

theorem test_meets_SideCells :
    let l := (coll 2).set 4 (2 * 2 ^ 28 + 2 * 2 ^ 18)
    let s := bound l [] 4
    s.turnTakes loc0 4#4 (rx0 4) ∧ numAt sideCell 0 1 = 4 ∧ numAt sideCell 44 2 = 1 ∧
     s.binding 0 1 = some (0, newRun (head l) (.coll (coll0 [])) 0) ∧ s.collOf 0 0 = some (coll0 []) ∧
     kSide (head l).words ≠ 0 ∧ kGather (head l).words = 1 ∧ i16 (numAt sideCell 42 2) = kNorm (head l).words ∧
     numAt sideCell 2 2 = s.job 0 ∧ (coll0 []).begun = true ∧ (coll0 []).sides.length < (coll0 []).sideExpect := by
  simp only [State.turnTakes]; decide +kernel

/-- The boundary that begins round 9, after LAST of a collective whose cell is missing, and of one that has all. -/
theorem test_meets_CollectiveEnds :
    ∀ b ∈ [false, true],
      let c : CollWork := { coll0 [] with sideExpect := 0, poison := b,
                                          recvs := (coll0 []).recvs.map fun k => { k with moved := if b then 1 else 0 } }
      let s : State := { inWork (coll 2) (.coll c) 0 with time := BitVec.ofNat 80 (1024 * 9 * 65536) }
      s.collRuns = [(0, newRun (head (coll 2)) (.coll c) 0, c)] ∧ s.coreOn = true ∧ s.tb.counting = true ∧
        s.tb.armed = none ∧ s.ec.forfeits = [] ∧ c.last < max (s.tb.round + 1) s.curRound ∧ c.lost = false ∧
        (∃ k ∈ c.recvs, (b = true → k.cells ≤ k.moved) ∧ (b = false → k.moved < k.cells)) ∧
        c.sideExpect ≤ c.sides.length := by decide +kernel

theorem test_meets_ForfeitCells :
    let s := turned live 4
    let old := { s with time := BitVec.ofNat 80 (1024 * 100 * 65536) }
    let knows : State := { s with ec := { s.ec with seen := [{ source := 1, tag := 9, till := 5 }] } }
    s.turnTakes loc0 4#4 (rx0 4) ∧ old.turnTakes loc0 4#4 (rx0 4) ∧ knows.turnTakes loc0 4#4 (rx0 4) ∧
     numAt (forfeitCell 0) 0 1 = 3 ∧ numAt (forfeitCell 0) 2 2 ≠ 0 ∧ s.ec.seen = [] ∧ s.curRound < 0 + s.lead ∧
     0 + old.lead ≤ old.curRound ∧ numAt (forfeitCell 0) 16 8 = 0 ∧
     (knows.ec.seen.any fun q => decide (q.source = numAt (forfeitCell 0) 10 2 ∧ q.tag = numAt (forfeitCell 0) 4 4)) =
       true := by
  simp only [State.turnTakes]; decide +kernel

def keyed : State := (turned live 1).modPort 0 fun r => { r with linkKey := some 1 }
def flow0 : FlowCell := { port := 0, flow := 1, part := 0, seq := 0, rank := 0, poison := false, ready := 160, bytes := [] }

theorem test_meets_TurnsAndTags :
    (let s := turned live 1
     s.coreOn = true ∧ s.replaying = false ∧ (s.port 0).state = .up ∧ 0 < groupsOf 0 ∧ 1 < groupsOf 0 ∧ s.recording = false ∧
     (SMap.find? (s.port 0).rx 0 = some (rx0 1)) ∧ s.portUp 0 = true ∧ (s.port 0).missed = none ∧
     ((s.modPort 0 fun r => { r with missed := some (0, 1) }).port 0).missed = some (0, 1)) ∧
    (let s := regsSet ((bound (coll 2) [] 1).modPort 0 fun r => { r with misses := 3 }) [(ecReg 0x14, 3 * 2 ^ 24)]
     s.missLimit = 3 ∧ (s.port 0).misses = 3 ∧ (s.port 0).missFired = false ∧ s.portBindings 0 ≠ []) ∧
    (keyed.coreOn = true ∧ keyed.portUp 0 = true ∧ (keyed.port 0).linkKey = some 1 ∧ (keyed.port 0).ivDirty = false) ∧
    keyed.maintMissed 0 = false ∧
    (let s := live.modPort 12 fun r => { r with schedQ := [{ flow0 with ready := 0 }, flow0, { flow0 with ready := 170 }] }
     flow0 ∈ (s.port 12).schedQ ∧ s.now < flow0.ready ∧ (∀ d ∈ (s.port 12).schedQ, s.now < d.ready → flow0.ready ≤ d.ready) ∧
     s.tb.counting = true ∧ s.tb.acc = 0 ∧ flow0.ready < 2 ^ 64) ∧
    (let s := live.modPort 12 fun r => { r with schedQ := [{ flow0 with ready := 0 }] }
     ∀ d ∈ (s.port 12).schedQ, d.ready ≤ s.now) := by decide +kernel

/-- Both outcomes of an interval's tag: the tag itself, and any other. -/
theorem test_meets_authTag (want : BitVec 128) : ∃ tag : BitVec 128, tag ≠ want := ⟨want + 1, by bv_omega⟩

/-- The identity that port 0's partner of Table 11-1 sends: board place 1, its port 6. -/
def ident0 : Ident := { pos := 1, x := 0, y := 0, z := 0, port := 6, variant := 0, encrypt := true }
def porting (st : PortState) (f : PortRec → PortRec) : State :=
  regsSet (live.modPort 0 fun r => f { r with state := st, crypt := true }) [(fbReg 0 0, 1)]

theorem test_meets_PortsComeUp :
    (let s := porting .down id
     s.coreOn = true ∧ s.fwRuns = true ∧ s.ec.devReset = none ∧ s.enabled 0 = true ∧ (s.port 0).state = .down ∧
     (s.port 0).retryDue = none) ∧
    ((porting .training id).port 0).trained = false ∧
    (let s := porting .training fun r => { r with trained := true }
     (s.port 0).trained = true ∧ identHall ident0 = s.neighbour 0 ∧ ident0.port.val = partnerPort 0 ∧
     ident0.encrypt = (s.port 0).crypt ∧ ({ ident0 with encrypt := false } : Ident).encrypt ≠ (s.port 0).crypt ∧
     identHall { ident0 with pos := 2 } ≠ s.neighbour 0 ∧ ({ ident0 with port := 5 } : Ident).port.val ≠ partnerPort 0) ∧
    (let s := porting .timing fun r => { r with exchanges := 16 }
     (s.port 0).state = .timing ∧ 16 ≤ (s.port 0).exchanges ∧ (s.port 0).retryDue = none) ∧
    ((porting .timing fun r => { r with exchanges := 15 }).port 0).exchanges < 16 ∧
    (let s := porting .timing fun r => { r with retryDue := some 5 }
     (s.port 0).retryDue = some 5 ∧ s.fwRuns = true ∧ s.enabled 0 = true ∧ (regsSet s [(fbReg 0 0, 0)]).enabled 0 = false) ∧
    ((porting .miswired id).port 0).state = .miswired := by decide +kernel

theorem test_meets_LinkKeysAndLoss :
    (let s := porting .timing id
     s.coreOn = true ∧ (s.port 0).state = .timing ∧ (s.port 0).crypt = true ∧ (s.port 0).linkKey = none ∧
     (s.port 0).retryDue = none ∧ s.maintMissed 0 = false ∧ s.enabled 0 = true ∧ 7 < 4 * groupsOf 0 ∧ 1 < groupsOf 0 ∧
     11 < 4 * groupsOf 12 ∧ 2 < groupsOf 12 ∧ (s.port 0).state ≠ .down) ∧
    (let s := porting .training fun r => { r with trained := true, discards := [(1, 7)] }
     s.linkRuns 0 = true ∧ (none : Option (BitVec 20)).any codewordOk = false ∧
     (∃ h : BitVec 20, (some h).any codewordOk = false) ∧ SMap.get 0 (s.port 0).discards 0 + 1 < 8 ∧
     8 ≤ SMap.get 0 (s.port 0).discards 1 + 1) := by
  refine ⟨by decide +kernel, by decide +kernel, by decide +kernel, ⟨codewordHeader 0 0 + 1, by decide +kernel⟩, by decide +kernel,
    by decide +kernel⟩

def timed (f : TimeBase → TimeBase) (role : Nat) : State :=
  regsSet { live with tb := f live.tb } [(tbReg 0, role)]

theorem test_meets_CommonTime :
    (let s := live.modPort 0 fun r => { r with state := .timing, asked := some 1 }
     s.coreOn = true ∧ (s.port 0).state = .timing ∧ s.maintMissed 0 = false ∧ 1 < groupsOf 0 ∧
     (SMap.find? (s.port 0).rx 1).any RxTurn.maintLost = false ∧ (s.port 0).asked = some 1 ∧ (s.port 0).crypt = false ∧
     s.tb.parent ≠ some 0 ∧ s.barLive = true ∧ bit (1 : Word) 0 = true) ∧
    (let s := (timed (fun t => { t with parent := some 0, good := 16 }) 0).modPort 0 fun r => { r with advert := some (1, 1, true) }
     s.tb.parent = some 0 ∧ (s.port 0).advert = some (1, 1, true) ∧ 16 ≤ s.tb.good) ∧
    (timed (fun t => { t with good := 15 }) 0).tb.good < 16 ∧
    (let s := timed (fun t => { t with holdover := some 7, locked := true }) 1
     s.tb.holdover = some 7 ∧ s.tb.locked = true ∧ s.aoOn = true ∧ s.role = 1 ∧ s.tb.followConflict = false ∧
     s.tb.counting = true) ∧ (timed id 0).role ≠ 1 := by decide +kernel

def standing0 : Schedule := { turns with origin := 2048 }

theorem test_meets_SchedulesInstall :
    (let s := timed id 0
     s.barLive = true ∧ s.schedBusy = false ∧ s.tb.locked = false ∧ s.coreOn = true ∧
     (timed (fun t => { t with install := some (0, 0) }) 0).tb.install = some (0, 0)) ∧
    (let s := timed (fun t => { t with locked := true, install := some (0, 0) }) 0
     s.tb.locked = true ∧ s.tb.standing = none ∧ s.tb.armed = none ∧ s.schedBusy = false ∧
     0 * 64 + imageSize ≤ s.scBase ∧ s.scBase ≤ csSize) ∧
    (let s := timed (fun t => { t with locked := true, standing := some standing0 }) 0
     s.tb.standing = some standing0 ∧ (s.counter (tbReg 0x3C) : Int) ≤ s.armRound standing0 + 1 ∧
     s.armRound standing0 + 1 < ((regsSet s [(tbReg 0x3C, 1)]).counter (tbReg 0x3C) : Int) ∧
     (regsSet s [(tbReg 0x3C, 1)]).armRound standing0 = s.armRound standing0) := by decide +kernel

theorem test_meets_RoundsAndTurns :
    (live.coreOn = true ∧ live.tb.counting = true ∧ live.tb.armed = none) ∧
    (let s := timed (fun t => { t with active := some turns, standing := some standing0, armed := some 1 }) 0
     s.tb.active = some turns ∧ s.tb.standing = some standing0 ∧ s.tb.armed = some 1 ∧ 1 ≤ max (s.tb.round + 1) s.curRound ∧
     max (s.tb.round + 1) s.curRound < 2) ∧
    (let s := { timed (fun t => { t with standing := some standing0, armed := some 1 }) 0 with
       time := BitVec.ofNat 80 (4096 * 65536) }
     s.tb.active = none ∧ standing0.origin + 1 * standing0.len ≤ max s.now (s.roundStart (max (s.tb.round + 1) s.curRound))) ∧
    (let s := live.modPort 12 fun r => { r with state := .timing, trained := true }
     portPresent s.variant 12 = true ∧ (s.port 12).trained = true ∧ (s.port 12).state ≠ .down ∧ s.replaying = false ∧
     s.portRound 12 ≤ (s.port 12).roundNext ∧ (s.port 12).turnNext < (s.running 12).1.length ∧
     s.boundaryDue (s.turnAt 12 (s.port 12).roundNext (s.port 12).turnNext).2 = false) ∧
    (∀ k ∈ [999, 1000, 2999], let s := live.modPort 12 fun r => { r with stallRun := k, slips := k / 2000 }
     s.coreOn = true ∧ portPresent s.variant 12 = true ∧
     s.slipRun (.port 12) = (k / 1000, k / 2000) ∧ (k / 2000 < k / 1000 ↔ k ≠ 999) ∧ s.obj 0x6082 0 0 + 1 < 2 ^ 64) ∧
    (live.slipRun .host).1 ≤ (live.slipRun .host).2 := by decide +kernel

/-! The step recorder. -/

/-- The recorder on, its ring of 64 KiB at 256 KiB in seat 0's window. -/
def recorder (f : Recorder → Recorder) : State :=
  regsSet { live with rec_ := f live.rec_ } [(ecReg 0x810, 1), (ecReg 0x814, 10 * 2 ^ 24 + 4)]

def ending0 : RecEnd := { step := 5, first := 1, count := 2, dropped := false, digest := [] }

/-- The bytes of a record of kind `kind` with `len` bytes of payload, its CHECK left out. -/
def bare0 (kind len : Nat) : List Byte :=
  leBytes 4 kind ++ leBytes 4 len ++ zeros 32 ++ leBytes 8 0x40000 ++ zeros 12 ++
    padTo (64 * ceilDiv len 64) (List.replicate len 7#8)
def record0 (kind len check : Nat) : List Byte := (bare0 kind len).take 60 ++ leBytes 4 check ++ (bare0 kind len).drop 60

theorem crc_split (k : Nat) (c : Word) (l : List Byte) :
    l.foldl crc32cByte c = (l.drop k).foldl crc32cByte ((l.take k).foldl crc32cByte c) := by
  rw [← List.foldl_append, List.take_append_drop]

theorem crc_write : crc32c (bare0 2 5) = 0x5578A692#32 := by
  have h0 : (((bare0 2 5).drop 0).take 12).foldl crc32cByte 0xFFFFFFFF#32 = 0xDE5D1D88#32 := by decide +kernel
  have h1 : (((bare0 2 5).drop 12).take 12).foldl crc32cByte 0xDE5D1D88#32 = 0xE03BC9B5#32 := by decide +kernel
  have h2 : (((bare0 2 5).drop 24).take 12).foldl crc32cByte 0xE03BC9B5#32 = 0xA97D3DB2#32 := by decide +kernel
  have h3 : (((bare0 2 5).drop 36).take 12).foldl crc32cByte 0xA97D3DB2#32 = 0xB92D0A0B#32 := by decide +kernel
  have h4 : (((bare0 2 5).drop 48).take 12).foldl crc32cByte 0xB92D0A0B#32 = 0x9F9EFD2E#32 := by decide +kernel
  have h5 : (((bare0 2 5).drop 60).take 12).foldl crc32cByte 0x9F9EFD2E#32 = 0x935C41A8#32 := by decide +kernel
  have h6 : (((bare0 2 5).drop 72).take 12).foldl crc32cByte 0x935C41A8#32 = 0x8E61B441#32 := by decide +kernel
  have h7 : (((bare0 2 5).drop 84).take 12).foldl crc32cByte 0x8E61B441#32 = 0xC7BEBC5B#32 := by decide +kernel
  have h8 : (((bare0 2 5).drop 96).take 12).foldl crc32cByte 0xC7BEBC5B#32 = 0xF4A30FFA#32 := by decide +kernel
  have h9 : (((bare0 2 5).drop 108).take 12).foldl crc32cByte 0xF4A30FFA#32 = 0x26BA8FAF#32 := by decide +kernel
  have h10 : (((bare0 2 5).drop 120).take 12).foldl crc32cByte 0x26BA8FAF#32 = 0xAA87596D#32 := by decide +kernel
  have e : (bare0 2 5).drop 132 = [] := by decide +kernel
  have z : (bare0 2 5).drop 0 = bare0 2 5 := rfl
  rw [crc32c, ← z, crc_split 12, h0, List.drop_drop, crc_split 12, h1, List.drop_drop, crc_split 12, h2,
    List.drop_drop, crc_split 12, h3, List.drop_drop, crc_split 12, h4, List.drop_drop, crc_split 12, h5,
    List.drop_drop, crc_split 12, h6, List.drop_drop, crc_split 12, h7, List.drop_drop, crc_split 12, h8,
    List.drop_drop, crc_split 12, h9, List.drop_drop, crc_split 12, h10, List.drop_drop, e]
  rfl

theorem crc_end : crc32c (bare0 8 0) = 0xC446B456#32 := by
  have h0 : (((bare0 8 0).drop 0).take 12).foldl crc32cByte 0xFFFFFFFF#32 = 0x5AFD9DD3#32 := by decide +kernel
  have h1 : (((bare0 8 0).drop 12).take 12).foldl crc32cByte 0x5AFD9DD3#32 = 0xBB27AA54#32 := by decide +kernel
  have h2 : (((bare0 8 0).drop 24).take 12).foldl crc32cByte 0xBB27AA54#32 = 0x9E50723C#32 := by decide +kernel
  have h3 : (((bare0 8 0).drop 36).take 12).foldl crc32cByte 0x9E50723C#32 = 0x84CE1A11#32 := by decide +kernel
  have h4 : (((bare0 8 0).drop 48).take 12).foldl crc32cByte 0x84CE1A11#32 = 0x3BB94BA9#32 := by decide +kernel
  have e : (bare0 8 0).drop 60 = [] := by decide +kernel
  have z : (bare0 8 0).drop 0 = bare0 8 0 := rfl
  rw [crc32c, ← z, crc_split 12, h0, List.drop_drop, crc_split 12, h1, List.drop_drop, crc_split 12, h2,
    List.drop_drop, crc_split 12, h3, List.drop_drop, crc_split 12, h4, List.drop_drop, e]
  rfl

/-- A step is replayed, and the ring at 256 KiB holds one record. -/
def replayed (bs : List Byte) : State :=
  (regsSet { live with rec_ := { live.rec_ with replay := true, openStep := some 1 } }
    [(ecReg 0x810, 3), (ecReg 0x814, 10 * 2 ^ 24 + 4), (ecReg 0x81C, bs.length / 64)]).csWrite 0x40000 bs

theorem test_meets_RecorderChecks :
    recordOk (record0 2 5 0x5578A692) = true ∧ recordOk (record0 2 5 0) = false ∧ recordOk (record0 8 0 0xC446B456) = true := by
  have w : ∀ c, (record0 2 5 c).take 60 ++ (record0 2 5 c).drop 64 = bare0 2 5 := fun c => rfl
  have e : ∀ c, (record0 8 0 c).take 60 ++ (record0 8 0 c).drop 64 = bare0 8 0 := fun c => rfl
  unfold recordOk
  rw [w, w, e, crc_write, crc_end]
  decide +kernel

theorem test_meets_RecorderSteps :
    (let s := recorder id
     s.barLive = true ∧ recorderPresent s.variant = true ∧ s.recReady = true ∧ s.counter (ecReg 0x828) ≤ s.curRound ∧
     live.recReady = false ∧ s.curRound < (regsSet s [(ecReg 0x828, 9)]).counter (ecReg 0x828) ∧
     (regsSet s [(ecReg 0x828, 9)]).recReady = true ∧ s.rec_.openStep = none ∧
     (recorder fun r => { r with openStep := some 1 }).rec_.openStep.isSome = true) ∧
    (let s := recorder fun r => { r with ending := [ending0] }
     s.coreOn = true ∧ s.rec_.ending = ending0 :: [] ∧ 2 ≤ s.recFree ∧ (regsSet s [(ecReg 0x818, 1023)]).recFree < 2 ∧
     (regsSet s [(ecReg 0x818, 1022)]).recFree = 2) ∧
    (∀ q ∈ [(2, 5, 0x5578A692), (2, 5, 0), (8, 0, 0xC446B456)],
      let bs := record0 q.1 q.2.1 q.2.2
      let s := replayed bs
      s.coreOn = true ∧ s.replaying = true ∧ s.rec_.dropped = false ∧ s.nextRecord.1 = some bs ∧
      s.rec_.lastRound ≤ numAt bs 24 8 ∧ numAt bs 0 1 = q.1) := by decide +kernel

/-! Watchdogs and resets. -/

theorem test_meets_WatchdogsFire :
    (let s := regsSet (live.modSeat 0 fun r => { r with wdStart := some 3 }) [(seatReg 0 0x3C, 1)]
     s.coreOn = true ∧ s.tb.counting = true ∧ s.tb.acc = 0 ∧ (s.seat 0).wdStart = some 3 ∧
     3 + s.regField (ecReg 0x14) 15 0 * 1000000 < 2 ^ 64 ∧ (s.seat 0).state = .active ∧ s.resetting 0 = false ∧ s.job 0 ≠ 0 ∧
     s.forfeitKnown (s.job 0) = false) ∧
    (let s := live.modSeat 0 fun r => { r with drainDue := some 5 }
     (s.seat 0).drainDue = some 5 ∧ (s.seat 0).running = [] ∧ s.resetting 0 = false) ∧
    (let s := (inWork [] .done 0).modSeat 0 fun r => { r with drainDue := some 5 }
     (s.seat 0).drainDue = some 5 ∧ (s.seat 0).running ≠ [] ∧ partPresent s.variant 0 = true ∧ (s.part 0).wakeAt = none) ∧
    (let s := live.modPart 0 fun r => { r with wdStart := some 2 }
     s.coreOn = true ∧ (s.part 0).wdStart = some 2 ∧ s.resetting 0 = false ∧ partPresent s.variant 0 = true ∧
     (s.part 0).wakeAt = none) := by decide +kernel

def resetting0 : State :=
  live.modPart 0 fun r => { r with resetting := some { cause := .hostCmd, start := 0, jobs := [] } }

theorem test_meets_PartitionResets :
    (live.coreOn = true ∧ partPresent live.variant 0 = true ∧ (live.part 0).resetting = none ∧ (live.part 0).wakeAt = none ∧
     live.regField (ecReg 0x40) 3 0 = 0 ∧ (resetting0.part 0).resetting.isSome = true ∧ live.partSeats 0 ≠ [] ∧
     (live.csWin 0).1 < (live.csWin 0).2) ∧
    (let s := live.modPart 0 fun r => { r with wakeAt := some 1 }
     (s.part 0).resetting = none ∧ (s.part 0).wakeAt.isSome = true) ∧
    (live.barLive = true ∧ bit (1 : Word) 0 = true ∧ bit (1 : Word) 31 = false ∧ partPresent live.variant 31 = true) ∧
    (let s := resetting0
     s.coreOn = true ∧ s.ec.retiredHbm = false ∧ s.ec.devReset = none ∧
     (s.ec.shakeUnits.any fun u => decide (u.1 = 0)) = false ∧ s.oldEpochGone 0 = true ∧
     (s.tumbRange 0).1 < (s.tumbRange 0).2) ∧
    bit ((regsSet live [(ctReg 0 4, 2 ^ 31 + 3 * 2 ^ 8)]).reg (ctReg 0 4)) 31 = true ∧
    (∀ b, let r : PartReset := { cause := .hostCmd, start := 0, jobs := [1] }
     let f : Forfeit := { job := 1, effect := 5, tag := 0, cause := 6, origin := 0 }
     let s := live.modPart 0 fun q => { q with resetting := some r }
     let s := { s with ec := { s.ec with forfeits := [f] }, tb := { s.tb with wasLocked := b } }
     (s.part 0).resetting = some r ∧ s.oldEpochGone 0 = false ∧ s.forfeitHeld 1 = b) := by decide +kernel

theorem test_meets_DeviceResetsAndShaker :
    (live.barLive = true ∧ live.ec.devReset = none ∧ (0xA5 : Word).toNat % 256 = 0xA5 ∧ (0xA4 : Word).toNat % 256 ≠ 0xA5) ∧
    (let s := { timed (fun t => { t with locked := true }) 0 with ec := { live.ec with devReset := some 0, devDone := true } }
     s.ec.devReset.isSome = true ∧ s.ec.devDone = true ∧ s.fw.boot = .ready ∧ s.tb.locked = true ∧ live.tb.locked = false) ∧
    (bit (0 : Word) 31 = false ∧ bit (0x80000001 : Word) 31 = true ∧ field (0x80000001 : Word) 15 0 ≠ 0 ∧
     live.forfeitKnown (field (0x80000001 : Word) 15 0) = false) ∧
    (let s := { live with ec := { live.ec with shakeUnits := [(0, .array 0, .arrayKat, .lowV)] } }
     (s.modArr 0 0 fun r => { r with busy := some 1 }).unitIdle 0 (.array 0) = false ∧
     (s.ec.shakeUnits.find? fun q => decide (q.1 = 0 ∧ q.2.1 = .array 0)) = some (0, .array 0, .arrayKat, .lowV)) ∧
    (live.hbmRuns = true ∧ partPresent live.variant 0 = true ∧ testFits .arrayKat (.array 0) = true ∧
     live.unitIdle 0 (.array 0) = true ∧ (regsSet live [(ecReg 0x1C, 1)]).shakeOk 0 .nominal 60 = true ∧ (∀ q ∈ live.ec.shakeUnits, False)) ∧
    (let s := regsSet (free.modPart 0 fun r => { r with gated := true }) [(ecReg 0x1C, 3)]
     s.hbmRuns = true ∧ testFits .arrayKat (.array 0) = true ∧ s.unitIdle 0 (.array 0) = true ∧
     s.shakeOk 0 .lowV 40 = true ∧ (∀ q ∈ s.ec.shakeUnits, False)) := by decide +kernel

/-! HBM stacks. -/

theorem test_meets_HbmStacks :
    (let s := live.modStack 0 fun r => { r with coolFrom := some 1 }
     s.pw.state = .on ∧ (regsSet s [(hbReg 0 0x10, 0)]).stackTemp 0 = none ∧ (s.stack 0).coolFrom = some 1 ∧
     (let t := regsSet s [(hbReg 0 0x10, 2 ^ 8 + 60), (hbReg 0 8, 1)]
      t.stackTemp 0 = some 60 ∧ t.forceStep 0 < t.stackStep 0)) ∧
    (live.hbmT 4 ≤ (255 : Byte).toNat ∧ (0 : Byte).toNat < live.hbmT 4) ∧
    (let q : ScrubPass := { start := 0, period := 1, pos := [(0, 7)] }
     let s := live.modStack 0 fun r => { r with scrub := some q }
     (s.stack 0).scrub = some q ∧ s.passDone q = false ∧ s.selfRefresh 0 = false ∧ (0 ∉ (s.stack 0).retraining) ∧
     SMap.get 0 q.pos 0 ≤ lastSector s.variant ∧
     (s.hbmSector 0 (hbmAddrOf 0 (lastSector s.variant) / 64)).poison = false ∧ bit (s.reg (hbReg 0 0x14)) 31 = false) ∧
    (partPresent live.variant 0 = true ∧ SMap.get 0 (live.stack 0).retrainFails 0 = 0 ∧ 0 * 2 ^ 15 + 5 ∉ (live.stack 0).repair) ∧
    (∀ b, let s := live.modStack 0 fun r => { r with retrainFails := [(0, 1)], repair := [5], rowsUsed := [(0, if b then 64 else 63)] }
     1 ≤ SMap.get 0 (s.stack 0).retrainFails 0 ∧ 0 * 2 ^ 15 + 5 ∈ (s.stack 0).repair ∧ (s.stack 0).rowsLost 0 = b) := by decide +kernel
/-! Security. -/

def attested (f : Security → Security) : State := { live with sc := f { live.sc with attest := true } }
def session0 (secured : Bool) : Session := { number := 0, path := .hostMailbox, draw := 0, secured := secured }

/-- A secured session 0, the selective stream 2 keyed, and seat 0 a TDI in the given state. -/
def tdiIn (st : TdiState) : State :=
  regsSet ((attested fun c => { c with sessions := [session0 true], ideSel := [2] }).modSeat 0 fun r =>
    { r with tdi := st, tdiStream := some 2 }) [(seatAttr 0, 2)]

theorem test_meets_SpdmAnswers :
    live.spdmOpen .hostMailbox = false ∧ live.spdmOpen .fieldNetwork = false ∧
    (attested id).spdmOpen .hostMailbox = true ∧
    (let s := { attested id with fn := { live.fn with enabled := true, state := .active, message := some [] } }
     s.spdmOpen .fieldNetwork = true) ∧
    (0 : Nat) ≤ (attested id).certChain.length ∧
    (let s := attested fun c => { c with sessions := (List.range 4).map fun k => { session0 true with number := k } }
     s.spdmOpen .hostMailbox = true ∧ ∀ k < 4, (s.session k).isSome = true) ∧
    (attested id).session 0 = none ∧ (attested id).session 3 = none ∧
    (∀ b, (attested fun c => { c with sessions := [session0 b] }).session 0 = some (session0 b)) := by
  refine ⟨?_, ?_, ?_, ?_, Nat.zero_le _, ?_⟩ <;> decide +kernel

theorem test_meets_InterfacesLockAndRun :
    (∀ st ∈ [TdiState.unlocked, .locked, .run],
      let s := tdiIn st
      s.session 0 = some (session0 true) ∧ s.spdmOpen .hostMailbox = true ∧ 0 ∈ s.seatList ∧
      (s.seat 0).tdiStream = some 2 ∧ (s.seat 0).tdi = st ∧ partPresent s.variant 0 = true ∧
      bit (s.reg (seatAttr 0)) 1 = true ∧ (s.seat 0).state = .active ∧ 2 ∈ s.sc.ideSel ∧ 3 ∉ s.sc.ideSel ∧
      s.resetting 0 = false ∧ (1 : BitVec 256) ≠ (s.seat 0).tdiNonce) ∧
    bit ((attested id).reg (seatAttr 0)) 1 = false := by decide +kernel

def signing0 (cause : Nat) : State :=
  { live with sc := { live.sc with signing := some { cause := cause, seat := 0, cgen := live.cgen 0, epoch := live.epoch 0 } } }

theorem test_meets_SignedRecords :
    live.barLive = true ∧ live.sc.signing = none ∧ (signing0 0).sc.signing.isSome = true ∧
    (∀ c ∈ [0, 2], (signing0 c).coreOn = true ∧
      (signing0 c).sc.signing = some { cause := c, seat := 0, cgen := live.cgen 0, epoch := live.epoch 0 }) ∧
    (let s := signing0 0
     (s.seat 0).state = .active ∧ s.cgen 0 = live.cgen 0 ∧ s.epoch (0 / 16) = live.epoch 0) ∧
    (((signing0 0).modSeat 0 fun r => { r with state := .faulted }).seat 0).state ≠ .active := by decide +kernel

/-! Boot, objects and the field network. -/

def booting (b : BootState) : State := { live with fw := { live.fw with boot := b } }
def goodImage : ImageCheck := { signatureOk := true, keyIndex := 0 }
def trialing (b : BootState) (healthy : Bool) : State :=
  { live with fw := { live.fw with boot := b, trial := some 0, bootState := 1, windowEnd := some 60000, healthOk := healthy } }

theorem test_meets_BootsAndTrials :
    (let s := booting .rom
     let slot := { live.fw with boot := BootState.rom, images := [.blank, .factory] }
     s.aoOn = true ∧ s.fw.boot = .rom ∧ s.fw.running = 0 ∧ s.imageOk (s.fw.images.getD 0 .blank) goodImage = true ∧
     s.imageOk (s.fw.images.getD 1 .blank) goodImage = false ∧
     (let u := { live with fw := slot }
      u.imageOk (u.fw.images.getD 0 .blank) goodImage = false ∧ u.imageOk (u.fw.images.getD 1 .blank) goodImage = true) ∧
     s.imageOk (s.fw.images.getD 0 .blank) { goodImage with signatureOk := false } = false) ∧
    (let s := booting .verified
     s.coreOn = true ∧ s.pw.csReady = true ∧ s.pw.hbmReady = true ∧ s.fw.boot = .verified) ∧
    live.fw.boot ≠ .verified ∧
    (let s := trialing .verified true
     s.inTrial = true ∧ s.fw.boot = .verified) ∧
    (∀ b, (trialing .ready b).fw.windowEnd = some 60000 ∧ (trialing .ready b).fw.bootState = 1 ∧
      (trialing .ready b).fw.healthOk = b) := by decide +kernel

/-- The entry exists and passes `p`. -/
def entryIs (e : Except Nat ObjInfo) (p : ObjInfo → Bool) : Bool :=
  match e with
  | .ok o => p o
  | .error _ => false

def seg (off len total : Nat) : ReqFrame :=
  { req 3 0x7002 1 (List.replicate len 1) with offset := BitVec.ofNat 32 off, arg := BitVec.ofNat 32 total }

theorem test_meets_ObjectRequests :
    live.answers .hostMailbox = true ∧
    (let s := { live with fn := { live.fn with enabled := true, state := .active } }
     s.answers .fieldNetwork = true) ∧
    (let f := { req 1 0x1001 0 [] with arg := 48 }
     f.reserved = false ∧ f.len = 0 ∧ 1 ≤ f.arg.toNat ∧ f.arg.toNat ≤ 48 ∧ (live.readable f.obj).isOk = true ∧
     (live.readable { index := 0x7002, sub := 2 }).isOk = false ∧ ({ f with arg := 49 } : ReqFrame).arg.toNat > 48 ∧
     (live.readable { index := 0x1, sub := 0 }).isOk = false) ∧
    (plainWrite (req 2 0x1001 0 [1]) [1#8] ∧ (live.writable (req 2 0x1001 0 [1])).isOk = false) ∧
    (let f := req 2 0x1013 1 [0xE8, 3]
     plainWrite f [0xE8#8, 3#8] ∧ entryIs (live.writable f) (fun o => decide (o.acc = .rwp) && o.type.scalar && lengthOk o.type 2 &&
       encodingOk o.type (leNat [0xE8, 3])) = true ∧ rangeOk 0x1013 1 (leNat [0xE8, 3]) = true ∧
     live.stateCause .hostMailbox 0x1013 1 (leNat [0xE8, 3]) = 0) ∧
    (let f := seg 0 48 96
     f.op = 3 ∧ f.reserved = false ∧ 1 ≤ f.len ∧ f.len ≤ 48 ∧ f.arg ≠ 0 ∧ (live.writable f).isOk = true ∧
     live.downloadCause f.path = 0 ∧ live.segment (seg 48 48 96) = none ∧
     (∃ b, live.segment f = some b ∧ b.data.length < b.total)) := by
  refine ⟨by decide +kernel, by decide +kernel, by decide +kernel, ?_, ?_, ?_⟩
  · simp only [plainWrite]; decide +kernel
  · simp only [plainWrite]; decide +kernel
  · refine ⟨by decide +kernel, by decide +kernel, by decide +kernel, by decide +kernel, by decide +kernel, by decide +kernel,
      by decide +kernel, by decide +kernel, { obj := { index := 0x7002, sub := 1 }, total := 96, data := List.replicate 48 1 }, ?_⟩
    decide +kernel

/-- A device whose trial has passed, with a valid image in the other slot. -/
def trialDone (trial : Bool) : State :=
  { live with fw := { live.fw with images := [.factory, .factory], bootState := if trial then 1 else 0, healthOk := true } }

/-- With no seat in use the device is free. -/
theorem free_without_seats (s : State) (h : s.seats = []) : s.deviceFree = true := by
  simp [State.deviceFree, State.seatIs, State.seat, h, SMap.get, SMap.find?, SeatRec.fresh]

/-- A firmware command written as TRUE is accepted where the trial stands as said. -/
def accepted (index : BitVec 16) (sub : Byte) (trial : Bool) : Bool :=
  let s := trialDone trial
  let f := req 2 index sub [1]
  s.answers f.path && (s.writable f).isOk && decide (s.stateCause f.path f.obj.index.toNat f.obj.sub.toNat 1 = 0)

theorem test_meets_FirmwareCommands :
    (∀ index sub, plainWrite (req 2 index sub [1]) [1#8]) ∧ accepted 0x7002 2 false = true ∧
    accepted 0x7002 3 true = true ∧ accepted 0x7002 4 true = true ∧ accepted 0x4020 4 false = true ∧
    (let s := { live with seats := [] }
     let f := req 2 0x4040 2 [1]
     s.answers f.path = true ∧ (s.writable f).isOk = true ∧ s.stateCause f.path 0x4040 2 1 = 0) := by
  refine ⟨fun _ _ => ⟨rfl, rfl, rfl, rfl, rfl, rfl⟩, by decide +kernel, by decide +kernel, by decide +kernel,
    by decide +kernel, by decide +kernel, by decide +kernel, ?_⟩
  simp [State.stateCause, free_without_seats]

def onField (f : FieldNet → FieldNet) : State := { live with fn := f { live.fn with enabled := true } }
def frame0 : BitVec 11 × List Byte := (canIdent 2 5, [])

def busy0 (n : FieldNet) : FieldNet :=
  { n with state := .active, pending := [frame0], unacked := 16, alarmFrom := some 1, alarmLast := some 0,
           rateDue := some 3, tunnel := some (4, []), address := 0x21 }

theorem test_meets_FieldNetworkFrames :
    (let s := onField busy0
     s.fnRuns = true ∧ s.fn.busOff = false ∧ s.fn.state ≠ .listen ∧ s.fn.pending = frame0 :: [] ∧ frameCode frame0.1 ≠ 0xF ∧
     s.fn.state = .active ∧ 16 ≤ s.fn.unacked ∧ s.fn.passive = false ∧ 128 ≤ min 255 (s.fn.rxErr + 128) ∧
     s.fn.rateDue = some 3 ∧ s.obj 0x1013 1 1000 ≠ 0 ∧ s.fn.alarmFrom.isSome = true ∧ s.hasAddress = true ∧
     (0x21 : BitVec 7).toNat = s.fn.address ∧ (0x22 : BitVec 7).toNat ≠ s.fn.address ∧ (0x22 : BitVec 7) ≠ 0 ∧
     s.fn.tunnel = some (4, []) ∧ (4 : Byte).toNat ≠ (4 + 1) % 256 ∧ (List.replicate 4096 0#8).length ≤ 4096) ∧
    (onField fun n => { n with busOff := true }).fn.busOff = true ∧
    (onField fun n => { n with state := .lonely }).fn.state ≠ .listen := by decide +kernel

theorem test_meets_NodeAddresses :
    (let s := onField fun n => { n with lastCount := some 2 }
     s.fnRuns = true ∧ s.fn.state = .listen ∧ s.fn.lastCount ≠ some 3 ∧ s.fn.lastCount = some 2 ∧ s.fn.base + 2 ≤ 0x5F ∧
     s.fn.base ≤ 0x5F) ∧
    (let s := onField fun n => { n with lastCount := some 64 }
     s.fn.lastCount = some 64 ∧ 0x5F < s.fn.base + 64) ∧
    (let s := onField fun n => { n with state := .active, source := 1 }
     s.hasAddress = true ∧ s.fn.source = 1) ∧
    (let s := onField fun n => { n with state := .electing }
     s.fn.state = .electing ∧ s.fn.listened = false) ∧
    (let s := onField fun n => { n with state := .electing, listened := true }
     s.fn.listened = true ∧ s.fn.contending = false) ∧
    (∀ k ∈ [0, 9, 10], let s := onField fun n => { n with state := .electing, listened := true, contending := true, round := k }
     s.fn.contending = true ∧ (0 : BitVec 6).toNat = bidDigit s.serial.toNat s.fn.round ∧
     (1 : BitVec 6).toNat ≠ bidDigit s.serial.toNat s.fn.round ∧ s.freeAddress = some 0x60 ∧ s.fn.round = k) := by
  decide +kernel

theorem test_meets_UartAndTrace :
    (live.aoOn = true ∧ live.fw.boot ≠ .held ∧ (live.entry { index := 0x1001, sub := 0 }).isOk = true ∧
     (live.readable { index := 0x1001, sub := 0 }).isOk = true ∧ (live.readable { index := 1, sub := 0 }).isOk = false ∧
     entryIs (live.entry { index := 0x1001, sub := 0 }) (fun o => o.type.scalar) = true ∧
     entryIs (live.entry { index := 0x5001, sub := 1 }) (fun o => !o.type.scalar) = true ∧
     (live.readable { index := 0x5001, sub := 1 }).isOk = true) ∧
    ({ live with uart := { live.uart with rateNext := some 9600 } } : State).uart.rateNext = some 9600 ∧
    (let s := regsSet live [(mgReg 0x110, 1), (mgReg 0x114, 10 * 2 ^ 24 + 4), (mgReg 0x118, 1)]
     s.coreOn = true ∧ ¬ s.traceOff ∧ s.reg (mgReg 0x118) ≠ s.reg (mgReg 0x11C)) := by
  refine ⟨?_, rfl, ?_⟩
  · decide +kernel
  · simp only [State.traceOff]; decide +kernel

theorem test_meets_PowerAndCore :
    State.reset.pw.state = .reset ∧ live.pw.state ≠ .reset ∧ live.aoOn = true ∧ live.pw.posTaken = false ∧
    ({ live with pw := { live.pw with posTaken := true } } : State).pw.posTaken = true ∧
    live.tTrip ≤ (110 : Byte).toNat ∧ (109 : Byte).toNat < live.tTrip ∧ live.anyCrit = false ∧
    (let s := { regsSet live [(pwReg 0, 100)] with uptime := 1000000 }
     s.regField (pwReg 0) 11 0 < (101 : BitVec 12).toNat ∧ s.regField (pwReg 4) 1 0 < 3 ∧
     s.pw.lastRaise + 1000000 ≤ s.uptime ∧ s.anyCrit = false) ∧ live.pw.hot = false ∧
    (let s := { live with pw := { live.pw with coolFrom := some 5, hot := true } }
     s.pw.coolFrom = some 5 ∧ s.pw.hot = true) ∧ live.coreOn = true ∧
    (let s := { live with pw := { live.pw with okFrom := some 5, lost := true } }
     s.pw.okFrom = some 5 ∧ s.pw.lost = true) := by decide +kernel
/-! Single steps, their results worked out by hand from the rules named. -/

/-- The device `s` with bytes stored at an address, least significant first. -/
def withNum (s : State) (a n v : Nat) : State := s.csWrite a (leBytes n v)
def numIn (t : State) (a n : Nat) : Nat := leNat (t.csBytes a n)

/-- NOP is dispatched: RING_CONS moves on by 1 (R516). -/
theorem test_nop : ok (exec (.nop 0) (headed [0, 9])) (fun t => decide (t.regN (seatReg 0 0x1C) = 1)) = true := by
  decide +kernel

/-- FP32 1.0 + 2.0 = 3.0 and 2.0 × 3.0 = 6.0 (R209, IEEE 754 patterns). -/
theorem test_ewise_add :
    ok (exec (.ewiseAdd 0) (withNum (withNum (headed (wide 1 0 0)) 0x80000 4 0x3F800000) (0x2100 * 64) 4 0x40000000))
      (fun t => decide (numIn t (0x2200 * 64) 4 = 0x40400000)) = true := by decide +kernel
theorem test_ewise_mul :
    ok (exec (.ewiseMul 0) (withNum (withNum (headed (wide 1 1 0)) 0x80000 4 0x40000000) (0x2100 * 64) 4 0x40400000))
      (fun t => decide (numIn t (0x2200 * 64) 4 = 0x40C00000)) = true := by decide +kernel
/-- RELU of −1.0 is 0 (R209). -/
theorem test_ewise_relu :
    ok (exec (.ewiseRelu 0) (withNum (headed (wide 1 3 0)) 0x80000 4 0xBF800000))
      (fun t => decide (numIn t (0x2200 * 64) 4 = 0)) = true := by decide +kernel

/-- The worked example of R155: scales 0.25 and 0.5, products at k = 3 and k = 11. With A = 124 one fold gives L = 1, and
two links of K = 8 give 0 with UNDERSPAN in each; with A = 123 both give 0.25 without a flag. -/
def laneOf (scale : Nat) : Lane := { vals := [0, 0, 0, 1, 0, 0, 0, 0, 0, 0, 0, 1, 0, 0, 0, 0], scale := readScale scale, codes := [] }
def foldAt (a : Int) (ranges : List (Nat × Nat)) : Int × Nat :=
  let q := Slot.folds true { Slot.fresh with anchor := a, eff := a } [laneOf 0x3E80] [laneOf 0x3F00] 0 128 false [] ranges
  (SMap.get 0 q.1.entries 0, q.2.mask % 2)
theorem test_folds :
    foldAt 124 [(0, 16)] = (1, 0) ∧ foldAt 124 [(0, 8)] = (0, 1) ∧ foldAt 124 [(8, 16)] = (0, 1) ∧
    foldAt 123 [(0, 16)] = (2, 0) ∧ foldAt 123 [(0, 8), (8, 16)] = (2, 0) := by decide +kernel

/-- The worked example of Table 3-2: E2M1 code 0b1101 has the integer view −6, UINT4+ZP code 3 with z = 11 has −8. -/
theorem test_int_views : intView .e2m1 0xD 0 = -6 ∧ intView .uint4zp 3 11 = -8 := by decide +kernel

/-- A group that holds −6 is closed to FP32: 0xC0C00000 (R146). -/
theorem test_close :
    ok (exec (.tileComplete 0 0 [] ⟨.clean, .clean, 0⟩) closing) (fun t => decide (numIn t (0x2500 * 64) 4 = 0xC0C00000)) = true := by
  decide +kernel

/-- A linear COPY moves its 64 bytes (R251). -/
theorem test_copy :
    ok (exec (.copyLinear 0) (withNum (headed (copy 0)) 0x80000 8 0x0102030405060708))
      (fun t => decide (numIn t (0x2100 * 64) 8 = 0x0102030405060708)) = true := by decide +kernel

/-- A tumbler wraps at 2^32: its most + 5 = 4, and the value before is stored (R278). -/
theorem test_tumbler_add :
    ok (exec (.tumblerAdd 0) ((headed (tumbling 1)).setTumbler 63 0xFFFFFFFF))
      (fun t => decide (t.tumbler 63 = 4 ∧ numIn t (0x2100 * 64) 4 = 0xFFFFFFFF)) = true := by decide +kernel

/-- ATOMIC on 4 bytes (R247): 0xFFFFFFFF + 5 = 4 with the old value in RESULT; signed and unsigned minimum differ. -/
def holding (v : Nat) (aop : Nat) : State :=
  let s := cached (headed (atomic aop))
  { s with cache := [{ line0 with bytes := zeros 4 ++ leBytes 4 v ++ zeros 120 }] }
def lineNum (t : State) : Nat :=
  match t.lineOf 0 0 with
  | some l => leNat (l.get 4 4)
  | none => 0
theorem test_atomic_add :
    ok (exec (.atomicAdd 0) (holding 0xFFFFFFFF 0))
      (fun t => decide (lineNum t = 4 ∧ numIn t (0x2100 * 64) 4 = 0xFFFFFFFF)) = true := by decide +kernel
theorem test_atomic_smin :
    ok (exec (.atomicSmin 0) (holding 0xFFFFFFFF 4)) (fun t => decide (lineNum t = 0xFFFFFFFF)) = true := by decide +kernel
theorem test_atomic_umin :
    ok (exec (.atomicUmin 0) (holding 0xFFFFFFFF 6)) (fun t => decide (lineNum t = 5)) = true := by decide +kernel

/-- RELEASE sets the seat RELEASING (R58). -/
theorem test_release :
    ok (exec (.seatRelease 0 0) live) (fun t => decide ((t.seat 0).state = .releasing)) = true := by decide +kernel

/-- A write of the host window is read back, and lies in the store (R74). -/
theorem test_host_window :
    ok (exec (.bar2Write 8 [0x11#8, 0x22#8] tlp0) live) (fun t => decide (numIn t 8 2 = 0x2211)) = true := by
  decide +kernel

/-- The worked example of R23: EC_LOG_CONFIG = 5, and a 1 written to its CLR alias leaves 4; the base ignores writes. -/
theorem test_clr_alias :
    (∀ q ∈ [(ecReg 4 + 0x8000, 1, 4), (ecReg 4, 4, 5)],
      ok (exec (.registerWrite (wordWrite q.1 q.2.1 tlp0)) (regsSet live [(ecReg 4, 5)]))
        (fun t => decide (t.regN (ecReg 4) = q.2.2)) = true) := by decide +kernel

/-- The worked example of R59: 256 entries, last producer 0xFFFFFFF0, RING_CONS 0xFFFFFFE8; 8 is accepted, 0x300 is not. -/
def ringExample : State :=
  (regsSet live [(seatReg 0 0x18, 8), (seatReg 0 0x1C, 0xFFFFFFE8)]).modSeat 0 fun r => { r with prodAcc := 0xFFFFFFF0 }
theorem test_doorbell :
    ok (exec (.ringProd 0 (bell 8)) ringExample) (fun t => decide ((t.seat 0).prodAcc = 8)) = true ∧
    ok (exec (.ringProd 0 (bell 0x300)) ringExample) (fun t => decide ((t.seat 0).prodAcc = 0xFFFFFFF0)) = true := by
  decide +kernel

/-- The worked examples of "Hall" and R39: hall index 2,067; port B4 of position 5 reaches position 2 at B2. -/
theorem test_hall : hallOf 2 0 1 3 = 2067 ∧ partnerPort 4 = 2 ∧
    ({ live with pw := { live.pw with pos := 5 } } : State).neighbour 4 % 8 = 2 := by decide +kernel

/-- The worked example of R146: the group 1 + 2^−8 + 2^−30 with A = 5, to FP32 and to BF16. -/
theorem test_promote :
    encodeFp32 (laRound .fp32 (2 ^ 121 + 2 ^ 113 + 2 ^ 91) 5) = 0x3F808000 ∧
    encodeBf16 (laRound .bf16 (2 ^ 121 + 2 ^ 113 + 2 ^ 91) 5) = 0x3F81 := by decide +kernel

/-- The worked example of R151: 2^24 + 1 + 1 − 2^24 by the tree is 1. -/
theorem test_tree :
    encodeFp32 (treeReduce .fp32 false ([0x4B800000, 0x3F800000, 0x3F800000, 0xCB800000].map decodeFp32)) = 0x3F800000 := by
  decide +kernel

/-- The worked example of Table 3-8: HIST_BASE −24. -/
theorem test_hist :
    [Fp.num false 0, .num false (3 / 2 ^ 30), .num true (3 / 4), .num false 1000, .num false (2 ^ 104), .inf false].map
      (histBin (-24)) = [0, 1, 25, 35, 130, 131] := by decide +kernel

/-- The worked example of R281: seat 200 of partition 12 (epoch 1, CT_SEAT_GEN 2) acquires the stale word of seat 37. -/
def haspExample : State := regsSet live [(ctReg 2 8, 4), (ctReg 12 8, 1), (seatReg 200 0x6C, 2)]
theorem test_hasp :
    (let old : BitVec 64 := 0x0000120702250003
     haspExample.haspStale old = true ∧
     haspExample.haspAct 200 0 (haspExample.haspSeen old) = (0x0000130206C80001, some 2) ∧
     (haspExample.haspAct 200 3 0x0000130206C80001).1 = 0x0000130202C80001 ∧
     (haspExample.haspAct 200 2 0x0000130202C80001).1 = 0x0000140200C80001) := by decide +kernel

/-- Sector 0x048D00F0 by the procedure of R234: 0x0F0 xor 0x1A0 xor 0x240 is bank 0x310, in row 0x91A0 (log entry 69). -/
theorem test_store_map : csPlace 0x048D00F0 = (0x310, 0x91A0) := by decide

/-- The worked example of R291: byte 1,000,000,300 lies in stack 11, granule 325,520 of it, on pseudo channel 0 at 41,666,604. -/
theorem test_hbm_map : hbmPlace 1000000300 = (11, 325520, 44) ∧ hbmPseudo 1000000300 = (0, 41666604) ∧ 1000000300 / 64 = 15625004 ∧ hbmTweak 4 15625004 = 0x40000EE6B2C ∧
    hbmAddrOf 11 (325520 * 4) = 1000000300 - 44 := by decide +kernel

/-- CRC-32C of nine ASCII digits: the check value of the polynomial (R104, the table of row records). -/
theorem test_crc : crc32c [0x31, 0x32, 0x33, 0x34, 0x35, 0x36, 0x37, 0x38, 0x39] = 0xE3069283#32 := by decide +kernel

theorem test_number_formats :
    decodeFp32 0x3F800000 = .num false 1 ∧ decodeFp32 0xC0C00000 = .num true 6 := by decide +kernel

/-- The worked example of R319: on T1 with an asymmetry of 375 ps, FB_DELAY is 0x660 and FB_OFFSET 0x00135000. -/
def ns (q : Nat) : BitVec 80 := BitVec.ofNat 80 (q * 65536 / 4)
theorem test_time_exchange :
    ok (exec (.timeReplyReceived 8 (ns 3248000000) (ns 3247999949) (ns 3248001600) (ns 3248001702))
        ((live.setObj 0x2701 9 375).modPort 8 fun r => { r with state := .timing, asked := some (ns 3248000000) }))
      (fun t => decide (t.regN (fbReg 8 0xC) = 0x660 ∧ t.regN (fbReg 8 0x10) = 0x135000)) = true := by decide +kernel

/-- A frame acknowledged leaves the queue; a heartbeat of the own address is a conflict (R451, R456). -/
theorem test_can_sent :
    ok (exec (.canFrameSent true) (onField busy0)) (fun t => decide (t.fn.pending = [] ∧ t.fn.unacked = 0)) = true := by
  decide +kernel

/-- TIME_SNAP copies the nanoseconds (R318). -/
theorem test_time_snap :
    ok (exec (.timeSnap 1) { live with time := BitVec.ofNat 80 (7 * 65536) })
      (fun t => decide (t.regN (tbReg 0x10) = 7)) = true := by decide +kernel

/-- The queue's front command runs and leaves it (log entry 2). -/
theorem test_step :
    ok (step { headed [0, 9] with pending := [.nop 0, .powerOnReset] })
      (fun t => decide (t.pending = [.powerOnReset] ∧ t.regN (seatReg 0 0x1C) = 1)) = true := by decide +kernel

/-- The reset state's end: release starts the boot ROM (R485). -/
theorem test_reset_release :
    ok (exec .sysResetRelease State.reset) (fun t => decide (t.fw.boot = .rom ∧ t.pw.state = .aoOnly)) = true := by
  decide +kernel

end Sys2Proof.Tests
end

section
/-! SUPPORT. Every command and every step has a next state, and what it leaves alone. -/

namespace Sys2Proof.Machine

/-- Every command has a next state, which keeps what no operation touches: the law of each command's arm. -/
theorem keeps_exec (i : Instr) (s : State) : ∃ t, exec i s = .next t ∧ Keeps s t := by
  cases i with
  | registerWrite w => exact keeps_execRegisterWrite w s
  | parityCheckedRead offset size upset => exact keeps_execParityCheckedRead offset size upset s
  | paritySweep upsets => exact keeps_execParitySweep upsets s
  | bar2Read addr len tlp => exact keeps_execBar2Read addr len tlp s
  | bar2Write addr data tlp => exact keeps_execBar2Write addr data tlp s
  | ringProd seat b => exact keeps_execRingProd seat b s
  | gqLaunch seat b => exact keeps_execGqLaunch seat b s
  | cqCons seat b => exact keeps_execCqCons seat b s
  | eqCons seat b => exact keeps_execEqCons seat b s
  | groupLaunchEffect gq => exact keeps_execGroupLaunchEffect gq s
  | seatCreate part loc => exact keeps_execSeatCreate part loc s
  | seatRelease part loc => exact keeps_execSeatRelease part loc s
  | seatReleaseComplete seat => exact keeps_execSeatReleaseComplete seat s
  | gatingComplete part => exact keeps_execGatingComplete part s
  | wakeComplete part => exact keeps_execWakeComplete part s
  | descriptorHead seat => exact keeps_execDescriptorHead seat s
  | nop seat => exact keeps_execNop seat s
  | matrixSingle seat => exact keeps_execMatrixSingle seat s
  | matrixOpen seat => exact keeps_execMatrixOpen seat s
  | matrixContinue seat => exact keeps_execMatrixContinue seat s
  | matrixClose seat => exact keeps_execMatrixClose seat s
  | matrixOpenLoad seat => exact keeps_execMatrixOpenLoad seat s
  | tileComplete seat index upsets ecc => exact keeps_execTileComplete seat index upsets ecc s
  | arrayRetired part array => exact keeps_execArrayRetired part array s
  | groupSlotGrant part array => exact keeps_execGroupSlotGrant part array s
  | arrayClockGate part array => exact keeps_execArrayClockGate part array s
  | quantNarrow seat => exact keeps_execQuantNarrow seat s
  | quantRestore seat => exact keeps_execQuantRestore seat s
  | quantStats seat => exact keeps_execQuantStats seat s
  | wideDot seat => exact keeps_execWideDot seat s
  | ewiseAdd seat => exact keeps_execEwiseAdd seat s
  | ewiseMul seat => exact keeps_execEwiseMul seat s
  | ewiseAxpby seat => exact keeps_execEwiseAxpby seat s
  | ewiseRelu seat => exact keeps_execEwiseRelu seat s
  | ewiseSilu seat => exact keeps_execEwiseSilu seat s
  | ewiseSiluMul seat => exact keeps_execEwiseSiluMul seat s
  | wideRmsnorm seat => exact keeps_execWideRmsnorm seat s
  | wideSoftmax seat => exact keeps_execWideSoftmax seat s
  | wideUpdate seat => exact keeps_execWideUpdate seat s
  | wideCast seat => exact keeps_execWideCast seat s
  | watchEvaluate seat => exact keeps_execWatchEvaluate seat s
  | watchApply seat => exact keeps_execWatchApply seat s
  | watchBoth seat => exact keeps_execWatchBoth seat s
  | copyLinear seat => exact keeps_execCopyLinear seat s
  | copySkewSerial seat => exact keeps_execCopySkewSerial seat s
  | copySkewParallel seat => exact keeps_execCopySkewParallel seat s
  | copyTransposeParallel seat => exact keeps_execCopyTransposeParallel seat s
  | copyFill seat => exact keeps_execCopyFill seat s
  | atomicAdd seat => exact keeps_execAtomicAdd seat s
  | atomicAnd seat => exact keeps_execAtomicAnd seat s
  | atomicOr seat => exact keeps_execAtomicOr seat s
  | atomicXor seat => exact keeps_execAtomicXor seat s
  | atomicSmin seat => exact keeps_execAtomicSmin seat s
  | atomicSmax seat => exact keeps_execAtomicSmax seat s
  | atomicUmin seat => exact keeps_execAtomicUmin seat s
  | atomicUmax seat => exact keeps_execAtomicUmax seat s
  | atomicSwap seat => exact keeps_execAtomicSwap seat s
  | atomicCas seat => exact keeps_execAtomicCas seat s
  | atomicLoad seat => exact keeps_execAtomicLoad seat s
  | lineFillComplete part line => exact keeps_execLineFillComplete part line s
  | hostXferToCs seat => exact keeps_execHostXferToCs seat s
  | hostXferToHost seat => exact keeps_execHostXferToHost seat s
  | hostReadCompletion tag status data => exact keeps_execHostReadCompletion tag status data s
  | hostCompletionTimeout tag => exact keeps_execHostCompletionTimeout tag s
  | fenceLocal seat => exact keeps_execFenceLocal seat s
  | fenceChip seat => exact keeps_execFenceChip seat s
  | fenceFabric seat => exact keeps_execFenceFabric seat s
  | fenceHost seat => exact keeps_execFenceHost seat s
  | tumblerSet seat => exact keeps_execTumblerSet seat s
  | tumblerAdd seat => exact keeps_execTumblerAdd seat s
  | tumblerRemoteAdd seat => exact keeps_execTumblerRemoteAdd seat s
  | tumblerRead seat => exact keeps_execTumblerRead seat s
  | tumblerHostWrite w => exact keeps_execTumblerHostWrite w s
  | haspAcquire seat => exact keeps_execHaspAcquire seat s
  | haspTry seat => exact keeps_execHaspTry seat s
  | haspRelease seat => exact keeps_execHaspRelease seat s
  | haspRepair seat => exact keeps_execHaspRepair seat s
  | haspInspect seat => exact keeps_execHaspInspect seat s
  | haspRetry part addr => exact keeps_execHaspRetry part addr s
  | groupLaunch seat => exact keeps_execGroupLaunch seat s
  | collectiveAllreduce seat => exact keeps_execCollectiveAllreduce seat s
  | collectiveReduceScatter seat => exact keeps_execCollectiveReduceScatter seat s
  | collectiveAllgather seat => exact keeps_execCollectiveAllgather seat s
  | collectiveBroadcast seat => exact keeps_execCollectiveBroadcast seat s
  | collectivePut seat => exact keeps_execCollectivePut seat s
  | descriptorComplete seat index => exact keeps_execDescriptorComplete seat index s
  | seatVectorHoldoffEnd seat => exact keeps_execSeatVectorHoldoffEnd seat s
  | scResize w => exact keeps_execScResize w s
  | scResizeComplete => exact keeps_execScResizeComplete s
  | csScrubCfgWrite w => exact keeps_execCsScrubCfgWrite w s
  | csPatrolScrub sector seen => exact keeps_execCsPatrolScrub sector seen s
  | configRequest => exact keeps_execConfigRequest s
  | pcieAtomicopRequest => exact keeps_execPcieAtomicopRequest s
  | perstN => exact keeps_execPerstN s
  | tlpIntegrityFail stream => exact keeps_execTlpIntegrityFail stream s
  | markReceived port group mark => exact keeps_execMarkReceived port group mark s
  | schedCellReceived loc body => exact keeps_execSchedCellReceived loc body s
  | cellReady port => exact keeps_execCellReady port s
  | putCellReceived loc body => exact keeps_execPutCellReceived loc body s
  | remoteAddCellReceived loc body => exact keeps_execRemoteAddCellReceived loc body s
  | ackReceived loc body => exact keeps_execAckReceived loc body s
  | refusalReceived loc body => exact keeps_execRefusalReceived loc body s
  | noAck id => exact keeps_execNoAck id s
  | forfeitCellReceived loc body => exact keeps_execForfeitCellReceived loc body s
  | sideCellReceived loc body => exact keeps_execSideCellReceived loc body s
  | identReceived port ident => exact keeps_execIdentReceived port ident s
  | timeReqReceived port group t2 => exact keeps_execTimeReqReceived port group t2 s
  | timeReplyReceived port t1 t2 t3 t4 => exact keeps_execTimeReplyReceived port t1 t2 t3 t4 s
  | locked => exact keeps_execLocked s
  | portUp port => exact keeps_execPortUp port s
  | keyShareReceived port chain share => exact keeps_execKeyShareReceived port chain share s
  | authTagReceived port tag => exact keeps_execAuthTagReceived port tag s
  | fecUncorrectable port word => exact keeps_execFecUncorrectable port word s
  | lossOfSignal port lane => exact keeps_execLossOfSignal port lane s
  | portDown port => exact keeps_execPortDown port s
  | portTrainingStart port => exact keeps_execPortTrainingStart port s
  | linkTrained port => exact keeps_execLinkTrained port s
  | trainingTimeout port => exact keeps_execTrainingTimeout port s
  | trainingRetry port => exact keeps_execTrainingRetry port s
  | miswiredRetrain port => exact keeps_execMiswiredRetrain port s
  | turnBegin port => exact keeps_execTurnBegin port s
  | roundBoundary => exact keeps_execRoundBoundary s
  | turnMiss port group => exact keeps_execTurnMiss port group s
  | turnMissWatchdog port => exact keeps_execTurnMissWatchdog port s
  | holdoverTimeout => exact keeps_execHoldoverTimeout s
  | trefLock => exact keeps_execTrefLock s
  | trefPpsEdge => exact keeps_execTrefPpsEdge s
  | trefLost => exact keeps_execTrefLost s
  | timeSnap value => exact keeps_execTimeSnap value s
  | schedInstall => exact keeps_execSchedInstall s
  | installComplete => exact keeps_execInstallComplete s
  | schedArm => exact keeps_execSchedArm s
  | schedCancel => exact keeps_execSchedCancel s
  | stallWindowEnd withheld => exact keeps_execStallWindowEnd withheld s
  | slip source => exact keeps_execSlip source s
  | fbCtrlWrite port w => exact keeps_execFbCtrlWrite port w s
  | tbCtrlWrite w => exact keeps_execTbCtrlWrite w s
  | detCtrlWrite w => exact keeps_execDetCtrlWrite w s
  | recBegin => exact keeps_execRecBegin s
  | recEnd => exact keeps_execRecEnd s
  | recorderStepEnd => exact keeps_execRecorderStepEnd s
  | replayRecordApply => exact keeps_execReplayRecordApply s
  | seatWatchdogExpiry seat => exact keeps_execSeatWatchdogExpiry seat s
  | seatDrainExpiry seat => exact keeps_execSeatDrainExpiry seat s
  | partWatchdogExpiry part => exact keeps_execPartWatchdogExpiry part s
  | partitionResetCmd value => exact keeps_execPartitionResetCmd value s
  | partitionReset part cause => exact keeps_execPartitionReset part cause s
  | partitionResetEnd part => exact keeps_execPartitionResetEnd part s
  | deviceResetCmd value => exact keeps_execDeviceResetCmd value s
  | deviceReset cause found => exact keeps_execDeviceReset cause found s
  | deviceResetEnd => exact keeps_execDeviceResetEnd s
  | forfeitCmd value => exact keeps_execForfeitCmd value s
  | ecVectorHoldoffEnd => exact keeps_execEcVectorHoldoffEnd s
  | pairMaskWrite w => exact keeps_execPairMaskWrite w s
  | shakerTest part unit test cond hottest => exact keeps_execShakerTest part unit test cond hottest s
  | shakerTestEnd part unit passed => exact keeps_execShakerTestEnd part unit passed s
  | hbmRefresh stack => exact keeps_execHbmRefresh stack s
  | hbmCalibration stack => exact keeps_execHbmCalibration stack s
  | channelRetrainComplete stack chan ok => exact keeps_execChannelRetrainComplete stack chan ok s
  | hbmTempReadout stack temp => exact keeps_execHbmTempReadout stack temp s
  | throttleStepFall stack => exact keeps_execThrottleStepFall stack s
  | tempReadoutTimeout stack => exact keeps_execTempReadoutTimeout stack s
  | hbScrubCfgWrite stack w => exact keeps_execHbScrubCfgWrite stack w s
  | hbPatrolScrub stack chan sector seen => exact keeps_execHbPatrolScrub stack chan sector seen s
  | rowRepairPending stack chan row => exact keeps_execRowRepairPending stack chan row s
  | spdmGetVersion path => exact keeps_execSpdmGetVersion path s
  | spdmGetCapabilities path => exact keeps_execSpdmGetCapabilities path s
  | spdmNegotiateAlgorithms path request => exact keeps_execSpdmNegotiateAlgorithms path request s
  | spdmGetDigests path => exact keeps_execSpdmGetDigests path s
  | spdmGetCertificate path slot offset length => exact keeps_execSpdmGetCertificate path slot offset length s
  | spdmChallenge path slot nonce => exact keeps_execSpdmChallenge path slot nonce s
  | spdmGetMeasurements path index nonce => exact keeps_execSpdmGetMeasurements path index nonce s
  | spdmKeyExchange path share => exact keeps_execSpdmKeyExchange path share s
  | spdmFinish path session verifyData => exact keeps_execSpdmFinish path session verifyData s
  | spdmEndSession path session => exact keeps_execSpdmEndSession path session s
  | ideKm session action key => exact keeps_execIdeKm session action key s
  | tdispGetVersion session seat => exact keeps_execTdispGetVersion session seat s
  | tdispGetCapabilities session seat => exact keeps_execTdispGetCapabilities session seat s
  | lockInterface session seat stream => exact keeps_execLockInterface session seat stream s
  | getInterfaceReport session seat => exact keeps_execGetInterfaceReport session seat s
  | getInterfaceState session seat => exact keeps_execGetInterfaceState session seat s
  | startInterface session seat nonce => exact keeps_execStartInterface session seat nonce s
  | stopInterface session seat => exact keeps_execStopInterface session seat s
  | sign tlp => exact keeps_execSign tlp s
  | signComplete => exact keeps_execSignComplete s
  | firmwareVerified checkA checkB found => exact keeps_execFirmwareVerified checkA checkB found s
  | fwReady => exact keeps_execFwReady s
  | objectRead f => exact keeps_execObjectRead f s
  | objectWrite f => exact keeps_execObjectWrite f s
  | objectWriteSeg f check => exact keeps_execObjectWriteSeg f check s
  | startTrial f => exact keeps_execStartTrial f s
  | commit f => exact keeps_execCommit f s
  | fallBack f => exact keeps_execFallBack f s
  | trialReadyTimeout => exact keeps_execTrialReadyTimeout s
  | trialWindowEnd => exact keeps_execTrialWindowEnd s
  | clearRetirementRecord f => exact keeps_execClearRetirementRecord f s
  | clearArrayCounts f => exact keeps_execClearArrayCounts f s
  | readdress target => exact keeps_execReaddress target s
  | tunnelReq first last counter data => exact keeps_execTunnelReq first last counter data s
  | claimReceived addr serial => exact keeps_execClaimReceived addr serial s
  | heartbeatReceived addr => exact keeps_execHeartbeatReceived addr s
  | bidReceived digit => exact keeps_execBidReceived digit s
  | canFrameSent acked => exact keeps_execCanFrameSent acked s
  | lonely => exact keeps_execLonely s
  | busOffRecovery => exact keeps_execBusOffRecovery s
  | heartbeatSend => exact keeps_execHeartbeatSend s
  | alarmSend => exact keeps_execAlarmSend s
  | chainOutFrame => exact keeps_execChainOutFrame s
  | chainInFrame count => exact keeps_execChainInFrame count s
  | chainInHighTimeout => exact keeps_execChainInHighTimeout s
  | chainInLowTimeout => exact keeps_execChainInLowTimeout s
  | electionListenEnd => exact keeps_execElectionListenEnd s
  | electionOpen => exact keeps_execElectionOpen s
  | uartReadObject obj => exact keeps_execUartReadObject obj s
  | uartReadOffset obj offset => exact keeps_execUartReadOffset obj offset s
  | uartStatus => exact keeps_execUartStatus s
  | uartVersion => exact keeps_execUartVersion s
  | traceTextStart => exact keeps_execTraceTextStart s
  | traceTextStop => exact keeps_execTraceTextStop s
  | uartBadLine => exact keeps_execUartBadLine s
  | uartOverrun => exact keeps_execUartOverrun s
  | uartFraming => exact keeps_execUartFraming s
  | uartBreak => exact keeps_execUartBreak s
  | traceCtrlWrite w => exact keeps_execTraceCtrlWrite w s
  | traceRecordDrop => exact keeps_execTraceRecordDrop s
  | powerOnReset => exact keeps_execPowerOnReset s
  | sysResetRelease => exact keeps_execSysResetRelease s
  | posSample pos => exact keeps_execPosSample pos s
  | powerStepEvaluation vin iin power tjMax part => exact keeps_execPowerStepEvaluation vin iin power tjMax part s
  | thermalTrip temp part => exact keeps_execThermalTrip temp part s
  | thermAlertRelease => exact keeps_execThermAlertRelease s
  | coreLoss cause => exact keeps_execCoreLoss cause s
  | coreRestart found => exact keeps_execCoreRestart found s
  | perstNRelease => exact keeps_execPerstNRelease s
  | canReceiveError amount => exact keeps_execCanReceiveError amount s
  | scrubLate stack => exact keeps_execScrubLate stack s
  | dataPhaseRateChange => exact keeps_execDataPhaseRateChange s
  | uartRateChange => exact keeps_execUartRateChange s

theorem step_of_pending_cons {c : Instr} {rest : List Instr} {s : State} (h : s.pending = c :: rest) :
    step s = exec c { s with pending := rest } := by
  unfold step
  rw [h]

theorem step_of_pending_nil {s : State} (h : s.pending = []) : step s = .next (s.advance 1) := by
  unfold step
  rw [h]

/-- Every step has a next state; beside taking the front command from the queue, it keeps what no operation touches. -/
theorem keeps_step (s : State) : ∃ t, step s = .next t ∧ Keeps { s with pending := s.pending.tail } t := by
  cases h : s.pending with
  | nil =>
    have hs : ({ s with pending := List.tail [] } : State) = s := by rw [List.tail_nil, ← h]
    rw [step_of_pending_nil h, hs]
    exact ⟨_, rfl, keeps_advance 1 (Keeps.refl s)⟩
  | cons c rest =>
    rw [step_of_pending_cons h]
    exact keeps_exec c { s with pending := rest }

theorem safeRun_all (k : Nat) (s : State) : safeRun k s := by
  induction k generalizing s with
  | zero => trivial
  | succ k ih =>
    obtain ⟨t, ht, -⟩ := keeps_step s
    exact ⟨t, ht, ih t⟩

end Sys2Proof.Machine
end

section
/-! SUPPORT. The register map: blocks, aliases, and what the map says of the state after reset. -/

namespace Sys2Proof.Machine

/-! The register map: a block is 64 KiB (Table 2-1). -/

theorem blockOf_congr {a b : Nat} (h : a / 0x10000 = b / 0x10000) : blockOf a = blockOf b := by
  simp only [blockOf, h]

/-! An offset and its aliases (R22, Table 0-8). -/

section Aliases

variable {off al : Nat} (hoff : off % 0x10000 < 0x4000) (hal : al < 4)

include hoff hal

theorem blockOf_alias : blockOf (off + al * 0x4000) = blockOf off := blockOf_congr (by omega)

theorem baseOf_alias (hb : blockOf off ≠ .msix) : baseOf (off + al * 0x4000) = off := by
  rw [baseOf, blockOf_alias hoff hal, if_neg hb]
  omega

theorem aliasOf_alias (hb : blockOf off ≠ .msix) : aliasOf (off + al * 0x4000) = al := by
  rw [aliasOf, blockOf_alias hoff hal, if_neg hb]
  omega

theorem absentUnit_alias (v : Variant) : absentUnit v (off + al * 0x4000) = absentUnit v off := by
  have hmod : (off + al * 0x4000) % 0x4000 = off % 0x4000 := by omega
  simp only [absentUnit, blockOf_alias hoff hal, hmod]

end Aliases

theorem baseOf_of_lt {off : Nat} (h : off % 0x10000 < 0x4000) : baseOf off = off := by
  unfold baseOf
  split
  · rfl
  · omega

/-! What the CT_ block of a partition reads as at reset (Table 2-3). -/

/-- The CT_ block of partition `p` holds the 64 KiB from its first register. -/
theorem blockOf_ctReg {p o : Nat} (hp : p < 32) (ho : o < 0x10000) : blockOf (ctReg p o) = .ct p := by
  have hdiv : ctReg p o / 0x10000 = 0x204 + p * 16 := by simp only [ctReg, partReg]; omega
  have hmod : (0x204 + p * 16) % 16 = 4 := by omega
  have hpart : (0x204 + p * 16 - 0x200) / 16 = p := by omega
  simp only [blockOf, hdiv, hmod, hpart]
  repeat rw [if_neg (by omega)]
  rw [if_pos (by omega)]

theorem reg_reset (off : Nat) : State.reset.reg off = regReset .h32 off := rfl

theorem ctInfo_partStatus : ctInfo 8 = rReg .rs full := rfl

theorem regInfo_of_ct {v : Variant} {off p : Nat} (h : blockOf off = .ct p) : regInfo v off = ctInfo (off % 0x10000) := by
  simp only [regInfo, h]

theorem ctReg_mod {p o : Nat} (ho : o < 0x10000) : ctReg p o % 0x10000 = o := by
  simp only [ctReg, partReg]; omega

theorem regInfo_partStatus (v : Variant) {p : Nat} (hp : p < 32) : regInfo v (ctReg p 8) = rReg .rs full := by
  have ho : 8 < 0x10000 := by decide
  rw [regInfo_of_ct (blockOf_ctReg hp ho), ctReg_mod ho, ctInfo_partStatus]

theorem epoch_reset (p : PartNo) : State.reset.epoch p.val = 0 := by
  simp [State.epoch, reg_reset, regReset, regInfo_partStatus _ p.isLt, rReg, field]

end Sys2Proof.Machine
end

section
/-! SUPPORT. Host writes to BAR0, by their size and by the access code of the register. -/

namespace Sys2Proof.Machine

/-! What a write of one word does, by the access code (R18, R22 to R24). -/

namespace State

variable {s : State} {off : Nat}

theorem setReg_regsOnly (s : State) (off : Nat) (v : Word) : s.regsOnly (s.setReg off v) [off] :=
  fun _ ho => reg_setReg_other _ _ (by simpa using ho)

theorem writeWord_absent (v : Word) (tlp : Tlp) (h : absentUnit s.variant off = true) :
    s.writeWord off v tlp = s.absentAccess := by
  rw [writeWord, if_pos h]

/-- A RW or RW/P register takes the value that Table 0-8 makes of the write, reserved bits 0. -/
theorem writeWord_of_rw (v : Word) (tlp : Tlp) (h : absentUnit s.variant off = false)
    (hacc : (regInfo s.variant (baseOf off)).acc = .rw ∨ (regInfo s.variant (baseOf off)).acc = .rwp) :
    s.writeWord off v tlp = s.configWrite (baseOf off) off v
      (s.maskedTo (baseOf off) (aliased (aliasOf off) (s.reg (baseOf off)) v)) tlp := by
  rcases hacc with hacc | hacc <;> simp [writeWord, h, hacc, maskedTo]

/-- A log register takes a write at CLR only. -/
theorem writeWord_of_sl (v : Word) (tlp : Tlp) (h : absentUnit s.variant off = false)
    (hacc : (regInfo s.variant (baseOf off)).acc = .sl) :
    s.writeWord off v tlp =
      if aliasOf off = 2 then s.setReg (baseOf off) (s.reg (baseOf off) &&& ~~~ v) else s := by
  simp [writeWord, h, hacc]

/-- The write of a plain register has no effect beside the new value. -/
theorem configWrite_of_plain (acc : Nat) (raw v : Word) (tlp : Tlp) (h : plainRegister off = true) :
    s.configWrite off acc raw v tlp = s.setReg off v := by
  unfold plainRegister at h
  unfold configWrite
  split at h <;> rename_i hb
  · simp only [hb]
  · simp only [hb]
  · simp only [hb]
  · have ho : ¬ 0x100 ≤ off % 0x10000 := by simpa using h
    simp only [hb, if_neg ho]
  · have ho : off % 0x10000 ≠ 0 := by simpa using h
    simp only [hb, if_neg ho]
  · simp at h

theorem blockOf_ne_msix_of_plain (h : plainRegister off = true) : blockOf off ≠ .msix := by
  intro hb
  simp [plainRegister, hb] at h

/-! The sizes of a host write (R17). -/

theorem bar0Write_of_not_live (w : RegWrite) (h : s.barLive = false) : s.bar0Write w = s := by
  simp [bar0Write, h]

/-- An aligned access of 32 bits writes one word. -/
theorem bar0Write_word (w : RegWrite) (h : s.barLive = true) (hsize : w.size = 4) (hoff : w.offset % 4 = 0) :
    s.bar0Write w = s.writeWord w.offset (w.value.truncate 32) w.tlp := by
  simp [bar0Write, h, hsize, hoff]

/-- An aligned access of 64 bits writes two words, the lower offset first. -/
theorem bar0Write_double (w : RegWrite) (h : s.barLive = true) (hsize : w.size = 8) (hoff : w.offset % 8 = 0) :
    s.bar0Write w = (s.writeWord w.offset (w.value.truncate 32) w.tlp).writeWord (w.offset + 4)
      ((w.value >>> 32).truncate 32) w.tlp := by
  simp [bar0Write, h, hsize, hoff]

/-- An access that is neither writes nothing; it only finds an absent unit. -/
theorem bar0Write_other (w : RegWrite) (h : s.barLive = true) (hword : ¬ (w.size = 4 ∧ w.offset % 4 = 0))
    (hdouble : ¬ (w.size = 8 ∧ w.offset % 8 = 0)) :
    s.bar0Write w =
      if (List.range w.size).any fun i => absentUnit s.variant (w.offset + i) then s.absentAccess else s := by
  simp [bar0Write, h, hword, hdouble]

end State

theorem exec_registerWrite (w : RegWrite) (s : State) : exec (.registerWrite w) s = .next (s.bar0Write w) := rfl

/-- A host write of one word, at a register or at one of its aliases. -/
theorem exec_hostWrite {s : State} {off : Nat} (al : Nat) (v : Word) (tlp : Tlp) (h : s.barLive = true)
    (hoff : off % 4 = 0) : exec (hostWrite off al v tlp) s = .next (s.writeWord (off + al * 0x4000) v tlp) := by
  have halign : (wordWrite (off + al * 0x4000) v tlp).offset % 4 = 0 := by simp only [wordWrite]; omega
  have hval : (wordWrite (off + al * 0x4000) v tlp).value.truncate 32 = v := by simp [wordWrite]
  rw [hostWrite, exec_registerWrite, State.bar0Write_word _ h rfl halign, hval]
  rfl

end Sys2Proof.Machine
end

section
/-! SUPPORT. The log of configuration errors, the space of absent units, reads of BAR0, and parity. -/

namespace Sys2Proof.Machine

namespace State

variable {s : State}

/-! The sticky logs of EC_ (R21, R396): the bits are set, and of the other registers only the MSI-X table's pending bits
can change. -/

theorem reg_msix_other {r : Nat} (s : State) (v : Nat) (h : r ≠ msixReg (0x8000 + v / 32 * 4)) :
    (s.msix v).reg r = s.reg r := by
  simp only [msix]
  split
  · exact reg_setReg_other _ _ h
  · rfl

theorem reg_signalEc {r : Nat} (s : State) (h : blockOf r ≠ .msix) : s.signalEc.reg r = s.reg r := by
  unfold signalEc
  split
  · rfl
  · refine reg_msix_other _ _ ?_
    rintro rfl
    exact h rfl

theorem reg_gatherAlarm (s : State) (o r : Nat) (bits : Word) : (s.gatherAlarm o bits).reg r = s.reg r := by
  unfold gatherAlarm
  split <;> rfl

theorem raiseEc_of_set {o mask : Nat} (h : s.reg (ecReg o) ||| BitVec.ofNat 32 mask = s.reg (ecReg o)) :
    s.raiseEc o mask = s := by
  simp only [raiseEc, h, if_true]

theorem raiseEc_of_new {o mask : Nat} (h : s.reg (ecReg o) ||| BitVec.ofNat 32 mask ≠ s.reg (ecReg o)) :
    s.raiseEc o mask = (((s.raise (ecReg o) mask).gatherAlarm o
      ((s.reg (ecReg o) ||| BitVec.ofNat 32 mask) &&& ~~~ s.reg (ecReg o))).signalEc) := by
  simp only [raiseEc, h, if_false, raise]

theorem reg_raiseEc_same {o : Nat} (s : State) (mask : Nat) (h : blockOf (ecReg o) ≠ .msix) :
    (s.raiseEc o mask).reg (ecReg o) = s.reg (ecReg o) ||| BitVec.ofNat 32 mask := by
  by_cases hset : s.reg (ecReg o) ||| BitVec.ofNat 32 mask = s.reg (ecReg o)
  · rw [raiseEc_of_set hset, hset]
  · rw [raiseEc_of_new hset, reg_signalEc _ h, reg_gatherAlarm, reg_raise_same]

theorem reg_raiseEc_other {o r : Nat} (s : State) (mask : Nat) (hne : r ≠ ecReg o) (h : blockOf r ≠ .msix) :
    (s.raiseEc o mask).reg r = s.reg r := by
  by_cases hset : s.reg (ecReg o) ||| BitVec.ofNat 32 mask = s.reg (ecReg o)
  · rw [raiseEc_of_set hset]
  · rw [raiseEc_of_new hset, reg_signalEc _ h, reg_gatherAlarm, reg_raise_other _ _ hne]

theorem reg_logConfig_same (s : State) (mask : Nat) :
    (s.logConfig mask).reg (ecReg 0x4) = s.reg (ecReg 0x4) ||| BitVec.ofNat 32 mask :=
  reg_raiseEc_same s mask (by decide)

theorem reg_logConfig_other {r : Nat} (s : State) (mask : Nat) (hne : r ≠ ecReg 0x4) (h : blockOf r ≠ .msix) :
    (s.logConfig mask).reg r = s.reg r :=
  reg_raiseEc_other s mask hne h

/-! What they leave of the stored parity and of the Central Store. -/

theorem badParity_setReg (s : State) (off : Nat) (v : Word) : (s.setReg off v).badParity ⊆ s.badParity :=
  List.filter_subset_self _

theorem badParity_msix (s : State) (v : Nat) : (s.msix v).badParity ⊆ s.badParity := by
  simp only [msix]
  split
  · exact badParity_setReg _ _ _
  · exact List.Subset.refl _

theorem badParity_signalEc (s : State) : s.signalEc.badParity ⊆ s.badParity := by
  unfold signalEc
  split
  · exact List.Subset.refl _
  · exact badParity_msix _ _

theorem badParity_gatherAlarm (s : State) (o : Nat) (bits : Word) : (s.gatherAlarm o bits).badParity = s.badParity := by
  unfold gatherAlarm
  split <;> rfl

theorem badParity_raiseEc (s : State) (o mask : Nat) : (s.raiseEc o mask).badParity ⊆ s.badParity := by
  by_cases hset : s.reg (ecReg o) ||| BitVec.ofNat 32 mask = s.reg (ecReg o)
  · rw [raiseEc_of_set hset]
    exact List.Subset.refl _
  · rw [raiseEc_of_new hset]
    refine List.Subset.trans (badParity_signalEc _) ?_
    rw [badParity_gatherAlarm]
    exact badParity_setReg _ _ _

theorem csMem_msix (s : State) (v : Nat) : (s.msix v).csMem = s.csMem := by
  simp only [msix]
  split <;> rfl

theorem csMem_signalEc (s : State) : s.signalEc.csMem = s.csMem := by
  unfold signalEc
  split
  · rfl
  · exact csMem_msix _ _

theorem csMem_gatherAlarm (s : State) (o : Nat) (bits : Word) : (s.gatherAlarm o bits).csMem = s.csMem := by
  unfold gatherAlarm
  split <;> rfl

theorem csMem_raiseEc (s : State) (o mask : Nat) : (s.raiseEc o mask).csMem = s.csMem := by
  by_cases hset : s.reg (ecReg o) ||| BitVec.ofNat 32 mask = s.reg (ecReg o)
  · rw [raiseEc_of_set hset]
  · rw [raiseEc_of_new hset, csMem_signalEc, csMem_gatherAlarm, raise_csMem]

/-! The space of absent units (R11). -/

theorem absentAccess_variant (s : State) : s.absentAccess.variant = s.variant :=
  (keeps_absentAccess (Keeps.refl s)).variant

/-- ABSENT_UNIT is set. -/
theorem bit_absentAccess (s : State) : bit (s.absentAccess.reg (ecReg 0x4)) 0 = true := by
  rw [absentAccess, reg_logConfig_same]
  simp [bit]

/-- A second access to an absent unit finds ABSENT_UNIT set and changes nothing. -/
theorem absentAccess_absentAccess (s : State) : s.absentAccess.absentAccess = s.absentAccess := by
  refine raiseEc_of_set ?_
  rw [absentAccess, reg_logConfig_same, BitVec.or_assoc, BitVec.or_self]

theorem readReg_of_absent {off : Nat} (h : absentUnit s.variant off = true) : s.readReg off = 0 := by
  simp [readReg, h]

/-- A write of any size whose bytes all lie in the space of absent units. -/
theorem bar0Write_absent (w : RegWrite) (hlive : s.barLive = true) (hsize : 1 ≤ w.size)
    (h : ∀ i < w.size, absentUnit s.variant (w.offset + i) = true) : s.bar0Write w = s.absentAccess := by
  have hfirst : absentUnit s.variant w.offset = true := h 0 hsize
  by_cases hword : w.size = 4 ∧ w.offset % 4 = 0
  · rw [bar0Write_word w hlive hword.1 hword.2, writeWord_absent _ _ hfirst]
  by_cases hdouble : w.size = 8 ∧ w.offset % 8 = 0
  · have hsecond : absentUnit s.absentAccess.variant (w.offset + 4) = true := by
      rw [absentAccess_variant]
      exact h 4 (by omega)
    rw [bar0Write_double w hlive hdouble.1 hdouble.2, writeWord_absent _ _ hfirst, writeWord_absent _ _ hsecond,
      absentAccess_absentAccess]
  · rw [bar0Write_other w hlive hword hdouble, if_pos]
    exact List.any_eq_true.2 ⟨0, List.mem_range.2 hsize, hfirst⟩

/-! Reads (R17). -/

theorem checkParity_of_clean (off : Nat) (h : s.badParity = []) : s.checkParity off = s := by
  simp [checkParity, h]

theorem foldl_checkParity_of_clean (offs : List Nat) (h : s.badParity = []) : offs.foldl checkParity s = s :=
  List.foldl_fixed' (fun off => checkParity_of_clean off h) offs

/-- A read that finds no mismatch changes nothing. -/
theorem bar0Read_of_clean (off size : Nat) (hlive : s.barLive = true) (hboot : s.fw.boot ≠ .failed)
    (h : s.badParity = []) : s.bar0Read off size false = s.emit (.readData (s.readBytes off size) false) := by
  have hclean : (s.emit (.readData (s.readBytes off size) false)).badParity = [] := h
  simp [bar0Read, hlive, hboot, foldl_checkParity_of_clean _ hclean]

theorem length_readBytes (s : State) (off size : Nat) : (s.readBytes off size).length = size := by
  simp [readBytes]

theorem getD_readBytes (s : State) (off : Nat) {size i : Nat} (h : i < size) : (s.readBytes off size).getD i 0 =
    BitVec.ofNat 8 ((s.readReg ((off + i) / 4 * 4)).toNat / 2 ^ (8 * ((off + i) % 4))) := by
  have hreg : off + i - (off + i) % 4 = (off + i) / 4 * 4 := by omega
  simp [readBytes, h, hreg]

/-! A parity mismatch in a register whose copy firmware keeps (R19, Table 2-11, log entry 17). -/

theorem blockOf_of_kept {off : Nat} (h : firmwareKept off = true) :
    blockOf off = .mg ∨ blockOf off = .pw ∨ blockOf off = .sc ∨ blockOf off = .ec := by
  unfold firmwareKept at h
  split at h <;> simp_all

theorem blockOf_ne_msix_of_kept {off : Nat} (h : firmwareKept off = true) : blockOf off ≠ .msix := by
  intro hb
  simp [firmwareKept, hb] at h

theorem ne_of_hasParity {off o : Nat} (h : s.hasParity off = true) (ho : (regInfo s.variant o).acc = .sl) : off ≠ o := by
  rintro rfl
  simp [hasParity, ho] at h

/-- The place of the first mismatch is captured. -/
def captureParity (s : State) (off : Nat) : State :=
  if bit (s.reg (ecReg 0x10)) 31 then s else s.setRegN (ecReg 0x10) (2 ^ 31 + off)

theorem reg_captureParity_other {off r : Nat} (s : State) (h : r ≠ ecReg 0x10) :
    (s.captureParity off).reg r = s.reg r := by
  unfold captureParity
  split
  · rfl
  · exact reg_setReg_other _ _ h

theorem reg_captureParity (s : State) (off : Nat) : (s.captureParity off).reg (ecReg 0x10) =
    if bit (s.reg (ecReg 0x10)) 31 then s.reg (ecReg 0x10) else BitVec.ofNat 32 (2 ^ 31 + off) := by
  unfold captureParity
  split
  · rfl
  · exact reg_setReg_same _ _ _

theorem badParity_captureParity (s : State) (off : Nat) : (s.captureParity off).badParity ⊆ s.badParity := by
  unfold captureParity
  split
  · exact List.Subset.refl _
  · exact badParity_setReg _ _ _

theorem csMem_captureParity (s : State) (off : Nat) : (s.captureParity off).csMem = s.csMem := by
  unfold captureParity
  split <;> rfl

/-- The register at `off` holds its value with matching parity again. -/
def rewriteParity (s : State) (off : Nat) : State := { s with badParity := s.badParity.filter fun b => b != off }

theorem parityFault_of_kept {off : Nat} (s : State) (h : firmwareKept off = true) :
    s.parityFault off = (((s.logConfig 2).captureParity off).rewriteParity off).logConfig 4 := by
  rcases blockOf_of_kept h with hb | hb | hb | hb <;> simp only [parityFault, hb] <;> rfl

theorem reg_parityFault_other {off r : Nat} (s : State) (hkept : firmwareKept off = true) (hlog : r ≠ ecReg 0x4)
    (hplace : r ≠ ecReg 0x10) (h : blockOf r ≠ .msix) : (s.parityFault off).reg r = s.reg r :=
  calc (s.parityFault off).reg r
      = ((s.logConfig 2).captureParity off).reg r := by
        rw [parityFault_of_kept s hkept, reg_logConfig_other _ _ hlog h]; rfl
    _ = s.reg r := by rw [reg_captureParity_other _ hplace, reg_logConfig_other _ _ hlog h]

/-- CFG_PARITY and CFG_REWRITTEN are set. -/
theorem log_parityFault {off : Nat} (s : State) (hkept : firmwareKept off = true) :
    (s.parityFault off).reg (ecReg 0x4) = s.reg (ecReg 0x4) ||| 6 := by
  have hlog : (((s.logConfig 2).captureParity off).rewriteParity off).reg (ecReg 0x4) = s.reg (ecReg 0x4) ||| 2 :=
    (reg_captureParity_other _ (by decide)).trans (reg_logConfig_same s 2)
  rw [parityFault_of_kept s hkept, reg_logConfig_same, hlog, BitVec.or_assoc]
  rfl

theorem place_parityFault {off : Nat} (s : State) (hkept : firmwareKept off = true) :
    (s.parityFault off).reg (ecReg 0x10) =
      if bit (s.reg (ecReg 0x10)) 31 then s.reg (ecReg 0x10) else BitVec.ofNat 32 (2 ^ 31 + off) := by
  have hkeep (u : State) (mask : Nat) : (u.logConfig mask).reg (ecReg 0x10) = u.reg (ecReg 0x10) :=
    reg_logConfig_other u mask (by decide) (by decide)
  have hplace := reg_captureParity (s.logConfig 2) off
  rw [hkeep] at hplace
  rw [parityFault_of_kept s hkept, hkeep]
  exact hplace

/-- No mismatch but that of the register is left where there was none beside it. -/
theorem badParity_parityFault {off : Nat} (s : State) (hkept : firmwareKept off = true) (h : s.badParity ⊆ [off]) :
    (s.parityFault off).badParity = [] := by
  rw [parityFault_of_kept s hkept]
  refine List.eq_nil_of_subset_nil (List.Subset.trans (badParity_raiseEc _ _ _) ?_)
  intro b hb
  obtain ⟨hmem, hne⟩ := List.mem_filter.1 hb
  have hoff : b ∈ [off] := h (badParity_raiseEc _ _ _ (badParity_captureParity _ _ hmem))
  exact absurd (List.mem_singleton.1 hoff) (bne_iff_ne.1 hne)

theorem csMem_parityFault {off : Nat} (s : State) (hkept : firmwareKept off = true) :
    (s.parityFault off).csMem = s.csMem :=
  calc (s.parityFault off).csMem
      = ((s.logConfig 2).captureParity off).csMem := by
        rw [parityFault_of_kept s hkept]; exact csMem_raiseEc _ _ _
    _ = s.csMem := (csMem_captureParity _ _).trans (csMem_raiseEc _ _ _)

/-- An upset of a register that firmware keeps leaves its value and makes its parity differ. -/
theorem upsetReg_of_kept {off : Nat} (hkept : firmwareKept off = true) (h : s.hasParity off = true) :
    s.upsetReg off = { s.draw.setReg off (s.reg off) with
      badParity := (s.draw.setReg off (s.reg off)).badParity ++ [off] } := by
  simp [upsetReg, hkept, h]

theorem reg_upsetReg_of_kept {off : Nat} (r : Nat) (hkept : firmwareKept off = true) (h : s.hasParity off = true) :
    (s.upsetReg off).reg r = s.reg r := by
  rw [upsetReg_of_kept hkept h]
  change (s.draw.setReg off (s.reg off)).reg r = s.reg r
  by_cases hr : r = off
  · rw [hr, reg_setReg_same]
  · exact reg_setReg_other _ _ hr

theorem badParity_upsetReg_of_kept {off : Nat} (hkept : firmwareKept off = true) (h : s.hasParity off = true)
    (hclean : s.badParity = []) : (s.upsetReg off).badParity = [off] := by
  have hset : (s.draw.setReg off (s.reg off)).badParity = s.badParity.filter fun o => o != off := rfl
  simp [upsetReg_of_kept hkept h, hset, hclean]

theorem csMem_upsetReg_of_kept {off : Nat} (hkept : firmwareKept off = true) (h : s.hasParity off = true) :
    (s.upsetReg off).csMem = s.csMem := by
  rw [upsetReg_of_kept hkept h]
  rfl

end State

/-- The sweep finds the one mismatch of a register that firmware keeps. -/
theorem exec_paritySweep_of_kept {s : State} {off : Nat} (hao : s.aoOn = true) (hoff : off % 0x10000 < 0x4000)
    (hkept : firmwareKept off = true) (hpar : s.hasParity off = true) (hclean : s.badParity = []) :
    exec (.paritySweep [off]) s = .next ((s.upsetReg off).parityFault off) := by
  change execParitySweep [off] s = _
  simp [execParitySweep, hao, baseOf_of_lt hoff, alwaysOn, hkept,
    State.badParity_upsetReg_of_kept hkept hpar hclean, State.checkParity]

end Sys2Proof.Machine
end

section
/-! PROOFS. The statements about the block as a machine, its reset and its registers. -/

namespace Sys2Proof.Proofs

open Sys2Proof.Machine

/-- Settles O3: each command's arm has a next state, and a run is an induction on its length. -/
theorem everyCommandHasANextState : Obligations.EveryCommandHasANextState :=
  ⟨fun c s => (keeps_exec c s).imp fun _ h => h.1, safeRun_all⟩

/-- Settles O4: a step keeps the queue's tail and the identity of the part. -/
theorem stepTakesOneCommand : Obligations.StepTakesOneCommand := by
  intro s t h
  obtain ⟨u, hu, hk⟩ := keeps_step s
  obtain rfl : u = t := by simpa [hu] using h
  exact ⟨hk.pending, hk.variant, hk.stepping, hk.serial⟩

/-- Settles O8: the aliases of a register lie in its block, so that each write is one `setReg` of the value that Table 0-8
gives, or nothing. -/
theorem registerAliases : Obligations.RegisterAliases := by
  constructor
  · intro s off v tlp hlive habs hplain hoff halign hacc al new hnew
    have hal : al < 4 := by omega
    have hb := State.blockOf_ne_msix_of_plain hplain
    have hval : aliased al (s.reg off) v = new := by
      rcases hnew with ⟨rfl, rfl⟩ | ⟨rfl, rfl⟩ | ⟨rfl, rfl⟩ | ⟨rfl, rfl⟩ <;> rfl
    have hwrite : s.writeWord (off + al * 0x4000) v tlp = s.setReg off (s.maskedTo off new) := by
      rw [State.writeWord_of_rw v tlp (by rwa [absentUnit_alias hoff hal]) (by rwa [baseOf_alias hoff hal hb]),
        baseOf_alias hoff hal hb, aliasOf_alias hoff hal hb, hval, State.configWrite_of_plain _ _ _ _ hplain]
    refine ⟨_, exec_hostWrite al v tlp hlive halign, ?_⟩
    rw [hwrite]
    exact ⟨State.reg_setReg_same _ _ _, State.setReg_regsOnly _ _ _, rfl⟩
  · intro s off al v tlp hlive habs hb hoff halign hal hacc
    refine ⟨_, exec_hostWrite al v tlp hlive halign, ?_⟩
    rw [State.writeWord_of_sl v tlp (by rwa [absentUnit_alias hoff hal]) (by rwa [baseOf_alias hoff hal hb]),
      baseOf_alias hoff hal hb, aliasOf_alias hoff hal hb]
    by_cases hclr : al = 2
    · rw [if_pos hclr, if_pos hclr]
      exact ⟨State.reg_setReg_same _ _ _, State.setReg_regsOnly _ _ _, rfl⟩
    · rw [if_neg hclr, if_neg hclr]
      exact ⟨rfl, fun _ _ => rfl, rfl⟩

/-- Settles O9: the sizes of a write, the bytes of a read, the space of absent units, and the one mismatch that a sweep
finds, by the laws of each (R11, R17, R19, log entry 17). -/
theorem registerAccessAndParity : Obligations.RegisterAccessAndParity := by
  refine ⟨⟨⟨?_, ?_, ?_⟩, ?_, ?_⟩, ?_⟩
  · intro s off v tlp hoff
    refine ⟨_, _, exec_registerWrite _ _, exec_registerWrite _ _, fun hsame => ?_⟩
    rw [exec_registerWrite]
    cases hlive : s.barLive with
    | false => simp only [State.bar0Write_of_not_live _ hlive]
    | true =>
      rw [hlive] at hsame
      rw [State.bar0Write_double _ hlive rfl hoff, State.bar0Write_word _ hsame rfl (by dsimp only; omega),
        State.bar0Write_word _ hlive rfl (by dsimp only; omega)]
  · intro s w hword hdouble hpres
    rw [exec_registerWrite]
    cases hlive : s.barLive with
    | false => rw [State.bar0Write_of_not_live w hlive]
    | true =>
      rw [State.bar0Write_other w hlive hword hdouble, if_neg]
      simpa using hpres
  · intro s off size hlive hboot hclean
    exact ⟨s.readBytes off size, congrArg Host.Outcome.next (State.bar0Read_of_clean off size hlive hboot hclean),
      s.length_readBytes off size, fun i hi => s.getD_readBytes off hi⟩
  · exact fun s off h => State.readReg_of_absent h
  · exact fun s w hlive hsize h => ⟨congrArg Host.Outcome.next (State.bar0Write_absent w hlive hsize h), s.bit_absentAccess⟩
  · intro s off hao hoff hkept hpar hclean
    have hlog : off ≠ ecReg 0x4 := State.ne_of_hasParity hpar rfl
    have hplace : off ≠ ecReg 0x10 := State.ne_of_hasParity hpar rfl
    have hreg (r : Nat) := State.reg_upsetReg_of_kept r hkept hpar
    have hbad := State.badParity_upsetReg_of_kept hkept hpar hclean
    refine ⟨_, exec_paritySweep_of_kept hao hoff hkept hpar hclean, ?_, ?_, ?_, ?_, ?_, ?_⟩
    · rw [State.reg_parityFault_other _ hkept hlog hplace (State.blockOf_ne_msix_of_kept hkept), hreg]
    · exact State.badParity_parityFault _ hkept (by rw [hbad]; exact List.Subset.refl _)
    · rw [State.log_parityFault _ hkept, hreg]
    · intro hfirst
      rw [State.place_parityFault _ hkept, hreg, if_neg (by simp [hfirst])]
    · intro hlater
      rw [State.place_parityFault _ hkept, hreg, if_pos hlater]
    · intro x
      rw [State.csByte, State.csMem_parityFault _ hkept, State.csMem_upsetReg_of_kept hkept hpar, State.csByte]

/-- Settles O1, by the step's equation on a queue that is not empty (R23, log entry 2). -/
theorem stepRunsTheFrontCommand : Obligations.StepRunsTheFrontCommand :=
  fun _ _ _ h => step_of_pending_cons h

/-- Settles O7: nothing is listed at reset, so that every read gives the value of an unlisted entry (log entries 4 to 6). -/
theorem resetState : Obligations.ResetState :=
  ⟨fun _ => rfl, fun _ => ⟨rfl, rfl, rfl, rfl⟩, fun p => ⟨rfl, epoch_reset p⟩, fun _ => rfl, rfl, rfl, rfl, rfl, rfl,
    fun _ => rfl, fun _ => rfl, rfl, rfl, rfl⟩

end Sys2Proof.Proofs
end

section
/-! SUPPORT. Time that passes: the tick, and the instants that an event waits for. -/

namespace Sys2Proof.Machine.State

variable {s : State}

/-- While the time base counts and owes no correction, every local nanosecond is a common one (R318, R321). -/
theorem advance_time_of_steady (n : Nat) (hcount : s.tb.counting = true) (hacc : s.tb.acc = 0) :
    (s.advance n).time = s.time + BitVec.ofNat 80 (n * 65536) ∧ (s.advance n).tb.acc = 0 := by
  constructor
  · apply BitVec.eq_of_toNat_eq
    simp only [advance, hcount, hacc, BitVec.toNat_ofNat, BitVec.toNat_add]
    simp
    omega
  · simp [advance, hcount, hacc]

theorem advance_of_stopped (n : Nat) (hcount : s.tb.counting = false) :
    (s.advance n).time = s.time ∧ (s.advance n).tb = s.tb := by
  constructor
  · apply BitVec.eq_of_toNat_eq
    simp only [advance, hcount, BitVec.toNat_ofNat]
    simp
    omega
  · rw [advance, hcount]
    simp only [Bool.false_eq_true, if_false]

/-- Time passes alone. -/
theorem reach_frame (s : State) (t : Nat) :
    s.reach t = { s with uptime := (s.reach t).uptime, time := (s.reach t).time, tb := (s.reach t).tb } := by
  unfold reach
  split <;> rfl

theorem reachUp_frame (s : State) (t : Nat) :
    s.reachUp t = { s with uptime := (s.reachUp t).uptime, time := (s.reachUp t).time, tb := (s.reachUp t).tb } := by
  unfold reachUp
  split <;> rfl

theorem le_uptime_reachUp (s : State) (t : Nat) : t ≤ (s.reachUp t).uptime := by
  unfold reachUp
  split
  · simp only [advance]; omega
  · omega

theorem uptime_le_reachUp (s : State) (t : Nat) : s.uptime ≤ (s.reachUp t).uptime := by
  unfold reachUp
  split
  · simp only [advance]; omega
  · omega

/-- An event due at `t` is not early where the time base counts and owes no correction (R44, log entry 3). -/
theorem le_now_reach (t : Nat) (hcount : s.tb.counting = true) (hacc : s.tb.acc = 0) (ht : t < 2 ^ 64) :
    t ≤ (s.reach t).now := by
  unfold reach
  split
  · rename_i hlate
    have hspan : s.localSpan (t - s.now) = t - s.now := by simp [localSpan, hacc]
    have htime := s.time.isLt
    rw [now] at hlate
    rw [hspan, now, (advance_time_of_steady _ hcount hacc).1, now, BitVec.toNat_add, BitVec.toNat_ofNat]
    omega
  · omega

end Sys2Proof.Machine.State
end

section
/-! PROOFS. The tick. -/

namespace Sys2Proof.Proofs

open Sys2Proof.Machine

/-- Settles O2: the step on an empty queue is one nanosecond of `advance` (log entry 2). -/
theorem emptyQueueTicks : Obligations.EmptyQueueTicks := by
  intro s hempty
  refine ⟨s.advance 1, step_of_pending_nil hempty, rfl, rfl, rfl, ?_, ?_⟩
  · exact fun hstop => State.advance_of_stopped 1 hstop
  · exact fun hcount hacc => State.advance_time_of_steady 1 hcount hacc

end Sys2Proof.Proofs
end

section
/-! SUPPORT. What the signals of a seat and the changes of its STATE can do, and what they leave alone. -/

namespace Sys2Proof.Machine.State

variable {s t : State}

/-! Records and folds. -/

theorem seat_congr (h : t.seats = s.seats) (n : Nat) : t.seat n = s.seat n := by rw [seat, h, seat]

theorem part_congr (h : t.parts = s.parts) (p : Nat) : t.part p = s.part p := by rw [part, h, part]

/-- A fold keeps what each of its steps keeps. -/
theorem foldl_frame {α β : Type} (π : State → β) {f : State → α → State} (h : ∀ u x, π (f u x) = π u) (l : List α)
    (s : State) : π (l.foldl f s) = π s := by
  induction l generalizing s with
  | nil => rfl
  | cons x l ih => exact (ih _).trans (h s x)

/-! Interrupts (R72, R396). -/

theorem msix_frame (s : State) (v : Nat) :
    s.msix v = { s with regs := (s.msix v).regs, badParity := (s.msix v).badParity, out := (s.msix v).out } := by
  simp only [msix]
  split <;> rfl

@[simp] theorem msix_seats (s : State) (v : Nat) : (s.msix v).seats = s.seats := by rw [msix_frame]

/-- An open vector sends its message. -/
theorem msix_of_open {v : Nat} (h : s.vectorOpen v) : s.msix v = s.emit (s.vectorMessage v) := by
  have hopen : s.regN (msixReg (v * 16 + 12)) % 2 = 0 := h
  simp [msix, hopen, vectorMessage]

theorem signalSeat_frame (s : State) (n : Nat) :
    s.signalSeat n = { s with regs := (s.signalSeat n).regs, badParity := (s.signalSeat n).badParity,
                              out := (s.signalSeat n).out, seats := (s.signalSeat n).seats } := by
  unfold signalSeat
  split
  · rfl
  · rw [msix_frame]
    rfl

theorem signalSeat_seat (s : State) (n m : Nat) :
    ∃ q e, (s.signalSeat n).seat m = { s.seat m with quietTill := q, heldEvent := e } := by
  have hrec (f : SeatRec → SeatRec) (hf : ∀ r, ∃ q e, f r = { r with quietTill := q, heldEvent := e }) :
      ∃ q e, (s.modSeat n f).seat m = { s.seat m with quietTill := q, heldEvent := e } := by
    by_cases hm : m = n
    · rw [hm, seat_modSeat_same]
      exact hf _
    · rw [seat_modSeat_other _ _ hm]
      exact ⟨_, _, rfl⟩
  unfold signalSeat
  split
  · exact hrec _ fun r => ⟨r.quietTill, true, rfl⟩
  · rw [seat_congr (msix_seats _ _)]
    exact hrec _ fun r => ⟨_, r.heldEvent, rfl⟩

/-- A signal keeps the registers of the partitions. -/
theorem reg_signalSeat {n r : Nat} (s : State) (hn : n < 512) (hr : 0x2000000 ≤ r) :
    (s.signalSeat n).reg r = s.reg r := by
  have hpend : r ≠ msixReg (0x8000 + n / 32 * 4) := by unfold msixReg; omega
  unfold signalSeat
  split
  · rfl
  · rw [reg_msix_other _ _ hpend]
    rfl

/-! STATE (R72, R441, R474). -/

theorem tdiError_frame (s : State) (n : Nat) :
    s.tdiError n = { s with regs := (s.tdiError n).regs, badParity := (s.tdiError n).badParity,
                            seats := (s.tdiError n).seats } := by
  unfold tdiError
  split <;> rfl

theorem tdiError_seat (s : State) (n m : Nat) : ∃ d, (s.tdiError n).seat m = { s.seat m with tdi := d } := by
  unfold tdiError
  split
  · rw [seat_congr (raise_seats _ _ _)]
    by_cases hm : m = n
    · exact ⟨.error, by rw [hm, seat_modSeat_same]⟩
    · exact ⟨(s.seat m).tdi, by rw [seat_modSeat_other _ _ hm]⟩
  · exact ⟨(s.seat m).tdi, rfl⟩

theorem reg_tdiError {r : Nat} (s : State) (n : Nat) (hr : 0x30000 ≤ r) : (s.tdiError n).reg r = s.reg r := by
  have hlog : r ≠ scReg 0x4 := by unfold scReg; omega
  unfold tdiError
  split
  · rw [reg_raise_other _ _ hlog]
    rfl
  · rfl

theorem traceLost_frame (s : State) (n : Nat) :
    s.traceLost n = { s with regs := (s.traceLost n).regs, badParity := (s.traceLost n).badParity } := by
  unfold traceLost
  split <;> rfl

@[simp] theorem traceLost_seats (s : State) (n : Nat) : (s.traceLost n).seats = s.seats := by rw [traceLost_frame]

theorem reg_traceLost {r : Nat} (s : State) (n : Nat) (hr : 0x10000 ≤ r) : (s.traceLost n).reg r = s.reg r := by
  have hlog : r ≠ mgReg 0x104 := by unfold mgReg; omega
  have hctrl : r ≠ mgReg 0x110 := by unfold mgReg; omega
  unfold traceLost
  split
  · rw [reg_raise_other _ _ hlog, status, reg_setReg_other _ _ hctrl]
  · rfl

theorem refreshWd_part (s : State) (n p : Nat) : ∃ w, (s.refreshWd n).part p = { s.part p with wdStart := w } := by
  unfold refreshWd
  by_cases hp : p = n / 16
  · rw [hp, part_modPart_same, part_congr (modSeat_parts _ _ _)]
    exact ⟨_, rfl⟩
  · rw [modPart, part_setPart_other _ _ hp, part_congr (modSeat_parts _ _ _)]
    exact ⟨(s.part p).wdStart, rfl⟩

theorem toState_of_same {n : Nat} {st : SeatState} (h : (s.seat n).state = st) : s.toState n st = s := by
  simp [toState, h]

/-- The record takes its new STATE; the TDI and the trace follow a seat that was ACTIVE. -/
def takeState (s : State) (n : Nat) (st : SeatState) : State :=
  if (s.seat n).state = .active then ((s.modSeat n fun r => { r with state := st }).tdiError n).traceLost n
  else s.modSeat n fun r => { r with state := st }

theorem toState_of_ne {n : Nat} {st : SeatState} (h : (s.seat n).state ≠ st) :
    s.toState n st = ((s.takeState n st).signalSeat n).refreshWd n := by
  simp [toState, takeState, h]

theorem takeState_frame (s : State) (n : Nat) (st : SeatState) :
    s.takeState n st = { s with regs := (s.takeState n st).regs, badParity := (s.takeState n st).badParity,
                                seats := (s.takeState n st).seats } := by
  unfold takeState
  split
  · rw [traceLost_frame, tdiError_frame]
    rfl
  · rfl

theorem takeState_seat (s : State) (n : Nat) (st : SeatState) :
    ∃ d, (s.takeState n st).seat n = { s.seat n with state := st, tdi := d } := by
  unfold takeState
  split
  · obtain ⟨d, hd⟩ := tdiError_seat (s.modSeat n fun r => { r with state := st }) n n
    exact ⟨d, by rw [seat_congr (traceLost_seats _ _), hd, seat_modSeat_same]⟩
  · exact ⟨(s.seat n).tdi, by rw [seat_modSeat_same]⟩

theorem reg_takeState {r : Nat} (s : State) (n : Nat) (st : SeatState) (hr : 0x30000 ≤ r) :
    (s.takeState n st).reg r = s.reg r := by
  unfold takeState
  split
  · rw [reg_traceLost _ _ (by omega), reg_tdiError _ _ hr]
    rfl
  · rfl

theorem toState_frame (s : State) (n : Nat) (st : SeatState) :
    s.toState n st = { s with regs := (s.toState n st).regs, badParity := (s.toState n st).badParity,
                              out := (s.toState n st).out, seats := (s.toState n st).seats,
                              parts := (s.toState n st).parts } := by
  by_cases h : (s.seat n).state = st
  · rw [toState_of_same h]
  · rw [toState_of_ne h, signalSeat_frame, takeState_frame]
    rfl

@[simp] theorem toState_csMem (s : State) (n : Nat) (st : SeatState) : (s.toState n st).csMem = s.csMem := by
  rw [toState_frame]

@[simp] theorem toState_uptime (s : State) (n : Nat) (st : SeatState) : (s.toState n st).uptime = s.uptime := by
  rw [toState_frame]

/-- What a change of STATE can do to the seat's record. -/
theorem toState_seat (s : State) (n : Nat) (st : SeatState) : ∃ d q e w, (s.toState n st).seat n =
    { s.seat n with state := st, tdi := d, quietTill := q, heldEvent := e, wdStart := w } := by
  by_cases h : (s.seat n).state = st
  · exact ⟨(s.seat n).tdi, (s.seat n).quietTill, (s.seat n).heldEvent, (s.seat n).wdStart,
      by rw [toState_of_same h, ← h]⟩
  · obtain ⟨d, hd⟩ := takeState_seat s n st
    obtain ⟨q, e, hsignal⟩ := signalSeat_seat (s.takeState n st) n n
    obtain ⟨w, hw⟩ := refreshWd_seat ((s.takeState n st).signalSeat n) n n
    exact ⟨d, q, e, w, by rw [toState_of_ne h, hw, hsignal, hd]⟩

theorem toState_part (s : State) (n : Nat) (st : SeatState) (p : Nat) :
    ∃ w, (s.toState n st).part p = { s.part p with wdStart := w } := by
  by_cases h : (s.seat n).state = st
  · exact ⟨(s.part p).wdStart, by rw [toState_of_same h]⟩
  · obtain ⟨w, hw⟩ := refreshWd_part ((s.takeState n st).signalSeat n) n p
    have hparts : ((s.takeState n st).signalSeat n).parts = s.parts := by rw [signalSeat_frame, takeState_frame]
    exact ⟨w, by rw [toState_of_ne h, hw, part_congr hparts]⟩

/-- A change of STATE keeps the registers of the partitions. -/
theorem reg_toState {n r : Nat} (s : State) (st : SeatState) (hn : n < 512) (hr : 0x2000000 ≤ r) :
    (s.toState n st).reg r = s.reg r := by
  by_cases h : (s.seat n).state = st
  · rw [toState_of_same h]
  · rw [toState_of_ne h, reg_congr (refreshWd_variant _ _) (refreshWd_regs _ _), reg_signalSeat _ hn hr,
      reg_takeState _ _ _ (by omega)]

end Sys2Proof.Machine.State
end

section
/-! SUPPORT. CREATE: the command register, the record that an accepted one makes, and the causes of Table 2-4. -/

namespace Sys2Proof.Machine.State

variable {s : State} {n p l : Nat}

/-! CT_SEAT_RESULT (Table 2-3). -/

@[simp] theorem seatResult_seats (s : State) (p : Nat) (busy : Bool) (l cause : Nat) :
    (s.seatResult p busy l cause).seats = s.seats := by rw [seatResult, setRegN_seats]
@[simp] theorem seatResult_parts (s : State) (p : Nat) (busy : Bool) (l cause : Nat) :
    (s.seatResult p busy l cause).parts = s.parts := by rw [seatResult, setRegN_parts]
@[simp] theorem seatResult_csMem (s : State) (p : Nat) (busy : Bool) (l cause : Nat) :
    (s.seatResult p busy l cause).csMem = s.csMem := by rw [seatResult, setRegN_csMem]
@[simp] theorem seatResult_uptime (s : State) (p : Nat) (busy : Bool) (l cause : Nat) :
    (s.seatResult p busy l cause).uptime = s.uptime := by rw [seatResult, setRegN_uptime]

theorem reg_seatResult_same (s : State) (p : Nat) (busy : Bool) (l cause : Nat) :
    (s.seatResult p busy l cause).reg (ctReg p 4) = BitVec.ofNat 32 (b2n busy * 2 ^ 31 + l * 2 ^ 8 + cause) :=
  reg_setReg_same _ _ _

theorem reg_seatResult_other {r : Nat} (busy : Bool) (cause : Nat) (h : r ≠ ctReg p 4) :
    (s.seatResult p busy l cause).reg r = s.reg r :=
  reg_setReg_other _ _ h

/-- BUSY shows the command under way. -/
theorem bit_seatResult (s : State) (p : Nat) (busy : Bool) {l cause : Nat} (hl : l < 16) (hc : cause < 2 ^ 8) :
    bit ((s.seatResult p busy l cause).reg (ctReg p 4)) 31 = busy := by
  have hlow : (l * 2 ^ 8 + cause).testBit 31 = false := Nat.testBit_lt_two_pow (by omega)
  rw [reg_seatResult_same, bit, BitVec.getLsbD_ofNat]
  cases busy
  · simpa [b2n] using hlow
  · have hbusy := Nat.testBit_two_pow_add_eq (l * 2 ^ 8 + cause) 31
    rw [hlow] at hbusy
    simpa [b2n, Nat.add_assoc] using hbusy

/-! The command (R55). -/

theorem seatCreate_of_busy (hlive : s.barLive = true) (hp : partPresent s.variant p = true)
    (hbusy : bit (s.reg (ctReg p 4)) 31 = true) : s.seatCreate p l = s.raise (ctReg p 0xC) 1 := by
  simp [seatCreate, hlive, hp, hbusy]

theorem seatRelease_of_busy (hlive : s.barLive = true) (hp : partPresent s.variant p = true)
    (hbusy : bit (s.reg (ctReg p 4)) 31 = true) : s.seatRelease p l = s.raise (ctReg p 0xC) 1 := by
  simp [seatRelease, hlive, hp, hbusy]

/-- A command taken while no resize is under way is checked at once. -/
theorem seatCreate_of_idle (hlive : s.barLive = true) (hp : partPresent s.variant p = true)
    (hidle : bit (s.reg (ctReg p 4)) 31 = false) (hsize : s.resize = none) :
    s.seatCreate p l = (s.seatResult p true l 0).runCreate (p * 16 + l) := by
  have hres : (s.seatResult p true l 0).resize = none := hsize
  simp [seatCreate, hlive, hp, hidle, hres]

theorem runCreate_of_cause (h : s.createCause n ≠ 0) : s.runCreate n = s.createEnds n (s.createCause n) := by
  simp [runCreate, h]

theorem runCreate_of_ok (h : s.createCause n = 0) : s.runCreate n = s.createSeat n := by
  simp [runCreate, h]

/-! The seat that an accepted CREATE makes (R56, R287, R434). -/

@[simp] theorem drbgStep_seats (s : State) : s.drbgStep.seats = s.seats := rfl
@[simp] theorem drbgStep_regs (s : State) : s.drbgStep.regs = s.regs := rfl
@[simp] theorem drbgStep_variant (s : State) : s.drbgStep.variant = s.variant := rfl

/-- The seat's generation, and its indices at 0. -/
def indicesZeroed (s : State) (n cgen : Nat) : State :=
  (((s.setRegN (seatReg n 0x6C) cgen).setReg (seatReg n 0x1C) 0).setReg (seatReg n 0x28) 0).setReg (seatReg n 0x34) 0

/-- The record of a new seat: as after a reset, but for what belongs to its vector and its TDI. -/
def newRecord (key : BitVec 512) (r : SeatRec) : SeatRec :=
  { SeatRec.fresh with state := r.state, wardKey := some key, quietTill := r.quietTill, heldEvent := r.heldEvent,
                       tdi := r.tdi, tdiStream := r.tdiStream, tdiNonce := r.tdiNonce }

/-- The seat as a CREATE makes it, before its STATE changes. -/
def seatMade (s : State) (n cgen : Nat) (key : BitVec 512) : State :=
  (s.indicesZeroed n cgen).drbgStep.modSeat n (newRecord key)

theorem indicesZeroed_frame (s : State) (n cgen : Nat) :
    ∃ regs bad, s.indicesZeroed n cgen = { s with regs := regs, badParity := bad } := by
  have hset (u : State) (off : Nat) (v : Word) (h : ∃ regs bad, u = { s with regs := regs, badParity := bad }) :
      ∃ regs bad, u.setReg off v = { s with regs := regs, badParity := bad } := by
    obtain ⟨regs, bad, rfl⟩ := h
    exact ⟨_, _, rfl⟩
  exact hset _ _ _ (hset _ _ _ (hset _ _ _ (hset _ _ _ ⟨_, _, rfl⟩)))

section

variable (cgen : Nat) (key : BitVec 512)

theorem seatMade_frame (s : State) : ∃ regs bad sc seats,
    s.seatMade n cgen key = { s with regs := regs, badParity := bad, sc := sc, seats := seats } := by
  obtain ⟨regs, bad, h⟩ := indicesZeroed_frame s n cgen
  rw [seatMade, h]
  exact ⟨_, _, _, _, rfl⟩

theorem seatMade_seat : (s.seatMade n cgen key).seat n = newRecord key (s.seat n) := by
  obtain ⟨regs, bad, h⟩ := indicesZeroed_frame s n cgen
  have hseats : (s.indicesZeroed n cgen).drbgStep.seats = s.seats := by rw [drbgStep_seats, h]
  rw [seatMade, seat_modSeat_same, seat_congr hseats]

@[simp] theorem seatMade_parts : (s.seatMade n cgen key).parts = s.parts := by
  obtain ⟨_, _, _, _, h⟩ := s.seatMade_frame (n := n) cgen key
  rw [h]

@[simp] theorem seatMade_csMem : (s.seatMade n cgen key).csMem = s.csMem := by
  obtain ⟨_, _, _, _, h⟩ := s.seatMade_frame (n := n) cgen key
  rw [h]

@[simp] theorem seatMade_uptime : (s.seatMade n cgen key).uptime = s.uptime := by
  obtain ⟨_, _, _, _, h⟩ := s.seatMade_frame (n := n) cgen key
  rw [h]

theorem reg_seatMade (r : Nat) : (s.seatMade n cgen key).reg r = (s.indicesZeroed n cgen).reg r := by
  rw [seatMade, reg_congr (modSeat_variant _ _ _) (modSeat_regs _ _ _), reg_congr (drbgStep_variant _) (drbgStep_regs _)]

/-- The indices are 0. -/
theorem reg_seatMade_index {o : Nat} (h : o = 0x1C ∨ o = 0x28 ∨ o = 0x34) :
    (s.seatMade n cgen key).reg (seatReg n o) = 0 := by
  rw [reg_seatMade, indicesZeroed]
  rcases h with rfl | rfl | rfl
  · rw [reg_setReg_other _ _ (by simp [seatReg, ctReg, partReg]), reg_setReg_other _ _ (by simp [seatReg, ctReg, partReg]),
      reg_setReg_same]
  · rw [reg_setReg_other _ _ (by simp [seatReg, ctReg, partReg]), reg_setReg_same]
  · rw [reg_setReg_same]

theorem cgen_seatMade (h : cgen < 2 ^ 32) : (s.seatMade n cgen key).cgen n = cgen := by
  have hreg : (s.seatMade n cgen key).reg (seatReg n 0x6C) = BitVec.ofNat 32 cgen := by
    rw [reg_seatMade, indicesZeroed, reg_setReg_other _ _ (by simp [seatReg, ctReg, partReg]),
      reg_setReg_other _ _ (by simp [seatReg, ctReg, partReg]), reg_setReg_other _ _ (by simp [seatReg, ctReg, partReg])]
    exact reg_setReg_same _ _ _
  rw [State.cgen, regN, hreg, BitVec.toNat_ofNat, Nat.mod_eq_of_lt h]

end

/-- Where a CREATE goes from the seat `u` that it has made (R35, R490). -/
theorem createSeat_eq (s : State) (n : Nat) : ∃ key, ∀ u, u = s.seatMade n ((s.cgen n + 1) % 256) key →
    s.createSeat n =
      if (s.part (n / 16)).lowV then ((u.toState n .waking).takeBack (n / 16) fun _ => true).modPart (n / 16) fun r =>
        { r with lowV := false, wakeAt := some (s.uptime + 50000), creates := r.creates ++ [n] }
      else if (s.part (n / 16)).gated || (s.part (n / 16)).gatingAt.isSome || (s.part (n / 16)).wakeAt.isSome then
        (u.toState n .waking).modPart (n / 16) fun r =>
          { r with creates := r.creates ++ [n],
                   wakeAt := if r.gatingAt.isSome then none else some (r.wakeAt.getD (s.uptime + 18000)) }
      else (u.toState n .active).createEnds n 0 := by
  unfold createSeat
  extract_lets p cgen u₁ u₂ key u₃ fresh made r
  refine ⟨key, fun u hu => ?_⟩
  have hpart : r = s.part (n / 16) := by
    have h := part_congr (s := s) (seatMade_parts (n := n) cgen key) (n / 16)
    exact h
  have huptime : made.uptime = s.uptime := seatMade_uptime _ _
  rw [hpart, huptime, hu]
  rfl

/-- The seat's record once its STATE has changed. -/
theorem seatMade_toState_seat (s : State) (n cgen : Nat) (key : BitVec 512) (st : SeatState) :
    let r := ((s.seatMade n cgen key).toState n st).seat n
    r.state = st ∧ r.prodAcc = 0 ∧ r.running = [] ∧ r.wardKey.isSome = true := by
  obtain ⟨d, q, e, w, hseat⟩ := toState_seat (s.seatMade n cgen key) n st
  rw [seatMade_seat] at hseat
  intro r
  have hr : r = _ := hseat
  rw [hr]
  exact ⟨rfl, rfl, rfl, rfl⟩

theorem reg_indicesZeroed_ct (s : State) (cgen : Nat) : (s.indicesZeroed n cgen).reg (ctReg (n / 16) 4) =
    s.reg (ctReg (n / 16) 4) := by
  have hne (o : Nat) : ctReg (n / 16) 4 ≠ seatReg n o := by simp only [seatReg, ctReg, partReg]; omega
  rw [indicesZeroed, reg_setReg_other _ _ (hne _), reg_setReg_other _ _ (hne _), reg_setReg_other _ _ (hne _), setRegN,
    reg_setReg_other _ _ (hne _)]

/-- A CREATE in an awake partition: an ACTIVE seat, and the command has ended (R56, R287, R434). -/
theorem createSeat_awake (hn : n < 512) (hlow : (s.part (n / 16)).lowV = false)
    (hgated : (s.part (n / 16)).gated = false) (hgating : (s.part (n / 16)).gatingAt = none)
    (hwake : (s.part (n / 16)).wakeAt = none) :
    let t := s.createSeat n
    (t.seat n).state = .active ∧ (t.seat n).prodAcc = 0 ∧ (t.seat n).running = [] ∧ (t.seat n).wardKey.isSome = true ∧
      t.reg (seatReg n 0x1C) = 0 ∧ t.reg (seatReg n 0x28) = 0 ∧ t.reg (seatReg n 0x34) = 0 ∧
      t.cgen n = (s.cgen n + 1) % 256 ∧ t.reg (ctReg (n / 16) 4) = BitVec.ofNat 32 (n % 16 * 2 ^ 8) ∧
      t.csMem = s.csMem := by
  intro t
  obtain ⟨key, hcreate⟩ := createSeat_eq s n
  set cgen := (s.cgen n + 1) % 256
  have ht : t = ((s.seatMade n cgen key).toState n .active).createEnds n 0 := by
    have h := hcreate _ rfl
    rw [hlow, hgated, hgating, hwake] at h
    exact h
  obtain ⟨hstate, hprod, hrun, hkey⟩ := seatMade_toState_seat s n cgen key .active
  have hseat : t.seat n = ((s.seatMade n cgen key).toState n .active).seat n := by
    rw [ht, createEnds, seat_congr (seatResult_seats _ _ _ _ _)]
  have hreg {o : Nat} : t.reg (seatReg n o) = (s.seatMade n cgen key).reg (seatReg n o) := by
    rw [ht, createEnds, reg_seatResult_other _ _ (by simp only [seatReg, ctReg, partReg]; omega),
      reg_toState _ _ hn (by simp only [seatReg, ctReg, partReg]; omega)]
  rw [hseat, hreg, hreg, hreg]
  refine ⟨hstate, hprod, hrun, hkey, reg_seatMade_index _ _ (by simp), reg_seatMade_index _ _ (by simp),
    reg_seatMade_index _ _ (by simp), ?_, ?_, ?_⟩
  · rw [State.cgen, regN, hreg]
    exact cgen_seatMade cgen key (by omega)
  · rw [ht, createEnds, reg_seatResult_same]
    simp [b2n]
  · rw [ht, createEnds, seatResult_csMem, toState_csMem, seatMade_csMem]

/-- A CREATE in a gated partition: a WAKING seat, and the wake that it waits for (R35, R490). -/
theorem createSeat_gated (hn : n < 512) (hlow : (s.part (n / 16)).lowV = false)
    (hgated : (s.part (n / 16)).gated = true) (hgating : (s.part (n / 16)).gatingAt = none)
    (hwake : (s.part (n / 16)).wakeAt = none) :
    let t := s.createSeat n
    (t.seat n).state = .waking ∧ (t.seat n).wardKey.isSome = true ∧
      (t.part (n / 16)).wakeAt = some (s.uptime + 18000) ∧ n ∈ (t.part (n / 16)).creates ∧
      t.reg (ctReg (n / 16) 4) = s.reg (ctReg (n / 16) 4) ∧ t.csMem = s.csMem := by
  intro t
  obtain ⟨key, hcreate⟩ := createSeat_eq s n
  set cgen := (s.cgen n + 1) % 256
  set v := (s.seatMade n cgen key).toState n .waking with hv
  have ht : t = v.modPart (n / 16) fun r =>
      { r with creates := r.creates ++ [n],
               wakeAt := if r.gatingAt.isSome then none else some (r.wakeAt.getD (s.uptime + 18000)) } := by
    have h := hcreate _ rfl
    rw [hlow, hgated] at h
    exact h
  obtain ⟨hstate, -, -, hkey⟩ := seatMade_toState_seat s n cgen key .waking
  obtain ⟨w, hpart⟩ := toState_part (s.seatMade n cgen key) n .waking (n / 16)
  rw [part_congr (seatMade_parts _ _), ← hv] at hpart
  rw [ht, seat_congr (modPart_seats _ _ _), part_modPart_same, hpart]
  refine ⟨hstate, hkey, ?_, by simp, ?_, ?_⟩
  · simp [hgating, hwake]
  · rw [reg_congr (modPart_variant _ _ _) (modPart_regs _ _ _), hv,
      reg_toState _ _ hn (by simp only [ctReg, partReg]; omega), reg_seatMade, reg_indicesZeroed_ct]
  · rw [modPart_csMem, hv, toState_csMem, seatMade_csMem]

end Sys2Proof.Machine.State
end

section
/-! SUPPORT. What a CREATE that no cause of Table 2-4 stops says of the seat's registers. -/

namespace Sys2Proof.Machine.State

variable {s : State} {n : Nat}

theorem createCause_eq_zero_iff : s.createCause n = 0 ↔
    ((s.resetting (n / 16) = false ∧ s.sc.drbgOk = true) ∧ (s.seat n).state = .free) ∧ s.windowInvalid n = false ∧
      s.ringInvalid n = false ∧ s.tumblerConflict n = false ∧ s.arraysUnavailable n = false := by
  unfold createCause
  split_ifs <;> grind [seatIs]

/-- No other seat in use meets the condition `f`. -/
theorem forall_of_any_others {f : Nat → Bool}
    (h : ((s.seatList.filter fun m => decide (m ≠ n) && !s.seatIs m .free).any f) = false) {m : Nat}
    (hm : m ∈ s.seatList) (hne : m ≠ n) (huse : (s.seat m).state ≠ .free) : f m = false := by
  rw [List.any_eq_false] at h
  have hmem : m ∈ s.seatList.filter fun m => decide (m ≠ n) && !s.seatIs m .free :=
    List.mem_filter.2 ⟨hm, by simp [hne, seatIs, huse]⟩
  exact Bool.eq_false_iff.2 (h m hmem)

/-- WINDOW_INVALID does not hold (R45, R265, R290). -/
theorem windows_of_valid (h : s.windowInvalid n = false) :
    (s.csWin n).2 ≤ csSize ∧ overlap (s.csWin n) (s.scBase, csSize) = false ∧
      ((s.hostWin n).1 < (s.hostWin n).2 → (s.csWin n).1 ≤ (s.hostWin n).1 ∧ (s.hostWin n).2 ≤ (s.csWin n).2) ∧
      ∀ m ∈ s.seatList, m ≠ n → (s.seat m).state ≠ .free → overlap (s.csWin n) (s.csWin m) = false ∧
        (m / 16 = n / 16 → overlap (s.hbmWin n) (s.hbmWin m) = false) := by
  simp only [windowInvalid, Bool.or_eq_false_iff, decide_eq_false_iff_not] at h
  obtain ⟨⟨⟨⟨⟨⟨⟨⟨⟨⟨⟨hothers, hcache⟩, hsize⟩, -⟩, -⟩, hhost⟩, -⟩, -⟩, -⟩, -⟩, -⟩, hhbm⟩ := h
  refine ⟨by omega, hcache, fun hlt => by omega, fun m hm hne huse => ⟨forall_of_any_others hothers hm hne huse, ?_⟩⟩
  intro hpart
  have hmeet := forall_of_any_others hhbm hm hne huse
  simpa [hpart] using hmeet

/-- RING_INVALID does not hold. -/
theorem rings_of_valid (h : s.ringInvalid n = false) {o : Nat} (ho : o ∈ [0x18, 0x24, 0x30]) :
    6 ≤ s.regField (seatReg n o) 4 0 ∧ s.regField (seatReg n o) 4 0 ≤ 16 := by
  rw [ringInvalid, List.any_eq_false] at h
  simpa [log2Ok] using h o ho

/-- TUMBLER_CONFLICT does not hold. -/
theorem tumblers_of_valid (h : s.tumblerConflict n = false) :
    (s.tumbRange n).1 < (s.tumbRange n).2 ∧ (s.tumbRange n).2 ≤ 8192 ∧
      ∀ m ∈ s.seatList, m ≠ n → (s.seat m).state ≠ .free → overlap (s.tumbRange n) (s.tumbRange m) = false := by
  simp only [tumblerConflict, Bool.or_eq_false_iff, decide_eq_false_iff_not] at h
  obtain ⟨hcount, hothers⟩ := h
  refine ⟨by omega, by omega, fun m hm hne huse => ?_⟩
  rw [List.any_eq_false] at hothers
  simpa [hne, seatIs, huse] using hothers m hm

/-! The command as a whole. -/

/-- BUSY set in the command register is all that the seat's CREATE finds changed. -/
theorem cgen_seatResult {l : Nat} (s : State) (p : Nat) : (s.seatResult p true l 0).cgen (p * 16 + l) = s.cgen (p * 16 + l) := by
  have hne : seatReg (p * 16 + l) 0x6C ≠ ctReg p 4 := by simp only [seatReg, ctReg, partReg]; omega
  rw [cgen, regN, reg_seatResult_other _ _ hne, cgen, regN]

/-- A CREATE that is refused (R55). -/
theorem createEnds_seatResult {l : Nat} (hl : l < 16) (s : State) (p cause : Nat) :
    let t := (s.seatResult p true l 0).createEnds (p * 16 + l) cause
    t.reg (ctReg p 4) = BitVec.ofNat 32 (l * 2 ^ 8 + cause) ∧ s.regsOnly t [ctReg p 4] ∧ t.seats = s.seats ∧
      t.parts = s.parts ∧ t.csMem = s.csMem := by
  have hdiv : (p * 16 + l) / 16 = p := by omega
  have hmod : (p * 16 + l) % 16 = l := by omega
  rw [createEnds, hdiv, hmod]
  refine ⟨?_, fun o ho => ?_, rfl, rfl, rfl⟩
  · rw [reg_seatResult_same]
    simp [b2n]
  · have hne : o ≠ ctReg p 4 := by simpa using ho
    rw [reg_seatResult_other _ _ hne, reg_seatResult_other _ _ hne]

end Sys2Proof.Machine.State
end

section
/-! PROOFS. CREATE. -/

namespace Sys2Proof.Proofs

open Sys2Proof.Machine

/-- Settles O13: the command runs at once, and each of its three ends is a lemma about `createSeat` or `createEnds`; a cause
of 0 excludes every condition of Table 2-4 (R35, R55, R56, R265, R287, R290, R434, log entry 59). -/
theorem createOfASeat : Obligations.CreateOfASeat := by
  refine ⟨⟨?_, ?_⟩, ?_⟩
  · intro s p l hlive hp hidle hsize n b r
    have hdiv : n / 16 = p.val := by omega
    have hmod : n % 16 = l.val := by omega
    have hn : n < 512 := by omega
    have hrun : exec (.seatCreate p l) s = .next (b.runCreate n) :=
      congrArg Host.Outcome.next (State.seatCreate_of_idle hlive hp hidle hsize)
    have hpart : b.part p.val = r := State.part_congr (State.seatResult_parts _ _ _ _ _) _
    have hgen : b.cgen n = s.cgen n := State.cgen_seatResult s p.val
    rw [hrun]
    refine ⟨fun hcause => ⟨_, rfl, ?_⟩, fun hcause hgated hgating hwake hlow => ⟨_, rfl, ?_⟩,
      fun hcause hgated hgating hwake hlow => ⟨_, rfl, ?_⟩⟩
    · rw [State.runCreate_of_cause hcause]
      exact State.createEnds_seatResult l.isLt s p.val _
    · have h := State.createSeat_awake (s := b) hn (by rwa [hdiv, hpart]) (by rwa [hdiv, hpart]) (by rwa [hdiv, hpart])
        (by rwa [hdiv, hpart])
      rw [hdiv, hmod, hgen] at h
      rw [State.runCreate_of_ok hcause]
      exact h
    · have h := State.createSeat_gated (s := b) hn (by rwa [hdiv, hpart]) (by rwa [hdiv, hpart]) (by rwa [hdiv, hpart])
        (by rwa [hdiv, hpart])
      rw [hdiv] at h
      obtain ⟨hstate, hkey, hdue, hmem, hbusy, hstore⟩ := h
      rw [State.runCreate_of_ok hcause, hbusy]
      exact ⟨hstate, hkey, hdue, hmem, State.bit_seatResult s p.val true l.isLt (by decide), hstore⟩
  · exact fun s p l hlive hp hbusy => ⟨congrArg Host.Outcome.next (State.seatCreate_of_busy hlive hp hbusy),
      congrArg Host.Outcome.next (State.seatRelease_of_busy hlive hp hbusy)⟩
  · intro s n hcause
    obtain ⟨⟨⟨hreset, -⟩, hfree⟩, hwindow, hring, htumb, -⟩ := State.createCause_eq_zero_iff.1 hcause
    obtain ⟨hsize, hcache, hhost, hothers⟩ := State.windows_of_valid hwindow
    obtain ⟨hfirst, hlast, halone⟩ := State.tumblers_of_valid htumb
    refine ⟨hreset, hfree, hsize, hcache, hhost, hfirst, hlast, fun o ho => State.rings_of_valid hring ho,
      fun m hm hne huse => ?_⟩
    obtain ⟨hcs, hhbm⟩ := hothers m hm hne huse
    exact ⟨hcs, halone m hm hne huse, hhbm⟩

end Sys2Proof.Proofs
end

section
/-! SUPPORT. Gating, wake and hold-offs (R35, R72, R396, R489, R490). -/

namespace Sys2Proof.Machine.State

variable {s : State}

/-! Time that passes leaves the records alone. -/

@[simp] theorem reachUp_seats (s : State) (t : Nat) : (s.reachUp t).seats = s.seats := by rw [reachUp_frame]
@[simp] theorem reachUp_parts (s : State) (t : Nat) : (s.reachUp t).parts = s.parts := by rw [reachUp_frame]
@[simp] theorem reachUp_csMem (s : State) (t : Nat) : (s.reachUp t).csMem = s.csMem := by rw [reachUp_frame]
@[simp] theorem reachUp_regs (s : State) (t : Nat) : (s.reachUp t).regs = s.regs := by rw [reachUp_frame]
@[simp] theorem reachUp_variant (s : State) (t : Nat) : (s.reachUp t).variant = s.variant := by rw [reachUp_frame]
@[simp] theorem reachUp_out (s : State) (t : Nat) : (s.reachUp t).out = s.out := by rw [reachUp_frame]

theorem storeSame_of_csMem {t : State} (h : t.csMem = s.csMem) : s.storeSame t := fun x => by rw [csByte, h, csByte]

/-! Gating ends (R489). -/

/-- What gating takes from a partition: its counters are folded, its working registers dropped, its units given back. -/
def partEmptied (s : State) (p : Nat) : State := ((s.foldPart p).dropWorking p).takeBack p fun _ => true

/-- The partition's arrays as after a reset, but for what they have of faults. -/
def arraysFresh (s : State) (p : Nat) : State :=
  (List.range 8).foldl (fun s a => s.modArr p a fun r =>
    { ArrRec.fresh with faults := r.faults, retired := r.retired, gateIdle := s.gateIdleNow p }) s

theorem gatingDone_of_due {p due : Nat} (h : (s.part p).gatingAt = some due) :
    s.gatingDone p = (((s.reachUp due).partEmptied p).arraysFresh p).modPart p fun r =>
      { r with gated := true, gatingAt := none, worked := [],
               wakeAt := if r.creates.isEmpty then none
                 else some ((((s.reachUp due).partEmptied p).arraysFresh p).uptime + 18000) } := by
  simp only [gatingDone, h]
  rfl

theorem foldPart_frame (s : State) (p : Nat) : ∃ objs, s.foldPart p = { s with objs := objs } := ⟨_, rfl⟩

theorem partEmptied_frame (s : State) (p : Nat) : ∃ objs regs ec,
    s.partEmptied p = { s with objs := objs, regs := regs, ec := ec } := by
  obtain ⟨objs, h⟩ := foldPart_frame s p
  rw [partEmptied, h]
  exact ⟨_, _, _, rfl⟩

theorem arraysFresh_parts (s : State) (p : Nat) : (s.arraysFresh p).parts = s.parts :=
  foldl_frame State.parts (fun u a => modArr_parts u p a _) _ s

theorem arraysFresh_uptime (s : State) (p : Nat) : (s.arraysFresh p).uptime = s.uptime :=
  foldl_frame State.uptime (fun u a => modArr_uptime u p a _) _ s

theorem arraysFresh_csMem (s : State) (p : Nat) : (s.arraysFresh p).csMem = s.csMem :=
  foldl_frame State.csMem (fun u a => modArr_csMem u p a _) _ s

/-- The state before the partition is marked gated. -/
theorem partEmptied_arraysFresh (s : State) (p : Nat) : ((s.partEmptied p).arraysFresh p).parts = s.parts ∧
    ((s.partEmptied p).arraysFresh p).uptime = s.uptime ∧ ((s.partEmptied p).arraysFresh p).csMem = s.csMem := by
  obtain ⟨objs, regs, ec, h⟩ := partEmptied_frame s p
  rw [arraysFresh_parts, arraysFresh_uptime, arraysFresh_csMem, h]
  exact ⟨rfl, rfl, rfl⟩

/-! A wake ends (R35, R490). -/

/-- The partition is awake, with its quantiser's defaults. -/
def partAwake (s : State) (p : Nat) : State :=
  (s.modPart p fun r => { r with gated := false, wakeAt := none, creates := [], resetQueued := none }).loadQzDefaults p

/-- The seat that waited for the wake is ACTIVE, and its command ends. -/
def seatAwake (s : State) (n : Nat) : State := ((s.toState n .active).createEnds n 0).ringHeld n

theorem wakeDone_of_one {p due n : Nat} (h : (s.part p).wakeAt = some due) (hreset : (s.part p).resetQueued = none)
    (hcreates : (s.part p).creates = [n]) (hwaking : (s.seat n).state = .waking) :
    s.wakeDone p = ((s.reachUp due).partAwake p).seatAwake n := by
  have hpart : (s.reachUp due).part p = s.part p := part_congr (reachUp_parts _ _) p
  have hseat : ((s.reachUp due).partAwake p).seat n = s.seat n := by
    rw [partAwake, loadQzDefaults, seat_congr (setRegN_seats _ _ _), seat_congr (modPart_seats _ _ _),
      seat_congr (reachUp_seats _ _)]
  have hwake : ((s.reachUp due).partAwake p).seatIs n .waking = true := by rw [seatIs, hseat]; simp [hwaking]
  simp only [wakeDone, h, hpart, hreset, hcreates, List.foldl_cons, List.foldl_nil]
  change (if ((s.reachUp due).partAwake p).seatIs n .waking = true then _ else _) = _
  rw [if_pos hwake]
  rfl

theorem partAwake_part (s : State) (p : Nat) :
    ((s.partAwake p).part p).gated = false ∧ ((s.partAwake p).part p).wakeAt = none := by
  rw [partAwake, loadQzDefaults, part_congr (setRegN_parts _ _ _), part_modPart_same]
  exact ⟨rfl, rfl⟩

theorem partAwake_frame (s : State) (p : Nat) : ∃ regs bad parts,
    s.partAwake p = { s with regs := regs, badParity := bad, parts := parts } := by
  rw [partAwake, loadQzDefaults, modPart, setPart, setRegN, setReg]
  exact ⟨_, _, _, rfl⟩

theorem ringHeld_of_none {n : Nat} (h : (s.seat n).heldBells = []) :
    s.ringHeld n = s.modSeat n fun r => { r with heldBells := [] } := by
  simp [ringHeld, h]

/-- A seat that has held no doorbell (R35). -/
theorem seatAwake_of_quiet (n : Nat) (h : (s.seat n).heldBells = []) :
    s.seatAwake n = ((s.toState n .active).createEnds n 0).modSeat n fun r => { r with heldBells := [] } := by
  obtain ⟨d, q, e, w, hseat⟩ := toState_seat s n .active
  refine ringHeld_of_none ?_
  rw [createEnds, seat_congr (seatResult_seats _ _ _ _ _), hseat]
  exact h

theorem seatAwake_spec (n : Nat) (h : (s.seat n).heldBells = []) :
    ((s.seatAwake n).seat n).state = .active ∧ bit ((s.seatAwake n).reg (ctReg (n / 16) 4)) 31 = false ∧
      (s.seatAwake n).uptime = s.uptime ∧ (s.seatAwake n).csMem = s.csMem ∧
      ∀ p, ∃ w, (s.seatAwake n).part p = { s.part p with wdStart := w } := by
  obtain ⟨d, q, e, v, hseat⟩ := toState_seat s n .active
  rw [seatAwake_of_quiet n h, createEnds, seat_modSeat_same, seat_congr (seatResult_seats _ _ _ _ _), hseat,
    reg_congr (modSeat_variant _ _ _) (modSeat_regs _ _ _), modSeat_uptime, seatResult_uptime, toState_uptime,
    modSeat_csMem, seatResult_csMem, toState_csMem]
  refine ⟨rfl, bit_seatResult _ _ _ (by omega) (by decide), rfl, rfl, fun p => ?_⟩
  rw [part_congr (modSeat_parts _ _ _), part_congr (seatResult_parts _ _ _ _ _)]
  exact toState_part s n .active p

/-! A hold-off ends (R72, R396). -/

theorem signalSeat_of_free {n : Nat} (h : (s.seat n).quietTill ≤ s.uptime) :
    s.signalSeat n = (s.modSeat n fun r =>
      { r with quietTill := s.uptime + field (s.reg (seatReg n 0x24)) 15 8 * 1000 }).msix n := by
  simp [signalSeat, Nat.not_lt.2 h]

theorem signalEc_of_free (h : s.ec.holdTill ≤ s.uptime) :
    s.signalEc = ({ s with ec := { s.ec with holdTill := s.uptime + 100000 } }).msix 512 := by
  simp [signalEc, Nat.not_lt.2 h]

/-- Whether a vector is open, and its message, are in the registers. -/
theorem msix_of_regs {t : State} {v : Nat} (hopen : s.vectorOpen v) (hv : t.variant = s.variant) (hr : t.regs = s.regs) :
    t.msix v = t.emit (s.vectorMessage v) := by
  have hreg (o : Nat) : t.regN o = s.regN o := by rw [regN, reg_congr hv hr, regN]
  have ht : t.vectorOpen v := by
    have h : s.regN (msixReg (v * 16 + 12)) % 2 = 0 := hopen
    rw [← hreg] at h
    exact h
  rw [msix_of_open ht, vectorMessage, hreg, hreg, hreg, vectorMessage]

theorem seatHoldoffEnd_of_held {n : Nat} (hheld : (s.seat n).heldEvent = true) (hopen : s.vectorOpen n) :
    ((s.seatHoldoffEnd n).seat n).heldEvent = false ∧ (s.seat n).quietTill ≤ (s.seatHoldoffEnd n).uptime ∧
      (s.seatHoldoffEnd n).out = s.vectorMessage n :: s.out ∧ (s.seatHoldoffEnd n).regs = s.regs := by
  set u := (s.reachUp (s.seat n).quietTill).modSeat n fun r => { r with heldEvent := false } with hu
  have huptime : (s.seat n).quietTill ≤ u.uptime := by
    rw [hu, modSeat_uptime]
    exact le_uptime_reachUp _ _
  have hseat : u.seat n = { s.seat n with heldEvent := false } := by
    rw [hu, seat_modSeat_same, seat_congr (reachUp_seats _ _)]
  have hfree : (u.seat n).quietTill ≤ u.uptime := by rw [hseat]; exact huptime
  have hdone : s.seatHoldoffEnd n = u.signalSeat n := by rw [seatHoldoffEnd, if_pos hheld]
  rw [hdone, signalSeat_of_free hfree, msix_of_regs hopen, seat_congr (emit_seats _ _), seat_modSeat_same, hseat,
    emit_uptime, modSeat_uptime, emit_regs, modSeat_regs, hu, modSeat_regs, reachUp_regs]
  · exact ⟨rfl, huptime, by rw [emit, modSeat_out, modSeat_out, reachUp_out], rfl⟩
  · rw [modSeat_variant, hu, modSeat_variant, reachUp_variant]
  · rw [modSeat_regs, hu, modSeat_regs, reachUp_regs]

theorem ecHoldoffEnd_of_held (hheld : s.ec.held = true) (hopen : s.vectorOpen 512) :
    s.ecHoldoffEnd.ec.held = false ∧ s.ec.holdTill ≤ s.ecHoldoffEnd.uptime ∧
      s.ecHoldoffEnd.out = s.vectorMessage 512 :: s.out ∧ s.ecHoldoffEnd.regs = s.regs := by
  have huptime : s.ec.holdTill ≤ (s.reachUp s.ec.holdTill).uptime := le_uptime_reachUp _ _
  obtain ⟨up, ti, tb, h⟩ : ∃ up ti tb, s.reachUp s.ec.holdTill = { s with uptime := up, time := ti, tb := tb } :=
    ⟨_, _, _, reachUp_frame _ _⟩
  rw [h] at huptime
  set u : State := { s with uptime := up, time := ti, tb := tb, ec := { s.ec with held := false } }
  have hdone : s.ecHoldoffEnd = u.signalEc := by rw [ecHoldoffEnd, if_pos hheld, h]
  have hsend := msix_of_regs (s := s) (t := { u with ec := { u.ec with holdTill := u.uptime + 100000 } }) hopen rfl rfl
  rw [hdone, signalEc_of_free huptime, hsend]
  exact ⟨rfl, huptime, rfl, rfl⟩

end Sys2Proof.Machine.State
end

section
/-! PROOFS. Gating, wake and hold-offs. -/

namespace Sys2Proof.Proofs

open Sys2Proof.Machine

/-- Settles O15: each event first lets time pass to its own time (log entry 3); the wake's seat ends its CREATE, which
clears BUSY (log entry 59). -/
theorem gatingWakeAndHoldoffs : Obligations.GatingWakeAndHoldoffs := by
  refine ⟨⟨?_, ?_⟩, ?_, ?_⟩
  · intro s p due hdue
    set u := ((s.reachUp due).partEmptied p.val).arraysFresh p.val with hu
    obtain ⟨hparts, huptime, hmem⟩ := State.partEmptied_arraysFresh (s.reachUp due) p.val
    have hcreates : (u.part p.val).creates = (s.part p.val).creates := by
      rw [hu, State.part_congr hparts, State.part_congr (State.reachUp_parts _ _)]
    refine ⟨_, congrArg Host.Outcome.next (State.gatingDone_of_due hdue), ?_⟩
    rw [← hu, State.part_modPart_same, State.modPart_uptime, hu, huptime, ← hu, hcreates]
    refine ⟨rfl, rfl, State.le_uptime_reachUp _ _, State.uptime_le_reachUp _ _, ?_, rfl⟩
    exact State.storeSame_of_csMem (by rw [State.modPart_csMem, hu, hmem, State.reachUp_csMem])
  · intro s p due hdue hreset n hcreates hpart hwaking hbells
    obtain ⟨hgated, hwake⟩ := State.partAwake_part (s.reachUp due) p.val
    obtain ⟨regs, bad, parts, hframe⟩ := State.partAwake_frame (s.reachUp due) p.val
    set u := (s.reachUp due).partAwake p.val
    have hquiet : (u.seat n).heldBells = [] := by
      rw [State.seat_congr (show u.seats = s.seats by rw [hframe]; exact State.reachUp_seats _ _)]
      exact hbells
    have hdone : exec (.wakeComplete p) s = .next (u.seatAwake n) :=
      congrArg Host.Outcome.next (State.wakeDone_of_one hdue hreset hcreates hwaking)
    have hmem : u.csMem = s.csMem := by rw [hframe]; exact State.reachUp_csMem _ _
    have huptime : due ≤ u.uptime := by rw [hframe]; exact State.le_uptime_reachUp _ _
    obtain ⟨hactive, hbusy, hup, hstore, hparts⟩ := State.seatAwake_spec n hquiet
    obtain ⟨w, hrec⟩ := hparts p.val
    rw [hpart] at hbusy
    refine ⟨_, hdone, ?_⟩
    rw [hrec, hup]
    exact ⟨hgated, hwake, huptime, hactive, hbusy, State.storeSame_of_csMem (hstore.trans hmem)⟩
  · exact fun s n hheld hopen => ⟨_, rfl, State.seatHoldoffEnd_of_held hheld hopen⟩
  · exact fun s hheld hopen => ⟨_, rfl, State.ecHoldoffEnd_of_held hheld hopen⟩

end Sys2Proof.Proofs
end

section
/-! SUPPORT. Little-endian numbers and pieces of byte strings. -/

namespace Sys2Proof.Machine

theorem length_leBytes (n v : Nat) : (leBytes n v).length = n := by
  induction n generalizing v with
  | zero => rfl
  | succ n ih => simp [leBytes, ih]

theorem leNat_leBytes (n v : Nat) : leNat (leBytes n v) = v % 2 ^ (8 * n) := by
  induction n generalizing v with
  | zero => simp [leBytes, leNat, Nat.mod_one]
  | succ n ih =>
    have hpow : 2 ^ (8 * (n + 1)) = 256 * 2 ^ (8 * n) := by rw [Nat.mul_add, Nat.pow_add]; omega
    rw [leBytes, leNat, ih, BitVec.toNat_ofNat, hpow, Nat.mod_mul]

theorem leNat_lt (bs : List Byte) : leNat bs < 2 ^ (8 * bs.length) := by
  induction bs with
  | nil => simp [leNat]
  | cons b bs ih =>
    have hpow : 2 ^ (8 * (bs.length + 1)) = 256 * 2 ^ (8 * bs.length) := by rw [Nat.mul_add, Nat.pow_add]; omega
    have hb := b.isLt
    rw [leNat, List.length_cons, hpow]
    omega

theorem length_slice (bs : List Byte) (lo n : Nat) : (slice bs lo n).length = n := by
  simp [slice, padTo, zeros]
  omega

/-- A slice that lies inside the string takes bytes of the string alone. -/
theorem slice_of_le {bs : List Byte} {lo n : Nat} (h : lo + n ≤ bs.length) : slice bs lo n = (bs.drop lo).take n := by
  have hpad : n - (bs.drop lo).length = 0 := by rw [List.length_drop]; omega
  rw [slice, padTo, hpad]
  simp [zeros]

/-- The bytes put in are read back. -/
theorem slice_spliceAt {bs new : List Byte} {i : Nat} (h : i + new.length ≤ bs.length) :
    slice (spliceAt bs i new) i new.length = new := by
  have hlen : (bs.take i).length = i := by rw [List.length_take]; omega
  rw [slice_of_le (by simp [spliceAt]; omega), spliceAt, List.append_assoc, List.drop_append_of_le_length (by omega),
    List.drop_of_length_le (by omega), List.nil_append, List.take_left]

end Sys2Proof.Machine
end

section
/-! SUPPORT. Lines of the shared cache (R242, R247). -/

namespace Sys2Proof.Machine

/-- The bytes written into a line are read back. -/
theorem CacheLine.get_set {l : CacheLine} {a : Nat} {bs : List Byte} (h : a % 128 + bs.length ≤ l.bytes.length) :
    (l.set a bs).get a bs.length = bs :=
  slice_spliceAt h

theorem CacheLine.leNat_get_lt (l : CacheLine) (a n : Nat) : leNat (l.get a n) < 2 ^ (8 * n) := by
  have h := leNat_lt (l.get a n)
  rwa [CacheLine.get, length_slice] at h

/-- The new value of an atomic operation fits its word (Table 8-4). -/
theorem aopNew_lt {bits op old x cmp : Nat} (hold : old < 2 ^ bits) (hx : x < 2 ^ bits) :
    aopNew bits op old x cmp < 2 ^ bits := by
  unfold aopNew
  extract_lets sg
  split
  · exact Nat.mod_lt _ (by positivity)
  · exact Nat.lt_of_le_of_lt Nat.and_le_left hold
  · exact Nat.or_lt_two_pow hold hx
  · exact Nat.xor_lt_two_pow hold hx
  · split <;> assumption
  · split <;> assumption
  · omega
  · omega
  · exact hx
  · split <;> assumption
  · exact hold

namespace State

variable {s t : State}

theorem lineOf_congr (h : t.cache = s.cache) (p n : Nat) : t.lineOf p n = s.lineOf p n := by rw [lineOf, h, lineOf]

theorem lineOf_is {p n : Nat} {l : CacheLine} (h : s.lineOf p n = some l) : l.part = p ∧ l.line = n := by
  have his := List.find?_some h
  simpa [CacheLine.is] using his

theorem lineOf_putLine_same (s : State) {l : CacheLine} {p n : Nat} (hp : l.part = p) (hn : l.line = n) :
    (s.putLine l).lineOf p n = some l := by
  simp [lineOf, putLine, CacheLine.is, hp, hn]

/-- Putting a line leaves every line that the cache held in it. -/
theorem lineOf_putLine_isSome {l : CacheLine} {p n : Nat} (h : (s.lineOf p n).isSome = true) :
    ((s.putLine l).lineOf p n).isSome = true := by
  by_cases hl : l.part = p ∧ l.line = n
  · rw [lineOf_putLine_same s hl.1 hl.2]
    rfl
  · rw [lineOf, List.find?_isSome] at h ⊢
    obtain ⟨m, hm, his⟩ := h
    have hmn : m.part = p ∧ m.line = n := by simpa [CacheLine.is] using his
    refine ⟨m, List.mem_cons_of_mem _ (List.mem_filter.2 ⟨hm, ?_⟩), his⟩
    have hne : ¬ (m.part = l.part ∧ m.line = l.line) := by
      rintro ⟨h1, h2⟩
      exact hl ⟨by rw [← h1, hmn.1], by rw [← h2, hmn.2]⟩
    simp only [CacheLine.is, hne, decide_false, Bool.not_false]

end State

end Sys2Proof.Machine
end

section
/-! SUPPORT. A descriptor that starts while the trace is off, and enters its seat. -/

namespace Sys2Proof.Machine.State

variable {s t : State}

/-- With the trace off a trace record is a line on the service UART at most (R482). -/
theorem trace_of_off (n tag opcode event status unit : Nat) (h : s.traceOff) :
    ∃ out, s.trace n tag opcode event status unit = { s with out := out } := by
  have hoff : bit (s.reg (mgReg 0x110)) 0 = false := h
  unfold trace
  split
  · exact ⟨s.out, rfl⟩
  · extract_lets u ctrl size dev
    have hu : ∃ out, u = { s with out := out } := by
      by_cases htext : s.uart.text = true
      · exact ⟨_, if_pos htext⟩
      · exact ⟨s.out, if_neg htext⟩
    have hctrl : bit ctrl 0 = false := by
      obtain ⟨out, hout⟩ := hu
      rw [← hoff]
      simp only [ctrl, hout]
      rfl
    rw [hctrl]
    exact hu

/-- What the start of a descriptor does beside its record in the trace (R516). -/
theorem start_of_off (n : Nat) (h : Head) (unit : Nat) (hoff : s.traceOff) : ∃ out, s.start n h unit =
    { (s.setReg (seatReg n 0x1C) (h.index + BitVec.ofNat 32 (1 + countOf h.words))).modSeat n
        (fun r => { r with head := none }) with out := out } := by
  have hctrl : mgReg 0x110 ≠ seatReg n 0x1C := by simp only [mgReg, seatReg, ctReg, partReg]; omega
  refine trace_of_off _ _ _ _ _ _ ?_
  rw [traceOff, reg_congr (modSeat_variant _ _ _) (modSeat_regs _ _ _), reg_setReg_other _ _ hctrl]
  exact hoff

/-- From `s` to `t` the descriptor `r` of seat `n` has started and entered its seat, and nothing that an operation on
memory reads has changed: the seats but for that run, the registers but for RING_CONS, the Central Store and the cache. -/
structure Entered (s t : State) (n : Nat) (r : Run) : Prop where
  running : (t.seat n).running = (s.seat n).running ++ [r]
  state   : ∀ m, (t.seat m).state = (s.seat m).state
  reset   : ∀ p, t.resetting p = s.resetting p
  reg     : ∀ o, o ≠ seatReg n 0x1C → t.reg o = s.reg o
  cache   : t.cache = s.cache
  fills   : t.fills = s.fills
  csMem   : t.csMem = s.csMem

theorem addRun_eq (s : State) (n : Nat) (r : Run) :
    s.addRun n r = (((s.noteWork (n / 16) (engineStatus (n / 16) (opcodeOf r.words) r.unit)).takeBack (n / 16)
      (usesUnit (opcodeOf r.words) r.unit)).modSeat n fun q => { q with running := q.running ++ [r] }).refreshWd n := rfl

theorem refreshWd_frame (s : State) (n : Nat) : ∃ seats parts, s.refreshWd n = { s with seats := seats, parts := parts } :=
  ⟨_, _, rfl⟩

theorem addRun_frame (s : State) (n : Nat) (r : Run) : ∃ seats parts shakes,
    s.addRun n r = { s with seats := seats, parts := parts, ec := { s.ec with shakeUnits := shakes } } := by
  obtain ⟨parts, hnote⟩ : ∃ parts, s.noteWork (n / 16) (engineStatus (n / 16) (opcodeOf r.words) r.unit) =
      { s with parts := parts } := ⟨_, rfl⟩
  obtain ⟨shakes, htake⟩ : ∃ shakes, ({ s with parts := parts } : State).takeBack (n / 16)
      (usesUnit (opcodeOf r.words) r.unit) = { s with parts := parts, ec := { s.ec with shakeUnits := shakes } } := ⟨_, rfl⟩
  obtain ⟨seats, hmod⟩ : ∃ seats, ({ s with parts := parts, ec := { s.ec with shakeUnits := shakes } } : State).modSeat n
      (fun q => { q with running := q.running ++ [r] }) =
        { s with parts := parts, ec := { s.ec with shakeUnits := shakes }, seats := seats } := ⟨_, rfl⟩
  obtain ⟨seats', parts', hwatch⟩ := refreshWd_frame
    { s with parts := parts, ec := { s.ec with shakeUnits := shakes }, seats := seats } n
  exact ⟨seats', parts', shakes, by rw [addRun_eq, hnote, htake, hmod, hwatch]⟩

theorem addRun_state (s : State) (n : Nat) (r : Run) (m : Nat) :
    ((s.addRun n r).seat m).state = (s.seat m).state := by
  rw [addRun_eq]
  set u := (s.noteWork (n / 16) (engineStatus (n / 16) (opcodeOf r.words) r.unit)).takeBack (n / 16)
    (usesUnit (opcodeOf r.words) r.unit) with hu
  have hseats : u.seats = s.seats := rfl
  obtain ⟨w, hw⟩ := refreshWd_seat (u.modSeat n fun q => { q with running := q.running ++ [r] }) n m
  rw [hw]
  by_cases hm : m = n
  · rw [hm, seat_modSeat_same, seat_congr hseats]
  · rw [seat_modSeat_other _ _ hm, seat_congr hseats]

theorem addRun_resetting (s : State) (n : Nat) (r : Run) (p : Nat) : (s.addRun n r).resetting p = s.resetting p := by
  have hpart : ((s.addRun n r).part p).resetting = (s.part p).resetting := by
    rw [addRun_eq]
    set u := s.noteWork (n / 16) (engineStatus (n / 16) (opcodeOf r.words) r.unit) with hu
    obtain ⟨w, hw⟩ := refreshWd_part ((u.takeBack (n / 16) (usesUnit (opcodeOf r.words) r.unit)).modSeat n fun q =>
      { q with running := q.running ++ [r] }) n p
    have hparts : (u.takeBack (n / 16) (usesUnit (opcodeOf r.words) r.unit)).parts = u.parts := rfl
    rw [hw, part_congr (modSeat_parts _ _ _), part_congr hparts, hu, noteWork]
    by_cases hp : p = n / 16
    · rw [hp, part_modPart_same]
    · rw [modPart, part_setPart_other _ _ hp]
  obtain ⟨seats, parts, shakes, h⟩ := addRun_frame s n r
  have hec : (s.addRun n r).ec.retiredHbm = s.ec.retiredHbm := by rw [h]
  rw [resetting, hpart, hec, resetting]

/-- A descriptor that starts and enters its seat. -/
theorem entered_start (n : Nat) (h : Head) (unit : Nat) (r : Run) (hoff : s.traceOff) :
    Entered s ((s.start n h unit).addRun n r) n r := by
  obtain ⟨out, hstart⟩ := start_of_off n h unit hoff
  obtain ⟨w, hrun⟩ := addRun_seat (s.start n h unit) n r
  obtain ⟨seats, parts, shakes, hadd⟩ := addRun_frame (s.start n h unit) n r
  have hseats : (s.start n h unit).seats = (s.modSeat n fun r => { r with head := none }).seats := by rw [hstart]; rfl
  have hparts : (s.start n h unit).parts = s.parts := by rw [hstart]; rfl
  have hec : (s.start n h unit).ec = s.ec := by rw [hstart]; rfl
  refine ⟨?_, fun m => ?_, fun p => ?_, fun o ho => ?_, ?_, ?_, ?_⟩
  · rw [hrun, seat_congr hseats, seat_modSeat_same]
  · rw [addRun_state, seat_congr hseats]
    by_cases hm : m = n
    · rw [hm, seat_modSeat_same]
    · rw [seat_modSeat_other _ _ hm]
  · rw [addRun_resetting, resetting, part_congr hparts, hec, resetting]
  · have hregs : (s.start n h unit).reg o = (s.setReg (seatReg n 0x1C)
        (h.index + BitVec.ofNat 32 (1 + countOf h.words))).reg o := reg_congr (by rw [hstart]; rfl) (by rw [hstart]; rfl) o
    have hvariant : ((s.start n h unit).addRun n r).variant = (s.start n h unit).variant := by rw [hadd]
    rw [reg_congr hvariant (addRun_regs _ _ _), hregs, reg_setReg_other _ _ ho]
  · rw [hadd, hstart]; rfl
  · rw [hadd, hstart]; rfl
  · rw [hadd, hstart]; rfl

/-! What operations on memory read does not change when a descriptor enters its seat. -/

section

variable {n : Nat} {r : Run} (he : Entered s t n r)

include he

theorem Entered.hbmWin (m : Nat) : t.hbmWin m = s.hbmWin m := by
  have hne (o : Nat) (ho : o < 0x10) : ceSeatReg m o ≠ seatReg n 0x1C := by
    simp only [ceSeatReg, ceReg, seatReg, ctReg, partReg]; omega
  simp only [State.hbmWin, regN, he.reg _ (hne 0 (by decide)), he.reg _ (hne 4 (by decide))]

theorem Entered.job (m : Nat) : t.job m = s.job m := by
  have hne : seatReg m 0x3C ≠ seatReg n 0x1C := by simp only [seatReg, ctReg, partReg]; omega
  simp only [State.job, regN, he.reg _ hne]

theorem Entered.shared (m : Nat) : t.reg (ceSeatReg m 8) = s.reg (ceSeatReg m 8) :=
  he.reg _ (by simp only [ceSeatReg, ceReg, seatReg, ctReg, partReg]; omega)

theorem Entered.seatIs (m : Nat) (st : SeatState) : t.seatIs m st = s.seatIs m st := by
  simp only [State.seatIs, he.state]

theorem Entered.hbmOwner (p a : Nat) : t.hbmOwner p a = s.hbmOwner p a := by
  simp only [State.hbmOwner, he.seatIs, he.hbmWin]

theorem Entered.lineGone (k : Nat) (o : LineOp) : t.lineGone k o = s.lineGone k o := by
  simp only [State.lineGone, he.reset, he.hbmOwner, he.seatIs, he.job, he.shared]

theorem Entered.lineOf (p ln : Nat) : t.lineOf p ln = s.lineOf p ln := lineOf_congr he.cache p ln

end

end Sys2Proof.Machine.State
end

section
/-! SUPPORT. Operations on lines of the shared cache: on a hit, on a miss, and when a fill ends (R29, R242, R247). -/

namespace Sys2Proof.Machine

/-- The bytes of an operation's word. -/
def LineOp.len (o : LineOp) : Nat := if o.wide then 8 else 4

theorem LineOp.len_cases (o : LineOp) : o.len = 4 ∨ o.len = 8 := by
  unfold LineOp.len
  split
  · exact .inr rfl
  · exact .inl rfl

/-- The word of an atomic operation before and after it (Table 8-4). -/
def LineOp.old (o : LineOp) (l : CacheLine) : Nat := leNat (l.get o.addr o.len)
def LineOp.new (o : LineOp) (l : CacheLine) : Nat := aopNew (8 * o.len) o.op (o.old l) o.operand o.compare

/-- The line after an atomic operation. -/
def LineOp.after (o : LineOp) (l : CacheLine) : CacheLine :=
  if o.new l = o.old l then l else l.set o.addr (leBytes o.len (o.new l))

/-- An aligned word lies within its line, and the line then holds the word's new value. -/
theorem LineOp.get_after {o : LineOp} {l : CacheLine} (hbytes : l.bytes.length = 128) (halign : o.addr % o.len = 0)
    (hoperand : o.operand < 2 ^ (8 * o.len)) : leNat ((o.after l).get o.addr o.len) = o.new l := by
  have hnew : o.new l < 2 ^ (8 * o.len) := aopNew_lt (l.leNat_get_lt _ _) hoperand
  have hroom : o.addr % 128 + o.len ≤ 128 := by rcases o.len_cases with h | h <;> rw [h] at halign ⊢ <;> omega
  unfold LineOp.after
  split
  · rename_i hsame
    exact hsame.symm
  · have hget := CacheLine.get_set (l := l) (a := o.addr) (bs := leBytes o.len (o.new l))
      (by rw [length_leBytes, hbytes]; exact hroom)
    rw [length_leBytes] at hget
    rw [hget, leNat_leBytes, Nat.mod_eq_of_lt hnew]

namespace State

variable {s t : State} {n : Nat} {idx : Word} {o : LineOp} {l : CacheLine}

/-! Runs in work. -/

theorem modRun_frame (s : State) (n : Nat) (idx : Word) (f : Run → Run) :
    ∃ seats, s.modRun n idx f = { s with seats := seats } := ⟨_, rfl⟩

theorem endRun_frame (s : State) (n : Nat) (idx : Word) (st : Nat) :
    ∃ seats, s.endRun n idx st = { s with seats := seats } := ⟨_, rfl⟩

/-- A run in work with the descriptor `h` stays in work, changed as `f` says. -/
theorem inWork_modRun {h : Head} {r : Run} {f : Run → Run} (hr : r ∈ (s.seat n).running) (hidx : r.index = h.index)
    (hf : (f r).index = h.index ∧ (f r).words = h.words) :
    (s.modRun n h.index f).inWork n h (f r).work (f r).status := by
  refine ⟨f r, ?_, hf.1, hf.2, rfl, rfl⟩
  rw [modRun, seat_modSeat_same]
  exact List.mem_map.2 ⟨r, hr, if_pos hidx⟩

/-! An atomic operation on a line. -/

theorem lineDo_atomic (s : State) (n : Nat) (idx : Word) (hop : o.isHasp = false) (hclean : l.poisonAt o.addr = false) :
    s.lineDo n idx o l =
      (let u := (s.putLine l).csWrite o.result (leBytes 8 (o.old l))
       if o.new l = o.old l then u else u.putLine (l.set o.addr (leBytes o.len (o.new l)))).endRun n idx 0 := by
  simp [lineDo, hclean, hop, lineResult, LineOp.old, LineOp.new, LineOp.len]

/-- On a clean line: RESULT has the old value, the line the new one, and the run's work has ended with SUCCESS. -/
theorem lineDo_atomic_spec (s : State) (n : Nat) (idx : Word) (hop : o.isHasp = false)
    (hclean : l.poisonAt o.addr = false) (hpart : l.part = o.part) (hline : l.line = o.addr / 128) :
    ∃ u : State, s.lineDo n idx o l = u.endRun n idx 0 ∧ u.seats = s.seats ∧ u.holds o.result (leBytes 8 (o.old l)) ∧
      s.storeOnly u o.result 8 ∧ u.lineOf o.part (o.addr / 128) = some (o.after l) := by
  set w := (s.putLine l).csWrite o.result (leBytes 8 (o.old l)) with hw
  have hseats : w.seats = s.seats := by rw [hw, csWrite_seats, putLine_seats]
  have hholds : w.holds o.result (leBytes 8 (o.old l)) := fun i hi => by
    rw [hw, csByte_csWrite_inside _ _ _ hi, List.getD_eq_getElem _ _ hi]
  have honly : s.storeOnly w o.result 8 := fun x hx => by
    rw [hw, csByte_csWrite_outside _ _ _ (by rw [length_leBytes]; exact hx)]
    rfl
  refine ⟨_, lineDo_atomic s n idx hop hclean, ?_⟩
  rw [← hw, LineOp.after]
  by_cases hsame : o.new l = o.old l
  · rw [if_pos hsame, if_pos hsame]
    refine ⟨hseats, hholds, honly, ?_⟩
    rw [lineOf_congr (csWrite_cache _ _ _)]
    exact lineOf_putLine_same s hpart hline
  · rw [if_neg hsame, if_neg hsame]
    exact ⟨hseats, hholds, honly, lineOf_putLine_same w hpart hline⟩

theorem lineStart_of_hit (n : Nat) (idx : Word) (hgone : s.lineGone n o = false)
    (hl : s.lineOf o.part (o.addr / 128) = some l) :
    s.lineStart n idx o = (s.count (csReg 0x20) 1).lineDo n idx o l := by
  simp [lineStart, hgone, hl]

/-- A miss asks for the line's fill, and the run waits for it. -/
theorem lineStart_of_miss (n : Nat) (idx : Word) (hgone : s.lineGone n o = false)
    (hl : s.lineOf o.part (o.addr / 128) = none) :
    ∃ u : State, s.lineStart n idx o = u.modRun n idx (fun r => { r with work := .lineWait o }) ∧ u.seats = s.seats ∧
      u.csMem = s.csMem ∧ (o.part, o.addr / 128) ∈ u.fills := by
  obtain ⟨c, hc, hseats, hmem⟩ : ∃ c, s.count (csReg 0x28) 1 = c ∧ c.seats = s.seats ∧ c.csMem = s.csMem :=
    ⟨_, rfl, count_seats _ _ _, count_csMem _ _ _⟩
  by_cases hf : (o.part, o.addr / 128) ∈ c.fills
  · exact ⟨c, by simp [lineStart, hgone, hl, hc, hf], hseats, hmem, hf⟩
  · exact ⟨{ c with fills := c.fills ++ [(o.part, o.addr / 128)] }, by simp [lineStart, hgone, hl, hc, hf], hseats, hmem,
      List.mem_append_right _ (List.mem_singleton.2 rfl)⟩

theorem wordHeld_congr (hrun : (t.seat n).running = (s.seat n).running) (hcache : t.cache = s.cache) (p a : Nat) :
    t.wordHeld n p a = s.wordHeld n p a := by
  simp only [wordHeld, hrun, lineOf_congr hcache]

/-- An ATOMIC that starts enters its seat and reaches the cache at once, where no earlier operation holds its word. -/
theorem atomicStart_of_canStart {h : Head} {aop : Nat} (hop : isOp 4 31 28 5 h.words = true)
    (haop : wF h.words 5 3 0 = aop)
    (hstart : s.canStart n (s.copyChecks n) (s.guardRegion n (wAddr h.words 13) 8) h) (hoff : s.traceOff)
    (hheld : s.wordHeld n (wF h.words 5 12 8) (wN64 h.words 7) = false) :
    ∃ u r, Entered s u n r ∧ (r.index = h.index ∧ r.words = h.words ∧ r.status = 0) ∧
      s.atomicStart n aop = u.lineStart n h.index (atomicStart.atomicOp h.words) := by
  set r : Run := { newRun h .release 0 with guard := s.guardRegion n (wAddr h.words 13) 8 }
  refine ⟨(s.start n h 0xFF).addRun n r, r, entered_start n h 0xFF r hoff, ⟨rfl, rfl, rfl⟩, ?_⟩
  obtain ⟨out, hframe⟩ := start_of_off n h 0xFF hoff
  have hrun : ((s.start n h 0xFF).seat n).running = (s.seat n).running := by
    have hseats : (s.start n h 0xFF).seats = (s.modSeat n fun r => { r with head := none }).seats := by rw [hframe]; rfl
    rw [seat_congr hseats, seat_modSeat_same]
  have hcache : (s.start n h 0xFF).cache = s.cache := by rw [hframe]; rfl
  have hfree := (wordHeld_congr hrun hcache (wF h.words 5 12 8) (wN64 h.words 7)).trans hheld
  have hmine : (isOp 4 31 28 5 h.words && decide (wF h.words 5 3 0 = aop)) = true := by simp [hop, haop]
  rw [atomicStart, dispatch_of_canStart (mine := fun w => isOp 4 31 28 5 w && decide (wF w 5 3 0 = aop))
    (gf := fun w => s.guardRegion n (wAddr w 13) 8) hstart hmine, hfree]
  rfl

/-! What the descriptor `h` of seat `n`, which has entered its seat with the run `r`, finds in the cache. -/

section

variable {u : State} {h : Head} {r : Run} (he : Entered s u n r)
  (hr : r.index = h.index ∧ r.words = h.words ∧ r.status = 0) (hgone : s.lineGone n o = false)

include he hr hgone

/-- A clean line that the cache holds: the operation is performed. -/
theorem lineStart_hit_spec (hop : o.isHasp = false) (hl : s.lineOf o.part (o.addr / 128) = some l)
    (hclean : l.poisonAt o.addr = false) :
    let t := u.lineStart n h.index o
    t.inWork n h .done 0 ∧ t.holds o.result (leBytes 8 (o.old l)) ∧ s.storeOnly t o.result 8 ∧
      t.lineOf o.part (o.addr / 128) = some (o.after l) := by
  intro t
  obtain ⟨hpart, hline⟩ := lineOf_is hl
  obtain ⟨v, hdo, hseats, hholds, honly, hafter⟩ :=
    lineDo_atomic_spec (u.count (csReg 0x20) 1) n h.index hop hclean hpart hline
  obtain ⟨seats, hend⟩ := endRun_frame v n h.index 0
  have ht : t = v.endRun n h.index 0 :=
    (lineStart_of_hit n h.index ((he.lineGone n o).trans hgone) ((he.lineOf _ _).trans hl)).trans hdo
  have hrun : r ∈ (v.seat n).running := by
    rw [seat_congr hseats, seat_congr (count_seats _ _ _), he.running]
    simp
  rw [ht]
  refine ⟨inWork_modRun hrun hr.1 ⟨hr.1, hr.2.1⟩, ?_, fun x hx => ?_, ?_⟩
  · rw [hend]
    exact hholds
  · rw [hend]
    refine (honly x hx).trans ?_
    rw [csByte, count_csMem, he.csMem, csByte]
  · rw [hend]
    exact hafter

/-- A line that the cache does not hold: the run waits for its fill. -/
theorem lineStart_miss_spec (hl : s.lineOf o.part (o.addr / 128) = none) :
    let t := u.lineStart n h.index o
    t.inWork n h (.lineWait o) 0 ∧ (o.part, o.addr / 128) ∈ t.fills ∧ s.storeSame t := by
  intro t
  obtain ⟨v, ht, hseats, hmem, hfill⟩ :=
    lineStart_of_miss n h.index ((he.lineGone n o).trans hgone) ((he.lineOf _ _).trans hl)
  obtain ⟨seats, hmod⟩ := modRun_frame v n h.index fun r => { r with work := .lineWait o }
  have hrun : r ∈ (v.seat n).running := by
    rw [seat_congr hseats, he.running]
    simp
  have hwait := inWork_modRun (f := fun r => { r with work := .lineWait o }) hrun hr.1 ⟨hr.1, hr.2.1⟩
  rw [hr.2.2] at hwait
  have ht' : t = _ := ht
  rw [ht']
  refine ⟨hwait, ?_, storeSame_of_csMem ?_⟩
  · rw [hmod]
    exact hfill
  · rw [hmod]
    exact hmem.trans he.csMem

end

/-! Operations that wait for a fill. -/

/-- From `s` to `t` the fills that are pending stay, and the cache keeps every line that it held. -/
structure LinesKept (s t : State) : Prop where
  fills : t.fills = s.fills
  lines : ∀ p ln, (s.lineOf p ln).isSome = true → (t.lineOf p ln).isSome = true

theorem LinesKept.refl (s : State) : LinesKept s s := ⟨rfl, fun _ _ h => h⟩

theorem LinesKept.trans {u : State} (h : LinesKept s t) (k : LinesKept t u) : LinesKept s u :=
  ⟨k.fills.trans h.fills, fun p ln hl => k.lines p ln (h.lines p ln hl)⟩

/-- An operation that touches neither the cache nor the fills. -/
theorem LinesKept.same {u : State} (h : LinesKept s t) (hcache : u.cache = t.cache) (hfills : u.fills = t.fills) :
    LinesKept s u :=
  h.trans ⟨hfills, fun p ln hl => by rwa [lineOf_congr hcache]⟩

theorem LinesKept.putLine (h : LinesKept s t) (l : CacheLine) : LinesKept s (t.putLine l) :=
  h.trans ⟨putLine_fills _ _, fun _ _ hl => lineOf_putLine_isSome hl⟩

theorem LinesKept.raise (h : LinesKept s t) (off mask : Nat) : LinesKept s (t.raise off mask) :=
  h.same (raise_cache _ _ _) (raise_fills _ _ _)

theorem LinesKept.endRun (h : LinesKept s t) (n : Nat) (idx : Word) (st : Nat) : LinesKept s (t.endRun n idx st) := by
  obtain ⟨seats, ht⟩ := endRun_frame t n idx st
  exact h.same (by rw [ht]) (by rw [ht])

theorem LinesKept.modRun (h : LinesKept s t) (n : Nat) (idx : Word) (f : Run → Run) : LinesKept s (t.modRun n idx f) := by
  obtain ⟨seats, ht⟩ := modRun_frame t n idx f
  exact h.same (by rw [ht]) (by rw [ht])

theorem LinesKept.lineResult (h : LinesKept s t) (o : LineOp) (v : Nat) : LinesKept s (t.lineResult o v) := by
  unfold State.lineResult
  split
  · exact h
  · exact h.same (csWrite_cache _ _ _) (csWrite_fills _ _ _)

/-- Whatever an operation on a line does, the lines and the fills stay. -/
theorem LinesKept.lineDo (h : LinesKept s t) (n : Nat) (idx : Word) (o : LineOp) (l : CacheLine) :
    LinesKept s (t.lineDo n idx o l) := by
  unfold State.lineDo
  extract_lets u w a u₁ u₂ len old u₃ new
  have hu : LinesKept s u := h.putLine l
  have hu₁ : LinesKept s u₁ := by
    simp only [u₁]
    split
    · exact hu
    · exact hu.putLine _
  have hu₂ : LinesKept s u₂ := by
    simp only [u₂]
    split
    · exact hu₁.same rfl rfl
    · exact hu₁
  split
  · exact (hu.raise _ _).endRun _ _ _
  · split
    · split
      · exact ((hu.lineResult _ _).endRun _ _ _).raise _ _
      · split
        · exact hu₂.modRun _ _ _
        · exact ((hu₂.lineResult _ _).endRun _ _ _).raise _ _
    · refine LinesKept.endRun ?_ _ _ _
      split
      · exact hu.lineResult _ _
      · exact (hu.lineResult _ _).putLine _

theorem LinesKept.targetReset (h : LinesKept s t) (n : Nat) (idx : Word) : LinesKept s (t.targetReset n idx) :=
  ((h.endRun n idx 5).same (modSeat_cache _ _ _) (modSeat_fills _ _ _)).raise _ _

theorem linesKept_lineWake (s : State) (ws : List (Nat × Word × LineOp)) : LinesKept s (s.lineWake ws) := by
  induction ws generalizing s with
  | nil => exact LinesKept.refl s
  | cons w ws ih =>
    refine LinesKept.trans ?_ (ih _)
    dsimp only
    split
    · exact (LinesKept.refl s).targetReset _ _
    · split
      · exact (LinesKept.refl s).lineDo _ _ _ _
      · exact LinesKept.refl s

/-! A fill ends. -/

theorem rowListed_fills (s : State) (k x : Nat) : (s.rowListed k x).fills = s.fills := by
  unfold rowListed
  split
  · rfl
  · rw [raise_fills, modStack_fills]

theorem rowCorrected_fills (s : State) (k x : Nat) : (s.rowCorrected k x).fills = s.fills := by
  unfold rowCorrected
  extract_lets m u
  split
  · rw [rowListed_fills, modStack_fills]
  · rw [modStack_fills]

theorem hbmFetch_fills (s : State) (p sec : Nat) : (s.hbmFetch p sec).2.fills = s.fills := by
  unfold hbmFetch
  extract_lets pl k i row v
  split
  · exact raise_fills _ _ _
  · split
    · rfl
    · exact (rowCorrected_fills _ _ _).trans ((countSat_fills _ _ _).trans (raise_fills _ _ _))
    · have hlisted (u : State) : ((u.raise (hbReg k 0xC) 2).rowListed k row).fills = u.fills :=
        (rowListed_fills _ _ _).trans (raise_fills _ _ _)
      split
      · exact (hlisted _).trans (setHbmSector_fills _ _ _ _)
      · exact (setRegN_fills _ _ _).trans ((hlisted _).trans (setHbmSector_fills _ _ _ _))

theorem writeBack_fills (s : State) (l : CacheLine) : (s.writeBack l).fills = s.fills := by
  unfold writeBack
  split
  · exact foldl_frame State.fills (fun u i => setHbmSector_fills _ _ _ _) _ s
  · rfl

/-- A line that is filled is in the cache, and no other fill is pending. -/
theorem fillLine_spec (s : State) (p ln : Nat) :
    (s.fillLine p ln).fills = s.fills ∧ ((s.fillLine p ln).lineOf p ln).isSome = true := by
  unfold fillLine
  extract_lets u f g v key
  have hu : u.fills = s.fills := by
    simp only [u]
    split
    · exact writeBack_fills _ _
    · rfl
  constructor
  · rw [putLine_fills]
    exact (hbmFetch_fills _ _ _).trans ((hbmFetch_fills _ _ _).trans hu)
  · rw [lineOf_putLine_same v rfl rfl]
    rfl

theorem mayFill_fills (s : State) (fills : List (Nat × Nat)) (p ln : Nat) :
    ({ s with fills := fills } : State).mayFill p ln = s.mayFill p ln := rfl

/-- The end of a pending fill (R29, R242). -/
theorem lineFillComplete_spec {p : PartNo} {ln : Nat} (h : s.fills.contains (p.val, ln) = true) :
    ∃ t, execLineFillComplete p ln s = .next t ∧ t.fills.contains (p.val, ln) = false ∧
      (s.mayFill p.val ln = true → (t.lineOf p.val ln).isSome = true) := by
  set u : State := { s with fills := s.fills.filter fun f => decide (f ≠ (p.val, ln)) } with hu
  set v : State := if u.mayFill p.val ln && (u.lineOf p.val ln).isNone then u.fillLine p.val ln else u with hv
  have hkept := linesKept_lineWake v (v.lineWaiters p.val ln)
  have hfills : v.fills = u.fills := by
    rw [hv]
    split
    · exact (fillLine_spec u p.val ln).1
    · rfl
  refine ⟨v.lineWake (v.lineWaiters p.val ln), ?_, ?_, fun hmay => hkept.lines _ _ ?_⟩
  · rw [execLineFillComplete, if_pos h]
  · rw [hkept.fills, hfills]
    simp [hu]
  · have humay : u.mayFill p.val ln = true := (mayFill_fills s _ p.val ln).trans hmay
    rw [hv, humay]
    cases hline : u.lineOf p.val ln with
    | none => exact (fillLine_spec u p.val ln).2
    | some l => simp [hline]

end State

end Sys2Proof.Machine
end

section
/-! PROOFS. The atomic operations. -/

namespace Sys2Proof.Proofs

open Sys2Proof.Machine

/-- Settles O30: all eleven rows are one dispatch, whose operation reaches the cache at once; the end of a fill leaves the
lines that the cache holds in it (R29, R242, R247). -/
theorem atomicsAct : Obligations.AtomicsAct := by
  constructor
  · intro s n h c aop hc hop haop hstart hoff o len hheld hgone
    have hexec : exec c s = .next (s.atomicStart n.val aop) := by
      rcases hc with ⟨rfl, rfl⟩ | ⟨rfl, rfl⟩ | ⟨rfl, rfl⟩ | ⟨rfl, rfl⟩ | ⟨rfl, rfl⟩ | ⟨rfl, rfl⟩ | ⟨rfl, rfl⟩ |
        ⟨rfl, rfl⟩ | ⟨rfl, rfl⟩ | ⟨rfl, rfl⟩ | ⟨rfl, rfl⟩ <;> rfl
    obtain ⟨u, r, he, hr, hrun⟩ := State.atomicStart_of_canStart hop haop hstart hoff hheld
    have hoperand : o.operand < 2 ^ (8 * o.len) := by
      simp only [o, State.atomicStart.atomicOp, LineOp.len]
      split <;> exact Nat.mod_lt _ (by decide)
    rw [hexec, hrun]
    refine ⟨?_, fun hl => ⟨_, rfl, State.lineStart_miss_spec he hr hgone hl⟩⟩
    intro l hl hclean hbytes halign old
    obtain ⟨hwork, hholds, honly, hline⟩ := State.lineStart_hit_spec he hr hgone rfl hl hclean
    have hnew := LineOp.get_after hbytes halign hoperand
    rw [LineOp.new, show o.op = aop from haop] at hnew
    exact ⟨_, o.after l, rfl, hwork, hholds, honly, hline, hnew⟩
  · exact fun s p ln hpending => State.lineFillComplete_spec hpending

end Sys2Proof.Proofs
end

section
/-! SUPPORT. What a reset and its watchdogs leave of the clock, of EC_FAULT and of the resets that go on. -/

namespace Sys2Proof.Machine

/-- From `s` to `t` the time stays, the log EC_FAULT loses no bit (R21), and the same partitions are under reset. -/
structure Sticky (s t : State) : Prop where
  time : t.time = s.time
  faults : ∀ i, bit (s.reg (ecReg 8)) i = true → bit (t.reg (ecReg 8)) i = true
  resets : ∀ p, (t.part p).resetting = (s.part p).resetting

namespace Sticky

variable {s t u : State}

theorem refl (s : State) : Sticky s s := ⟨rfl, fun _ h => h, fun _ => rfl⟩

theorem trans (h : Sticky s t) (k : Sticky t u) : Sticky s u :=
  ⟨k.time.trans h.time, fun i hi => k.faults i (h.faults i hi), fun p => (k.resets p).trans (h.resets p)⟩

theorem of_eq (htime : t.time = s.time) (hparts : t.parts = s.parts) (hreg : t.reg (ecReg 8) = s.reg (ecReg 8)) :
    Sticky s t :=
  ⟨htime, fun i h => by rw [hreg]; exact h, fun p => by rw [State.part_congr hparts]⟩

theorem ite {c : Prop} [Decidable c] {a b : State} (h : Sticky s a) (k : Sticky s b) :
    Sticky s (if c then a else b) := by
  split
  · exact h
  · exact k

theorem fold {α : Type} {f : State → α → State} (h : ∀ u x, Sticky u (f u x)) (l : List α) (s : State) :
    Sticky s (l.foldl f s) := by
  induction l generalizing s with
  | nil => exact refl s
  | cons x l ih => exact (h s x).trans (ih _)

/-- An update of other fields. -/
theorem set {launches : List Launch} {fills : List (Nat × Nat)} {heldCreates : List Nat} {posted : List Posted}
    {hostReads : List HostRead} {ec : ErrorControl} {rec_ : Recorder} {fn : FieldNet} {free : Nat} (h : Sticky s t) :
    Sticky s { t with launches := launches, fills := fills, heldCreates := heldCreates, posted := posted,
                      hostReads := hostReads, ec := ec, rec_ := rec_, fn := fn, free := free } :=
  h.trans (of_eq rfl rfl rfl)

/-! Registers. -/

theorem setReg {off : Nat} (v : Word) (h : ecReg 8 ≠ off) : Sticky s (s.setReg off v) :=
  of_eq rfl rfl (State.reg_setReg_other (s := s) v h)

theorem status {off : Nat} (i : Nat) (b : Bool) (h : ecReg 8 ≠ off) : Sticky s (s.status off i b) := setReg _ h

/-- A log bit that is set leaves every other as it is. -/
theorem raise (s : State) (off mask : Nat) : Sticky s (s.raise off mask) := by
  by_cases h : ecReg 8 = off
  · refine ⟨rfl, fun i hi => ?_, fun p => rfl⟩
    rw [← h, State.reg_raise_same]
    simp only [bit, BitVec.getLsbD_or] at hi ⊢
    rw [hi, Bool.true_or]
  · exact setReg _ h

/-! Records of the state. -/

theorem modSeat (s : State) (n : Nat) (f : SeatRec → SeatRec) : Sticky s (s.modSeat n f) := of_eq rfl rfl rfl
theorem modArr (s : State) (p a : Nat) (f : ArrRec → ArrRec) : Sticky s (s.modArr p a f) := of_eq rfl rfl rfl
theorem freeArray (s : State) (p a : Nat) : Sticky s (s.freeArray p a) := of_eq rfl rfl rfl
theorem modPort (s : State) (n : Nat) (f : PortRec → PortRec) : Sticky s (s.modPort n f) := of_eq rfl rfl rfl
theorem modStack (s : State) (k : Nat) (f : StackRec → StackRec) : Sticky s (s.modStack k f) := of_eq rfl rfl rfl
theorem bumpObj (s : State) (i j n : Nat) : Sticky s (s.bumpObj i j n) := of_eq rfl rfl rfl
theorem setObj (s : State) (i j v : Nat) : Sticky s (s.setObj i j v) := of_eq rfl rfl rfl
theorem emit (s : State) (e : Emission) : Sticky s (s.emit e) := of_eq rfl rfl rfl
theorem csWrite (s : State) (a : Nat) (bs : List Byte) : Sticky s (s.csWrite a bs) := of_eq rfl rfl rfl
theorem csClear (s : State) (a n : Nat) : Sticky s (s.csClear a n) := of_eq rfl rfl rfl
theorem dropLines (s : State) (d : CacheLine → Bool) : Sticky s (s.dropLines d) := of_eq rfl rfl rfl
theorem haspDue (s : State) (b : Bool) (f : LineOp → Bool) : Sticky s (s.haspDue b f) := of_eq rfl rfl rfl
theorem takeBack (s : State) (p : Nat) (f : ShakeUnit → Bool) : Sticky s (s.takeBack p f) := of_eq rfl rfl rfl

/-- A partition's record changes, but not whether it is under reset. -/
theorem modPart (s : State) (p : Nat) (f : PartRec → PartRec) (h : ∀ r, (f r).resetting = r.resetting) :
    Sticky s (s.modPart p f) := by
  refine ⟨rfl, fun i hi => hi, fun q => ?_⟩
  by_cases hq : q = p
  · rw [hq, State.part_modPart_same, h]
  · rw [State.modPart, State.part_setPart_other _ _ hq]

theorem refreshWd (s : State) (n : Nat) : Sticky s (s.refreshWd n) := by
  refine ⟨rfl, fun i hi => hi, fun p => ?_⟩
  obtain ⟨w, hw⟩ := State.refreshWd_part s n p
  rw [hw]

/-! Records that the device writes (R70, R474). -/

theorem trace (s : State) (n tag opcode event st unit : Nat) : Sticky s (s.trace n tag opcode event st unit) := by
  unfold State.trace
  split
  · exact refl s
  · extract_lets u ctrl size dev bs
    have hu : Sticky s u := by
      unfold u
      split
      · exact emit s _
      · exact refl s
    refine hu.trans (ite (ite (bumpObj _ _ _ _) ?_) (refl _))
    exact (csWrite _ _ _).trans (setReg _ (by decide))

theorem indexEntry (s : State) (step first count flags : Nat) (digest : List Byte) :
    Sticky s (s.indexEntry step first count flags digest) := (refl s).set

theorem draw (h : Sticky s t) : Sticky s t.draw := h.set

theorem recorderLost (s : State) : Sticky s s.recorderLost := by
  unfold State.recorderLost
  split
  · exact (refl s).set
  · exact (ite (refl s) (draw (indexEntry s _ _ _ _ _))).set.trans (raise _ _ _)

theorem msix (s : State) (v : Nat) : Sticky s (s.msix v) := by
  have hreg : ecReg 8 ≠ msixReg (0x8000 + v / 32 * 4) := by simp only [ecReg, msixReg]; omega
  refine of_eq ?_ ?_ (State.reg_msix_other s v hreg) <;> rw [State.msix_frame]

theorem signalEc (s : State) : Sticky s s.signalEc := by
  unfold State.signalEc
  exact ite (refl s).set ((refl s).set.trans (msix _ _))

theorem gatherAlarm (s : State) (o : Nat) (b : Word) : Sticky s (s.gatherAlarm o b) := by
  unfold State.gatherAlarm
  exact ite (refl s).set (refl s)

theorem raiseEc (s : State) (o mask : Nat) : Sticky s (s.raiseEc o mask) := by
  by_cases h : s.reg (ecReg o) ||| BitVec.ofNat 32 mask = s.reg (ecReg o)
  · rw [State.raiseEc_of_set h]
    exact refl s
  · rw [State.raiseEc_of_new h]
    exact ((raise s _ _).trans (gatherAlarm _ _ _)).trans (signalEc _)

theorem queueCtrlAll (s : State) (ports : List Nat) (body : List Byte) : Sticky s (s.queueCtrlAll ports body) :=
  fold (fun u _ => modPort u _ _) ports s

theorem originate (s : State) (j cause n : Nat) : Sticky s (s.originate j cause n) := by
  unfold State.originate
  refine ite (refl s) ?_
  exact (((refl s).set.trans (queueCtrlAll _ _ _)).trans (raiseEc _ _ _)).trans (bumpObj _ _ _ _)

theorem tdiError (s : State) (n : Nat) : Sticky s (s.tdiError n) := by
  unfold State.tdiError
  exact ite ((modSeat s _ _).trans (raise _ _ _)) (refl s)

theorem traceLost (s : State) (n : Nat) : Sticky s (s.traceLost n) := by
  unfold State.traceLost
  exact ite ((status 0 false (by decide)).trans (raise _ _ _)) (refl s)

/-! What a seat has outstanding (R68, R404). -/

theorem dropCells (s : State) (n : Nat) : Sticky s (s.dropCells n) := by
  unfold State.dropCells
  exact (fold (fun u _ => modPort u _ _) _ s).set

theorem voidSeat (s : State) (n : Nat) (hard : Bool) : Sticky s (s.voidSeat n hard) := by
  unfold State.voidSeat
  refine trans ?_ (refreshWd _ _)
  refine trans ?_ (modSeat _ _ _)
  refine (trans ?_ (dropCells _ _)).set
  refine trans (fold (fun u r => ?_) _ s) (ite (fold (fun u a => ?_) _ _) (refl _))
  · exact ite (refl u) (trace u _ _ _ _ _ _)
  · exact ite (freeArray u _ a) (refl u)

theorem clearSlots (s : State) (p : Nat) (sel : Nat → Bool) : Sticky s (s.clearSlots p sel) :=
  fold (fun u a => modArr u p a _) _ s

theorem shortfall (s : State) (k : Nat) : Sticky s (s.shortfall k) := by
  unfold State.shortfall
  refine trans (fold (fun u p => ?_) _ s) (status _ _ (by simp only [ecReg, hbReg]; omega))
  split
  · exact ite ((modStack u _ _).trans (raise _ _ _)) (refl u)
  · exact ite (refl u) ((modStack u _ _).trans (bumpObj _ _ _ _))

theorem reserve (s : State) (n v : Nat) : Sticky s (s.reserve n v) :=
  (setObj s _ _ _).trans (fold shortfall _ _)

/-! The start of a partition reset (R407, R425). -/

theorem captureCause (s : State) (p : Nat) (c : ResetCause) : Sticky s (s.captureCause p c) := by
  unfold State.captureCause
  exact ite (setReg _ (by simp only [ecReg]; omega)) (refl s)

theorem abortCommand (s : State) (p : Nat) : Sticky s (s.abortCommand p) := by
  unfold State.abortCommand
  exact ite ((refl s).set.trans (setReg _ (by simp only [ecReg, ctReg, partReg]; omega))) (refl s)

theorem endTargetReset (s : State) (p : Nat) : Sticky s (s.endTargetReset p) := by
  refine fold (fun u n => ?_) _ s
  exact ite (refl u) (ite ((modSeat u _ _).trans (raise _ _ _)) (ite (modSeat u _ _) (refl u)))

/-- What the reset does to a seat of the partition: its window is cleared, its ward key dropped (R407). -/
theorem seatCleared (s : State) (n : Nat) : Sticky s
    (((s.csClear (s.csWin n).1 ((s.csWin n).2 - (s.csWin n).1)).modSeat n fun r => { r with wardKey := none }).reserve n 0) :=
  ((csClear s _ _).trans (modSeat _ _ _)).trans (reserve _ _ _)

end Sticky

/-- A partition that is not under reset and not waking begins its reset (R395, R407, R490). -/
theorem State.startPartReset_spec {s : State} {p : Nat} (c : ResetCause) (hp : partPresent s.variant p = true)
    (hidle : (s.part p).resetting = none) (hwake : (s.part p).wakeAt = none) :
    ∃ r, ((s.startPartReset p c).part p).resetting = some r ∧ r.cause = c ∧ (s.startPartReset p c).time = s.time ∧
      ∀ i, bit (s.reg (ecReg 8)) i = true → bit ((s.startPartReset p c).reg (ecReg 8)) i = true := by
  unfold State.startPartReset
  rw [if_neg (by simp [hp, hidle]), if_neg (by simp [hwake])]
  extract_lets seats jobs s1 s2 s3 s4 s5 s6 s7 s8 s9 s10
  have h1 : Sticky s s1 :=
    ((Sticky.captureCause s p c).trans (Sticky.takeBack _ p _)).trans (Sticky.abortCommand _ p)
  have h2 : Sticky s1 s2 := Sticky.ite (Sticky.recorderLost _) (Sticky.refl _)
  have h3 : Sticky s2 s3 := Sticky.fold (fun u n => (Sticky.voidSeat u n true).trans (Sticky.tdiError _ n)) _ _
  have hbegun : (s4.part p).resetting = some { cause := c, start := s3.uptime, jobs := jobs } :=
    congrArg PartRec.resetting (State.part_modPart_same (s := s3) p _)
  have h5 : Sticky s4 s5 := Sticky.fold (fun u j => Sticky.originate u j _ _) _ _
  have h6 : Sticky s5 s6 := Sticky.clearSlots _ _ _
  have h7 : Sticky s6 s7 := Sticky.dropLines _ _
  have h8 : Sticky s7 s8 := (Sticky.refl _).set
  have h9 : Sticky s8 s9 := (Sticky.endTargetReset _ p).trans (Sticky.haspDue _ _ _)
  have h10 : Sticky s9 s10 := Sticky.fold Sticky.seatCleared _ _
  have hbefore : Sticky s s3 := (h1.trans h2).trans h3
  have hafter := ((((((h5.trans h6).trans h7).trans h8).trans h9).trans h10).trans (Sticky.traceLost s10
    ((seats.find? fun n => decide (s10.regField (mgReg 0x110) 24 16 = n)).getD 512)))
  refine ⟨_, (hafter.resets p).trans hbegun, rfl, hafter.time.trans hbefore.time, fun i hi => ?_⟩
  exact hafter.faults i (hbefore.faults i hi)

end Sys2Proof.Machine
end

section
/-! SUPPORT. The watchdogs of seats, of what they drain, and of partitions (R44, R403 to R405). -/

namespace Sys2Proof.Machine

namespace State

variable {s : State}

/-! Time that passes leaves the records alone. -/

@[simp] theorem reach_seats (s : State) (t : Nat) : (s.reach t).seats = s.seats := by rw [reach_frame]
@[simp] theorem reach_parts (s : State) (t : Nat) : (s.reach t).parts = s.parts := by rw [reach_frame]
@[simp] theorem reach_regs (s : State) (t : Nat) : (s.reach t).regs = s.regs := by rw [reach_frame]
@[simp] theorem reach_variant (s : State) (t : Nat) : (s.reach t).variant = s.variant := by rw [reach_frame]
@[simp] theorem reach_ec (s : State) (t : Nat) : (s.reach t).ec = s.ec := by rw [reach_frame]

theorem now_congr {t : State} (h : t.time = s.time) : t.now = s.now := by rw [now, h, now]

/-! EC_FAULT and the forfeits (R396, R410). -/

theorem gatherAlarm_frame (s : State) (o : Nat) (bits : Word) : ∃ fn, s.gatherAlarm o bits = { s with fn := fn } := by
  unfold gatherAlarm
  split
  · exact ⟨_, rfl⟩
  · exact ⟨s.fn, rfl⟩

theorem signalEc_frame (s : State) : ∃ regs bad ec out, s.signalEc =
    { s with regs := regs, badParity := bad, ec := ec, out := out } ∧ ec.forfeits = s.ec.forfeits := by
  unfold signalEc
  split
  · exact ⟨s.regs, s.badParity, _, s.out, rfl, rfl⟩
  · rw [msix_frame]
    exact ⟨_, _, _, _, rfl, rfl⟩

theorem raiseEc_frame (s : State) (o mask : Nat) : ∃ regs bad fn ec out, s.raiseEc o mask =
    { s with regs := regs, badParity := bad, fn := fn, ec := ec, out := out } ∧ ec.forfeits = s.ec.forfeits := by
  by_cases hset : s.reg (ecReg o) ||| BitVec.ofNat 32 mask = s.reg (ecReg o)
  · rw [raiseEc_of_set hset]
    exact ⟨s.regs, s.badParity, s.fn, s.ec, s.out, rfl, rfl⟩
  · obtain ⟨fn, halarm⟩ := gatherAlarm_frame (s.raise (ecReg o) mask) o
      ((s.reg (ecReg o) ||| BitVec.ofNat 32 mask) &&& ~~~ s.reg (ecReg o))
    obtain ⟨regs, bad, ec, out, hsignal, hforfeits⟩ := signalEc_frame ({ s.raise (ecReg o) mask with fn := fn })
    rw [raiseEc_of_new hset, halarm, hsignal]
    exact ⟨regs, bad, fn, ec, out, rfl, hforfeits⟩

theorem job_congr {t : State} {n : Nat} (h : t.reg (seatReg n 0x3C) = s.reg (seatReg n 0x3C)) : t.job n = s.job n := by
  rw [job, regN, h, job, regN]

theorem raiseEc_seats (s : State) (o mask : Nat) : (s.raiseEc o mask).seats = s.seats := by
  obtain ⟨regs, bad, fn, ec, out, h, hforfeits⟩ := raiseEc_frame s o mask
  rw [h]

theorem bit_logFault (s : State) {mask i : Nat} (hbit : bit (BitVec.ofNat 32 mask) i = true) :
    bit ((s.logFault mask).reg (ecReg 8)) i = true := by
  rw [logFault, reg_raiseEc_same s _ (by decide)]
  simp only [bit, BitVec.getLsbD_or] at hbit ⊢
  rw [hbit, Bool.or_true]

theorem queueCtrlAll_frame (s : State) (ports : List Nat) (body : List Byte) :
    (s.queueCtrlAll ports body).seats = s.seats ∧ (s.queueCtrlAll ports body).ec = s.ec :=
  ⟨foldl_frame State.seats (fun u p => modPort_seats u p _) ports s,
    foldl_frame State.ec (fun u p => modPort_ec u p _) ports s⟩

theorem originate_seats (s : State) (j cause n : Nat) : (s.originate j cause n).seats = s.seats := by
  unfold originate
  split
  · rfl
  · rw [bumpObj_seats, logFault, raiseEc_seats, (queueCtrlAll_frame _ _ _).1]

/-- A job that is not forfeited yet is, with the cause given (R410). -/
theorem originate_of_new {j : Nat} (cause n : Nat) (hj : j ≠ 0) (hnew : s.forfeitKnown j = false) :
    ∃ f ∈ (s.originate j cause n).ec.forfeits, f.job = j ∧ f.cause = cause := by
  unfold originate
  rw [if_neg (by simp [hj, hnew])]
  extract_lets effect tag me body f seen ec₀ u
  obtain ⟨regs, bad, fn, ec, out, h, hforfeits⟩ := raiseEc_frame (u.queueCtrlAll u.upPorts body) 8 0x80
  refine ⟨f, ?_, rfl, rfl⟩
  rw [bumpObj_ec, logFault, h, hforfeits, (queueCtrlAll_frame _ _ _).2]
  exact List.mem_append_right _ (List.mem_singleton_self f)

/-! The seat of a watchdog that fires (R68, R404). -/

theorem trace_kept (s : State) (n tag opcode event st unit : Nat) :
    (s.trace n tag opcode event st unit).seats = s.seats ∧ (s.trace n tag opcode event st unit).ec = s.ec ∧
      ∀ r, r ≠ mgReg 0x118 → (s.trace n tag opcode event st unit).reg r = s.reg r := by
  unfold trace
  split
  · exact ⟨rfl, rfl, fun _ _ => rfl⟩
  · extract_lets u ctrl size dev bs
    have hu : u.seats = s.seats ∧ u.ec = s.ec ∧ ∀ r, u.reg r = s.reg r := by
      unfold u
      split <;> exact ⟨rfl, rfl, fun _ => rfl⟩
    clear_value u
    obtain ⟨hseats, hec, hreg⟩ := hu
    split
    · split
      · rw [bumpObj_seats, bumpObj_ec]
        exact ⟨hseats, hec, fun r _ => (reg_congr (bumpObj_variant _ _ _ _) (bumpObj_regs _ _ _ _) r).trans (hreg r)⟩
      · rw [setReg_seats, setReg_ec, csWrite_seats, csWrite_ec]
        refine ⟨hseats, hec, fun r hr => ?_⟩
        rw [reg_setReg_other _ _ hr, reg_congr (csWrite_variant _ _ _) (csWrite_regs _ _ _), hreg]
    · exact ⟨hseats, hec, fun r _ => hreg r⟩

/-- What the trace of a voided descriptor leaves alone, of a whole seat. -/
theorem traceVoid_kept (s : State) (n : Nat) (runs : List Run) :
    let t := runs.foldl (fun u r => if r.void then u else u.trace n (tagOf r.words) (opcodeOf r.words) 4 0 r.unit) s
    t.seats = s.seats ∧ t.ec = s.ec ∧ ∀ r, r ≠ mgReg 0x118 → t.reg r = s.reg r := by
  refine ⟨foldl_frame State.seats (fun u q => ?_) _ _, foldl_frame State.ec (fun u q => ?_) _ _,
    fun r hr => foldl_frame (fun u => u.reg r) (fun u q => ?_) _ _⟩ <;> split
  · rfl
  · exact (trace_kept _ _ _ _ _ _ _).1
  · rfl
  · exact (trace_kept _ _ _ _ _ _ _).2.1
  · rfl
  · exact (trace_kept _ _ _ _ _ _ _).2.2 r hr

theorem modPorts_frame (f : Nat → PortRec → PortRec) (l : List Nat) (s : State) :
    ∃ ports, l.foldl (fun u p => u.modPort p (f p)) s = { s with ports := ports } := by
  induction l generalizing s with
  | nil => exact ⟨s.ports, rfl⟩
  | cons p l ih =>
    obtain ⟨ports, h⟩ := ih (s.modPort p (f p))
    exact ⟨ports, by rw [List.foldl_cons, h]; rfl⟩

theorem dropCells_frame (s : State) (n : Nat) :
    ∃ ports posted, s.dropCells n = { s with ports := ports, posted := posted } := by
  unfold dropCells
  extract_lets runs half mine u
  obtain ⟨ports, h⟩ := modPorts_frame _ s.portList s
  have hu : u = { s with ports := ports } := h
  rw [hu]
  exact ⟨_, _, rfl⟩

/-- A seat that is not ACTIVE has no watchdog (R403). -/
theorem refreshWd_seat_of_not_active {n : Nat} (h : (s.seat n).state ≠ .active) :
    (s.refreshWd n).seat n = { s.seat n with wdStart := none } := by
  have hidle : (s.seatIs n .active && s.pendingWork n) = false := by simp [seatIs, h]
  unfold refreshWd
  rw [hidle, seat_congr (modPart_seats _ _ _), seat_modSeat_same]
  rfl

/-- What is outstanding of a seat that is not ACTIVE goes (R68): only its tiles in the cells stay, void. -/
theorem voidSeat_spec {n : Nat} (h : (s.seat n).state ≠ .active) :
    ((s.voidSeat n false).seat n).state = (s.seat n).state ∧ ((s.voidSeat n false).seat n).head = none ∧
      (∀ r ∈ ((s.voidSeat n false).seat n).running, r.void = true) ∧ ((s.voidSeat n false).seat n).wdStart = none ∧
      (s.voidSeat n false).ec = s.ec ∧ ∀ r, r ≠ mgReg 0x118 → (s.voidSeat n false).reg r = s.reg r := by
  unfold voidSeat
  extract_lets runs keep s1 s2 reads launches s3 s4 s5
  obtain ⟨hseats, hec, hreg⟩ := traceVoid_kept s n runs
  have h2 : s2 = s1 := if_neg (by decide)
  obtain ⟨ports, posted, h3⟩ := dropCells_frame s2 n
  obtain ⟨hseats4, hec4, hreg4⟩ : s4.seats = s2.seats ∧ s4.ec = s2.ec ∧ ∀ r, s4.reg r = s2.reg r := by
    unfold s4 s3
    rw [h3]
    exact ⟨rfl, rfl, fun _ => rfl⟩
  have hseat : s5.seat n = { s.seat n with head := none, running := keep, heldBells := [], cqHeld := none } := by
    unfold s5
    rw [seat_modSeat_same, seat_congr hseats4, h2, seat_congr hseats]
  have hstate : (s5.seat n).state ≠ .active := by rw [hseat]; exact h
  rw [refreshWd_seat_of_not_active hstate, hseat]
  refine ⟨rfl, rfl, ?_, rfl, ?_, fun r hr => ?_⟩
  · intro r hr
    obtain ⟨q, -, rfl⟩ := List.mem_map.mp hr
    rfl
  · rw [refreshWd_ec]
    unfold s5
    rw [modSeat_ec, hec4, h2]
    exact hec
  · rw [reg_congr (refreshWd_variant _ _) (refreshWd_regs _ _)]
    unfold s5
    rw [reg_congr (modSeat_variant _ _ _) (modSeat_regs _ _ _), hreg4, h2]
    exact hreg r hr

end State

namespace Sticky

theorem signalSeat (s : State) (n : Nat) : Sticky s (s.signalSeat n) := by
  unfold State.signalSeat
  exact ite (modSeat s _ _) ((modSeat s _ _).trans (msix _ _))

theorem errorRecord (s : State) (n tag cause kind hall ns : Nat) :
    Sticky s (s.errorRecord n tag cause kind hall ns) := by
  unfold State.errorRecord
  refine ite (raise s _ _) (((csWrite s _ _).trans (setReg _ ?_)).trans (signalSeat _ _))
  simp only [ecReg, seatReg, ctReg, partReg]
  omega

theorem toState (s : State) (n : Nat) (st : SeatState) : Sticky s (s.toState n st) := by
  unfold State.toState
  refine ite (refl s) (((?_ : Sticky s _).trans (signalSeat _ _)).trans (refreshWd _ _))
  exact ite (((modSeat s _ _).trans (tdiError _ _)).trans (traceLost _ _)) (modSeat s _ _)

end Sticky

namespace State

variable {s : State}

/-! The seat watchdog (R403, R404). -/

/-- An error record leaves the partitions' other registers and what EC_ has of forfeits. -/
theorem errorRecord_kept {n : Nat} (s : State) (tag cause kind hall ns : Nat) (hn : n < 512) :
    (s.errorRecord n tag cause kind hall ns).job n = s.job n ∧ (s.errorRecord n tag cause kind hall ns).ec = s.ec := by
  have hlog : seatReg n 0x3C ≠ seatReg n 0x64 := by simp only [seatReg, ctReg, partReg]; omega
  have hprod : seatReg n 0x3C ≠ seatReg n 0x34 := by simp only [seatReg, ctReg, partReg]; omega
  have hpart : 0x2000000 ≤ seatReg n 0x3C := by simp only [seatReg, ctReg, partReg]; omega
  unfold errorRecord job regN
  split
  · exact ⟨congrArg BitVec.toNat (reg_raise_other _ _ hlog), rfl⟩
  · rw [reg_signalSeat _ hn hpart, reg_setReg_other _ _ hprod, signalSeat_frame, setReg_ec, csWrite_ec]
    exact ⟨rfl, rfl⟩

theorem job_toState {n : Nat} (s : State) (st : SeatState) (hn : n < 512) : (s.toState n st).job n = s.job n := by
  unfold job regN
  rw [reg_toState s st hn (by simp only [seatReg, ctReg, partReg]; omega)]

/-- What the seat watchdog makes of its seat: an error record, and the seat FAULTED with everything outstanding void. -/
def stalled (s : State) (n : Nat) : State :=
  ((s.errorRecord n (s.oldestTag n) 1 3 s.hallIndex s.now).toState n .faulted).voidSeat n false

/-- The drain's limit, the log and the forfeit of the job. -/
def stallLogged (s : State) (n : Nat) : State :=
  let v := s.modSeat n fun r => { r with drainDue := some (s.now + 100000000) }
  (v.logFault 1).originate (v.job n) 2 n

theorem seatStall_of_due {n since : Nat} (hcore : s.coreOn = true) (hwd : (s.seat n).wdStart = some since)
    (hactive : (s.seat n).state = .active) (hreset : s.resetting (n / 16) = false) :
    s.seatStall n = ((s.reach (since + s.regField (ecReg 0x14) 15 0 * 1000000)).stalled n).stallLogged n := by
  have hgo : ¬ (!s.coreOn || !s.seatIs n .active || s.resetting (n / 16)) = true := by
    simp [hcore, seatIs, hactive, hreset]
  unfold seatStall
  rw [hwd]
  dsimp only
  rw [if_neg hgo]
  rfl

theorem sticky_stallLogged (s : State) (n : Nat) : Sticky s (s.stallLogged n) :=
  ((Sticky.modSeat s _ _).trans (Sticky.raiseEc _ _ _)).trans (Sticky.originate _ _ _ _)

theorem stallLogged_spec (s : State) (n : Nat) :
    ((s.stallLogged n).seat n).state = (s.seat n).state ∧ ((s.stallLogged n).seat n).head = (s.seat n).head ∧
      ((s.stallLogged n).seat n).running = (s.seat n).running ∧
      ((s.stallLogged n).seat n).wdStart = (s.seat n).wdStart ∧
      ((s.stallLogged n).seat n).drainDue = some (s.now + 100000000) ∧
      bit ((s.stallLogged n).reg (ecReg 8)) 0 = true ∧
      (s.job n ≠ 0 → s.forfeitKnown (s.job n) = false →
        ∃ f ∈ (s.stallLogged n).ec.forfeits, f.job = s.job n ∧ f.cause = 2) := by
  unfold stallLogged
  extract_lets v
  have hjob : v.job n = s.job n := rfl
  obtain ⟨regs, bad, fn, ec, out, hlog, hforfeits⟩ := raiseEc_frame v 8 1
  have hseat : ((v.logFault 1).originate (v.job n) 2 n).seat n =
      { s.seat n with drainDue := some (s.now + 100000000) } := by
    rw [seat_congr (originate_seats _ _ _ _), logFault, seat_congr (raiseEc_seats _ _ _)]
    exact seat_modSeat_same _ _ _
  rw [hseat]
  refine ⟨rfl, rfl, rfl, rfl, rfl, ?_, fun hj hnew => ?_⟩
  · exact (Sticky.originate _ _ _ _).faults 0 (bit_logFault v (by decide))
  · rw [hjob]
    refine originate_of_new 2 n hj ?_
    rw [logFault, hlog, forfeitKnown, hforfeits]
    exact hnew

theorem sticky_stalled (s : State) (n : Nat) : Sticky s (s.stalled n) :=
  ((Sticky.errorRecord s _ _ _ _ _ _).trans (Sticky.toState _ _ _)).trans (Sticky.voidSeat _ _ _)

theorem stalled_spec {n : Nat} (s : State) (hn : n < 512) :
    ((s.stalled n).seat n).state = .faulted ∧ ((s.stalled n).seat n).head = none ∧
      (∀ r ∈ ((s.stalled n).seat n).running, r.void = true) ∧ ((s.stalled n).seat n).wdStart = none ∧
      (s.stalled n).ec = s.ec ∧ (s.stalled n).job n = s.job n := by
  obtain ⟨hjob, hec⟩ := errorRecord_kept s (s.oldestTag n) 1 3 s.hallIndex s.now hn
  obtain ⟨d, q, e, w, hseat⟩ := toState_seat (s.errorRecord n (s.oldestTag n) 1 3 s.hallIndex s.now) n .faulted
  have hec' : ((s.errorRecord n (s.oldestTag n) 1 3 s.hallIndex s.now).toState n .faulted).ec = s.ec := by
    rw [toState_frame, hec]
  obtain ⟨hstate, hhead, hvoid, hwd, hecVoid, hreg⟩ := voidSeat_spec (n := n)
    (s := (s.errorRecord n (s.oldestTag n) 1 3 s.hallIndex s.now).toState n .faulted) (by rw [hseat]; simp)
  have hne : seatReg n 0x3C ≠ mgReg 0x118 := by simp only [seatReg, ctReg, partReg, mgReg]; omega
  refine ⟨hstate.trans (by rw [hseat]), hhead, hvoid, hwd, hecVoid.trans hec', ?_⟩
  exact (job_congr (hreg _ hne)).trans ((job_toState _ _ hn).trans hjob)

/-- What a seat watchdog that fires leaves. -/
theorem stallEnd_spec {n : Nat} {s u t : State} (hn : n < 512) (hu : u = s.stalled n) (ht : t = u.stallLogged n) :
    (t.seat n).state = .faulted ∧ (t.seat n).head = none ∧ (∀ r ∈ (t.seat n).running, r.void = true) ∧
      (t.seat n).wdStart = none ∧ (t.seat n).drainDue = some (t.now + 100000000) ∧ t.now = s.now ∧
      bit (t.reg (ecReg 8)) 0 = true ∧
      (s.job n ≠ 0 → s.forfeitKnown (s.job n) = false → ∃ f ∈ t.ec.forfeits, f.job = s.job n ∧ f.cause = 2) := by
  obtain ⟨hstate, hhead, hvoid, hwd, hec, hjob⟩ := stalled_spec s hn
  obtain ⟨hstate', hhead', hruns, hwd', hdrain, hlog, hforfeit⟩ := stallLogged_spec u n
  have hstalled : u.now = s.now := now_congr (hu ▸ (sticky_stalled s n).time)
  have hlogged : t.now = u.now := now_congr (ht ▸ (sticky_stallLogged u n).time)
  rw [← hu] at hstate hhead hvoid hwd hec hjob
  rw [← ht] at hstate' hhead' hruns hwd' hdrain hlog hforfeit
  have hknown : u.forfeitKnown (s.job n) = s.forfeitKnown (s.job n) := by rw [forfeitKnown, hec, forfeitKnown]
  rw [hjob, hknown] at hforfeit
  rw [hruns, hlogged]
  exact ⟨hstate'.trans hstate, hhead'.trans hhead, hvoid, hwd'.trans hwd, hdrain, hstalled, hlog, hforfeit⟩

/-! The resets that watchdogs cause (R404, R405). -/

theorem resetting_none {p : Nat} (h : s.resetting p = false) : (s.part p).resetting = none := by
  have := (Bool.or_eq_false_iff.mp h).1
  simpa using this

/-- A watchdog logs its cause in EC_FAULT and resets the partition. -/
theorem watchdog_resets {p : Nat} (s : State) (mask : Nat) (c : ResetCause) (hp : partPresent s.variant p = true)
    (hidle : (s.part p).resetting = none) (hwake : (s.part p).wakeAt = none) :
    ∃ r, ((((s.logFault mask).startPartReset p c).part p).resetting = some r ∧ r.cause = c ∧
      ((s.logFault mask).startPartReset p c).time = s.time ∧ ∀ i, bit (BitVec.ofNat 32 mask) i = true →
        bit (((s.logFault mask).startPartReset p c).reg (ecReg 8)) i = true) := by
  obtain ⟨regs, bad, fn, ec, out, hframe, -⟩ := raiseEc_frame s 8 mask
  have hparts : (s.logFault mask).part p = s.part p := part_congr (by rw [logFault, hframe]) p
  obtain ⟨r, hr, hcause, htime, hfaults⟩ := startPartReset_spec (s := s.logFault mask) c
    (by rw [logFault, hframe]; exact hp) (hparts ▸ hidle) (hparts ▸ hwake)
  refine ⟨r, hr, hcause, htime.trans (Sticky.raiseEc s 8 mask).time, fun i hi => hfaults i (bit_logFault s hi)⟩

theorem seatDrain_of_idle {n due : Nat} (hcore : s.coreOn = true) (hdrain : (s.seat n).drainDue = some due)
    (hreset : s.resetting (n / 16) = false) (hidle : (s.seat n).running = []) :
    s.seatDrain n = (s.reach due).modSeat n fun r => { r with drainDue := none } := by
  have hgo : ¬ (!s.coreOn || s.resetting (n / 16)) = true := by simp [hcore, hreset]
  have hruns : (((s.reach due).modSeat n fun r => { r with drainDue := none }).seat n).running.isEmpty = true := by
    rw [seat_modSeat_same, seat_congr (reach_seats _ _), hidle]
    rfl
  unfold seatDrain
  rw [hdrain]
  dsimp only
  rw [if_neg hgo, if_pos hruns]

theorem seatDrain_of_busy {n due : Nat} (hcore : s.coreOn = true) (hdrain : (s.seat n).drainDue = some due)
    (hreset : s.resetting (n / 16) = false) (hbusy : (s.seat n).running ≠ []) :
    s.seatDrain n = (((s.reach due).modSeat n fun r => { r with drainDue := none }).logFault 4).startPartReset (n / 16)
      .seatDrain := by
  have hgo : ¬ (!s.coreOn || s.resetting (n / 16)) = true := by simp [hcore, hreset]
  have hruns : ¬ (((s.reach due).modSeat n fun r => { r with drainDue := none }).seat n).running.isEmpty = true := by
    rw [seat_modSeat_same, seat_congr (reach_seats _ _)]
    simpa using hbusy
  unfold seatDrain
  rw [hdrain]
  dsimp only
  rw [if_neg hgo, if_neg hruns]

theorem partStall_of_due {p since : Nat} (hcore : s.coreOn = true) (hwd : (s.part p).wdStart = some since)
    (hreset : s.resetting p = false) :
    s.partStall p = ((s.reach (since + s.regField (ecReg 0x14) 23 16 * 1000000000)).logFault 2).startPartReset p
      .partWatchdog := by
  have hgo : ¬ (!s.coreOn || s.resetting p) = true := by simp [hcore, hreset]
  unfold partStall
  rw [hwd]
  dsimp only
  rw [if_neg hgo]

end State

end Sys2Proof.Machine
end

section
/-! PROOFS. The watchdogs. -/

namespace Sys2Proof.Proofs

open Sys2Proof.Machine Sys2Proof.Machine.State

theorem exec_seatWatchdogExpiry (n : SeatNo) (s : State) :
    exec (.seatWatchdogExpiry n) s = .next (s.seatStall n.val) := rfl

theorem exec_seatDrainExpiry (n : SeatNo) (s : State) : exec (.seatDrainExpiry n) s = .next (s.seatDrain n.val) := rfl

theorem exec_partWatchdogExpiry (p : PartNo) (s : State) :
    exec (.partWatchdogExpiry p) s = .next (s.partStall p.val) := rfl

/-- The seat watchdog (R403, R404, R410). -/
theorem seatWatchdog_fires {s : State} (n : SeatNo) {since : Nat} (hcore : s.coreOn = true)
    (hwd : (s.seat n.val).wdStart = some since) (hactive : (s.seat n.val).state = .active)
    (hreset : s.resetting (n.val / 16) = false) :
    let due := since + s.regField (ecReg 0x14) 15 0 * 1000000
    ∃ t, exec (.seatWatchdogExpiry n) s = .next t ∧ (t.seat n.val).state = .faulted ∧ (t.seat n.val).head = none ∧
      (∀ r ∈ (t.seat n.val).running, r.void = true) ∧ (t.seat n.val).wdStart = none ∧
      (t.seat n.val).drainDue = some (t.now + 100000000) ∧
      (s.tb.counting = true → s.tb.acc = 0 → due < 2 ^ 64 → due ≤ t.now) ∧ bit (t.reg (ecReg 8)) 0 = true ∧
      (s.job n.val ≠ 0 → s.forfeitKnown (s.job n.val) = false →
        ∃ f ∈ t.ec.forfeits, f.job = s.job n.val ∧ f.cause = 2) := by
  intro due
  obtain ⟨u, hu⟩ : ∃ u, u = (s.reach due).stalled n.val := ⟨_, rfl⟩
  obtain ⟨t, ht⟩ : ∃ t, t = u.stallLogged n.val := ⟨_, rfl⟩
  obtain ⟨hstate, hhead, hvoid, hwdEnd, hdrain, hnow, hlog, hforfeit⟩ := stallEnd_spec n.isLt hu ht
  have hjob : (s.reach due).job n.val = s.job n.val := job_congr (reg_congr (reach_variant _ _) (reach_regs _ _) _)
  have hknown : (s.reach due).forfeitKnown (s.job n.val) = s.forfeitKnown (s.job n.val) := by
    rw [forfeitKnown, reach_ec, forfeitKnown]
  rw [hjob, hknown] at hforfeit
  have hexec : exec (.seatWatchdogExpiry n) s = .next t := by
    rw [exec_seatWatchdogExpiry, seatStall_of_due hcore hwd hactive hreset, ht, hu]
  refine ⟨t, hexec, hstate, hhead, hvoid, hwdEnd, hdrain, ?_, hlog, hforfeit⟩
  rw [hnow]
  exact fun hcount hacc hlt => le_now_reach due hcount hacc hlt

/-- The drain's limit (R404). -/
theorem seatDrain_fires {s : State} (n : SeatNo) {due : Nat} (hcore : s.coreOn = true)
    (hdrain : (s.seat n.val).drainDue = some due) (hreset : s.resetting (n.val / 16) = false) :
    ((s.seat n.val).running = [] → ∃ t, exec (.seatDrainExpiry n) s = .next t ∧ (t.seat n.val).drainDue = none ∧
      (s.tb.counting = true → s.tb.acc = 0 → due < 2 ^ 64 → due ≤ t.now) ∧ t.regs = s.regs ∧ t.parts = s.parts) ∧
    ((s.seat n.val).running ≠ [] → partPresent s.variant (n.val / 16) = true → (s.part (n.val / 16)).wakeAt = none →
      ∃ t r, exec (.seatDrainExpiry n) s = .next t ∧ (t.part (n.val / 16)).resetting = some r ∧ r.cause = .seatDrain ∧
        (s.tb.counting = true → s.tb.acc = 0 → due < 2 ^ 64 → due ≤ t.now) ∧ bit (t.reg (ecReg 8)) 2 = true) := by
  constructor
  · intro hidle
    refine ⟨_, (exec_seatDrainExpiry n s).trans (congrArg Host.Outcome.next (seatDrain_of_idle hcore hdrain hreset hidle)), ?_⟩
    rw [seat_modSeat_same, modSeat_regs, modSeat_parts, reach_regs, reach_parts]
    exact ⟨rfl, fun hcount hacc hlt => le_now_reach due hcount hacc hlt, rfl, rfl⟩
  · intro hbusy hpresent hwake
    obtain ⟨r, hr, hcause, htime, hlog⟩ := watchdog_resets ((s.reach due).modSeat n.val fun r => { r with drainDue := none })
      4 .seatDrain (p := n.val / 16) (by rw [modSeat_variant, reach_variant]; exact hpresent)
      (by rw [part_congr (modSeat_parts _ _ _), part_congr (reach_parts _ _)]; exact resetting_none hreset)
      (by rw [part_congr (modSeat_parts _ _ _), part_congr (reach_parts _ _)]; exact hwake)
    refine ⟨_, r, (exec_seatDrainExpiry n s).trans
      (congrArg Host.Outcome.next (seatDrain_of_busy hcore hdrain hreset hbusy)), hr, hcause, ?_, ?_⟩
    · rw [now_congr htime]
      exact fun hcount hacc hlt => le_now_reach due hcount hacc hlt
    · exact hlog 2 (by decide)

/-- The partition watchdog (R405). -/
theorem partWatchdog_fires {s : State} (p : PartNo) {since : Nat} (hcore : s.coreOn = true)
    (hwd : (s.part p.val).wdStart = some since) (hreset : s.resetting p.val = false)
    (hpresent : partPresent s.variant p.val = true) (hwake : (s.part p.val).wakeAt = none) :
    let due := since + s.regField (ecReg 0x14) 23 16 * 1000000000
    ∃ t r, exec (.partWatchdogExpiry p) s = .next t ∧ (t.part p.val).resetting = some r ∧ r.cause = .partWatchdog ∧
      (s.tb.counting = true → s.tb.acc = 0 → due < 2 ^ 64 → due ≤ t.now) ∧ bit (t.reg (ecReg 8)) 1 = true := by
  intro due
  obtain ⟨r, hr, hcause, htime, hlog⟩ := watchdog_resets (s.reach due) 2 .partWatchdog (p := p.val)
    (by rw [reach_variant]; exact hpresent) (by rw [part_congr (reach_parts _ _)]; exact resetting_none hreset)
    (by rw [part_congr (reach_parts _ _)]; exact hwake)
  refine ⟨_, r, (exec_partWatchdogExpiry p s).trans
    (congrArg Host.Outcome.next (partStall_of_due hcore hwd hreset)), hr, hcause, ?_, ?_⟩
  · rw [now_congr htime]
    exact fun hcount hacc hlt => le_now_reach due hcount hacc hlt
  · exact hlog 1 (by decide)

/-- Settles O48: the resets and the faults of the watchdogs, each with its time (R44, R321, R403 to R405, R410; an event
that is not due yet lets the time pass, log entry 3). -/
theorem watchdogsFire : Obligations.WatchdogsFire :=
  ⟨fun _ n _ hcore hwd hactive hreset => seatWatchdog_fires n hcore hwd hactive hreset,
    fun _ n _ hcore hdrain hreset => seatDrain_fires n hcore hdrain hreset,
    fun _ p _ hcore hwd hreset hpresent hwake => partWatchdog_fires p hcore hwd hreset hpresent hwake⟩

end Sys2Proof.Proofs
end

section
/-! SUPPORT. What the streaming, the comparison and the conversion of a tile leave alone: the seats, and which arrays are
retired. -/

namespace Sys2Proof.Machine

/-- From `s` to `t` the seats stay, and the same arrays are retired. -/
structure TileKept (s t : State) : Prop where
  seats : t.seats = s.seats
  retired : ∀ p a, (t.arr p a).retired = (s.arr p a).retired

namespace TileKept

variable {s t u : State}

theorem refl (s : State) : TileKept s s := ⟨rfl, fun _ _ => rfl⟩

theorem trans (h : TileKept s t) (k : TileKept t u) : TileKept s u :=
  ⟨k.seats.trans h.seats, fun p a => (k.retired p a).trans (h.retired p a)⟩

theorem of_eq (h : TileKept s t) (hseats : u.seats = t.seats) (harrays : u.arrays = t.arrays) : TileKept s u :=
  h.trans ⟨hseats, fun p a => by rw [State.arr, harrays, State.arr]⟩

theorem ite {c : Prop} [Decidable c] {a b : State} (h : TileKept s a) (k : TileKept s b) :
    TileKept s (if c then a else b) := by
  split
  · exact h
  · exact k

theorem ite_snd {α : Type} {c : Prop} [Decidable c] {a b : α × State} (h : TileKept s a.2) (k : TileKept s b.2) :
    TileKept s (if c then a else b).2 := by
  split
  · exact h
  · exact k

theorem fold {α : Type} {f : State → α → State} {l : List α} (hf : ∀ u x, TileKept u (f u x)) (h : TileKept s t) :
    TileKept s (l.foldl f t) := by
  induction l generalizing t with
  | nil => exact h
  | cons x l ih => exact ih (h.trans (hf t x))

/-! Registers, counters, bytes. -/

theorem setReg {off : Nat} {v : Word} (h : TileKept s t) : TileKept s (t.setReg off v) := h.of_eq rfl rfl
theorem setRegN {off v : Nat} (h : TileKept s t) : TileKept s (t.setRegN off v) := h.of_eq rfl rfl
theorem raise {off mask : Nat} (h : TileKept s t) : TileKept s (t.raise off mask) := h.of_eq rfl rfl
theorem count {off n : Nat} (h : TileKept s t) : TileKept s (t.count off n) := h.of_eq rfl rfl
theorem countSat {off n : Nat} (h : TileKept s t) : TileKept s (t.countSat off n) := h.of_eq rfl rfl
theorem draw (h : TileKept s t) : TileKept s t.draw := h.of_eq rfl rfl
theorem csWrite {a : Nat} {bs : List Byte} (h : TileKept s t) : TileKept s (t.csWrite a bs) := h.of_eq rfl rfl
theorem qzLog {n mask : Nat} (h : TileKept s t) : TileKept s (t.qzLog n mask) := h.raise

theorem numLog {n i : Nat} {b : Bool} (h : TileKept s t) : TileKept s (t.numLog n i b) := ite h.raise h

theorem csUpset {m : SMap EccSeen} (h : TileKept s t) : TileKept s { t with csUpset := m } := h.of_eq rfl rfl
theorem setCsPoison {sec : Nat} {b : Bool} (h : TileKept s t) : TileKept s (t.setCsPoison sec b) := h.of_eq rfl rfl

/-! Reads (R234, R239). -/

theorem csFetch {sec : Nat} (h : TileKept s t) : TileKept s (t.csFetch sec).2 := by
  unfold State.csFetch
  refine ite_snd h.raise ?_
  split
  · exact h
  · exact h.csUpset.raise.countSat
  · exact ite h.csUpset.setCsPoison.raise h.csUpset.setCsPoison.raise.setRegN

theorem csFetchAll {l : List Nat} (h : TileKept s t) : TileKept s (t.csFetchAll l).2 := by
  induction l generalizing t with
  | nil => exact h
  | cons sec l ih => exact ih h.csFetch

theorem csRead {a n : Nat} (h : TileKept s t) : TileKept s (t.csRead a n).2.2 := h.csFetchAll

theorem unitRead {n a len : Nat} (h : TileKept s t) : TileKept s (t.unitRead n a len).2 := h.csFetchAll

theorem readAll {n : Nat} {l : List (Nat × Nat)} (h : TileKept s t) : TileKept s (t.readAll n l).2 := by
  induction l generalizing t with
  | nil => exact h
  | cons a l ih => exact ih h.unitRead

theorem readTile {n mt nt : Nat} {w : List Word} (h : TileKept s t) : TileKept s (t.readTile n w mt nt).2 := h.readAll

/-! Logs of a tile (R132, R155, R399). -/

theorem needField {off hi lo valid : Nat} {v : Option Int} {worse : Int → Int → Bool} (h : TileKept s t) :
    TileKept s (t.needField off hi lo valid v worse) := by
  unfold State.needField
  split
  · exact h
  · exact ite h h.setReg

theorem logSpan {n tag : Nat} {e : Span} (h : TileKept s t) : TileKept s (t.logSpan n tag e) := by
  unfold State.logSpan
  exact ite h (ite h.setRegN h).raise.needField.needField

/-- An array's record changes, but not whether it is retired. -/
theorem modArr {p a : Nat} {f : ArrRec → ArrRec} (hf : ∀ r, (f r).retired = r.retired) (h : TileKept s t) :
    TileKept s (t.modArr p a f) := by
  refine h.trans ⟨rfl, fun q b => ?_⟩
  by_cases hq : q * 8 + b = p * 8 + a
  · rw [State.arr, hq, State.modArr, State.setArr, SMap.get_set_same, hf, State.arr, State.arr, hq]
  · rw [State.arr, State.modArr, State.setArr, SMap.get_set_other _ _ _ _ hq, State.arr]

theorem setSlot {p a k : Nat} {g : Slot} (h : TileKept s t) : TileKept s (t.setSlot p a k g) := h.modArr fun _ => rfl

theorem countFault {p a : Nat} (h : TileKept s t) : TileKept s (t.countFault p a) := h.modArr fun _ => rfl

theorem logMismatch {n a slot tag kind row col : Nat} {b : Bool} (h : TileKept s t) :
    TileKept s (t.logMismatch n a slot tag kind row col b) := by
  unfold State.logMismatch
  exact (ite h.raise h.raise.setRegN.setRegN).countFault

theorem logArray {mask : Nat} (h : TileKept s t) : TileKept s (t.logArray mask) := by
  obtain ⟨regs, bad, fn, ec, out, hlog, -⟩ := State.raiseEc_frame t 0xC mask
  rw [State.logArray, hlog]
  exact h.of_eq rfl rfl

/-! Outliers, statistics and the written rows (R107, R145, R184 to R189). -/

theorem histogram {a : Nat} {b : Int} {xs : List Fp} (h : TileKept s t) : TileKept s (t.histogram a b xs) := by
  unfold State.histogram
  extract_lets r
  have hr : TileKept s r.2.2 := h.csRead
  exact ite hr.csWrite.draw hr.csWrite

theorem countHist {x : HistAdd} (h : TileKept s t) : TileKept s (t.countHist x) := by
  unfold State.countHist
  split
  · exact h.histogram
  · exact h

theorem statistics {c : ConvCfg} {a : StatAdd} (h : TileKept s t) : TileKept s (t.statistics c a) := by
  unfold State.statistics
  extract_lets n r u s1 s2 s3 s4 p
  have hr : TileKept s r.2.2 := h.csRead
  have h1 : TileKept s s1 := hr.csWrite
  have h2 : TileKept s s2 := ite h1.qzLog h1
  have h3 : TileKept s s3 := ite h2 h2.setRegN
  have h4 : TileKept s s4 := ite h3.qzLog h2
  exact h4.count.count.count.count

theorem writeCodes {o : OutPlace} {f : Fmt} {r c0 : Nat} {l : List Nat} (h : TileKept s t) :
    TileKept s (t.writeCodes o f r c0 l) := by
  unfold State.writeCodes
  exact ite h.csWrite (fold (fun u _ => (refl u).csWrite) h)

theorem writeOutliers {c : ConvCfg} {cols r c0 : Nat} {more : Bool} {l : List (Nat × Nat)} (h : TileKept s t) :
    TileKept s (t.writeOutliers c cols r c0 more l) := h.csWrite.csWrite.csWrite

theorem afterRow {c : ConvCfg} {r n : Nat} {q : RowOut} {raw : List Rat} {act : Nat} {x : HistAdd} (h : TileKept s t) :
    TileKept s (t.afterRow c r n q raw act x) := by
  unfold State.afterRow
  extract_lets s1 s2 na cur keep s3 s4 s5 s6
  have h2 : TileKept s s2 := h.statistics.countHist
  have h3 : TileKept s s3 := ite (ite h2 h2.csWrite) h2
  have h4 : TileKept s s4 := ite h3.qzLog h3
  have h5 : TileKept s s5 := ite h4.qzLog h4
  have h6 : TileKept s s6 := ite h5.qzLog h5
  exact h6.numLog.numLog

theorem convertWrite {c : ConvCfg} {o : OutPlace} {cols r c0 : Nat} {more : Bool} {xs : List Fp} {raw : List Rat}
    {x : HistAdd} (h : TileKept s t) : TileKept s (t.convertWrite c o cols r c0 more xs raw x) := by
  unfold State.convertWrite
  extract_lets ng ga scaleIn gIn q s1 s2 s3 s4 s5
  have h1 : TileKept s s1 := h.writeCodes
  have h2 : TileKept s s2 := h1.csWrite
  have h3 : TileKept s s3 := ite (ite h2.csWrite h2) h1
  have h4 : TileKept s s4 := ite h3.csWrite h3
  have h5 : TileKept s s5 := ite h4.writeOutliers h4
  exact h5.afterRow

/-! The conversion of a tile (R145 to R147). -/

theorem floats {n rows cols r0 c0 base pitch bits : Nat} {g : Slot} {f : FpFmt} (h : TileKept s t) :
    TileKept s (State.convertTile.floats n g t f rows cols r0 c0 base pitch bits) := by
  unfold State.convertTile.floats
  exact fold (fun u r => (refl u).csWrite.numLog.numLog) h

theorem convertTile {n mt nt : Nat} {w : List Word} {rec : List Byte} {g : Slot} {more : Bool} (h : TileKept s t) :
    TileKept s (t.convertTile n w rec mt nt g more).2 := by
  unfold State.convertTile
  extract_lets rows cols r0 c0 base pitch vals hist
  have hhist : ∀ {u}, TileKept s u → TileKept s (hist u) := fun hu => ite hu.histogram hu
  split
  · exact hhist (fold (fun u _ => (refl u).csWrite) h)
  · exact hhist h.floats
  · exact hhist h.floats
  · exact hhist (fold (fun u _ => (refl u).convertWrite) h)

theorem tileOutliers {n mt nt : Nat} {w : List Word} {g : Slot} (h : TileKept s t) :
    TileKept s (t.tileOutliers n w mt nt g).2.1 := by
  unfold State.tileOutliers
  extract_lets one a b x y s1 s2
  have hone : ∀ {u on base row0 rows}, TileKept s u → TileKept s (one u on base row0 rows).2.1 := by
    intro u on base row0 rows hu
    unfold one
    split
    · exact hu
    · extract_lets rs f es vs v
      have hf : TileKept s f.2 := hu.readAll
      exact ite hf hf.numLog.numLog
  have h1 : TileKept s s1 := (hone (hone h)).draw
  have h2 : TileKept s s2 := ite h1.qzLog h1
  split
  · exact h2
  · exact h2

theorem finishTile {n a mt nt : Nat} {r : Run} {g : Slot} {more : Bool} (h : TileKept s t) :
    TileKept s (t.finishTile n r a mt nt g more).2 := by
  unfold State.finishTile
  extract_lets p w conv reads f o s1 s2 q quiet s3
  have hf : TileKept s f.2 := h.readAll
  have h1 : TileKept s s1 := hf.tileOutliers
  have h2 : TileKept s s2 := h1.logSpan.count
  have hq : TileKept s q.2 := h2.convertTile
  have h3 : TileKept s s3 := ite hq.logSpan hq
  exact ite_snd h (ite_snd hf.raise (ite_snd h1.raise (ite_snd h2 h3.count)))

/-! The streaming and the comparison (R124, R131, R402). -/

theorem streamTile {n k mt nt : Nat} {r : Run} {w : TileWork} {as : List Nat} {ups : List CellUpset}
    (h : TileKept s t) : TileKept s (t.streamTile n r w as k mt nt ups).2 := by
  unfold State.streamTile
  extract_lets p ws single poisonRec lost live f s1 s2 bad was s0 fresh s3 s4 now
  have h1 : TileKept s s1 := h.readTile
  have h2 : TileKept s s2 := fold (fun u b => (refl u).raise.setSlot) h1
  have h3 : TileKept s s3 := fold (fun u b => ite (refl u).setSlot.count.logSpan (refl u).setSlot.count) h1
  have h4 : TileKept s s4 := h3.numLog
  exact ite_snd h (ite_snd h (ite_snd h2 h4))

theorem judge {n slot tag : Nat} {b : Bool} {gs : List (Nat × Slot)} (h : TileKept s t) :
    TileKept s (t.judge n slot tag b gs).2 := by
  unfold State.judge
  extract_lets p cs s1 ok
  have h1 : TileKept s s1 := by
    refine fold (fun u e => ?_) h
    split
    · exact (refl u).raise
    · exact refl u
    · exact (refl u).logMismatch
  clear_value s1 ok
  split
  · exact ite_snd h1 h1.logArray
  · exact h1.logArray
  · exact h1
  · exact h1

end TileKept

end Sys2Proof.Machine
end

section
/-! SUPPORT. The end of a tile: its descriptor, its slots and the cells it leaves (R123, R131, R397). -/

namespace Sys2Proof.Machine

/-! Runs of a seat. -/

theorem State.index_of_findRun {s : State} {n : Nat} {idx : Word} {r : Run} (h : s.findRun n idx = some r) :
    r.index = idx := by
  simpa using List.find?_some h

theorem State.findRun_congr {s t : State} (h : t.seats = s.seats) (n : Nat) (idx : Word) :
    t.findRun n idx = s.findRun n idx := by
  rw [State.findRun, State.seat_congr h, State.findRun]

theorem State.findRun_modRun {s : State} {n : Nat} {idx : Word} {r : Run} {f : Run → Run}
    (h : s.findRun n idx = some r) (hf : ∀ q, (f q).index = q.index) : (s.modRun n idx f).findRun n idx = some (f r) := by
  have hsame : ((fun q : Run => decide (q.index = idx)) ∘ fun q => if q.index = idx then f q else q) =
      fun q => decide (q.index = idx) := by
    funext q
    by_cases hq : q.index = idx <;> simp [hq, hf]
  rw [State.findRun] at h
  rw [State.findRun, State.modRun, State.seat_modSeat_same]
  change (List.map _ _).find? _ = _
  rw [List.find?_map, hsame, h, Option.map_some, if_pos (by simpa using List.find?_some h)]

/-! Cells that become free keep the group slots. -/

/-- From `s` to `t` the seats, the bytes of the Central Store and the arrays' group slots stay. -/
structure SlotsKept (s t : State) : Prop where
  seats : t.seats = s.seats
  csMem : t.csMem = s.csMem
  slots : ∀ p a, (t.arr p a).slots = (s.arr p a).slots

namespace SlotsKept

variable {s t u : State}

theorem refl (s : State) : SlotsKept s s := ⟨rfl, rfl, fun _ _ => rfl⟩

theorem trans (h : SlotsKept s t) (k : SlotsKept t u) : SlotsKept s u :=
  ⟨k.seats.trans h.seats, k.csMem.trans h.csMem, fun p a => (k.slots p a).trans (h.slots p a)⟩

theorem fold {α : Type} {f : State → α → State} (h : ∀ u x, SlotsKept u (f u x)) (l : List α) (s : State) :
    SlotsKept s (l.foldl f s) := by
  induction l generalizing s with
  | nil => exact refl s
  | cons x l ih => exact (h s x).trans (ih _)

theorem modArr (s : State) {p a : Nat} {f : ArrRec → ArrRec} (hf : ∀ r, (f r).slots = r.slots) :
    SlotsKept s (s.modArr p a f) := by
  refine ⟨rfl, rfl, fun q b => ?_⟩
  by_cases hq : q * 8 + b = p * 8 + a
  · rw [State.arr, hq, State.modArr, State.setArr, SMap.get_set_same, hf, State.arr, State.arr, hq]
  · rw [State.arr, State.modArr, State.setArr, SMap.get_set_other _ _ _ _ hq, State.arr]

theorem enterArrays (s : State) (n : Nat) (as : List Nat) : SlotsKept s (s.enterArrays n as) := by
  refine fold (fun u b => modArr u fun r => ?_) as s
  split
  · rfl
  · split <;> rfl

theorem freeArray (s : State) (p a : Nat) : SlotsKept s (s.freeArray p a) := by
  unfold State.freeArray
  exact modArr s fun _ => rfl

theorem leaveArrays (s : State) (n : Nat) (as : List Nat) : SlotsKept s (s.leaveArrays n as) := by
  refine fold (fun u b => ?_) as s
  dsimp only
  split
  · exact (freeArray u _ _).trans (enterArrays _ _ _)
  · exact freeArray u _ _

theorem slotOf (h : SlotsKept s t) (p a k : Nat) : t.slotOf p a k = s.slotOf p a k := by
  rw [State.slotOf, h.slots, State.slotOf]

end SlotsKept

namespace State

variable {s : State}

theorem foldl_fixed {α : Type} {f : State → α → State} {l : List α} (h : ∀ x ∈ l, f s x = s) : l.foldl f s = s := by
  induction l with
  | nil => rfl
  | cons x l ih =>
    rw [List.foldl_cons, h x List.mem_cons_self]
    exact ih fun y hy => h y (List.mem_cons_of_mem _ hy)

theorem dropSlot_frame (s : State) (n a k : Nat) : (s.dropSlot n a k).seats = s.seats ∧ (s.dropSlot n a k).csMem = s.csMem :=
  ⟨foldl_frame State.seats (fun u b => modArr_seats u _ b _) _ s, foldl_frame State.csMem (fun u b => modArr_csMem u _ b _) _ s⟩

/-! The last tile of a descriptor that is not void (R123). -/

section

variable {n : Nat} {idx : Word} {r : Run} {w : TileWork}

/-- The slot of a tile that is over: it is freed where the tile was converted, or the seat is going. -/
def slotOver (s : State) (n : Nat) (r : Run) (w : TileWork) : State :=
  if mxConverts r.words || s.seatIs n .releasing then s.dropSlot n w.array w.slot else s

theorem slotOver_frame (s : State) (n : Nat) (r : Run) (w : TileWork) :
    (s.slotOver n r w).seats = s.seats ∧ (s.slotOver n r w).csMem = s.csMem := by
  unfold slotOver
  split
  · exact dropSlot_frame s n _ _
  · exact ⟨rfl, rfl⟩

theorem tileOver_last (status : Nat) (hvoid : r.void = false) (hretry : w.retry = none) (hlast : w.tile + 1 = w.tiles) :
    s.tileOver n r w status =
      (s.slotOver n r w).endRun n r.index (if r.status ≠ 0 then r.status else status) := by
  simp only [tileOver, hretry, hvoid, hlast]
  rw [if_neg (by simp), if_neg (by simp)]
  rfl

/-- The descriptor's work has ended, with the first status of its tiles that is not 0 (log entry 67). -/
theorem tileEnds_last (status : Nat) (as : List Nat) (hfind : s.findRun n idx = some r) (hvoid : r.void = false)
    (hretry : w.retry = none) (hlast : w.tile + 1 = w.tiles) :
    (s.tileEnds n r w as status).csMem = s.csMem ∧
      ∃ q, (s.tileEnds n r w as status).findRun n idx = some q ∧ q.work = .done ∧
        q.status = if r.status = 0 then status else r.status := by
  have hidx := index_of_findRun hfind
  subst hidx
  obtain ⟨hseats, hmem⟩ := slotOver_frame s n r w
  have hleft := SlotsKept.leaveArrays ((s.slotOver n r w).endRun n r.index (if r.status ≠ 0 then r.status else status)) n as
  rw [tileEnds, tileOver_last status hvoid hretry hlast]
  refine ⟨hleft.csMem.trans hmem, { r with work := .done, status := if r.status ≠ 0 then r.status else status }, ?_,
    rfl, ite_not _ _ _⟩
  rw [findRun_congr hleft.seats, endRun]
  exact findRun_modRun (by rw [findRun_congr hseats]; exact hfind) fun _ => rfl

/-- The slot of a group that stays open is as it was. -/
theorem tileEnds_slotOf (status : Nat) (as : List Nat) (hvoid : r.void = false) (hretry : w.retry = none)
    (hlast : w.tile + 1 = w.tiles) (hopen : mxConverts r.words = false) (hstay : (s.seat n).state ≠ .releasing)
    (p a k : Nat) : (s.tileEnds n r w as status).slotOf p a k = s.slotOf p a k := by
  have hkept : s.slotOver n r w = s := if_neg (by simp [hopen, seatIs, hstay])
  rw [tileEnds, tileOver_last status hvoid hretry hlast, hkept, (SlotsKept.leaveArrays _ n as).slotOf]
  rfl

end

/-! A tile that runs once more (R397). -/

theorem bindSlot_frame (s : State) (n a k handle : Nat) (anchor : Int) :
    (s.bindSlot n a k handle anchor).seats = s.seats ∧ (s.bindSlot n a k handle anchor).csMem = s.csMem := by
  unfold bindSlot
  exact ⟨foldl_frame State.seats (fun u b => (modArr_seats _ _ b _).trans (modArr_seats u _ b _)) _ _,
    foldl_frame State.csMem (fun u b => (modArr_csMem _ _ b _).trans (modArr_csMem u _ b _)) _ _⟩

theorem retryTile_spec {n : Nat} {idx : Word} {r : Run} (w : TileWork) (hfind : s.findRun n idx = some r) :
    (s.retryTile n idx w).csMem = s.csMem ∧
      ∃ q x, (s.retryTile n idx w).findRun n idx = some q ∧ q.work = .tile { w with retry := some x } := by
  unfold retryTile
  extract_lets u
  have hu : u.findRun n idx = some r := by rw [findRun_congr (bumpObj_seats _ _ _ _)]; exact hfind
  split
  · next b kb hplace =>
    obtain ⟨hseats, hmem⟩ := bindSlot_frame u n b kb 4 (u.slotOf (n / 16) w.array w.slot).anchor
    extract_lets v x
    have hv : v.findRun n idx = some r := by rw [findRun_congr hseats]; exact hu
    have hmoved := (SlotsKept.leaveArrays x n [w.array]).trans (SlotsKept.enterArrays _ n [b])
    refine ⟨hmoved.csMem.trans hmem, { r with work := .tile { w with retry := some (b, kb) } }, (b, kb), ?_, rfl⟩
    rw [findRun_congr hmoved.seats]
    exact findRun_modRun hv fun _ => rfl
  · exact ⟨rfl, { r with work := .tile { w with retry := some (w.array, w.slot) } }, (w.array, w.slot),
      findRun_modRun hu fun _ => rfl, rfl⟩

/-! The comparison writes nothing (R131). -/

theorem logMismatch_csMem (s : State) (n a slot tag kind row col : Nat) (b : Bool) :
    (s.logMismatch n a slot tag kind row col b).csMem = s.csMem := by
  unfold logMismatch countFault
  rw [modArr_csMem]
  split
  · rw [raise_csMem]
  · rw [setRegN_csMem, setRegN_csMem, raise_csMem]

theorem judge_csMem (s : State) (n slot tag : Nat) (b : Bool) (gs : List (Nat × Slot)) :
    (s.judge n slot tag b gs).2.csMem = s.csMem := by
  unfold judge
  extract_lets p cs s1 ok
  have h1 : s1.csMem = s.csMem := by
    refine foldl_frame State.csMem (fun u e => ?_) _ s
    split
    · rw [raise_csMem]
    · rfl
    · rw [logMismatch_csMem]
  clear_value s1 ok
  split
  · split
    · exact h1
    · exact (csMem_raiseEc _ _ _).trans h1
  · exact (csMem_raiseEc _ _ _).trans h1
  · exact h1
  · exact h1

/-! What runs of a tile in the cells (R134, R397). -/

section

variable {n : Nat} {idx : Word} {r : Run} {w : TileWork}

theorem tileEcc_clean (s : State) (p k : Nat) (as : List Nat) : s.tileEcc p k as .clean .clean = s := by
  unfold tileEcc
  split
  · rfl
  · exact foldl_fixed fun _ _ => rfl

/-- A tile in the cells, whose array's memory shows no error, runs, and the cycles it was held are counted. -/
theorem tileComplete_of_inCells (ups : List CellUpset) (held : Nat) (hfind : s.findRun n idx = some r)
    (hwork : r.work = .tile w) (hcells : s.inCells n r = true) :
    s.tileComplete n idx ups ⟨.clean, .clean, held⟩ =
      ((s.tileArrays (n / 16) w).foldl (fun v b => v.count (arrReg (n / 16) b 0x18) held) s).runTile n r w
        (s.tileArrays (n / 16) w) ups := by
  simp only [tileComplete, hfind, hwork, hcells, if_true, tileEcc_clean]

theorem tileArrays_of_first (p : Nat) (hretry : w.retry = none) : s.tileArrays p w = s.pairOf p w.array := by
  simp [tileArrays, hretry]

/-- A tile that is not converted ends as it was streamed, on arrays that are not retired. -/
theorem runTile_of_open {as : List Nat} {ups : List CellUpset} (hretry : w.retry = none)
    (hopen : mxConverts r.words = false) (hgood : ∀ b ∈ as, (s.arr (n / 16) b).retired = false) :
    let f := s.streamTile n r w as w.slot (w.tile / mxTileCols r.words) (w.tile % mxTileCols r.words) ups
    s.runTile n r w as ups = f.2.tileEnds n r w as f.1 := by
  intro f
  have hkept : TileKept s f.2 := (TileKept.refl s).streamTile
  have hplace : w.place = (w.array, w.slot) := by simp [TileWork.place, hretry]
  have hgroups : as.foldl (fun u b => if (u.arr (n / 16) b).retired && !mxConverts r.words then
      u.setSlot (n / 16) b w.slot { u.slotOf (n / 16) b w.slot with lost := true } else u) f.2 = f.2 :=
    foldl_fixed fun b hb => if_neg (by rw [hkept.retired, hgood b hb]; simp)
  unfold runTile
  rw [hplace]
  dsimp only
  rw [hgroups, if_pos (by simp [hopen])]

/-- Where the arrays of a tile have not lost its group, the groups that are compared. -/
def comparedGroups (s : State) (p k : Nat) (as : List Nat) : List (Nat × Slot) :=
  (as.filter fun b => !(s.slotOf p b k).lost).map fun b => (b, s.slotOf p b k)

/-- What follows the comparison of a tile that was streamed and is converted, in its first run. -/
def tileJudged (n : Nat) (r : Run) (w : TileWork) (j : Option Slot × State) : State :=
  match j.1 with
  | some g =>
    let q := j.2.finishTile n r w.array (w.tile / mxTileCols r.words) (w.tile % mxTileCols r.words) g
      (decide (w.listed = some (w.tile / mxTileCols r.words)))
    q.2.tileEnds n r w [w.array] q.1
  | none => if mxOp r.words = 0 then j.2.retryTile n r.index w else j.2.tileEnds n r w [w.array] 2

theorem runTile_of_converted {ups : List CellUpset} (hretry : w.retry = none) (hvoid : r.void = false)
    (hconv : mxConverts r.words = true) :
    let f := s.streamTile n r w [w.array] w.slot (w.tile / mxTileCols r.words) (w.tile % mxTileCols r.words) ups
    s.runTile n r w [w.array] ups = if f.1 ≠ 0 then f.2.tileEnds n r w [w.array] f.1
      else tileJudged n r w (f.2.judge n w.slot (tagOf r.words) (mxSerialB r.words)
        (f.2.comparedGroups (n / 16) w.slot [w.array])) := by
  intro f
  have hplace : w.place = (w.array, w.slot) := by simp [TileWork.place, hretry]
  have hgroups : [w.array].foldl (fun u b => if (u.arr (n / 16) b).retired && !mxConverts r.words then
      u.setSlot (n / 16) b w.slot { u.slotOf (n / 16) b w.slot with lost := true } else u) f.2 = f.2 :=
    foldl_fixed fun b hb => if_neg (by rw [hconv]; simp)
  unfold runTile
  rw [hplace]
  dsimp only
  rw [hgroups]
  by_cases hf : f.1 = 0
  · have hstream : ¬ (f.1 ≠ 0 ∨ (!mxConverts r.words) = true) := not_or.mpr ⟨not_not.mpr hf, by simp [hconv]⟩
    have hagain : (mxOp r.words = 0 ∧ w.retry.isNone = true ∧ [w.array].length = 1 ∧ r.void = false) ↔ mxOp r.words = 0 := by
      simp [hretry, hvoid]
    rw [if_neg hstream, if_neg (not_not.mpr hf), comparedGroups]
    generalize f.2.judge n w.slot (tagOf r.words) (mxSerialB r.words) _ = j
    obtain ⟨_ | g, u⟩ := j
    · exact if_congr hagain rfl rfl
    · have hfirst : ¬ w.retry.isSome = true := by simp [hretry]
      dsimp only [tileJudged]
      rw [if_neg hfirst]
  · rw [if_pos (Or.inl hf), if_pos hf]

/-- Where the checksums agree, the tile is converted and written, and its status is that of the conversion (R145). -/
theorem tileJudged_passed (g : Slot) (u : State) (hfind : u.findRun n idx = some r) (hvoid : r.void = false)
    (hretry : w.retry = none) (hlast : w.tile + 1 = w.tiles) :
    let e := u.finishTile n r w.array (w.tile / mxTileCols r.words) (w.tile % mxTileCols r.words) g
      (decide (w.listed = some (w.tile / mxTileCols r.words)))
    (tileJudged n r w (some g, u)).csMem = e.2.csMem ∧
      ∃ q, (tileJudged n r w (some g, u)).findRun n idx = some q ∧ q.work = .done ∧
        q.status = if r.status = 0 then e.1 else r.status := by
  intro e
  have hkept : TileKept u e.2 := (TileKept.refl u).finishTile
  exact tileEnds_last e.1 [w.array] (by rw [findRun_congr hkept.seats]; exact hfind) hvoid hretry hlast

/-- Where they do not, a CLOSE ends with status 2 (R131). -/
theorem tileJudged_closed (u : State) (hfind : u.findRun n idx = some r) (hvoid : r.void = false)
    (hretry : w.retry = none) (hlast : w.tile + 1 = w.tiles) (hop : mxOp r.words ≠ 0) :
    (tileJudged n r w (none, u)).csMem = u.csMem ∧
      ∃ q, (tileJudged n r w (none, u)).findRun n idx = some q ∧ q.work = .done ∧
        q.status = if r.status = 0 then 2 else r.status := by
  dsimp only [tileJudged]
  rw [if_neg hop]
  exact tileEnds_last 2 [w.array] hfind hvoid hretry hlast

/-- Where they do not, a SINGLE runs once more (R397). -/
theorem tileJudged_again (u : State) (hfind : u.findRun n idx = some r) (hop : mxOp r.words = 0) :
    (tileJudged n r w (none, u)).csMem = u.csMem ∧
      ∃ q x, (tileJudged n r w (none, u)).findRun n idx = some q ∧ q.work = .tile { w with retry := some x } := by
  dsimp only [tileJudged]
  rw [if_pos hop, index_of_findRun hfind]
  exact retryTile_spec w hfind

/-- What is left of the descriptor, whichever way the comparison went. -/
theorem tileJudged_spec (j : Option Slot × State) (hfind : j.2.findRun n idx = some r) (hvoid : r.void = false)
    (hretry : w.retry = none) (hlast : w.tile + 1 = w.tiles) :
    let t := tileJudged n r w j
    ∃ q, t.findRun n idx = some q ∧
      (∀ g, j.1 = some g →
        let e := j.2.finishTile n r w.array (w.tile / mxTileCols r.words) (w.tile % mxTileCols r.words) g
          (decide (w.listed = some (w.tile / mxTileCols r.words)))
        t.csMem = e.2.csMem ∧ q.work = .done ∧ q.status = if r.status = 0 then e.1 else r.status) ∧
      (j.1 = none → mxOp r.words ≠ 0 →
        t.csMem = j.2.csMem ∧ q.work = .done ∧ q.status = if r.status = 0 then 2 else r.status) ∧
      (j.1 = none → mxOp r.words = 0 → t.csMem = j.2.csMem ∧ ∃ x, q.work = .tile { w with retry := some x }) := by
  obtain ⟨o, u⟩ := j
  cases o with
  | some g =>
    obtain ⟨hmem, q, hq, hwork, hstatus⟩ := tileJudged_passed g u hfind hvoid hretry hlast
    refine ⟨q, hq, fun g' hg => ?_, fun h => absurd h (Option.some_ne_none g),
      fun h => absurd h (Option.some_ne_none g)⟩
    rw [← Option.some.inj hg]
    exact ⟨hmem, hwork, hstatus⟩
  | none =>
    by_cases hop : mxOp r.words = 0
    · obtain ⟨hmem, q, x, hq, hwork⟩ := tileJudged_again u hfind hop
      exact ⟨q, hq, fun g h => absurd h.symm (Option.some_ne_none g), fun _ hne => absurd hop hne, fun _ _ => ⟨hmem, x, hwork⟩⟩
    · obtain ⟨hmem, q, hq, hwork, hstatus⟩ := tileJudged_closed u hfind hvoid hretry hlast hop
      exact ⟨q, hq, fun g h => absurd h.symm (Option.some_ne_none g), fun _ _ => ⟨hmem, hwork, hstatus⟩, fun _ h => absurd h hop⟩

end

end State

end Sys2Proof.Machine
end

section
/-! PROOFS. The end of a tile. -/

namespace Sys2Proof.Proofs

open Sys2Proof.Machine Sys2Proof.Machine.State

theorem exec_tileComplete (n : SeatNo) (idx : Word) (ups : List CellUpset) (e : TileSeen) (s : State) :
    exec (.tileComplete n idx ups e) s = .next (s.tileComplete n.val idx ups e) := rfl

section

variable {s : State} {n : SeatNo} {idx : Word} {ups : List CellUpset} {held : Nat} {r : Run} {w : TileWork}

/-- A tile that is not converted: its products are in the group (R123, R138). -/
theorem openTile_ends (hfind : s.findRun n.val idx = some r) (hwork : r.work = .tile w) (hvoid : r.void = false)
    (hretry : w.retry = none) (hopen : mxConverts r.words = false) (hcells : s.inCells n.val r = true)
    (hstay : (s.seat n.val).state ≠ .releasing)
    (hgood : ∀ b ∈ s.pairOf (n.val / 16) w.array, (s.arr (n.val / 16) b).retired = false)
    (hlast : w.tile + 1 = w.tiles) :
    let as := s.pairOf (n.val / 16) w.array
    let u := as.foldl (fun v b => v.count (arrReg (n.val / 16) b 0x18) held) s
    let f := u.streamTile n.val r w as w.slot (w.tile / mxTileCols r.words) (w.tile % mxTileCols r.words) ups
    ∃ t, exec (.tileComplete n idx ups ⟨.clean, .clean, held⟩) s = .next t ∧ t.csMem = f.2.csMem ∧
      (t.slotOf (n.val / 16) w.array w.slot).entries = (f.2.slotOf (n.val / 16) w.array w.slot).entries ∧
      ∃ q, t.findRun n.val idx = some q ∧ q.work = .done ∧ q.status = if r.status = 0 then f.1 else r.status := by
  intro as u f
  have hu : TileKept s u := TileKept.fold (fun v b => (TileKept.refl v).count) (TileKept.refl s)
  have hf : TileKept s f.2 := hu.streamTile
  have hfindf : f.2.findRun n.val idx = some r := by rw [findRun_congr hf.seats]; exact hfind
  obtain ⟨hmem, hrun⟩ := tileEnds_last f.1 as hfindf hvoid hretry hlast
  refine ⟨f.2.tileEnds n.val r w as f.1, ?_, hmem, ?_, hrun⟩
  · rw [exec_tileComplete, tileComplete_of_inCells ups held hfind hwork hcells, tileArrays_of_first _ hretry,
      runTile_of_open hretry hopen fun b hb => (hu.retired _ b).trans (hgood b hb)]
  · rw [tileEnds_slotOf f.1 as hvoid hretry hlast hopen (by rw [seat_congr hf.seats]; exact hstay)]

/-- A tile that is converted, on an array by itself (R123, R131, R145, R397). -/
theorem convertedTile_ends (hfind : s.findRun n.val idx = some r) (hwork : r.work = .tile w) (hvoid : r.void = false)
    (hretry : w.retry = none) (hconv : mxConverts r.words = true) (hcells : s.inCells n.val r = true)
    (hlast : w.tile + 1 = w.tiles) (hsingle : s.paired (n.val / 16) = false) :
    let mt := w.tile / mxTileCols r.words
    let nt := w.tile % mxTileCols r.words
    let u := s.count (arrReg (n.val / 16) w.array 0x18) held
    let f := u.streamTile n.val r w [w.array] w.slot mt nt ups
    let j := f.2.judge n.val w.slot (tagOf r.words) (mxSerialB r.words)
      [(w.array, f.2.slotOf (n.val / 16) w.array w.slot)]
    ∃ t q, exec (.tileComplete n idx ups ⟨.clean, .clean, held⟩) s = .next t ∧ t.findRun n.val idx = some q ∧
      (f.1 ≠ 0 → t.csMem = f.2.csMem ∧ q.work = .done ∧ q.status = if r.status = 0 then f.1 else r.status) ∧
      (f.1 = 0 → (f.2.slotOf (n.val / 16) w.array w.slot).lost = false →
        (∀ g, j.1 = some g →
          let e := j.2.finishTile n.val r w.array mt nt g (decide (w.listed = some mt))
          t.csMem = e.2.csMem ∧ q.work = .done ∧ q.status = if r.status = 0 then e.1 else r.status) ∧
        (j.1 = none → mxOp r.words ≠ 0 →
          t.csMem = f.2.csMem ∧ q.work = .done ∧ q.status = if r.status = 0 then 2 else r.status) ∧
        (j.1 = none → mxOp r.words = 0 →
          t.csMem = f.2.csMem ∧ ∃ x, q.work = .tile { w with retry := some x })) := by
  intro mt nt u f j
  have hf : TileKept s f.2 := (TileKept.refl s).count.streamTile
  have hfindf : f.2.findRun n.val idx = some r := by rw [findRun_congr hf.seats]; exact hfind
  have harrays : s.tileArrays (n.val / 16) w = [w.array] := by simp [tileArrays, hretry, pairOf, hsingle]
  have hexec := exec_tileComplete n idx ups ⟨.clean, .clean, held⟩ s
  rw [tileComplete_of_inCells ups held hfind hwork hcells, harrays, List.foldl_cons, List.foldl_nil,
    runTile_of_converted hretry hvoid hconv] at hexec
  by_cases hzero : f.1 = 0
  · rw [if_neg (not_not.mpr hzero)] at hexec
    obtain ⟨k, hk⟩ : ∃ k, k = f.2.judge n.val w.slot (tagOf r.words) (mxSerialB r.words)
      (f.2.comparedGroups (n.val / 16) w.slot [w.array]) := ⟨_, rfl⟩
    have hmem : k.2.csMem = f.2.csMem := by rw [hk]; exact judge_csMem _ _ _ _ _ _
    have hfindk : k.2.findRun n.val idx = some r := by
      rw [hk, findRun_congr (TileKept.judge (TileKept.refl f.2)).seats]
      exact hfindf
    have hjudged (hlost : (f.2.slotOf (n.val / 16) w.array w.slot).lost = false) : j = k := by
      rw [hk, comparedGroups, List.filter_cons_of_pos (by rw [hlost]; rfl)]
      rfl
    obtain ⟨q, hq, hpassed, hclosed, hagain⟩ := tileJudged_spec (w := w) k hfindk hvoid hretry hlast
    refine ⟨tileJudged n.val r w k, q, by rw [hk]; exact hexec, hq, fun h => absurd hzero h, fun _ hlost => ?_⟩
    rw [hjudged hlost]
    rw [hmem] at hclosed hagain
    exact ⟨hpassed, hclosed, hagain⟩
  · rw [if_pos hzero] at hexec
    obtain ⟨hmem, q, hq, hdone, hstatus⟩ := tileEnds_last f.1 [w.array] hfindf hvoid hretry hlast
    exact ⟨_, q, hexec, hq, fun _ => ⟨hmem, hdone, hstatus⟩, fun h => absurd h hzero⟩

/-- A tile that is not in the cells does not end (R33). -/
theorem waitingTile_stays {e : TileSeen} (hfind : s.findRun n.val idx = some r) (hwork : r.work = .tile w)
    (hcells : s.inCells n.val r = false)
    (hgood : ∀ b ∈ s.tileArrays (n.val / 16) w, (s.arr (n.val / 16) b).retired = false) :
    exec (.tileComplete n idx ups e) s = .next s := by
  have hnone : ((s.tileArrays (n.val / 16) w).any fun b => (s.arr (n.val / 16) b).retired) = false :=
    List.any_eq_false.mpr fun b hb => by simp [hgood b hb]
  rw [exec_tileComplete]
  simp only [tileComplete, hfind, hwork, hcells, hnone, Bool.false_and, Bool.false_eq_true, if_false]

end

/-- Settles O21: a tile in the cells is streamed, compared and converted as its clauses say; one that is not in the cells
waits. The status of a descriptor is the first one of its tiles that is not 0 (R33, R123, R131, R138, R145, R397; log
entry 67). -/
theorem tilesEnd : Obligations.TilesEnd := by
  refine ⟨fun _ _ _ _ _ _ _ => openTile_ends, ?_, fun _ _ _ _ _ _ _ => waitingTile_stays⟩
  intro s n idx ups held r w hfind hwork hvoid hretry hconv hcells _ hlast hsingle
  exact convertedTile_ends hfind hwork hvoid hretry hconv hcells hlast hsingle

end Sys2Proof.Proofs
end

section
/-! SUPPORT. Host inputs that the recorder records, and the doorbells of a seat (R35, R51, R52, R59, R382). -/

namespace Sys2Proof.Machine.State

variable {s t u : State}

/-! The recorder (R382, R384). -/

/-- From `s` to `t` the recorder may have written: the seats, the launches and every register but its own stay. -/
structure Recorded (s t : State) : Prop where
  seats    : t.seats = s.seats
  launches : t.launches = s.launches
  reg      : ∀ r, r ≠ ecReg 0x818 → r ≠ ecReg 0x838 → t.reg r = s.reg r

theorem Recorded.refl (s : State) : Recorded s s := ⟨rfl, rfl, fun _ _ _ => rfl⟩

theorem ringPut_frame (base size i k : Nat) (bs : List Byte) (s : State) : ∃ mem poison upset,
    s.ringPut base size i k bs = { s with csMem := mem, csPoison := poison, csUpset := upset } := by
  induction k generalizing s i bs with
  | zero => exact ⟨s.csMem, s.csPoison, s.csUpset, rfl⟩
  | succ k ih =>
    obtain ⟨mem, poison, upset, h⟩ := ih (i + 1) (bs.drop 64) (s.csWrite (base + i % size * 64) (bs.take 64))
    exact ⟨mem, poison, upset, h⟩

theorem recWrite_recorded (s : State) (h : RecHead) (step : Nat) (payload : List Byte) :
    Recorded s (s.recWrite h step payload) := by
  unfold recWrite
  extract_lets bs units old u v
  split
  · exact Recorded.refl s
  · split
    · exact ⟨rfl, rfl, fun r _ hlog => reg_raise_other _ _ hlog⟩
    · obtain ⟨mem, poison, upset, hput⟩ :=
        ringPut_frame s.recRing.1 s.recRing.2 (s.regN (ecReg 0x818)) units bs s
      have hu : u = _ := hput
      refine ⟨?_, ?_, fun r hprod _ => ?_⟩
      · change v.seats = _
        simp only [v, hu, setReg_seats]
      · change v.launches = _
        simp only [v, hu, setReg_launches]
      · change v.reg r = _
        simp only [v, reg_setReg_other _ _ hprod, hu]
        rfl

theorem recordHost_recorded (s : State) (kind addr value : Nat) (payload : List Byte) :
    Recorded s (s.recordHost kind addr value payload) := by
  unfold recordHost record
  split
  · exact recWrite_recorded s _ _ _
  · exact Recorded.refl s

theorem recordHost_of_idle (kind addr value : Nat) (payload : List Byte) (h : s.recording = false) :
    s.recordHost kind addr value payload = s := by
  simp [recordHost, record, h]

/-! A doorbell that reaches its seat, by the seat's STATE (R35, R51, R52). -/

section

variable {n off : Nat} {b : Bell} (hopen : s.bellOpen n b)

include hopen

theorem bell_of_waking (h : (s.seat n).state = .waking) : s.bell n off b =
    s.modSeat n fun r => { r with heldBells := r.heldBells ++ [{ offset := off, value := b.value }] } := by
  obtain ⟨hlive, hpart, hbar, hsize, hreplay, htdi⟩ := hopen
  simp [bell, hlive, hpart, hbar, hsize, hreplay, htdi, h]

theorem bell_of_idle (hactive : (s.seat n).state ≠ .active) (hwaking : (s.seat n).state ≠ .waking) :
    s.bell n off b = s.raise (ctReg (n / 16) 0xC) 2 := by
  obtain ⟨hlive, hpart, hbar, hsize, hreplay, htdi⟩ := hopen
  cases hstate : (s.seat n).state <;> simp_all [bell]

theorem bell_of_active (h : (s.seat n).state = .active) : s.bell n off b =
    if (s.ringBell n off b.value).1 then
      (s.ringBell n off b.value).2.recordHost 4 (n * 0x1000 + off) b.value.toNat []
    else (s.ringBell n off b.value).2 := by
  obtain ⟨hlive, hpart, hbar, hsize, hreplay, htdi⟩ := hopen
  simp [bell, hlive, hpart, hbar, hsize, hreplay, htdi, h]

/-- An accepted value takes effect, and is recorded. -/
theorem bell_of_accepted (h : (s.seat n).state = .active) (hring : s.ringBell n off b.value = (true, u)) :
    Recorded u (s.bell n off b) := by
  rw [bell_of_active hopen h, hring]
  exact recordHost_recorded u _ _ _ _

theorem bell_of_refused (h : (s.seat n).state = .active) (hring : s.ringBell n off b.value = (false, u)) :
    s.bell n off b = u := by
  rw [bell_of_active hopen h, hring]
  rfl

end

/-! What a doorbell's value does (R59). -/

theorem prodOk_iff {n : Nat} {v : Word} : s.prodOk n v = true ↔
    (v - s.reg (seatReg n 0x1C)).toNat ≤ 2 ^ s.regField (seatReg n 0x18) 4 0 ∧
      (v - (s.seat n).prodAcc).toNat ≤ 2 ^ s.regField (seatReg n 0x18) 4 0 := by
  rw [prodOk, decide_eq_true_eq, ringEntries, ringSize]

theorem ringBell_prod (s : State) (n : Nat) (v : Word) : s.ringBell n 0x0 v =
    if s.prodOk n v then (true, (s.modSeat n fun r => { r with prodAcc := v }).refreshWd n)
    else (false, s.raise (seatReg n 0x64) 1) := rfl

theorem ringBell_launch (s : State) (n : Nat) (v : Word) : s.ringBell n 0x4 v =
    if v.toNat % 2 ^ 16 = 0 then (false, s)
    else if (s.launch n (field v 21 16) (v.toNat % 2 ^ 16) none).1 = .accepted then
      (true, (s.launch n (field v 21 16) (v.toNat % 2 ^ 16) none).2.modSeat n fun r => { r with gqAcc := v })
    else (false, (s.launch n (field v 21 16) (v.toNat % 2 ^ 16) none).2) := rfl

/-- The completion that a full ring held comes about once a consumer index makes room (R69). -/
def heldCompletes (s : State) (n : Nat) : State :=
  match (s.seat n).cqHeld with
  | some idx =>
    if s.cqFull n then s
    else
      match s.findRun n idx with
      | some q => s.endOf n q
      | none => s.modSeat n fun r => { r with cqHeld := none }
  | none => s

theorem heldCompletes_of_none {n : Nat} (h : (s.seat n).cqHeld = none) : s.heldCompletes n = s := by
  simp only [heldCompletes, h]

theorem ringBell_cq (s : State) (n : Nat) (v : Word) : s.ringBell n 0x8 v =
    if (s.reg (seatReg n 0x28) - v).toNat ≤ 2 ^ s.regField (seatReg n 0x24) 4 0 ∧
        (v - (s.seat n).cqAcc).toNat ≤ 2 ^ s.regField (seatReg n 0x24) 4 0 then
      (true, (s.modSeat n fun r => { r with cqAcc := v }).heldCompletes n)
    else (false, s.raise (seatReg n 0x64) 1) := by
  have hheld : ((s.modSeat n fun r => { r with cqAcc := v }).seat n).cqHeld = (s.seat n).cqHeld := by
    rw [seat_modSeat_same]
  by_cases hok : (s.reg (seatReg n 0x28) - v).toNat ≤ 2 ^ s.regField (seatReg n 0x24) 4 0 ∧
      (v - (s.seat n).cqAcc).toNat ≤ 2 ^ s.regField (seatReg n 0x24) 4 0
  · rw [if_pos hok, heldCompletes, hheld]
    refine (if_pos hok).trans ?_
    cases (s.seat n).cqHeld with
    | none => rfl
    | some idx =>
      dsimp only
      split
      · rfl
      · cases (s.modSeat n fun r => { r with cqAcc := v }).findRun n idx <;> rfl
  · rw [if_neg hok]
    exact if_neg hok

theorem ringBell_eq (s : State) (n : Nat) (v : Word) : s.ringBell n 0xC v =
    if (s.reg (seatReg n 0x34) - v).toNat ≤ 2 ^ s.regField (seatReg n 0x30) 4 0 ∧
        (v - (s.seat n).eqAcc).toNat ≤ 2 ^ s.regField (seatReg n 0x30) 4 0 then
      (true, s.modSeat n fun r => { r with eqAcc := v })
    else (false, s.raise (seatReg n 0x64) 1) := rfl

end Sys2Proof.Machine.State
end

namespace Sys2Proof.SMap

/-- A map whose values all change, in a way that keeps the default. -/
theorem get_map {α : Type} (d : α) (m : SMap α) (f : Nat → α → α) (hf : ∀ k, f k d = d) (k : Nat) :
    get d (m.map fun e => (e.1, f e.1 e.2)) k = f k (get d m k) := by
  induction m with
  | nil => exact (hf k).symm
  | cons e m ih =>
    by_cases he : e.1 = k
    · simp [get, find?, he]
    · simpa [get, find?, he] using ih

end Sys2Proof.SMap

section
/-! SUPPORT. What completions and faults leave of the other indices of a seat and of its runs (R68, R69). -/

namespace Sys2Proof.Machine

namespace State

/-- A tumbler's write restarts watchdogs, and changes no seat beside (R403). -/
theorem setTumbler_seat (s : State) (k : Nat) (v : Word) (m : Nat) :
    ∃ w, (s.setTumbler k v).seat m = { s.seat m with wdStart := w } := by
  unfold setTumbler
  extract_lets changed u
  have hseats : u.seats = s.seats := setReg_seats _ _ _
  split
  · refine ⟨if u.ownsTumbler m k then (s.seat m).wdStart.map fun _ => s.now else (s.seat m).wdStart, ?_⟩
    rw [hseats]
    refine (SMap.get_map SeatRec.fresh s.seats
      (fun j r => if u.ownsTumbler j k then { r with wdStart := r.wdStart.map fun _ => s.now } else r)
      (fun j => ite_self _) m).trans ?_
    rw [← seat]
    split <;> rfl
  · exact ⟨(s.seat m).wdStart, by rw [seat_congr hseats]⟩

theorem sideStep_seats (s : State) (n : Nat) (r : Run) : (s.sideStep n r).seats = s.seats := by
  unfold sideStep
  extract_lets w bs u
  have hu : u.seats = s.seats := rfl
  clear_value u
  split
  · rfl
  · split
    · rfl
    · split
      · exact (originate_seats _ _ _ _).trans hu
      · exact hu

theorem issueRead_seats (s : State) (n : Nat) (idx : Word) (host cs len tag : Nat) (fence : Bool) :
    (s.issueRead n idx host cs len tag fence).seats = s.seats := by
  unfold issueRead
  extract_lets u
  split <;> rfl

theorem collCount_frame (s : State) (r : Run) : ∃ objs, s.collCount r = { s with objs := objs } := by
  unfold collCount
  split_ifs
  · exact ⟨s.objs, rfl⟩
  · exact ⟨_, rfl⟩
  · exact ⟨_, rfl⟩
  · exact ⟨s.objs, rfl⟩

end State

/-- From `s` to `t` no consumer index of a completion ring moves, and no descriptor enters work. -/
structure Served (s t : State) : Prop where
  cqAcc : ∀ m, (t.seat m).cqAcc = (s.seat m).cqAcc
  runs  : ∀ m, ∀ q ∈ (t.seat m).running, ∃ r ∈ (s.seat m).running, r.index = q.index

namespace Served

variable {s t u : State}

theorem refl (s : State) : Served s s := ⟨fun _ => rfl, fun _ q hq => ⟨q, hq, rfl⟩⟩

theorem trans (h : Served s t) (k : Served t u) : Served s u := by
  refine ⟨fun m => (k.cqAcc m).trans (h.cqAcc m), fun m q hq => ?_⟩
  obtain ⟨r, hr, hidx⟩ := k.runs m q hq
  obtain ⟨r₀, hr₀, hidx₀⟩ := h.runs m r hr
  exact ⟨r₀, hr₀, hidx₀.trans hidx⟩

theorem of_seats (h : t.seats = s.seats) : Served s t := by
  refine ⟨fun m => by rw [State.seat_congr h], fun m q hq => ?_⟩
  rw [State.seat_congr h] at hq
  exact ⟨q, hq, rfl⟩

/-- The records of the seats change, but neither their consumer indices nor their runs. -/
theorem of_seat (hcq : ∀ m, (t.seat m).cqAcc = (s.seat m).cqAcc) (hrun : ∀ m, (t.seat m).running = (s.seat m).running) :
    Served s t := by
  refine ⟨hcq, fun m q hq => ?_⟩
  rw [hrun] at hq
  exact ⟨q, hq, rfl⟩

theorem ite {c : Prop} [Decidable c] {a b : State} (h : Served s a) (k : Served s b) :
    Served s (if c then a else b) := by
  split
  · exact h
  · exact k

theorem fold {α : Type} {f : State → α → State} (h : ∀ u x, Served u (f u x)) (l : List α) (s : State) :
    Served s (l.foldl f s) := by
  induction l generalizing s with
  | nil => exact refl s
  | cons x l ih => exact (h s x).trans (ih _)

/-! The records of seats. -/

theorem modSeat (s : State) (n : Nat) {f : SeatRec → SeatRec} (hcq : ∀ r, (f r).cqAcc = r.cqAcc)
    (hruns : ∀ r, ∀ q ∈ (f r).running, ∃ p ∈ r.running, p.index = q.index) : Served s (s.modSeat n f) := by
  constructor <;> intro m <;> by_cases hm : m = n
  · rw [hm, State.seat_modSeat_same, hcq]
  · rw [State.seat_modSeat_other _ _ hm]
  · rw [hm, State.seat_modSeat_same]
    exact hruns _
  · rw [State.seat_modSeat_other _ _ hm]
    exact fun q hq => ⟨q, hq, rfl⟩

/-- A record of which neither the consumer index nor the runs change. -/
theorem setSeatOther (s : State) (n : Nat) {f : SeatRec → SeatRec} (hcq : ∀ r, (f r).cqAcc = r.cqAcc)
    (hrun : ∀ r, (f r).running = r.running) : Served s (s.modSeat n f) :=
  modSeat s n hcq fun r q hq => ⟨q, by rwa [hrun] at hq, rfl⟩

theorem modRun (s : State) (n : Nat) (idx : Word) {f : Run → Run} (hf : ∀ q, (f q).index = q.index) :
    Served s (s.modRun n idx f) := by
  refine modSeat s n (fun _ => rfl) fun r q hq => ?_
  obtain ⟨p, hp, rfl⟩ := List.mem_map.mp hq
  refine ⟨p, hp, ?_⟩
  split
  · exact (hf p).symm
  · rfl

theorem refreshWd (s : State) (n : Nat) : Served s (s.refreshWd n) := by
  refine of_seat (fun m => ?_) fun m => ?_ <;> obtain ⟨w, hw⟩ := State.refreshWd_seat s n m <;> rw [hw]

theorem dropRun (s : State) (n : Nat) (idx : Word) : Served s (s.dropRun n idx) := by
  have hmod := modSeat s n (f := fun q => { q with running := q.running.filter fun r => decide (r.index ≠ idx) })
    (fun _ => rfl) fun _ q hq => ⟨q, (List.mem_filter.mp hq).1, rfl⟩
  exact hmod.trans (refreshWd _ n)

theorem signalSeat (s : State) (n : Nat) : Served s (s.signalSeat n) := by
  refine of_seat (fun m => ?_) fun m => ?_ <;> obtain ⟨q, e, h⟩ := State.signalSeat_seat s n m <;> rw [h]

theorem tdiError (s : State) (n : Nat) : Served s (s.tdiError n) := by
  refine of_seat (fun m => ?_) fun m => ?_ <;> obtain ⟨d, h⟩ := State.tdiError_seat s n m <;> rw [h]

theorem toState (s : State) (n : Nat) (st : SeatState) : Served s (s.toState n st) := by
  unfold State.toState
  refine ite (refl s) (((?_ : Served s _).trans (signalSeat _ _)).trans (refreshWd _ _))
  have htake := setSeatOther s n (f := fun r => { r with state := st }) (fun _ => rfl) fun _ => rfl
  exact ite ((htake.trans (tdiError _ _)).trans (of_seats (State.traceLost_seats _ _))) htake

theorem faultSeat (s : State) (n cause : Nat) : Served s (s.faultSeat n cause) := by
  unfold State.faultSeat
  refine ite ((toState s n .faulted).trans (trans ?_ (of_seats (State.originate_seats _ _ _ _)))) (refl s)
  exact setSeatOther _ n (fun _ => rfl) fun _ => rfl

/-! What a completion does beside (R68, R367, R403). -/

theorem completionRecord (s : State) (n tag status opcode : Nat) :
    Served s (s.completionRecord n tag status opcode) := by
  unfold State.completionRecord
  extract_lets i a bs
  exact trans (t := (s.csWrite a bs).setReg (seatReg n 0x28) (BitVec.ofNat 32 (i + 1))) (of_seats rfl) (signalSeat _ n)

theorem setTumbler (s : State) (k : Nat) (v : Word) : Served s (s.setTumbler k v) := by
  refine of_seat (fun m => ?_) fun m => ?_ <;> obtain ⟨w, hw⟩ := State.setTumbler_seat s k v m <;> rw [hw]

theorem sideStep (s : State) (n : Nat) (r : Run) : Served s (s.sideStep n r) := of_seats (State.sideStep_seats s n r)

/-- The reads that are issued now are of runs in work. -/
theorem pumpReads (s : State) : Served s s.pumpReads := by
  unfold State.pumpReads
  refine fold (fun u n => fold (fun v r => ?_) _ u) _ s
  split
  · exact refl v
  · split
    · exact trans (of_seats (State.issueRead_seats _ _ _ _ _ _ _ _)) (modRun _ _ _ fun _ => rfl)
    · exact ite (trans (of_seats (State.issueRead_seats _ _ _ _ _ _ _ _)) (modRun _ _ _ fun _ => rfl)) (refl v)
    · exact refl v

end Served

namespace State

/-! The steps of a completion (R68). -/

/-- The descriptor leaves its seat, and the partition's watchdog starts anew. -/
def runLeft (s : State) (n : Nat) (r : Run) : State :=
  let u := (s.dropRun n r.index).modSeat n fun q => { q with cqHeld := q.cqHeld.filter fun j => decide (j ≠ r.index) }
  u.modPart (n / 16) fun p => { p with wdStart := p.wdStart.map fun _ => u.now }

/-- The ADVANCE that the status lets happen. -/
def runAdvanced (s : State) (r : Run) : State :=
  if (statusEffect (opcodeOf r.words) r.status).1 && wB r.words 0 14 then
    s.setTumbler (wF r.words 2 28 16) (s.tumbler (wF r.words 2 28 16) + 1)
  else s

/-- The completion record, where one is due. -/
def runRecorded (s : State) (n : Nat) (r : Run) : State :=
  if wB r.words 0 15 || decide (r.status ≠ 0) then s.completionRecord n (tagOf r.words) r.status (opcodeOf r.words) else s

/-- The seat's fate. -/
def runJudged (s : State) (n : Nat) (r : Run) : State :=
  if (statusEffect (opcodeOf r.words) r.status).2 then s.seatFault n else s

theorem complete_eq (s : State) (n : Nat) (r : Run) : s.complete n r =
    (((((s.runLeft n r).trace n (tagOf r.words) (opcodeOf r.words) 2 r.status r.unit).runAdvanced r).runRecorded n
      r).runJudged n r).refreshWd n := rfl

end State

namespace Served

theorem runLeft (s : State) (n : Nat) (r : Run) : Served s (s.runLeft n r) := by
  unfold State.runLeft
  extract_lets u
  have hu : Served (s.dropRun n r.index) u := setSeatOther _ n (fun _ => rfl) fun _ => rfl
  exact ((dropRun s n r.index).trans hu).trans (of_seats (State.modPart_seats _ _ _))

theorem trace (s : State) (n tag opcode event st unit : Nat) : Served s (s.trace n tag opcode event st unit) :=
  of_seats (State.trace_kept s n tag opcode event st unit).1

/-- All that a completion does once the descriptor has left its seat. -/
theorem afterLeft (s : State) (n : Nat) (r : Run) : Served (s.runLeft n r) (s.complete n r) := by
  rw [State.complete_eq]
  have h (u : State) : Served u ((((u.runAdvanced r).runRecorded n r).runJudged n r).refreshWd n) :=
    (((ite (setTumbler u _ _) (refl u)).trans (ite (completionRecord _ _ _ _ _) (refl _))).trans
      (ite (faultSeat _ _ _) (refl _))).trans (refreshWd _ _)
  exact (trace _ _ _ _ _ _ _).trans (h _)

theorem endOf (s : State) (n : Nat) (r : Run) : Served s (s.endOf n r) := by
  unfold State.endOf
  extract_lets fence q u v
  refine ite (setSeatOther s n (fun _ => rfl) fun _ => rfl) ?_
  have hu : Served s u := ite (of_seats rfl) (refl s)
  obtain ⟨objs, hcount⟩ := State.collCount_frame u q
  have hv : Served s v := by
    refine (hu.trans ?_).trans ((runLeft _ n q).trans (afterLeft _ n q))
    exact of_seats (by rw [hcount])
  exact (hv.trans (sideStep _ _ _)).trans (pumpReads _)

theorem heldCompletes (s : State) (n : Nat) : Served s (s.heldCompletes n) := by
  unfold State.heldCompletes
  split
  · split
    · exact refl s
    · split
      · exact endOf s n _
      · exact setSeatOther s n (fun _ => rfl) fun _ => rfl
  · exact refl s

end Served

end Sys2Proof.Machine
end

section
/-! PROOFS. Doorbells. -/

namespace Sys2Proof.Proofs

open Sys2Proof.Machine Sys2Proof.Machine.State

section

variable {s : State} {n : SeatNo} {b : Bell} (hopen : s.bellOpen n.val b)

include hopen

/-- A doorbell of a seat that is not ACTIVE (R35, R52). -/
theorem doorbell_of_not_active {c : Instr}
    (hc : c = .ringProd n b ∨ c = .gqLaunch n b ∨ c = .cqCons n b ∨ c = .eqCons n b) :
    ((s.seat n.val).state ≠ .active → (s.seat n.val).state ≠ .waking →
      exec c s = .next (s.raise (ctReg (n.val / 16) 0xC) 2)) ∧
    ((s.seat n.val).state = .waking →
      ∃ t off, exec c s = .next t ∧
        (t.seat n.val).heldBells = (s.seat n.val).heldBells ++ [{ offset := off, value := b.value }] ∧
        t = { s with seats := t.seats }) := by
  obtain ⟨off, hexec⟩ : ∃ off, exec c s = .next (s.bell n.val off b) := by
    rcases hc with rfl | rfl | rfl | rfl
    exacts [⟨0x0, rfl⟩, ⟨0x4, rfl⟩, ⟨0x8, rfl⟩, ⟨0xC, rfl⟩]
  rw [hexec]
  refine ⟨fun hactive hwaking => congrArg Host.Outcome.next (bell_of_idle hopen hactive hwaking), fun hwaking => ?_⟩
  refine ⟨_, off, rfl, ?_, ?_⟩ <;> rw [bell_of_waking hopen hwaking]
  · rw [seat_modSeat_same]
  · rfl

variable (hactive : (s.seat n.val).state = .active)

include hactive

/-- RING_PROD (R59). -/
theorem ringProd_of_active :
    (s.prodOk n.val b.value = true → ∃ t, exec (.ringProd n b) s = .next t ∧ (t.seat n.val).prodAcc = b.value ∧
      (t.seat n.val).head = (s.seat n.val).head ∧ (t.seat n.val).running = (s.seat n.val).running) ∧
    (s.prodOk n.val b.value = false → exec (.ringProd n b) s = .next (s.raise (seatReg n.val 0x64) 1)) := by
  have hring := ringBell_prod s n.val b.value
  constructor <;> intro hok <;> rw [hok] at hring
  · have hrec := bell_of_accepted hopen hactive hring
    obtain ⟨w, hw⟩ := refreshWd_seat (s.modSeat n.val fun r => { r with prodAcc := b.value }) n.val n.val
    refine ⟨_, rfl, ?_⟩
    rw [seat_congr hrec.seats, hw, seat_modSeat_same]
    exact ⟨rfl, rfl, rfl⟩
  · exact congrArg Host.Outcome.next (bell_of_refused hopen hactive hring)

/-- CQ_CONS (R59, R69). -/
theorem cqCons_of_active :
    let ok := (s.reg (seatReg n.val 0x28) - b.value).toNat ≤ 2 ^ s.regField (seatReg n.val 0x24) 4 0 ∧
      (b.value - (s.seat n.val).cqAcc).toNat ≤ 2 ^ s.regField (seatReg n.val 0x24) 4 0
    (ok → ∃ t, exec (.cqCons n b) s = .next t ∧ (t.seat n.val).cqAcc = b.value ∧
      ((s.seat n.val).cqHeld = none → (t.seat n.val).prodAcc = (s.seat n.val).prodAcc)) ∧
    (¬ ok → exec (.cqCons n b) s = .next (s.raise (seatReg n.val 0x64) 1)) := by
  intro ok
  have hring := ringBell_cq s n.val b.value
  constructor <;> intro hok
  · rw [if_pos hok] at hring
    have hrec := bell_of_accepted hopen hactive hring
    set u := s.modSeat n.val fun r => { r with cqAcc := b.value } with hu
    have hseat : u.seat n.val = { s.seat n.val with cqAcc := b.value } := seat_modSeat_same _ _ _
    refine ⟨_, rfl, ?_, fun hheld => ?_⟩ <;> rw [seat_congr hrec.seats]
    · rw [(Served.heldCompletes u n.val).cqAcc, hseat]
    · have hnone : (u.seat n.val).cqHeld = none := by rw [hseat]; exact hheld
      rw [heldCompletes_of_none hnone, hseat]
  · rw [if_neg hok] at hring
    exact congrArg Host.Outcome.next (bell_of_refused hopen hactive hring)

/-- EQ_CONS (R59). -/
theorem eqCons_of_active :
    let ok := (s.reg (seatReg n.val 0x34) - b.value).toNat ≤ 2 ^ s.regField (seatReg n.val 0x30) 4 0 ∧
      (b.value - (s.seat n.val).eqAcc).toNat ≤ 2 ^ s.regField (seatReg n.val 0x30) 4 0
    (ok → ∃ t, exec (.eqCons n b) s = .next t ∧ (t.seat n.val).eqAcc = b.value ∧
      (t.seat n.val).cqAcc = (s.seat n.val).cqAcc) ∧
    (¬ ok → exec (.eqCons n b) s = .next (s.raise (seatReg n.val 0x64) 1)) := by
  intro ok
  have hring := ringBell_eq s n.val b.value
  constructor <;> intro hok
  · rw [if_pos hok] at hring
    have hrec := bell_of_accepted hopen hactive hring
    refine ⟨_, rfl, ?_⟩
    rw [seat_congr hrec.seats, seat_modSeat_same]
    exact ⟨rfl, rfl⟩
  · rw [if_neg hok] at hring
    exact congrArg Host.Outcome.next (bell_of_refused hopen hactive hring)

end

/-- Settles O10: the seat's STATE decides what becomes of a doorbell, and an ACTIVE seat accepts an index by R59 alone;
what a completion that the ring held does then moves no consumer index (R35, R51, R52, R59, R69). -/
theorem ringDoorbells : Obligations.RingDoorbells := by
  refine ⟨fun s n b hopen c hc => doorbell_of_not_active hopen hc, fun s n b hopen hactive => ?_,
    fun s n b hopen hactive => ⟨cqCons_of_active hopen hactive, eqCons_of_active hopen hactive⟩⟩
  obtain ⟨haccepted, hrefused⟩ := ringProd_of_active hopen hactive
  exact ⟨fun hok => haccepted (prodOk_iff.2 hok),
    fun hbad => hrefused (Bool.eq_false_iff.2 fun hok => hbad (prodOk_iff.1 hok))⟩

end Sys2Proof.Proofs
end

section
/-! SUPPORT. The host's window on the Central Store: clean reads, and what a read or a write does (R50, R74, R75). -/

namespace Sys2Proof.Machine.State

variable {s : State}

/-! Reads of sectors that carry neither poison nor a latent error (R239, R240). -/

theorem csFetchAll_of_clean {l : List Nat}
    (h : ∀ sec ∈ l, s.csPoisoned sec = false ∧ SMap.get EccSeen.clean s.csUpset sec = .clean) :
    s.csFetchAll l = (false, s) := by
  induction l with
  | nil => rfl
  | cons sec l ih =>
    obtain ⟨hpoison, hclean⟩ := h sec List.mem_cons_self
    have hfetch : s.csFetch sec = (false, s) := by simp [csFetch, hpoison, hclean]
    have hrest := ih fun x hx => h x (List.mem_cons_of_mem _ hx)
    simp only [csFetchAll, hfetch, hrest, Bool.or_self]

theorem csRead_of_clean {a n : Nat} (h : s.clean a n) : s.csRead a n = (s.csBytes a n, false, s) := by
  rw [csRead, csFetchAll_of_clean h]

theorem length_csBytes (s : State) (a n : Nat) : (s.csBytes a n).length = n := by simp [csBytes]

theorem getD_csBytes (s : State) (a : Nat) {n i : Nat} (h : i < n) : (s.csBytes a n).getD i 0 = s.csByte (a + i) := by
  simp [csBytes, h]

/-- Stored bytes are read back, and no other byte changes. -/
theorem csWrite_holds (s : State) (a : Nat) (bs : List Byte) : (s.csWrite a bs).holds a bs := fun i hi => by
  rw [csByte_csWrite_inside _ _ _ hi, List.getD_eq_getElem _ _ hi]

theorem csWrite_storeOnly (s : State) (a : Nat) (bs : List Byte) : s.storeOnly (s.csWrite a bs) a bs.length :=
  fun _ hx => csByte_csWrite_outside _ _ _ hx

/-! A BAR2 read (R50, R74, R75, R440). -/

section

variable {a len n : Nat} {tlp : Tlp} (hbar : bit (s.reg (hiReg 0)) 1 = true)

include hbar

theorem bar2Read_of_no_window (h : s.hostWinSeat a len = none) :
    s.bar2Read a len tlp = (zeros len, false, s.denied) := by
  simp [bar2Read, hbar, h]

variable (hwin : s.hostWinSeat a len = some n)

include hwin

theorem bar2Read_of_not_admitted (h : s.tdiAllows n tlp = false) :
    s.bar2Read a len tlp = (zeros len, false, s.denied) := by
  simp [bar2Read, hbar, hwin, h]

variable (htdi : s.tdiAllows n tlp = true)

include htdi

theorem bar2Read_of_no_output (h : s.pendingRegion n a len = none) (hclean : s.clean a len) :
    s.bar2Read a len tlp = (s.csBytes a len, false, s) := by
  simp [bar2Read, hbar, hwin, htdi, h, csRead_of_clean hclean]

theorem bar2Read_of_guarded {r : Run} (h : s.pendingRegion n a len = some r) (hguard : s.guardOn n = true) :
    s.bar2Read a len tlp = (List.replicate len 0xFF, false, s.raise (seatReg n 0x64) 2) := by
  simp [bar2Read, hbar, hwin, htdi, h, hguard]

theorem bar2Read_of_unguarded {r : Run} (h : s.pendingRegion n a len = some r) (hguard : s.guardOn n = false)
    (hclean : s.clean a len) : s.bar2Read a len tlp =
      ((s.csBytes a len).mapIdx fun i b => s.pendingOr n (a + i) b, false, s) := by
  simp [bar2Read, hbar, hwin, htdi, h, hguard, csRead_of_clean hclean]

end

/-- With the guard off a byte that no descriptor in work writes is the stored one (R75). -/
theorem pendingOr_of_free {n x : Nat} (b : Byte) (h : ∀ q ∈ (s.seat n).running, ∀ g ∈ q.guard, g.holds x = false) :
    s.pendingOr n x b = b := by
  have hnone : ((s.seat n).running.find? fun r => r.guard.any fun g => g.holds x) = none := by
    rw [List.find?_eq_none]
    intro q hq
    simpa using h q hq
  rw [pendingOr, hnone]

/-! A BAR2 write (R50, R74, R440). -/

section

variable {a n : Nat} {bs : List Byte} {tlp : Tlp} (hreplay : s.rec_.replay = false)
  (hbar : bit (s.reg (hiReg 0)) 1 = true)

include hreplay hbar

theorem bar2Write_of_no_window (h : s.hostWinSeat a bs.length = none) : s.bar2Write a bs tlp = s.denied := by
  simp [bar2Write, hreplay, hbar, h]

variable (hwin : s.hostWinSeat a bs.length = some n)

include hwin

theorem bar2Write_of_not_admitted (h : s.tdiAllows n tlp = false) : s.bar2Write a bs tlp = s.denied := by
  simp [bar2Write, hreplay, hbar, hwin, h]

variable (htdi : s.tdiAllows n tlp = true)

include htdi

theorem bar2Write_of_guarded {r : Run} (hguard : s.guardOn n = true) (h : s.pendingRegion n a bs.length = some r) :
    s.bar2Write a bs tlp = s.raise (seatReg n 0x64) 4 := by
  simp [bar2Write, hreplay, hbar, hwin, htdi, hguard, h]

theorem bar2Write_of_free (h : s.guardOn n = false ∨ s.pendingRegion n a bs.length = none) :
    s.bar2Write a bs tlp = (s.csWrite a bs).recordHost 2 a 0 bs := by
  rcases h with h | h <;> simp [bar2Write, hreplay, hbar, hwin, htdi, h]

end

end Sys2Proof.Machine.State
end

section
/-! PROOFS. The host's window. -/

namespace Sys2Proof.Proofs

open Sys2Proof.Machine Sys2Proof.Machine.State

theorem exec_bar2Read {s : State} (a len : Nat) (tlp : Tlp) (hlive : s.barLive = true) (hboot : s.fw.boot ≠ .failed) :
    exec (.bar2Read a len tlp) s = .next ((s.bar2Read a len tlp).2.2.emit
      (.readData (s.bar2Read a len tlp).1 (s.bar2Read a len tlp).2.1)) := by
  change execBar2Read a len tlp s = _
  simp [execBar2Read, hlive, hboot]

theorem exec_bar2Write {s : State} (a : Nat) (bs : List Byte) (tlp : Tlp) (hlive : s.barLive = true) :
    exec (.bar2Write a bs tlp) s = .next (s.bar2Write a bs tlp) := by
  change execBar2Write a bs tlp s = _
  simp [execBar2Write, hlive]

/-- Settles O12: a read or a write goes by its window, TDISP, the pending outputs and the guard, in that order (R50, R74,
R75, R440; an access that runs over a window's edge lies in none, log entry 65). -/
theorem hostWindow : Obligations.HostWindow := by
  refine ⟨?_, ?_⟩
  · intro s a len tlp hlive hboot hbar
    rw [exec_bar2Read a len tlp hlive hboot]
    refine ⟨fun hnone => ?_, fun n hwin htdi => ?_, fun n hwin htdi hfree hclean => ?_, fun n r hwin htdi hout hguard => ?_,
      fun n r hwin htdi hout hguard hclean => ?_⟩
    · rw [bar2Read_of_no_window hbar hnone]
    · rw [bar2Read_of_not_admitted hbar hwin htdi]
    · rw [bar2Read_of_no_output hbar hwin htdi hfree hclean]
    · rw [bar2Read_of_guarded hbar hwin htdi hout hguard]
    · rw [bar2Read_of_unguarded hbar hwin htdi hout hguard hclean]
      refine ⟨_, rfl, by rw [List.length_mapIdx, length_csBytes], fun i hi hno => ?_⟩
      have hlen : i < (s.csBytes a len).length := by rw [length_csBytes]; exact hi
      rw [List.getD_eq_getElem _ _ (by rw [List.length_mapIdx]; exact hlen), List.getElem_mapIdx, pendingOr_of_free _ hno,
        ← List.getD_eq_getElem _ 0 hlen, getD_csBytes s a hi]
  · intro s a bs tlp hlive hbar hreplay
    rw [exec_bar2Write a bs tlp hlive]
    refine ⟨fun hnone => ?_, fun n hwin htdi => ?_, fun n r hwin htdi hguard hout => ?_, fun n hwin htdi hfree hidle => ?_⟩
    · rw [bar2Write_of_no_window hreplay hbar hnone]
    · rw [bar2Write_of_not_admitted hreplay hbar hwin htdi]
    · rw [bar2Write_of_guarded hreplay hbar hwin htdi hguard hout]
    · have hrec : (s.csWrite a bs).recordHost 2 a 0 bs = s.csWrite a bs := recordHost_of_idle _ _ _ _ hidle
      refine ⟨_, rfl, ?_⟩
      rw [bar2Write_of_free hreplay hbar hwin htdi hfree, hrec]
      exact ⟨csWrite_holds s a bs, csWrite_storeOnly s a bs, rfl⟩

end Sys2Proof.Proofs
end

section
/-! SUPPORT. Group launches: how one is judged, and what it does at its instant (R63 to R67). -/

namespace Sys2Proof.Machine.State

variable {s t u : State}

/-! How a launch is judged (R64). -/

/-- The conditions of R64: the queue is on, no member is gone, no parity is bad, and every member's ring has room. -/
def launchOk (s : State) (g count : Nat) : Prop :=
  bit (s.reg (gqReg g 0)) 31 = true ∧ s.memberGone g = false ∧ s.gqParityBad g = false ∧
    ∀ m ∈ s.gqMembers g, s.prodOk m ((s.seat m).prodAcc + BitVec.ofNat 32 count) = true

section

variable {n g : Nat} (count : Nat) (asker : Option (Nat × Word))

theorem launch_of_other (h : s.gqOwner g ≠ n) : s.launch n g count asker = (.notOwner, s.raise (gqReg g 8) 2) := by
  rw [launch, if_pos h]

theorem launch_of_bad (howner : s.gqOwner g = n) (h : ¬ s.launchOk g count) :
    s.launch n g count asker = (.refused, s.raise (gqReg g 8) 1) := by
  rw [launch, if_neg (not_not.2 howner), if_pos]
  by_contra hno
  simp only [Bool.or_eq_true, not_or, Bool.not_eq_true, List.any_eq_false, Bool.not_eq_true'] at hno
  obtain ⟨⟨⟨hon, hgone⟩, hparity⟩, hroom⟩ := hno
  exact h ⟨by simpa using hon, hgone, hparity, fun m hm => by simpa using hroom m hm⟩

theorem launch_of_ok (howner : s.gqOwner g = n) (h : s.launchOk g count) : s.launch n g count asker =
    (.accepted, { s with launches := s.launches ++
      [{ gq := g, count := count, due := launchInstant s.now, asker := asker }] }) := by
  obtain ⟨hon, hgone, hparity, hroom⟩ := h
  have hany : ((s.gqMembers g).any fun m => !s.prodOk m ((s.seat m).prodAcc + BitVec.ofNat 32 count)) = false :=
    List.any_eq_false.2 fun m hm => by simp [hroom m hm]
  rw [launch, if_neg (not_not.2 howner), if_neg (by simp [hon, hgone, hparity, hany])]

end

/-- The instant of R65. -/
theorem launchInstant_spec (t : Nat) :
    t + 128 ≤ launchInstant t ∧ launchInstant t < t + 192 ∧ launchInstant t % 64 = 0 := by
  unfold launchInstant
  omega

/-- The members and owner of a queue are in its registers. -/
theorem gqMembers_congr {g : Nat} (h : ∀ o < 0x80, t.reg (gqReg g o) = s.reg (gqReg g o)) :
    t.gqMembers g = s.gqMembers g := by
  refine List.filter_congr fun n hn => ?_
  have hlt : n < 512 := List.mem_range.1 hn
  rw [gqMember, h _ (by omega), gqMember]

theorem gqOwner_congr {g : Nat} (h : ∀ o < 0x80, t.reg (gqReg g o) = s.reg (gqReg g o)) : t.gqOwner g = s.gqOwner g := by
  rw [gqOwner, regField, h _ (by decide), gqOwner, regField]

theorem nodup_gqMembers (s : State) (g : Nat) : (s.gqMembers g).Nodup := List.nodup_range.filter _

/-- Where no member is gone every member is ACTIVE. -/
theorem active_of_member {g m : Nat} (h : s.memberGone g = false) (hm : m ∈ s.gqMembers g) :
    (s.seat m).state = .active := by
  have hall := List.any_eq_false.1 (Bool.or_eq_false_iff.1 h).2 m hm
  simpa [seatIs] using hall

/-! The members' producer indices move (R65). -/

/-- Refreshing a seat's watchdogs leaves every other seat as it is. -/
theorem refreshWd_seat_other {n m : Nat} (s : State) (h : m ≠ n) : (s.refreshWd n).seat m = s.seat m := by
  unfold refreshWd
  rw [seat_congr (modPart_seats _ _ _), seat_modSeat_other _ _ h]

/-- The producer index of one member moves by `count`, if it is ACTIVE. -/
def memberMoved (s : State) (count m : Nat) : State :=
  if s.seatIs m .active then
    (s.modSeat m fun r => { r with prodAcc := r.prodAcc + BitVec.ofNat 32 count }).refreshWd m
  else s

/-- The producer index of a seat after a launch by `count` of the members `ms`. -/
def movedIndex (s : State) (count : Nat) (ms : List Nat) (m : Nat) : Word :=
  if m ∈ ms ∧ (s.seat m).state = .active then (s.seat m).prodAcc + BitVec.ofNat 32 count else (s.seat m).prodAcc

theorem memberMoved_frame (s : State) (count m : Nat) :
    ∃ seats parts, s.memberMoved count m = { s with seats := seats, parts := parts } := by
  unfold memberMoved
  split
  · exact ⟨_, _, rfl⟩
  · exact ⟨s.seats, s.parts, rfl⟩

theorem memberMoved_seat (s : State) (count a m : Nat) : ∃ w, (s.memberMoved count a).seat m =
    { s.seat m with prodAcc := s.movedIndex count [a] m, wdStart := w } := by
  unfold memberMoved
  by_cases hm : m = a
  · subst hm
    by_cases hact : (s.seat m).state = .active
    · obtain ⟨w, hw⟩ := refreshWd_seat
        (s.modSeat m fun r => { r with prodAcc := r.prodAcc + BitVec.ofNat 32 count }) m m
      refine ⟨w, ?_⟩
      rw [if_pos (by simp [seatIs, hact]), hw, seat_modSeat_same, movedIndex, if_pos ⟨List.mem_singleton_self m, hact⟩]
    · refine ⟨(s.seat m).wdStart, ?_⟩
      rw [if_neg (by simp [seatIs, hact]), movedIndex, if_neg fun h => hact h.2]
  · have hstay : s.movedIndex count [a] m = (s.seat m).prodAcc := if_neg fun h => hm (List.mem_singleton.1 h.1)
    refine ⟨(s.seat m).wdStart, ?_⟩
    rw [hstay]
    split
    · rw [refreshWd_seat_other _ hm, seat_modSeat_other _ _ hm]
    · rfl

theorem membersMoved_frame (count : Nat) (ms : List Nat) (s : State) :
    ∃ seats parts, ms.foldl (fun u m => u.memberMoved count m) s = { s with seats := seats, parts := parts } := by
  induction ms generalizing s with
  | nil => exact ⟨s.seats, s.parts, rfl⟩
  | cons m ms ih =>
    obtain ⟨seats, parts, hone⟩ := memberMoved_frame s count m
    obtain ⟨seats', parts', hrest⟩ := ih (s.memberMoved count m)
    exact ⟨seats', parts', by rw [List.foldl_cons, hrest, hone]⟩

/-- Each ACTIVE member's index moves once. -/
theorem membersMoved_seat (count : Nat) {ms : List Nat} (hms : ms.Nodup) (s : State) (m : Nat) :
    ∃ w, (ms.foldl (fun u a => u.memberMoved count a) s).seat m =
      { s.seat m with prodAcc := s.movedIndex count ms m, wdStart := w } := by
  induction ms generalizing s with
  | nil => exact ⟨(s.seat m).wdStart, by simp [movedIndex]⟩
  | cons a ms ih =>
    obtain ⟨ha, hrest⟩ := List.nodup_cons.1 hms
    obtain ⟨w, hw⟩ := memberMoved_seat s count a m
    obtain ⟨w', hw'⟩ := ih hrest (s.memberMoved count a)
    refine ⟨w', ?_⟩
    rw [List.foldl_cons, hw', movedIndex, hw]
    by_cases hm : m = a
    · subst hm
      simp [movedIndex, ha]
    · simp [movedIndex, hm]

/-! One launch takes effect (R65, R67). -/

/-- The state at the instant of a launch, which is then no longer pending. -/
def atInstant (s : State) (l : Launch) : State :=
  { s.reach l.due with launches := (s.reach l.due).launches.erase l }

theorem launchOne_eq (s : State) (l : Launch) : s.launchOne l =
    match l.asker with
    | some (n, idx) =>
      (((s.atInstant l).gqMembers l.gq).foldl (fun u m => u.memberMoved l.count m) (s.atInstant l)).endRun n idx 0
    | none => ((s.atInstant l).gqMembers l.gq).foldl (fun u m => u.memberMoved l.count m) (s.atInstant l) := rfl

/-- From `s` to `t` the launches `ls`, the first ones of `s`, have taken effect in their order. -/
structure LaunchesDone (s t : State) (ls : List Launch) : Prop where
  launches : ∀ rest, s.launches = ls ++ rest → t.launches = rest
  moved    : ∀ m, (s.seat m).state = .active → (t.seat m).prodAcc =
    (ls.filter fun x => (s.gqMembers x.gq).contains m).foldl (fun v x => v + BitVec.ofNat 32 x.count) (s.seat m).prodAcc
  stayed   : ∀ m, (s.seat m).state ≠ .active → (t.seat m).prodAcc = (s.seat m).prodAcc
  state    : ∀ m, (t.seat m).state = (s.seat m).state
  runs     : ∀ m, ∀ r ∈ (s.seat m).running, ∃ q ∈ (t.seat m).running, q.index = r.index ∧ q.words = r.words ∧
    (q.work = .done ∧ q.status = 0 ∨ q.work = r.work ∧ q.status = r.status ∧ ∀ l ∈ ls, l.asker ≠ some (m, r.index))
  regs     : t.regs = s.regs
  variant  : t.variant = s.variant
  csMem    : t.csMem = s.csMem
  steady   : s.tb.counting = true → s.tb.acc = 0 → t.tb.counting = true ∧ t.tb.acc = 0

theorem LaunchesDone.refl (s : State) : LaunchesDone s s [] where
  launches := fun _ h => h
  moved := fun _ _ => rfl
  stayed := fun _ _ => rfl
  state := fun _ => rfl
  runs := fun _ r hr => ⟨r, hr, rfl, rfl, .inr ⟨rfl, rfl, fun _ h => absurd h List.not_mem_nil⟩⟩
  regs := rfl
  variant := rfl
  csMem := rfl
  steady := fun hcount hacc => ⟨hcount, hacc⟩

theorem LaunchesDone.trans {ls ks : List Launch} (h : LaunchesDone s t ls) (k : LaunchesDone t u ks) :
    LaunchesDone s u (ls ++ ks) where
  launches := fun rest hs => k.launches rest (h.launches (ks ++ rest) (by rw [hs, List.append_assoc]))
  moved := fun m hact => by
    have hmem (g : Nat) : t.gqMembers g = s.gqMembers g := gqMembers_congr fun o _ => reg_congr h.variant h.regs _
    rw [k.moved m (by rw [h.state, hact]), h.moved m hact, List.filter_append, List.foldl_append]
    simp only [hmem]
  stayed := fun m hact => by rw [k.stayed m (by rw [h.state]; exact hact), h.stayed m hact]
  state := fun m => (k.state m).trans (h.state m)
  runs := fun m r hr => by
    obtain ⟨q, hq, hidx, hwords, hdone⟩ := h.runs m r hr
    obtain ⟨p, hp, hidx', hwords', hdone'⟩ := k.runs m q hq
    refine ⟨p, hp, hidx'.trans hidx, hwords'.trans hwords, ?_⟩
    rcases hdone' with hdone' | ⟨hwork', hstatus', hother'⟩
    · exact .inl hdone'
    · rcases hdone with ⟨hwork, hstatus⟩ | ⟨hwork, hstatus, hother⟩
      · exact .inl ⟨hwork'.trans hwork, hstatus'.trans hstatus⟩
      · refine .inr ⟨hwork'.trans hwork, hstatus'.trans hstatus, fun l hl => ?_⟩
        rcases List.mem_append.1 hl with hl | hl
        · exact hother l hl
        · rw [← hidx]
          exact hother' l hl
  regs := k.regs.trans h.regs
  variant := k.variant.trans h.variant
  csMem := k.csMem.trans h.csMem
  steady := fun hcount hacc => k.steady (h.steady hcount hacc).1 (h.steady hcount hacc).2

/-- Time that passes leaves a time base that counts and owes nothing so (R321). -/
theorem reach_steady (d : Nat) (hcount : s.tb.counting = true) (hacc : s.tb.acc = 0) :
    (s.reach d).tb.counting = true ∧ (s.reach d).tb.acc = 0 := by
  unfold reach
  split
  · exact ⟨hcount, (advance_time_of_steady _ hcount hacc).2⟩
  · exact ⟨hcount, hacc⟩

theorem endRun_seat_other {n m : Nat} (s : State) (idx : Word) (st : Nat) (h : m ≠ n) :
    (s.endRun n idx st).seat m = s.seat m := seat_modSeat_other _ _ h

/-- The end of a run's work leaves the index and the words of each run, and of a seat all but its runs. -/
theorem endRun_seat (s : State) (n : Nat) (idx : Word) (st m : Nat) :
    ∃ runs, (s.endRun n idx st).seat m = { s.seat m with running := runs } ∧
      ∀ r ∈ (s.seat m).running, ∃ q ∈ runs, q.index = r.index ∧ q.words = r.words ∧
        (q.work = .done ∧ q.status = st ∨ q.work = r.work ∧ q.status = r.status ∧ (n, idx) ≠ (m, r.index)) := by
  by_cases hm : m = n
  · subst hm
    refine ⟨_, seat_modSeat_same _ _ _, fun r hr => ⟨_, List.mem_map_of_mem hr, ?_⟩⟩
    by_cases hidx : r.index = idx
    · rw [if_pos hidx]
      exact ⟨rfl, rfl, .inl ⟨rfl, rfl⟩⟩
    · rw [if_neg hidx]
      exact ⟨rfl, rfl, .inr ⟨rfl, rfl, fun h => hidx (Prod.mk.inj h).2.symm⟩⟩
  · refine ⟨(s.seat m).running, endRun_seat_other s idx st hm, fun r hr => ⟨r, hr, rfl, rfl, .inr ⟨rfl, rfl, ?_⟩⟩⟩
    exact fun h => hm (Prod.mk.inj h).1.symm

/-- What a launch does to its members is done to the state at its instant, and then its asker's work ends. -/
theorem launchOne_frame (s : State) (l : Launch) : ∃ seats parts,
    s.launchOne l = { s.atInstant l with seats := seats, parts := parts } := by
  obtain ⟨seats, parts, h⟩ := membersMoved_frame l.count ((s.atInstant l).gqMembers l.gq) (s.atInstant l)
  rw [launchOne_eq, h]
  split
  · exact ⟨_, _, rfl⟩
  · exact ⟨_, _, rfl⟩

theorem atInstant_gqMembers (s : State) (l : Launch) (g : Nat) : (s.atInstant l).gqMembers g = s.gqMembers g :=
  gqMembers_congr fun _ _ => reg_congr (reach_variant s l.due) (reach_regs s l.due) _

theorem atInstant_seat (s : State) (l : Launch) (m : Nat) : (s.atInstant l).seat m = s.seat m :=
  seat_congr (reach_seats s l.due) m

theorem launchOne_seat (s : State) (l : Launch) (m : Nat) : ∃ w runs, (s.launchOne l).seat m =
    { s.seat m with prodAcc := s.movedIndex l.count (s.gqMembers l.gq) m, wdStart := w, running := runs } ∧
    ∀ r ∈ (s.seat m).running, ∃ q ∈ runs, q.index = r.index ∧ q.words = r.words ∧
      (q.work = .done ∧ q.status = 0 ∨ q.work = r.work ∧ q.status = r.status ∧ l.asker ≠ some (m, r.index)) := by
  obtain ⟨w, hw⟩ := membersMoved_seat l.count (nodup_gqMembers s l.gq) (s.atInstant l) m
  have hmoved : (s.atInstant l).movedIndex l.count (s.gqMembers l.gq) m = s.movedIndex l.count (s.gqMembers l.gq) m := by
    rw [movedIndex, atInstant_seat, movedIndex]
  rw [hmoved, atInstant_seat] at hw
  rw [launchOne_eq, atInstant_gqMembers]
  generalize (s.gqMembers l.gq).foldl (fun u m => u.memberMoved l.count m) (s.atInstant l) = v at hw ⊢
  cases hasker : l.asker with
  | none =>
    exact ⟨w, (s.seat m).running, hw, fun r hr => ⟨r, hr, rfl, rfl, .inr ⟨rfl, rfl, Option.some_ne_none _ |>.symm⟩⟩⟩
  | some a =>
    obtain ⟨k, idx⟩ := a
    dsimp only
    obtain ⟨runs, hend, hruns⟩ := endRun_seat v k idx 0 m
    have hrunning : (v.seat m).running = (s.seat m).running := by rw [hw]
    refine ⟨w, runs, by rw [hend, hw], fun r hr => ?_⟩
    obtain ⟨q, hq, hidx, hwords, hdone⟩ := hruns r (by rw [hrunning]; exact hr)
    refine ⟨q, hq, hidx, hwords, hdone.imp_right fun ⟨hwork, hstatus, hne⟩ => ⟨hwork, hstatus, ?_⟩⟩
    exact fun h => hne (Option.some.inj h)

theorem launchOne_done (s : State) (l : Launch) : LaunchesDone s (s.launchOne l) [l] := by
  obtain ⟨seats, parts, hframe⟩ := launchOne_frame s l
  refine ⟨fun rest h => ?_, fun m hact => ?_, fun m hact => ?_, fun m => ?_, fun m r hr => ?_, ?_, ?_, ?_,
    fun hcount hacc => ?_⟩
  · have hlaunches : (s.reach l.due).launches = l :: rest := by rw [reach_frame]; exact h
    rw [hframe]
    change (s.reach l.due).launches.erase l = rest
    rw [hlaunches, List.erase_cons_head]
  · obtain ⟨w, runs, hseat, -⟩ := launchOne_seat s l m
    rw [hseat]
    by_cases hm : m ∈ s.gqMembers l.gq <;> simp [movedIndex, hm, hact]
  · obtain ⟨w, runs, hseat, -⟩ := launchOne_seat s l m
    have hstay : s.movedIndex l.count (s.gqMembers l.gq) m = (s.seat m).prodAcc := if_neg fun h => hact h.2
    rw [hseat, hstay]
  · obtain ⟨w, runs, hseat, -⟩ := launchOne_seat s l m
    rw [hseat]
  · obtain ⟨w, runs, hseat, hruns⟩ := launchOne_seat s l m
    rw [hseat]
    simpa using hruns r hr
  · rw [hframe]
    exact reach_regs s l.due
  · rw [hframe]
    exact reach_variant s l.due
  · rw [hframe]
    change (s.reach l.due).csMem = s.csMem
    rw [reach_frame]
  · rw [hframe]
    exact reach_steady l.due hcount hacc

/-- The instant of a launch is not early (R44, R65). -/
theorem le_now_launchOne {l : Launch} (hcount : s.tb.counting = true) (hacc : s.tb.acc = 0) (hdue : l.due < 2 ^ 64) :
    l.due ≤ (s.launchOne l).now := by
  obtain ⟨seats, parts, hframe⟩ := launchOne_frame s l
  rw [now_congr (s := s.reach l.due) (by rw [hframe]; rfl)]
  exact le_now_reach l.due hcount hacc hdue

theorem launches_done (ls : List Launch) (s : State) : LaunchesDone s (ls.foldl launchOne s) ls := by
  induction ls generalizing s with
  | nil => exact LaunchesDone.refl s
  | cons l ls ih => exact (launchOne_done s l).trans (ih (s.launchOne l))

theorem LaunchesDone.prodAcc_of_member {s t : State} {l : Launch} (h : LaunchesDone s t [l]) {m : Nat}
    (hm : m ∈ s.gqMembers l.gq) (hact : (s.seat m).state = .active) :
    (t.seat m).prodAcc = (s.seat m).prodAcc + BitVec.ofNat 32 l.count := by
  simp [h.moved m hact, hm]

/-! The effect of a group queue's first launch (R65). -/

/-- The launches up to the first one of the queue are the first launches of all. -/
theorem launches_eq_of_find {ls : List Launch} {f : Launch → Bool} {l : Launch} (h : ls.find? f = some l) :
    ∃ rest, ls = (ls.takeWhile fun x => !f x) ++ [l] ++ rest := by
  obtain ⟨hl, before, rest, rfl, hbefore⟩ := List.find?_eq_some_iff_append.1 h
  refine ⟨rest, ?_⟩
  rw [List.takeWhile_append_of_pos hbefore, List.takeWhile_cons_of_neg (by simp [hl])]
  simp

theorem launchEffect_of_find {g : Nat} {l : Launch} (h : (s.launches.find? fun x => decide (x.gq = g)) = some l) :
    s.launchEffect g =
      ((s.launches.takeWhile fun x => !decide (x.gq = g)).foldl launchOne s).launchOne l := by
  rw [launchEffect]
  simp only [h]
  rfl

end Sys2Proof.Machine.State
end

section
/-! PROOFS. Group launches by doorbell. -/

namespace Sys2Proof.Proofs

open Sys2Proof.Machine Sys2Proof.Machine.State

/-- Where one launch alone is pending, its effect leaves none, and moves its members' producer indices by its COUNT. -/
theorem groupLaunchEffect_of_sole {s : State} {g : GroupNo} {l : Launch} (hsole : s.launches = [l]) (hg : l.gq = g.val) :
    ∃ t, exec (.groupLaunchEffect g) s = .next t ∧ LaunchesDone s t [l] := by
  refine ⟨s.launchOne l, ?_, launchOne_done s l⟩
  have hfind : (s.launches.find? fun x => decide (x.gq = g.val)) = some l := by simp [hsole, hg]
  have heffect := launchEffect_of_find hfind
  rw [hsole, List.takeWhile_cons_of_neg (by simp [hg])] at heffect
  exact congrArg Host.Outcome.next heffect

section

variable {s : State} {n : SeatNo} {b : Bell} (hopen : s.bellOpen n.val b) (hactive : (s.seat n.val).state = .active)

include hopen hactive

/-- A doorbell whose value is not accepted does the rest of what the value does. -/
theorem gqLaunch_of_not_accepted {t : State} (hring : s.ringBell n.val 0x4 b.value = (false, t)) :
    exec (.gqLaunch n b) s = .next t :=
  congrArg Host.Outcome.next (bell_of_refused hopen hactive hring)

/-- An accepted launch by doorbell (R51, R64, R65). -/
theorem gqLaunch_of_ok (hcount : b.value.toNat % 2 ^ 16 ≠ 0) (howner : s.gqOwner (field b.value 21 16) = n.val)
    (hok : s.launchOk (field b.value 21 16) (b.value.toNat % 2 ^ 16)) :
    ∃ t l, exec (.gqLaunch n b) s = .next t ∧ t.launches = s.launches ++ [l] ∧ l.gq = field b.value 21 16 ∧
      l.count = b.value.toNat % 2 ^ 16 ∧ s.now + 128 ≤ l.due ∧ l.due < s.now + 192 ∧ l.due % 64 = 0 ∧
      l.asker = none ∧ (t.seat n.val).gqAcc = b.value ∧
      ∀ gq : GroupNo, gq.val = field b.value 21 16 → s.launches = [] →
        ∃ u, exec (.groupLaunchEffect gq) t = .next u ∧ u.launches = [] ∧
          ∀ m ∈ s.gqMembers (field b.value 21 16),
            (u.seat m).prodAcc = (s.seat m).prodAcc + BitVec.ofNat 32 (b.value.toNat % 2 ^ 16) := by
  set g := field b.value 21 16 with hg
  set count := b.value.toNat % 2 ^ 16 with hc
  have hring := ringBell_launch s n.val b.value
  rw [if_neg hcount, launch_of_ok count none howner hok, if_pos rfl] at hring
  obtain ⟨hearly, hlate, hstep⟩ := launchInstant_spec s.now
  set l : Launch := { gq := g, count := count, due := launchInstant s.now, asker := none } with hl
  have hrec := bell_of_accepted hopen hactive hring
  set t := s.bell n.val 0x4 b with ht
  have hseat (m : Nat) : (t.seat m).state = (s.seat m).state ∧ (t.seat m).prodAcc = (s.seat m).prodAcc := by
    rw [seat_congr hrec.seats]
    by_cases hm : m = n.val
    · rw [hm, seat_modSeat_same]
      exact ⟨rfl, rfl⟩
    · rw [seat_modSeat_other _ _ hm]
      exact ⟨rfl, rfl⟩
  have hmembers : t.gqMembers g = s.gqMembers g := gqMembers_congr fun o _ =>
    hrec.reg _ (by simp only [gqReg, ecReg]; omega) (by simp only [gqReg, ecReg]; omega)
  refine ⟨t, l, rfl, hrec.launches, rfl, rfl, hearly, hlate, hstep, rfl, ?_, fun gq hgq hnone => ?_⟩
  · rw [seat_congr hrec.seats, seat_modSeat_same]
  · have hsole : t.launches = [l] := hrec.launches.trans (congrArg (· ++ [l]) hnone)
    obtain ⟨u, hexec, hdone⟩ := groupLaunchEffect_of_sole hsole hgq.symm
    refine ⟨u, hexec, hdone.launches [] hsole, fun m hm => ?_⟩
    have hact : (t.seat m).state = .active := (hseat m).1.trans (active_of_member hok.2.1 hm)
    rw [hdone.prodAcc_of_member (by rw [hmembers]; exact hm) hact, (hseat m).2]

end

/-- The effect of a group queue's first launch, after those before it (R65, R67). -/
theorem groupLaunchEffect_of_find {s : State} {g : GroupNo} {l : Launch}
    (hfind : (s.launches.find? fun x => decide (x.gq = g.val)) = some l) :
    let taken := (s.launches.takeWhile fun x => !decide (x.gq = g.val)) ++ [l]
    ∃ t, exec (.groupLaunchEffect g) s = .next t ∧ LaunchesDone s t taken ∧ t.launches = s.launches.drop taken.length ∧
      (s.tb.counting = true → s.tb.acc = 0 → l.due < 2 ^ 64 → l.due ≤ t.now) := by
  intro taken
  have hbefore := launches_done (s.launches.takeWhile fun x => !decide (x.gq = g.val)) s
  set u := (s.launches.takeWhile fun x => !decide (x.gq = g.val)).foldl launchOne s with hu
  have hdone : LaunchesDone s (u.launchOne l) taken := hbefore.trans (launchOne_done u l)
  refine ⟨u.launchOne l, congrArg Host.Outcome.next (launchEffect_of_find hfind), hdone, ?_, fun hcount hacc hdue => ?_⟩
  · obtain ⟨rest, hrest⟩ := launches_eq_of_find hfind
    have hsplit : s.launches = taken ++ rest := hrest
    have hdrop := congrArg (List.drop taken.length) hsplit
    rw [List.drop_left] at hdrop
    exact (hdone.launches rest hsplit).trans hdrop.symm
  · obtain ⟨hcount', hacc'⟩ := hbefore.steady hcount hacc
    exact le_now_launchOne hcount' hacc' hdue

/-- Settles O11: a launch is judged by R64 alone, and at its instant each launch before it and then itself moves the
producer indices of its ACTIVE members (R51, R65, R67). -/
theorem groupLaunchDoorbell : Obligations.GroupLaunchDoorbell := by
  refine ⟨fun s n b hopen hactive => ?_, fun s g l hfind => ?_⟩
  · have hring := ringBell_launch s n.val b.value
    refine ⟨fun hzero => ?_, fun hcount hother => ?_, fun hcount howner hbad => ?_, gqLaunch_of_ok hopen hactive⟩
    · rw [if_pos hzero] at hring
      exact gqLaunch_of_not_accepted hopen hactive hring
    · rw [if_neg hcount, launch_of_other _ _ hother, if_neg (by simp)] at hring
      exact gqLaunch_of_not_accepted hopen hactive hring
    · rw [if_neg hcount, launch_of_bad _ _ howner hbad, if_neg (by simp)] at hring
      exact gqLaunch_of_not_accepted hopen hactive hring
  · intro taken
    obtain ⟨t, hexec, hdone, hlaunches, hdue⟩ := groupLaunchEffect_of_find hfind
    refine ⟨t, hexec, hlaunches, hdone.moved, hdone.stayed, fun n idx hasker r hr hidx => ?_, hdue, fun x => ?_⟩
    · obtain ⟨q, hq, hqidx, hwords, hend | ⟨-, -, hother⟩⟩ := hdone.runs n r hr
      · exact ⟨q, hq, hqidx.trans hidx, hwords, hend⟩
      · exact absurd (hidx ▸ hasker) (hother l (by simp))
    · rw [csByte, hdone.csMem, csByte]

end Sys2Proof.Proofs
end

section
/-! SUPPORT. What the start of a descriptor leaves alone, whether or not the trace is on (R516). -/

namespace Sys2Proof.Machine.State

variable {s t : State}

/-- What a trace record can do: a line on the service UART, and then nothing, a lost record counted, or a record stored. -/
theorem trace_cases (s : State) (n tag opcode event st unit : Nat) : ∃ out, let u : State := { s with out := out }
    s.trace n tag opcode event st unit = u ∨ s.trace n tag opcode event st unit = u.bumpObj 0x60D4 0 1 ∨
      ∃ a bs v, s.trace n tag opcode event st unit = (u.csWrite a bs).setReg (mgReg 0x118) v := by
  unfold trace
  split
  · exact ⟨s.out, .inl rfl⟩
  · extract_lets u ctrl size dev bs
    have hu : ∃ out, u = { s with out := out } := by
      unfold u
      split
      · exact ⟨_, rfl⟩
      · exact ⟨s.out, rfl⟩
    clear_value u
    obtain ⟨out, rfl⟩ := hu
    refine ⟨out, ?_⟩
    split
    · split
      · exact .inr (.inl rfl)
      · exact .inr (.inr ⟨_, _, _, rfl⟩)
    · exact .inl rfl

theorem trace_launches (s : State) (n tag opcode event st unit : Nat) :
    (s.trace n tag opcode event st unit).launches = s.launches := by
  obtain ⟨out, h | h | ⟨a, bs, v, h⟩⟩ := trace_cases s n tag opcode event st unit <;> rw [h] <;> rfl

theorem trace_now (s : State) (n tag opcode event st unit : Nat) :
    (s.trace n tag opcode event st unit).now = s.now := by
  obtain ⟨out, h | h | ⟨a, bs, v, h⟩⟩ := trace_cases s n tag opcode event st unit <;> rw [h] <;> rfl

/-- A write clears the bad parity of its own register alone. -/
theorem setReg_badParity_any {p : Nat → Bool} (s : State) (off : Nat) (v : Word) (h : p off = false) :
    (s.setReg off v).badParity.any p = s.badParity.any p := by
  rw [Bool.eq_iff_iff, List.any_eq_true, List.any_eq_true]
  refine exists_congr fun o => ⟨fun ⟨ho, hp⟩ => ⟨(List.mem_filter.1 ho).1, hp⟩, fun ⟨ho, hp⟩ => ⟨?_, hp⟩⟩
  exact List.mem_filter.2 ⟨ho, bne_iff_ne.2 fun he => by simp [he, h] at hp⟩

theorem trace_badParity_any {p : Nat → Bool} (s : State) (n tag opcode event st unit : Nat) (hp : p (mgReg 0x118) = false) :
    (s.trace n tag opcode event st unit).badParity.any p = s.badParity.any p := by
  obtain ⟨out, h | h | ⟨a, bs, v, h⟩⟩ := trace_cases s n tag opcode event st unit <;> rw [h]
  · rfl
  · exact setReg_badParity_any _ _ _ hp

/-- From `s` to `t` a descriptor of seat `n` has started: its head is gone, and RING_CONS and the trace moved on. -/
structure Started (s t : State) (n : Nat) : Prop where
  seat     : ∀ m, (t.seat m).state = (s.seat m).state ∧ (t.seat m).prodAcc = (s.seat m).prodAcc
  reg      : ∀ o, o ≠ seatReg n 0x1C → o ≠ mgReg 0x118 → t.reg o = s.reg o
  parity   : ∀ p : Nat → Bool, p (seatReg n 0x1C) = false → p (mgReg 0x118) = false →
    t.badParity.any p = s.badParity.any p
  launches : t.launches = s.launches
  now      : t.now = s.now

theorem started_start (s : State) (n : Nat) (h : Head) (unit : Nat) : Started s (s.start n h unit) n := by
  unfold start
  extract_lets u v
  obtain ⟨hseats, -, hreg⟩ := trace_kept v n (tagOf h.words) (opcodeOf h.words) 1 0 unit
  have hv : v.regs = u.regs := modSeat_regs _ _ _
  refine ⟨fun m => ?_, fun o ho hlog => ?_, fun p hp hlog => ?_, ?_, ?_⟩
  · rw [seat_congr hseats]
    by_cases hm : m = n
    · rw [hm, seat_modSeat_same, seat_congr (setReg_seats _ _ _)]
      exact ⟨rfl, rfl⟩
    · rw [seat_modSeat_other _ _ hm, seat_congr (setReg_seats _ _ _)]
      exact ⟨rfl, rfl⟩
  · rw [hreg o hlog, reg_congr (modSeat_variant _ _ _) hv, reg_setReg_other _ _ ho]
  · rw [trace_badParity_any _ _ _ _ _ _ _ hlog]
    exact setReg_badParity_any s _ (h.index + BitVec.ofNat 32 (1 + countOf h.words)) hp
  · exact trace_launches _ _ _ _ _ _ _
  · exact trace_now _ _ _ _ _ _ _

theorem gqReg_ne_seatReg {g n o i : Nat} (hg : g ≤ 64) (ho : o < 0x80) : gqReg g o ≠ seatReg n i := by
  simp only [gqReg, seatReg, ctReg, partReg]
  omega

theorem gqReg_ne_trace (g o : Nat) : gqReg g o ≠ mgReg 0x118 := by
  simp only [gqReg, mgReg]
  omega

section

variable {n g : Nat} (h : Started s t n) (hg : g < 64)

include h hg

theorem Started.gqReg {o : Nat} (ho : o < 0x80) : t.reg (gqReg g o) = s.reg (gqReg g o) :=
  h.reg _ (gqReg_ne_seatReg hg.le ho) (gqReg_ne_trace g o)

theorem Started.gqMembers : t.gqMembers g = s.gqMembers g := gqMembers_congr fun _ ho => h.gqReg hg ho

theorem Started.gqOwner : t.gqOwner g = s.gqOwner g := gqOwner_congr fun _ ho => h.gqReg hg ho

theorem Started.memberGone : t.memberGone g = s.memberGone g := by
  simp only [State.memberGone, seatIs, h.gqOwner hg, h.gqMembers hg, (h.seat _).1]

theorem Started.gqParityBad : t.gqParityBad g = s.gqParityBad g := by
  refine h.parity _ (decide_eq_false ?_) (decide_eq_false ?_)
  · simp only [Machine.gqReg, seatReg, ctReg, partReg]
    omega
  · simp only [Machine.gqReg, mgReg]
    omega

/-- The conditions of R64 at the start of the descriptor, but for the room in the rings, are those before it. -/
theorem Started.launchOk_iff (count : Nat) : t.launchOk g count ↔
    bit (s.reg (Machine.gqReg g 0)) 31 = true ∧ s.memberGone g = false ∧ s.gqParityBad g = false ∧
      ∀ m ∈ s.gqMembers g, t.prodOk m ((s.seat m).prodAcc + BitVec.ofNat 32 count) = true := by
  simp only [launchOk, h.gqReg hg (show 0 < 0x80 by decide), h.memberGone hg, h.gqParityBad hg, h.gqMembers hg,
    (h.seat _).2]

end

/-- An accepted launch is the last one pending, and changes nothing else. -/
theorem launch_accepted {n g : Nat} (count : Nat) (asker : Option (Nat × Word)) (howner : s.gqOwner g = n)
    (h : s.launchOk g count) : ∃ w l, s.launch n g count asker = (.accepted, w) ∧ w.launches = s.launches ++ [l] ∧
      w.seats = s.seats ∧ (∀ o, w.reg o = s.reg o) ∧ l.gq = g ∧ l.count = count ∧ l.due = launchInstant s.now ∧
      l.asker = asker :=
  ⟨_, _, launch_of_ok count asker howner h, rfl, rfl, fun _ => rfl, rfl, rfl, rfl, rfl⟩

/-! A descriptor enters its seat. -/

theorem addRun_seat_other {n m : Nat} (s : State) (r : Run) (h : m ≠ n) : (s.addRun n r).seat m = s.seat m := by
  rw [addRun_eq, refreshWd_seat_other _ h, seat_modSeat_other _ _ h]
  rfl

theorem addRun_prodAcc (s : State) (n : Nat) (r : Run) (m : Nat) : ((s.addRun n r).seat m).prodAcc = (s.seat m).prodAcc := by
  by_cases hm : m = n
  · obtain ⟨w, hw⟩ := addRun_seat s n r
    rw [hm, hw]
  · rw [addRun_seat_other s r hm]

theorem addRun_launches (s : State) (n : Nat) (r : Run) : (s.addRun n r).launches = s.launches := by
  obtain ⟨seats, parts, shakes, h⟩ := addRun_frame s n r
  rw [h]

theorem addRun_reg (s : State) (n : Nat) (r : Run) (o : Nat) : (s.addRun n r).reg o = s.reg o := by
  obtain ⟨seats, parts, shakes, h⟩ := addRun_frame s n r
  rw [h]
  rfl

theorem mem_addRun (s : State) (n : Nat) (r : Run) : r ∈ ((s.addRun n r).seat n).running := by
  obtain ⟨w, hw⟩ := addRun_seat s n r
  simp [hw]

end Sys2Proof.Machine.State
end

section
/-! PROOFS. NOP and GROUP_LAUNCH. -/

namespace Sys2Proof.Proofs

open Sys2Proof.Machine Sys2Proof.Machine.State

/-- A field of a word is below its size. -/
theorem wF_lt (w : List Word) (i hi lo : Nat) : wF w i hi lo < 2 ^ (hi + 1 - lo) := Nat.mod_lt _ (Nat.two_pow_pos _)

/-- What becomes of a GROUP_LAUNCH by how its launch is judged (R66, R67). -/
def launchJudged (n : Nat) (h : Head) (g : Nat) (l : Launched × State) : State :=
  match l.1 with
  | .accepted => l.2.addRun n (newRun h (.launch g) 0)
  | .refused => l.2.startDone n h 2 []
  | .notOwner => l.2.startDone n h 3 []

section

variable {s : State} {n : SeatNo} {h : Head} (hready : s.readyHead n.val = some h)

include hready

/-- A NOP at the head starts at once. -/
theorem exec_nop_of_ready (hop : opcodeOf h.words = 0) :
    exec (.nop n) s = .next ((s.start n.val h 0xFF).startDone n.val h 0 []) := by
  refine congrArg Host.Outcome.next ?_
  exact dispatch_of_canStart (gf := fun _ => []) (u := fun _ => 0xFF) (go := fun h g s => s.startDone n.val h 0 g)
    ⟨hready, rfl, rfl, rfl, by simp⟩ (by simp [hop])

/-- NOP (R516, Table 2-9). -/
theorem nop_of_ready (hop : opcodeOf h.words = 0) (hoff : s.traceOff) :
    ∃ t, exec (.nop n) s = .next t ∧ t.inWork n.val h .done 0 ∧ (t.seat n.val).head = none ∧
      t.reg (seatReg n.val 0x1C) = h.index + BitVec.ofNat 32 (1 + countOf h.words) ∧
      s.regsOnly t [seatReg n.val 0x1C] ∧ t.csMem = s.csMem ∧ ∀ m, m ≠ n.val → t.seat m = s.seat m := by
  obtain ⟨out, hstart⟩ := start_of_off n.val h 0xFF hoff
  set u := s.start n.val h 0xFF with hu
  have hregs (o : Nat) : u.reg o =
      (s.setReg (seatReg n.val 0x1C) (h.index + BitVec.ofNat 32 (1 + countOf h.words))).reg o := by rw [hstart]; rfl
  have hseats : u.seats = (s.modSeat n.val fun r => { r with head := none }).seats := by rw [hstart]; rfl
  refine ⟨_, exec_nop_of_ready hready hop, startDone_inWork _ _ _ _ _, ?_, ?_, fun o ho => ?_, ?_, fun m hm => ?_⟩
  · obtain ⟨w, hw⟩ := addRun_seat u n.val { newRun h .done 0 with guard := [] }
    rw [startDone, hw, seat_congr hseats, seat_modSeat_same]
  · rw [startDone, addRun_reg, hregs, reg_setReg_same]
  · rw [startDone, addRun_reg, hregs, reg_setReg_other _ _ (by simpa using ho)]
  · have hmem : u.csMem = s.csMem := by rw [hstart]; rfl
    exact (startDone_csMem _ _ _ _ _).trans hmem
  · rw [startDone, addRun_seat_other _ _ hm, seat_congr hseats, seat_modSeat_other _ _ hm]

section

variable {u v : State} {g count : Nat} (hop : opcodeOf h.words = 10) (hreserved : launchReservedOk h.words = true)
  (hcause : launchCause h.words = none) (hu : s.start n.val h 0xFF = u) (hg : wF h.words 4 5 0 = g)
  (hcount : wF h.words 5 15 0 = count)

include hop hreserved hcause hu hg hcount

theorem exec_groupLaunch_of_ready : exec (.groupLaunch n) s =
    .next (launchJudged n.val h g (u.launch n.val g count (some (n.val, h.index)))) := by
  change execGroupLaunch n s = _
  rw [execGroupLaunch, dispatch_of_canStart (h := h) ⟨hready, hreserved, hcause, rfl, by simp⟩ (by simp [hop])]
  simp only [hu, hg, hcount]
  rfl

theorem exec_groupLaunch_accepted (h' : u.launch n.val g count (some (n.val, h.index)) = (.accepted, v)) :
    exec (.groupLaunch n) s = .next (v.addRun n.val (newRun h (.launch g) 0)) := by
  rw [exec_groupLaunch_of_ready hready hop hreserved hcause hu hg hcount, h']
  rfl

theorem exec_groupLaunch_refused (h' : u.launch n.val g count (some (n.val, h.index)) = (.refused, v)) :
    exec (.groupLaunch n) s = .next (v.startDone n.val h 2 []) := by
  rw [exec_groupLaunch_of_ready hready hop hreserved hcause hu hg hcount, h']
  rfl

theorem exec_groupLaunch_notOwner (h' : u.launch n.val g count (some (n.val, h.index)) = (.notOwner, v)) :
    exec (.groupLaunch n) s = .next (v.startDone n.val h 3 []) := by
  rw [exec_groupLaunch_of_ready hready hop hreserved hcause hu hg hcount, h']
  rfl

end

end

/-- A GROUP_LAUNCH whose launch is accepted waits for its instant, which ends its work (R65, R67). -/
theorem groupLaunch_of_ok {s u w : State} {n : SeatNo} {h : Head} {l : Launch} (hstarted : Started s u n.val)
    (hg : l.gq < 64) (hasker : l.asker = some (n.val, h.index))
    (hactive : ∀ m ∈ u.gqMembers l.gq, (u.seat m).state = .active)
    (hseats : w.seats = u.seats) (hreg : ∀ o, w.reg o = u.reg o) (hlaunches : w.launches = u.launches ++ [l]) :
    let t := w.addRun n.val (newRun h (.launch l.gq) 0)
    t.inWork n.val h (.launch l.gq) 0 ∧ t.launches = s.launches ++ [l] ∧
      ∀ gq : GroupNo, gq.val = l.gq → s.launches = [] → ∃ v, exec (.groupLaunchEffect gq) t = .next v ∧
        v.launches = [] ∧ v.inWork n.val h .done 0 ∧
        ∀ m ∈ s.gqMembers l.gq, (v.seat m).prodAcc = (s.seat m).prodAcc + BitVec.ofNat 32 l.count := by
  set r := newRun h (.launch l.gq) 0 with hr
  intro t
  have hlaunches' : t.launches = s.launches ++ [l] := by
    rw [← hstarted.launches, ← hlaunches]
    exact addRun_launches w n.val r
  have hrun : r ∈ (t.seat n.val).running := mem_addRun w n.val r
  refine ⟨⟨r, hrun, rfl, rfl, rfl, rfl⟩, hlaunches', fun gq hgq hnone => ?_⟩
  have hsole : t.launches = [l] := hlaunches'.trans (congrArg (· ++ [l]) hnone)
  obtain ⟨v, hexec, hdone⟩ := groupLaunchEffect_of_sole hsole hgq.symm
  refine ⟨v, hexec, hdone.launches [] hsole, ?_, fun m hm => ?_⟩
  · obtain ⟨q, hq, hidx, hwords, hend | ⟨-, -, hother⟩⟩ := hdone.runs n.val r hrun
    · exact ⟨q, hq, hidx, hwords, hend⟩
    · exact absurd hasker (hother l (List.mem_singleton_self l))
  · have hmem : m ∈ u.gqMembers l.gq := by rw [hstarted.gqMembers hg]; exact hm
    have hmembers : t.gqMembers l.gq = u.gqMembers l.gq :=
      gqMembers_congr fun o _ => (addRun_reg w n.val r _).trans (hreg _)
    have hstate : (t.seat m).state = (u.seat m).state := by rw [← seat_congr hseats]; exact addRun_state w n.val r m
    have hacc : (t.seat m).prodAcc = (u.seat m).prodAcc := by rw [← seat_congr hseats]; exact addRun_prodAcc w n.val r m
    have hmem' : m ∈ t.gqMembers l.gq := by rw [hmembers]; exact hmem
    rw [hdone.prodAcc_of_member hmem' (hstate.trans (hactive m hmem)), hacc, (hstarted.seat m).2]

/-- GROUP_LAUNCH, by how its launch is judged where it starts (R64 to R67). -/
theorem groupLaunch_of_ready {s u : State} {n : SeatNo} {h : Head} {g count : Nat} (hready : s.readyHead n.val = some h)
    (hop : opcodeOf h.words = 10) (hreserved : launchReservedOk h.words = true) (hcause : launchCause h.words = none)
    (hu : s.start n.val h 0xFF = u) (hwg : wF h.words 4 5 0 = g) (hwc : wF h.words 5 15 0 = count) :
    (u.gqOwner g = n.val → u.launchOk g count →
      ∃ t, exec (.groupLaunch n) s = .next t ∧ t.inWork n.val h (.launch g) 0 ∧
        (∃ l, t.launches = s.launches ++ [l] ∧ l.gq = g ∧ l.count = count ∧ l.due = launchInstant s.now ∧
          l.asker = some (n.val, h.index)) ∧
        ∀ gq : GroupNo, gq.val = g → s.launches = [] → ∃ v, exec (.groupLaunchEffect gq) t = .next v ∧
          v.launches = [] ∧ v.inWork n.val h .done 0 ∧
          ∀ m ∈ s.gqMembers g, (v.seat m).prodAcc = (s.seat m).prodAcc + BitVec.ofNat 32 count) ∧
    (u.gqOwner g = n.val → ¬ u.launchOk g count →
      ∃ t, exec (.groupLaunch n) s = .next t ∧ t.inWork n.val h .done 2 ∧ bit (t.reg (gqReg g 8)) 0 = true ∧
        t.launches = s.launches) ∧
    (u.gqOwner g ≠ n.val →
      ∃ t, exec (.groupLaunch n) s = .next t ∧ t.inWork n.val h .done 3 ∧ bit (t.reg (gqReg g 8)) 1 = true ∧
        t.launches = s.launches) := by
  have hstarted : Started s u n.val := hu ▸ started_start s n.val h 0xFF
  have hg : g < 64 := by
    rw [← hwg]
    exact wF_lt h.words 4 5 0
  refine ⟨fun hmine hok => ?_, fun hmine hbad => ?_, fun hother => ?_⟩
  · obtain ⟨w, l, hlaunch, hl, hseats, hreg, hgq, hcount, hdue, hasker⟩ :=
      launch_accepted count (some (n.val, h.index)) hmine hok
    subst hgq hcount
    obtain ⟨hwork, hlaunches, heffect⟩ := groupLaunch_of_ok hstarted hg hasker
      (fun m hm => active_of_member hok.2.1 hm) hseats hreg hl
    rw [hstarted.now] at hdue
    have hexec := exec_groupLaunch_accepted hready hop hreserved hcause hu hwg hwc hlaunch
    exact ⟨_, hexec, hwork, ⟨l, hlaunches, rfl, rfl, hdue, hasker⟩, heffect⟩
  · have hlaunch := launch_of_bad count (some (n.val, h.index)) hmine hbad
    have hexec := exec_groupLaunch_refused hready hop hreserved hcause hu hwg hwc hlaunch
    refine ⟨_, hexec, startDone_inWork _ _ _ _ _, ?_, ?_⟩
    · simp only [startDone, addRun_reg, reg_raise_same]
      simp [bit]
    · simp only [startDone, addRun_launches, raise_launches, hstarted.launches]
  · have hlaunch := launch_of_other count (some (n.val, h.index)) hother
    have hexec := exec_groupLaunch_notOwner hready hop hreserved hcause hu hwg hwc hlaunch
    refine ⟨_, hexec, startDone_inWork _ _ _ _ _, ?_, ?_⟩
    · simp only [startDone, addRun_reg, reg_raise_same]
      simp [bit]
    · simp only [startDone, addRun_launches, raise_launches, hstarted.launches]

/-- Settles O18: a NOP's only step is its start; a GROUP_LAUNCH is judged by R64 at its start, and an accepted one ends
its work at the launch's instant (R66, R67, R516). -/
theorem nopAndGroupLaunchStart : Obligations.NopAndGroupLaunchStart := by
  refine ⟨fun s n h hready hop hoff => nop_of_ready hready hop hoff, fun s n h hready hop hreserved hcause => ?_⟩
  intro g count good
  have hg : g < 64 := wF_lt h.words 4 5 0
  have hstarted := started_start s n.val h 0xFF
  have howner : (s.start n.val h 0xFF).gqOwner g = s.gqOwner g := hstarted.gqOwner hg
  have hgood : (s.start n.val h 0xFF).launchOk g count ↔ good := hstarted.launchOk_iff hg count
  obtain ⟨hok, hbad, hother⟩ := groupLaunch_of_ready hready hop hreserved hcause rfl (rfl : _ = g) (rfl : _ = count)
  rw [howner, hgood] at hok hbad
  rw [howner] at hother
  exact ⟨hok, hbad, hother⟩

end Sys2Proof.Proofs
end

section
/-! SUPPORT. The records of a seat's completion and error rings, and a seat that faults (R68 to R72). -/

namespace Sys2Proof.Machine.State

variable {s t : State}

/-! A vector's signal, and a change of STATE, leave every register but a few of the device's (R72). -/

theorem seatReg_ne_pending (n o : Nat) : seatReg n o ≠ msixReg (0x8000 + n / 32 * 4) := by
  simp only [seatReg, ctReg, partReg, msixReg]
  omega

theorem le_seatReg (n o : Nat) : 0x2000000 ≤ seatReg n o := by
  simp only [seatReg, ctReg, partReg]
  omega

theorem reg_signalSeat_other {n r : Nat} (s : State) (h : r ≠ msixReg (0x8000 + n / 32 * 4)) :
    (s.signalSeat n).reg r = s.reg r := by
  unfold signalSeat
  split
  · rfl
  · rw [reg_msix_other _ _ h]
    rfl

theorem signalSeat_csMem (s : State) (n : Nat) : (s.signalSeat n).csMem = s.csMem := by rw [signalSeat_frame]

theorem signalSeat_state (s : State) (n m : Nat) : ((s.signalSeat n).seat m).state = (s.seat m).state := by
  obtain ⟨q, e, h⟩ := signalSeat_seat s n m
  rw [h]

theorem reg_toState_other {n r : Nat} (s : State) (st : SeatState) (hr : 0x30000 ≤ r)
    (h : r ≠ msixReg (0x8000 + n / 32 * 4)) : (s.toState n st).reg r = s.reg r := by
  by_cases hst : (s.seat n).state = st
  · rw [toState_of_same hst]
  · rw [toState_of_ne hst, reg_congr (refreshWd_variant _ _) (refreshWd_regs _ _), reg_signalSeat_other _ h,
      reg_takeState _ _ _ hr]

/-! A record of a ring: its bytes are stored, its producer index moves on, and the vector is signalled. -/

/-- Record `i` of the ring of seat `n` whose producer index lies at offset `o`, written at `a`. -/
def ringRecord (s : State) (n a o i : Nat) (bs : List Byte) : State :=
  ((s.csWrite a bs).setReg (seatReg n o) (BitVec.ofNat 32 (i + 1))).signalSeat n

section

variable (n a o i : Nat) (bs : List Byte)

theorem ringRecord_csMem : (s.ringRecord n a o i bs).csMem = (s.csWrite a bs).csMem := by
  rw [ringRecord, signalSeat_csMem, setReg_csMem]

theorem ringRecord_holds : (s.ringRecord n a o i bs).holds a bs := fun k hk => by
  rw [csByte, ringRecord_csMem]
  exact csWrite_holds s a bs k hk

theorem ringRecord_storeOnly : s.storeOnly (s.ringRecord n a o i bs) a bs.length := fun x hx => by
  rw [csByte, ringRecord_csMem]
  exact csWrite_storeOnly s a bs x hx

theorem ringRecord_reg_same : (s.ringRecord n a o i bs).reg (seatReg n o) = BitVec.ofNat 32 (i + 1) := by
  rw [ringRecord, reg_signalSeat_other _ (seatReg_ne_pending n o), reg_setReg_same]

theorem ringRecord_reg_other {r : Nat} (hpend : r ≠ msixReg (0x8000 + n / 32 * 4)) (hprod : r ≠ seatReg n o) :
    (s.ringRecord n a o i bs).reg r = s.reg r := by
  rw [ringRecord, reg_signalSeat_other _ hpend, reg_setReg_other _ _ hprod,
    reg_congr (csWrite_variant _ _ _) (csWrite_regs _ _ _)]

theorem ringRecord_state (m : Nat) : ((s.ringRecord n a o i bs).seat m).state = (s.seat m).state := by
  rw [ringRecord, signalSeat_state, seat_congr (setReg_seats _ _ _), seat_congr (csWrite_seats _ _ _)]

end

/-- The bytes of an error record (Table 2-8). -/
def errorBytes (tag cause kind hall ns : Nat) : List Byte :=
  leBytes 4 tag ++ leBytes 2 cause ++ leBytes 1 kind ++ zeros 1 ++ leBytes 4 hall ++ zeros 4 ++ leBytes 8 ns ++ zeros 8

theorem length_errorBytes (tag cause kind hall ns : Nat) : (errorBytes tag cause kind hall ns).length = 32 := by
  simp [errorBytes, length_leBytes, zeros]

/-- Where the next error record of the seat lies (R70). -/
def errorAddr (s : State) (n : Nat) : Nat :=
  s.regN (seatReg n 0x2C) * 0x10000 + s.regN (seatReg n 0x34) % 2 ^ s.regField (seatReg n 0x30) 4 0 * 32

theorem errorRecord_eq (s : State) (n tag cause kind hall ns : Nat) : s.errorRecord n tag cause kind hall ns =
    if s.eqFull n then s.raise (seatReg n 0x64) 8
    else s.ringRecord n (s.errorAddr n) 0x34 (s.regN (seatReg n 0x34)) (errorBytes tag cause kind hall ns) := rfl

theorem errorRecord_reg_other {n r : Nat} (s : State) (tag cause kind hall ns : Nat)
    (hpend : r ≠ msixReg (0x8000 + n / 32 * 4)) (hlog : r ≠ seatReg n 0x64) (hprod : r ≠ seatReg n 0x34) :
    (s.errorRecord n tag cause kind hall ns).reg r = s.reg r := by
  rw [errorRecord_eq]
  split
  · exact reg_raise_other _ _ hlog
  · exact ringRecord_reg_other _ _ _ _ _ hpend hprod

theorem errorRecord_state (s : State) (n tag cause kind hall ns m : Nat) :
    ((s.errorRecord n tag cause kind hall ns).seat m).state = (s.seat m).state := by
  rw [errorRecord_eq]
  split
  · rfl
  · exact ringRecord_state _ _ _ _ _ m

/-! The seat FAULTED (R70, R71). -/

theorem faultSeat_of_active {n : Nat} (cause : Nat) (h : (s.seat n).state = .active) : s.faultSeat n cause =
    ((s.toState n .faulted).modSeat n fun r => { r with head := none }).originate (s.job n) cause n :=
  if_pos (by simp [seatIs, h])

theorem faultSeat_seat {n : Nat} (cause : Nat) (h : (s.seat n).state = .active) :
    ((s.faultSeat n cause).seat n).state = .faulted ∧ ((s.faultSeat n cause).seat n).head = none := by
  obtain ⟨d, q, e, w, hseat⟩ := toState_seat s n .faulted
  rw [faultSeat_of_active cause h, seat_congr (originate_seats _ _ _ _), seat_modSeat_same, hseat]
  exact ⟨rfl, rfl⟩

theorem refuse_seat {n : Nat} (w : List Word) (cause : Nat) (h : (s.seat n).state = .active) :
    ((s.refuse n w cause).seat n).state = .faulted ∧ ((s.refuse n w cause).seat n).head = none := by
  refine faultSeat_seat 1 ?_
  rw [seat_congr (trace_kept _ _ _ _ _ _ _).1, errorRecord_state, h]

/-- Where nothing has a JOB the fault tells no other device, and changes STATE and the head only (R410). -/
theorem faultSeat_of_no_job {n : Nat} (cause : Nat) (hjob : s.job n = 0) (h : (s.seat n).state = .active) :
    s.faultSeat n cause = (s.toState n .faulted).modSeat n fun r => { r with head := none } := by
  rw [faultSeat_of_active cause h, hjob]
  exact if_pos (.inl rfl)

/-- With the trace off and no JOB, a fault after a trace record leaves memory and the seats' registers alone. -/
theorem tracedFault_frame {n : Nat} (tag opcode event cause : Nat) (hoff : s.traceOff) (hact : (s.seat n).state = .active)
    (hjob : s.job n = 0) :
    let t := (s.trace n tag opcode event 0 0xFF).faultSeat n cause
    t.csMem = s.csMem ∧ ∀ o, t.reg (seatReg n o) = s.reg (seatReg n o) := by
  obtain ⟨out, hout⟩ := trace_of_off n tag opcode event 0 0xFF hoff
  have hseats : (s.trace n tag opcode event 0 0xFF).seats = s.seats := by rw [hout]
  have hreg (r : Nat) : (s.trace n tag opcode event 0 0xFF).reg r = s.reg r := by rw [hout]; rfl
  have hmem : (s.trace n tag opcode event 0 0xFF).csMem = s.csMem := by rw [hout]
  generalize s.trace n tag opcode event 0 0xFF = u at hseats hreg hmem
  have hact' : (u.seat n).state = .active := by rw [seat_congr hseats, hact]
  have hjob' : u.job n = 0 := by rw [job, regN, hreg]; exact hjob
  rw [faultSeat_of_no_job cause hjob' hact']
  refine ⟨by rw [modSeat_csMem, toState_csMem, hmem], fun o => ?_⟩
  have hfar : 0x30000 ≤ seatReg n o := by have := le_seatReg n o; omega
  rw [reg_congr (modSeat_variant _ _ _) (modSeat_regs _ _ _), reg_toState_other _ _ hfar (seatReg_ne_pending n o), hreg]

/-- A refusal in a seat without a JOB, with the trace off: all that memory and the seats' registers see of it is the error
record (R62, R70). -/
theorem refuse_frame {n : Nat} (w : List Word) (cause : Nat) (hoff : s.traceOff) (hact : (s.seat n).state = .active)
    (hjob : s.job n = 0) :
    let e := s.errorRecord n (tagOf w) cause 1 s.hallIndex s.now
    (s.refuse n w cause).csMem = e.csMem ∧ ∀ o, (s.refuse n w cause).reg (seatReg n o) = e.reg (seatReg n o) := by
  intro e
  have hctrl : e.traceOff := by
    have hreg : e.reg (mgReg 0x110) = s.reg (mgReg 0x110) :=
      errorRecord_reg_other _ _ _ _ _ _ (by simp only [mgReg, msixReg]; omega)
        (by simp only [mgReg, seatReg, ctReg, partReg]; omega) (by simp only [mgReg, seatReg, ctReg, partReg]; omega)
    rw [traceOff, hreg]
    exact hoff
  have hstate : (e.seat n).state = .active := (errorRecord_state _ _ _ _ _ _ _ n).trans hact
  have hjob' : e.job n = 0 := by
    have hreg : e.reg (seatReg n 0x3C) = s.reg (seatReg n 0x3C) :=
      errorRecord_reg_other _ _ _ _ _ _ (seatReg_ne_pending n _) (by simp only [seatReg, ctReg, partReg]; omega)
        (by simp only [seatReg, ctReg, partReg]; omega)
    rw [job, regN, hreg]
    exact hjob
  exact tracedFault_frame (tagOf w) (opcodeOf w) 3 1 hctrl hstate hjob'

/-! The head of the queue is read (R60 to R62). -/

/-- A read of the command ring where nothing is poisoned or upset. -/
theorem ringRead_of_clean {n : Nat} {i : Word} (h : s.clean (s.ringAddr n i) 64) :
    s.ringRead n i = (wordsOf (s.csBytes (s.ringAddr n i) 64), false, s) := by
  have hread := csRead_of_clean h
  rw [ringAddr] at hread
  simp only [ringRead, ringEntries, ringSize, ringAddr]
  rw [hread]

theorem ringWords_succ (s : State) (n : Nat) (i : Word) (k : Nat) :
    s.ringWords n i (k + 1) = wordsOf (s.csBytes (s.ringAddr n i) 64) ++ s.ringWords n (i + 1) k := by
  have hstep (j : Nat) : i + BitVec.ofNat 32 (j + 1) = i + 1 + BitVec.ofNat 32 j := by
    rw [BitVec.add_assoc, add_comm (1 : Word), BitVec.ofNat_add]
    rfl
  have hzero : i + BitVec.ofNat 32 0 = i := BitVec.add_zero i
  rw [ringWords, List.range_succ_eq_map, List.flatMap_cons, hzero, List.flatMap_map, ringWords]
  simp only [hstep]

theorem ringReadMany_of_clean {n k : Nat} {i : Word}
    (h : ∀ j < k, s.clean (s.ringAddr n (i + BitVec.ofNat 32 j)) 64) :
    s.ringReadMany n k i = (s.ringWords n i k, false, s) := by
  induction k generalizing i with
  | zero => rfl
  | succ k ih =>
    have hfirst : s.ringRead n i = _ := ringRead_of_clean (by simpa using h 0 (Nat.succ_pos k))
    have hrest : s.ringReadMany n k (i + 1) = _ := ih fun j hj => by
      have hj' := h (j + 1) (by omega)
      rwa [BitVec.ofNat_add, add_comm (BitVec.ofNat 32 j), ← BitVec.add_assoc] at hj'
    rw [ringReadMany]
    simp only [hfirst, hrest, ringWords_succ, Bool.or_self]

end Sys2Proof.Machine.State
end

section
/-! PROOFS. The head of the queue. -/

namespace Sys2Proof.Proofs

open Sys2Proof.Machine Sys2Proof.Machine.State

section

variable {s : State} {n : Nat}

/-- The continuations of the first descriptor of the queue, as far as the ring holds them. -/
def headMore (s : State) (n : Nat) : Nat :=
  min (countOf (s.ringWords n (s.reg (seatReg n 0x1C)) 1)) (((s.seat n).prodAcc - s.reg (seatReg n 0x1C)).toNat - 1)

def headLength (s : State) (n : Nat) : Nat := 1 + headMore s n

def headWords (s : State) (n : Nat) : List Word := s.ringWords n (s.reg (seatReg n 0x1C)) (headLength s n)

/-- The head is read from a clean ring, and refused where R62 names a cause. -/
theorem readHead_of_clean
    (h : ∀ j < headLength s n, s.clean (s.ringAddr n (s.reg (seatReg n 0x1C) + BitVec.ofNat 32 j)) 64) :
    s.readHead n =
      match s.headCause n ((s.seat n).prodAcc - s.reg (seatReg n 0x1C)).toNat (headWords s n) with
      | some k => s.refuse n (headWords s n) k
      | none => s.modSeat n fun r =>
          { r with head := some { index := s.reg (seatReg n 0x1C), words := headWords s n } } := by
  have hfirst := ringRead_of_clean (by simpa using h 0 (by rw [headLength]; omega))
  have hone : countOf (wordsOf (s.csBytes (s.ringAddr n (s.reg (seatReg n 0x1C))) 64)) =
      countOf (s.ringWords n (s.reg (seatReg n 0x1C)) 1) := by
    rw [ringWords_succ, ringWords, List.range_zero, List.flatMap_nil, List.append_nil]
  have hmore : min (countOf (s.ringWords n (s.reg (seatReg n 0x1C)) 1))
      (((s.seat n).prodAcc - s.reg (seatReg n 0x1C)).toNat - 1) = headMore s n := rfl
  have hrest := ringReadMany_of_clean (s := s) (n := n) (i := s.reg (seatReg n 0x1C) + 1)
    (k := headMore s n) fun j hj => by
      have hj' := h (j + 1) (by rw [headLength]; omega)
      rwa [BitVec.ofNat_add, add_comm (BitVec.ofNat 32 j), ← BitVec.add_assoc] at hj'
  rw [headWords, headLength, add_comm 1, ringWords_succ, readHead]
  simp only [hfirst, hone, hmore, hrest, Bool.or_self]
  rfl

/-- A head that is ready is the head of an ACTIVE seat. -/
theorem active_head_of_readyHead {h : Head} (hready : s.readyHead n = some h) :
    (s.seat n).state = .active ∧ (s.seat n).head = some h := by
  unfold readyHead at hready
  split at hready
  · next hgo =>
    simp only [Bool.and_eq_true, seatIs, decide_eq_true_eq] at hgo
    refine ⟨hgo.1.1.2, ?_⟩
    cases hhead : (s.seat n).head with
    | none => simp [hhead] at hready
    | some h' =>
      simp only [hhead, Option.ite_none_right_eq_some, Option.some.injEq] at hready
      rw [hready.2]
  · exact absurd hready (Option.some_ne_none h).symm

section

variable (hcore : s.coreOn = true) (hactive : (s.seat n).state = .active) (hruns : s.partRuns (n / 16) = true)
  (hblocked : s.blocked n = false) (hhead : (s.seat n).head = none)
  (hmore : (s.seat n).prodAcc ≠ s.reg (seatReg n 0x1C))

include hcore hactive hruns hblocked hhead hmore

/-- Where an ACTIVE seat has more descriptors and none read, DESCRIPTOR_HEAD reads one; it does no more unless the
operation code is reserved. -/
theorem descriptorHead_eq_readHead
    (hnamed : ∀ h, (s.readHead n).readyHead n = some h → opNamed h.words = true) : s.descriptorHead n = s.readHead n := by
  have hgo : (s.coreOn && s.seatIs n .active && s.partRuns (n / 16) && !s.blocked n && (s.seat n).head.isNone &&
      decide ((s.seat n).prodAcc ≠ s.reg (seatReg n 0x1C))) = true := by
    simp [hcore, seatIs, hactive, hruns, hblocked, hhead, hmore]
  simp only [descriptorHead, hgo, if_true]
  cases hready : (s.readHead n).readyHead n with
  | none => rfl
  | some h => simp only [hnamed h hready, if_true]

variable (hclean : ∀ j < headLength s n, s.clean (s.ringAddr n (s.reg (seatReg n 0x1C) + BitVec.ofNat 32 j)) 64)

include hclean

/-- A cause of R62 refuses the head. -/
theorem descriptorHead_of_cause {c : Nat}
    (hcause : s.headCause n ((s.seat n).prodAcc - s.reg (seatReg n 0x1C)).toNat (headWords s n) = some c) :
    s.descriptorHead n = s.refuse n (headWords s n) c := by
  have hread := readHead_of_clean hclean
  simp only [hcause] at hread
  rw [← hread]
  refine descriptorHead_eq_readHead hcore hactive hruns hblocked hhead hmore fun h hready => ?_
  have hfaulted := (refuse_seat (headWords s n) c hactive).1
  rw [← hread, (active_head_of_readyHead hready).1] at hfaulted
  exact absurd hfaulted (by decide)

/-- With no cause the words read become the head. -/
theorem descriptorHead_of_no_cause
    (hcause : s.headCause n ((s.seat n).prodAcc - s.reg (seatReg n 0x1C)).toNat (headWords s n) = none)
    (hop : opNamed (headWords s n) = true) :
    s.descriptorHead n = s.modSeat n fun r =>
      { r with head := some { index := s.reg (seatReg n 0x1C), words := headWords s n } } := by
  have hread := readHead_of_clean hclean
  simp only [hcause] at hread
  rw [← hread]
  refine descriptorHead_eq_readHead hcore hactive hruns hblocked hhead hmore fun h hready => ?_
  have htaken := (active_head_of_readyHead hready).2
  rw [hread, seat_modSeat_same] at htaken
  rw [← Option.some.inj htaken]
  exact hop

end

/-- A refused descriptor: an error record of KIND 0x01 where the ring has room, EQ_OVERFLOW where it has none, and the
seat FAULTED at the same RING_CONS (R62, R70, R71). -/
theorem refuse_spec (w : List Word) (cause : Nat) (hoff : s.traceOff) (hact : (s.seat n).state = .active)
    (hjob : s.job n = 0) :
    let t := s.refuse n w cause
    let i := s.regN (seatReg n 0x34)
    (t.seat n).state = .faulted ∧ (t.seat n).head = none ∧ t.reg (seatReg n 0x1C) = s.reg (seatReg n 0x1C) ∧
    (s.eqFull n = false →
      t.holds (s.errorAddr n) (errorBytes (tagOf w) cause 1 s.hallIndex s.now) ∧ s.storeOnly t (s.errorAddr n) 32 ∧
        t.reg (seatReg n 0x34) = BitVec.ofNat 32 (i + 1)) ∧
    (s.eqFull n = true → s.storeSame t ∧ bit (t.reg (seatReg n 0x64)) 3 = true) := by
  intro t i
  obtain ⟨hstate, hhead⟩ := refuse_seat w cause hact
  obtain ⟨hmem, hreg⟩ := refuse_frame w cause hoff hact hjob
  have hrecord := errorRecord_eq s n (tagOf w) cause 1 s.hallIndex s.now
  refine ⟨hstate, hhead, (hreg 0x1C).trans ?_, fun hroom => ?_, fun hfull => ?_⟩
  · exact errorRecord_reg_other _ _ _ _ _ _ (seatReg_ne_pending n _) (by simp only [seatReg, ctReg, partReg]; omega)
      (by simp only [seatReg, ctReg, partReg]; omega)
  · rw [hroom, if_neg Bool.false_ne_true] at hrecord
    rw [hrecord] at hmem hreg
    refine ⟨fun k hk => ?_, fun x hx => ?_, (hreg 0x34).trans (ringRecord_reg_same _ _ _ _ _)⟩
    · rw [csByte, hmem]
      exact ringRecord_holds _ _ _ _ _ k hk
    · rw [csByte, hmem]
      exact ringRecord_storeOnly _ _ _ _ _ x (by rwa [length_errorBytes])
  · rw [hfull, if_pos rfl] at hrecord
    rw [hrecord] at hmem hreg
    refine ⟨storeSame_of_csMem hmem, ?_⟩
    rw [hreg, reg_raise_same]
    simp [bit]

end

/-- Settles O17: a clean ring gives the head its words, R62's causes refuse it, and a refusal is an error record and a
FAULTED seat (R60, R61, R70, R71). -/
theorem headOfTheQueue : Obligations.HeadOfTheQueue := by
  refine ⟨fun s n hcore hactive hruns hblocked hhead hmore => ?_, fun s n w cause hoff hact hjob => ?_⟩
  · intro i avail k w hclean
    refine ⟨fun c hcause => congrArg Host.Outcome.next
      (descriptorHead_of_cause hcore hactive hruns hblocked hhead hmore hclean hcause), fun hcause hop => ?_⟩
    refine ⟨_, congrArg Host.Outcome.next
      (descriptorHead_of_no_cause hcore hactive hruns hblocked hhead hmore hclean hcause hop), ?_, rfl,
      fun m hm => seat_modSeat_other _ _ hm⟩
    rw [seat_modSeat_same]
    rfl
  · have hbytes : leBytes 4 (tagOf w) ++ leBytes 2 cause ++ [1#8, 0#8] ++ leBytes 4 s.hallIndex ++ zeros 4 ++
        leBytes 8 s.now ++ zeros 8 = errorBytes (tagOf w) cause 1 s.hallIndex s.now := by
      simp [errorBytes, leBytes, zeros]
    intro t i a
    rw [hbytes]
    exact refuse_spec w cause hoff hact hjob

end Sys2Proof.Proofs
end

section
/-! SUPPORT. What the completion of a descriptor leaves of memory and registers (R68, R69, R410). -/

namespace Sys2Proof.Machine

/-- A register that neither a fault of seat `n` nor a collective's side step for it writes. -/
def Spared (n r : Nat) : Prop := 0x30000 ≤ r ∧ blockOf r ≠ .msix ∧ r ≠ ecReg 0x8 ∧ r ≠ seatReg n 0x70

theorem Spared.ne_pending {n r : Nat} (h : Spared n r) (hn : n < 512) : r ≠ msixReg (0x8000 + n / 32 * 4) := by
  obtain ⟨-, hblock, -, -⟩ := h
  rintro rfl
  refine hblock ?_
  have hb : msixReg (0x8000 + n / 32 * 4) / 0x10000 = 11 := by unfold msixReg; omega
  simp [blockOf, hb]

theorem spared_seatReg {n o : Nat} (hn : n < 512) (ho : o < 0x100) (h : o ≠ 0x70) : Spared n (seatReg n o) := by
  refine ⟨?_, ?_, ?_, ?_⟩
  · have hfar := State.le_seatReg n o
    omega
  · rw [seatReg, blockOf_ctReg (by omega) (by omega)]
    exact Block.noConfusion
  · simp only [seatReg, ctReg, partReg, ecReg]
    omega
  · simp only [seatReg, ctReg, partReg]
    omega

/-- A tumbler's register lies in the tumblers' two blocks. -/
theorem tumblerReg_bounds {k : Nat} (h : k < 8192) : 0x60000 ≤ tumblerReg k ∧ tumblerReg k < 0x80000 := by
  unfold tumblerReg
  split <;> omega

theorem spared_tumblerReg {n k : Nat} (h : k < 8192) : Spared n (tumblerReg k) := by
  obtain ⟨hlo, hhi⟩ := tumblerReg_bounds h
  refine ⟨by omega, ?_, ?_, ?_⟩
  · have hb : tumblerReg k / 0x10000 = 6 ∨ tumblerReg k / 0x10000 = 7 := by omega
    rcases hb with hb | hb <;> simp [blockOf, hb]
  · simp only [ecReg]
    omega
  · simp only [seatReg, ctReg, partReg]
    omega

/-- From `s` to `t` the Central Store and every spared register stay. -/
structure Undisturbed (n : Nat) (s t : State) : Prop where
  csMem : t.csMem = s.csMem
  reg   : ∀ r, Spared n r → t.reg r = s.reg r

namespace Undisturbed

variable {s t u : State} {n : Nat}

theorem refl (s : State) : Undisturbed n s s := ⟨rfl, fun _ _ => rfl⟩

theorem trans (h : Undisturbed n s t) (k : Undisturbed n t u) : Undisturbed n s u :=
  ⟨k.csMem.trans h.csMem, fun r hr => (k.reg r hr).trans (h.reg r hr)⟩

theorem of_eq (hmem : t.csMem = s.csMem) (hvariant : t.variant = s.variant) (hregs : t.regs = s.regs) :
    Undisturbed n s t := ⟨hmem, fun r _ => State.reg_congr hvariant hregs r⟩

theorem ite {c : Prop} [Decidable c] {a b : State} (h : Undisturbed n s a) (k : Undisturbed n s b) :
    Undisturbed n s (if c then a else b) := by
  split
  · exact h
  · exact k

theorem fold {α : Type} {f : State → α → State} (h : ∀ u x, Undisturbed n u (f u x)) (l : List α) (s : State) :
    Undisturbed n s (l.foldl f s) := by
  induction l generalizing s with
  | nil => exact refl s
  | cons x l ih => exact (h s x).trans (ih _)

/-! Records of seats and partitions, and the queues of the ports, are not registers. -/

theorem modSeat (s : State) (m : Nat) (f : SeatRec → SeatRec) : Undisturbed n s (s.modSeat m f) := of_eq rfl rfl rfl

theorem modRun (s : State) (m : Nat) (idx : Word) (f : Run → Run) : Undisturbed n s (s.modRun m idx f) := of_eq rfl rfl rfl

theorem refreshWd (s : State) (m : Nat) : Undisturbed n s (s.refreshWd m) := of_eq rfl rfl rfl

theorem dropRun (s : State) (m : Nat) (idx : Word) : Undisturbed n s (s.dropRun m idx) :=
  (modSeat s m _).trans (refreshWd _ m)

theorem queueCtrlAll (s : State) (ports : List Nat) (body : List Byte) : Undisturbed n s (s.queueCtrlAll ports body) :=
  fold (f := fun u p => u.queueCtrl p body) (fun u p => of_eq (t := u.queueCtrl p body) rfl rfl rfl) ports s

theorem issueRead (s : State) (m : Nat) (idx : Word) (host cs len tag : Nat) (fence : Bool) :
    Undisturbed n s (s.issueRead m idx host cs len tag fence) := by
  unfold State.issueRead
  exact ite (of_eq rfl rfl rfl) (of_eq rfl rfl rfl)

theorem pumpReads (s : State) : Undisturbed n s s.pumpReads := by
  unfold State.pumpReads
  refine fold (fun u m => fold (fun v r => ?_) _ u) _ s
  split
  · exact refl v
  · split
    · exact (issueRead _ _ _ _ _ _ _ _).trans (modRun _ _ _ _)
    · exact ite ((issueRead _ _ _ _ _ _ _ _).trans (modRun _ _ _ _)) (refl v)
    · exact refl v

/-! Signals, faults and forfeits (R71, R72, R410). -/

theorem logFault (s : State) (mask : Nat) : Undisturbed n s (s.logFault mask) := by
  obtain ⟨regs, bad, fn, ec, out, h, -⟩ := State.raiseEc_frame s 8 mask
  refine ⟨by rw [State.logFault, h], fun r hr => ?_⟩
  exact State.reg_raiseEc_other s mask hr.2.2.1 hr.2.1

theorem originate (s : State) (j cause m : Nat) : Undisturbed n s (s.originate j cause m) := by
  unfold State.originate
  extract_lets effect tag me body f seen ec u
  have hu : Undisturbed n s u := of_eq rfl rfl rfl
  clear_value u
  refine ite (refl s) (((hu.trans (queueCtrlAll u u.upPorts body)).trans (logFault _ 0x80)).trans ?_)
  exact of_eq (State.bumpObj_csMem _ _ _ _) (State.bumpObj_variant _ _ _ _) (State.bumpObj_regs _ _ _ _)

theorem toState (s : State) (st : SeatState) (hn : n < 512) : Undisturbed n s (s.toState n st) :=
  ⟨State.toState_csMem s n st, fun _ hr => State.reg_toState_other s st hr.1 (hr.ne_pending hn)⟩

theorem faultSeat (s : State) (cause : Nat) (hn : n < 512) : Undisturbed n s (s.faultSeat n cause) := by
  unfold State.faultSeat
  exact ite (((toState s .faulted hn).trans (modSeat _ _ _)).trans (originate _ _ _ _)) (refl s)

theorem sideStep (s : State) (r : Run) : Undisturbed n s (s.sideStep n r) := by
  unfold State.sideStep
  extract_lets w bs u
  have hu : Undisturbed n s u :=
    trans (t := s.raise (seatReg n 0x70) 0x40) ⟨rfl, fun _ hr => State.reg_raise_other _ _ hr.2.2.2⟩ (of_eq rfl rfl rfl)
  clear_value u
  exact ite (refl s) (ite (refl s) (ite (hu.trans (originate _ _ _ _)) hu))

end Undisturbed

namespace State

variable {s : State} {n : Nat}

/-! STATE beside a fault. -/

theorem pumpReads_state (s : State) (m : Nat) : (s.pumpReads.seat m).state = (s.seat m).state := by
  have hrun (u : State) (k : Nat) (idx : Word) (f : Run → Run) : ((u.modRun k idx f).seat m).state = (u.seat m).state := by
    by_cases hm : m = k
    · rw [modRun, hm, seat_modSeat_same]
    · rw [modRun, seat_modSeat_other _ _ hm]
  have hissue (u : State) (k : Nat) (idx : Word) (host cs len tag : Nat) (fence : Bool) (f : Run → Run) :
      (((u.issueRead k idx host cs len tag fence).modRun k idx f).seat m).state = (u.seat m).state := by
    rw [hrun, seat_congr (issueRead_seats _ _ _ _ _ _ _ _)]
  unfold pumpReads
  refine foldl_frame (fun u => (u.seat m).state) (fun u k => foldl_frame (fun u => (u.seat m).state) (fun v r => ?_) _ u) _ s
  split
  · rfl
  · split
    · exact hissue _ _ _ _ _ _ _ _ _
    · split
      · exact hissue _ _ _ _ _ _ _ _ _
      · rfl
    · rfl

end State

end Sys2Proof.Machine
end

section
/-! SUPPORT. The stages of a completion (R68, R69). -/

namespace Sys2Proof.Machine.State

variable {s t : State} {n : Nat} {r : Run}

theorem setTumbler_frame (s : State) (k : Nat) (v : Word) :
    ∃ seats, s.setTumbler k v = { s.setReg (tumblerReg k) v with seats := seats } := by
  unfold setTumbler
  extract_lets changed u
  split
  · exact ⟨_, rfl⟩
  · exact ⟨u.seats, rfl⟩

/-- The descriptor has left its seat: no run of the seat has its index. -/
theorem runLeft_running (s : State) (n : Nat) (r : Run) : ∀ q ∈ ((s.runLeft n r).seat n).running, q.index ≠ r.index := by
  unfold runLeft
  extract_lets u
  have hu : (u.seat n).running = (s.seat n).running.filter fun q => decide (q.index ≠ r.index) := by
    unfold u dropRun
    obtain ⟨w, hw⟩ := refreshWd_seat
      (s.modSeat n fun q => { q with running := q.running.filter fun p => decide (p.index ≠ r.index) }) n n
    rw [seat_modSeat_same, hw, seat_modSeat_same]
  rw [seat_congr (modPart_seats _ _ _), hu]
  exact fun q hq => of_decide_eq_true (List.mem_filter.1 hq).2

theorem runLeft_state (s : State) (n : Nat) (r : Run) : ((s.runLeft n r).seat n).state = (s.seat n).state := by
  unfold runLeft
  extract_lets u
  have hu : (u.seat n).state = (s.seat n).state := by
    unfold u dropRun
    obtain ⟨w, hw⟩ := refreshWd_seat
      (s.modSeat n fun q => { q with running := q.running.filter fun p => decide (p.index ≠ r.index) }) n n
    rw [seat_modSeat_same, hw, seat_modSeat_same]
  rw [seat_congr (modPart_seats _ _ _), hu]

theorem runLeft_frame (s : State) (n : Nat) (r : Run) :
    ∃ seats parts, s.runLeft n r = { s with seats := seats, parts := parts } := by
  unfold runLeft
  extract_lets u
  have hu : ∃ seats parts, u = { s with seats := seats, parts := parts } := by
    obtain ⟨seats, parts, h⟩ := refreshWd_frame
      (s.modSeat n fun q => { q with running := q.running.filter fun p => decide (p.index ≠ r.index) }) n
    unfold u dropRun
    rw [h]
    exact ⟨_, _, rfl⟩
  obtain ⟨seats, parts, hu⟩ := hu
  clear_value u
  subst hu
  exact ⟨_, _, rfl⟩

/-- The state in which the descriptor has left and its record is in the trace. -/
def runTraced (s : State) (n : Nat) (r : Run) : State :=
  ((s.collCount r).runLeft n r).trace n (tagOf r.words) (opcodeOf r.words) 2 r.status r.unit

/-- With the trace off, memory, registers and time are as before the completion, and so is STATE. -/
theorem runTraced_kept (hoff : s.traceOff) (n : Nat) (r : Run) :
    (s.runTraced n r).csMem = s.csMem ∧ (∀ o, (s.runTraced n r).reg o = s.reg o) ∧ (s.runTraced n r).now = s.now ∧
      ((s.runTraced n r).seat n).state = (s.seat n).state := by
  obtain ⟨objs, hcount⟩ := collCount_frame s r
  obtain ⟨seats, parts, hleft⟩ := runLeft_frame (s.collCount r) n r
  have hstate := runLeft_state (s.collCount r) n r
  have hcountState : ((s.collCount r).seat n).state = (s.seat n).state := by rw [hcount]; rfl
  have hoff' : ((s.collCount r).runLeft n r).traceOff := by rw [hleft, hcount]; exact hoff
  obtain ⟨out, hout⟩ := trace_of_off n (tagOf r.words) (opcodeOf r.words) 2 r.status r.unit hoff'
  rw [runTraced]
  refine ⟨?_, fun o => ?_, ?_, ?_⟩
  · rw [hout, hleft, hcount]
  · rw [hout, hleft, hcount]
    rfl
  · rw [trace_now, hleft, hcount]
    rfl
  · rw [seat_congr (trace_kept _ _ _ _ _ _ _).1, hstate, hcountState]

/-! ADVANCE (R68). -/

theorem wF_advance_lt (w : List Word) : wF w 2 28 16 < 8192 := Nat.mod_lt _ (Nat.two_pow_pos _)

theorem runAdvanced_kept (s : State) (n : Nat) (r : Run) :
    (s.runAdvanced r).csMem = s.csMem ∧ (∀ o, (s.runAdvanced r).reg (seatReg n o) = s.reg (seatReg n o)) ∧
      (s.runAdvanced r).now = s.now ∧ ((s.runAdvanced r).seat n).state = (s.seat n).state := by
  unfold runAdvanced
  split
  · obtain ⟨seats, hframe⟩ := setTumbler_frame s (wF r.words 2 28 16) (s.tumbler (wF r.words 2 28 16) + 1)
    obtain ⟨w, hseat⟩ := setTumbler_seat s (wF r.words 2 28 16) (s.tumbler (wF r.words 2 28 16) + 1) n
    rw [hseat, hframe]
    refine ⟨rfl, fun o => ?_, rfl, rfl⟩
    refine reg_setReg_other _ _ fun he => ?_
    have hfar := le_seatReg n o
    have hlow := (tumblerReg_bounds (wF_advance_lt r.words)).2
    omega
  · exact ⟨rfl, fun _ => rfl, rfl, rfl⟩

theorem runAdvanced_tumbler (heffect : (statusEffect (opcodeOf r.words) r.status).1 = true)
    (hadvance : wB r.words 0 14 = true) :
    (s.runAdvanced r).tumbler (wF r.words 2 28 16) = s.tumbler (wF r.words 2 28 16) + 1 := by
  obtain ⟨seats, hframe⟩ := setTumbler_frame s (wF r.words 2 28 16) (s.tumbler (wF r.words 2 28 16) + 1)
  rw [runAdvanced, if_pos (by rw [heffect, hadvance]; rfl), hframe]
  exact reg_setReg_same (s := s) _ _

/-! The completion record (R68). -/

/-- The bytes of a completion record (Table 2-7). -/
def completionBytes (tag status opcode now : Nat) : List Byte :=
  leBytes 4 tag ++ leBytes 1 status ++ leBytes 1 opcode ++ zeros 2 ++ leBytes 8 now

theorem length_completionBytes (tag status opcode now : Nat) : (completionBytes tag status opcode now).length = 16 := by
  simp [completionBytes, length_leBytes, zeros]

/-- Where the next completion record of the seat lies. -/
def completionAddr (s : State) (n : Nat) : Nat :=
  s.regN (seatReg n 0x20) * 0x10000 + s.regN (seatReg n 0x28) % 2 ^ s.regField (seatReg n 0x24) 4 0 * 16

theorem completionRecord_eq (s : State) (n tag status opcode : Nat) : s.completionRecord n tag status opcode =
    s.ringRecord n (s.completionAddr n) 0x28 (s.regN (seatReg n 0x28)) (completionBytes tag status opcode s.now) := rfl

/-- Is a record due: INTERRUPT, or a status other than 0? -/
theorem runRecorded_of_due (h : wB r.words 0 15 = true ∨ r.status ≠ 0) : s.runRecorded n r =
    s.ringRecord n (s.completionAddr n) 0x28 (s.regN (seatReg n 0x28))
      (completionBytes (tagOf r.words) r.status (opcodeOf r.words) s.now) := by
  rw [runRecorded, if_pos (by simpa using h), completionRecord_eq]

theorem runRecorded_of_not_due (hinterrupt : wB r.words 0 15 = false) (hstatus : r.status = 0) : s.runRecorded n r = s := by
  rw [runRecorded, if_neg (by simp [hinterrupt, hstatus])]

theorem runRecorded_tumbler {k : Nat} (hn : n < 512) (hk : k < 8192) (s : State) (r : Run) :
    (s.runRecorded n r).tumbler k = s.tumbler k := by
  unfold runRecorded
  split
  · have hfar := le_seatReg n 0x28
    have hlow := (tumblerReg_bounds hk).2
    rw [completionRecord_eq]
    exact ringRecord_reg_other _ _ _ _ _ ((spared_tumblerReg hk).ne_pending hn) (by omega)
  · rfl

theorem runRecorded_state (s : State) (n : Nat) (r : Run) : ((s.runRecorded n r).seat n).state = (s.seat n).state := by
  unfold runRecorded
  split
  · exact ringRecord_state _ _ _ _ _ n
  · rfl

/-! The seat's fate, and what happens beside (R68, R367). -/

/-- All that follows a completion's record. -/
def runSettled (s : State) (n : Nat) (r : Run) : State := (((s.runJudged n r).refreshWd n).sideStep n r).pumpReads

theorem runSettled_undisturbed (hn : n < 512) (s : State) (r : Run) : Undisturbed n s (s.runSettled n r) := by
  have hjudged : Undisturbed n s (s.runJudged n r) := Undisturbed.ite (Undisturbed.faultSeat s 1 hn) (Undisturbed.refl s)
  exact ((hjudged.trans (Undisturbed.refreshWd _ n)).trans (Undisturbed.sideStep _ r)).trans (Undisturbed.pumpReads _)

theorem runSettled_faulted (heffect : (statusEffect (opcodeOf r.words) r.status).2 = true)
    (hact : (s.seat n).state = .active) : ((s.runSettled n r).seat n).state = .faulted := by
  have hjudged : ((s.runJudged n r).seat n).state = .faulted := by
    rw [runJudged, if_pos heffect]
    exact (faultSeat_seat 1 hact).1
  obtain ⟨w, hw⟩ := refreshWd_seat (s.runJudged n r) n n
  rw [runSettled, pumpReads_state, seat_congr (sideStep_seats _ _ _), hw, hjudged]

/-! The whole completion. -/

section

variable (hfence : opcodeOf r.words ≠ 6) (hhold : s.mustHold n r = false)

include hfence hhold

/-- The end of a descriptor that is no fence and whose completion the ring does not hold. -/
theorem endOf_of_free : s.endOf n r = (((s.collCount r).complete n r).sideStep n r).pumpReads := by
  have hno : decide (opcodeOf r.words = 6) = false := decide_eq_false hfence
  simp only [endOf, hno, Bool.false_and, Bool.false_eq_true, if_false, hhold]

/-- The stages of a completion in their order. -/
theorem endOf_eq : s.endOf n r = (((s.runTraced n r).runAdvanced r).runRecorded n r).runSettled n r := by
  rw [endOf_of_free hfence hhold, complete_eq, runSettled, runTraced]

/-- No descriptor with its index is left in the seat. -/
theorem findRun_endOf : (s.endOf n r).findRun n r.index = none := by
  have hserved : Served ((s.collCount r).runLeft n r) (s.endOf n r) := by
    rw [endOf_of_free hfence hhold]
    exact ((Served.afterLeft _ n r).trans (Served.sideStep _ n r)).trans (Served.pumpReads _)
  refine List.find?_eq_none.2 fun q hq hidx => ?_
  obtain ⟨p, hp, hpq⟩ := hserved.runs n q hq
  exact runLeft_running _ n r p hp (hpq.trans (of_decide_eq_true hidx))

end

/-- The completion of a descriptor whose work has ended (R68, R69). -/
theorem descriptorComplete_of_done {idx : Word} (hfind : s.findRun n idx = some r) (hvoid : r.void = false)
    (hdone : r.work = .done) : s.descriptorComplete n idx = s.endOf n r := by
  have hlast : s.lastWork n r = s := by simp [lastWork, hvoid, hdone]
  have hready : s.fenceReady n r = true := by simp [fenceReady, hdone]
  simp [descriptorComplete, hfind, hlast, hvoid, hready]

end Sys2Proof.Machine.State
end

section
/-! PROOFS. Completion. -/

namespace Sys2Proof.Proofs

open Sys2Proof.Machine Sys2Proof.Machine.State

section

variable {s : State} {n : Nat} {r : Run} (hn : n < 512) (hoff : s.traceOff) (hfence : opcodeOf r.words ≠ 6)
  (hhold : s.mustHold n r = false)

include hn hoff hfence hhold

/-- ADVANCE (R68). -/
theorem endOf_tumbler (heffect : (statusEffect (opcodeOf r.words) r.status).1 = true) (hadvance : wB r.words 0 14 = true) :
    (s.endOf n r).tumbler (wF r.words 2 28 16) = s.tumbler (wF r.words 2 28 16) + 1 := by
  obtain ⟨-, hreg, -, -⟩ := runTraced_kept hoff n r
  have hk := wF_advance_lt r.words
  rw [endOf_eq hfence hhold, tumbler, (runSettled_undisturbed hn _ r).reg _ (spared_tumblerReg hk)]
  refine (runRecorded_tumbler hn hk _ r).trans ?_
  rw [runAdvanced_tumbler heffect hadvance, tumbler, hreg, tumbler]

/-- The completion record, where one is due (R68). -/
theorem endOf_record (hdue : wB r.words 0 15 = true ∨ r.status ≠ 0) :
    (s.endOf n r).holds (s.completionAddr n) (completionBytes (tagOf r.words) r.status (opcodeOf r.words) s.now) ∧
      s.storeOnly (s.endOf n r) (s.completionAddr n) 16 ∧
      (s.endOf n r).reg (seatReg n 0x28) = BitVec.ofNat 32 (s.regN (seatReg n 0x28) + 1) := by
  obtain ⟨hmem, hreg, hnow, -⟩ := runTraced_kept hoff n r
  obtain ⟨hmem', hreg', hnow', -⟩ := runAdvanced_kept (s.runTraced n r) n r
  have hindex : ((s.runTraced n r).runAdvanced r).regN (seatReg n 0x28) = s.regN (seatReg n 0x28) := by
    rw [regN, hreg', hreg, regN]
  have haddr : ((s.runTraced n r).runAdvanced r).completionAddr n = s.completionAddr n := by
    simp only [completionAddr, regN, regField, hreg', hreg]
  have hsettled := runSettled_undisturbed hn (((s.runTraced n r).runAdvanced r).runRecorded n r) r
  rw [← endOf_eq hfence hhold, runRecorded_of_due hdue, haddr, hindex, hnow', hnow] at hsettled
  have hbyte (x : Nat) : ((s.runTraced n r).runAdvanced r).csByte x = s.csByte x := by rw [csByte, hmem', hmem, csByte]
  refine ⟨fun k hk => ?_, fun x hx => ?_, ?_⟩
  · rw [csByte, hsettled.csMem]
    exact ringRecord_holds _ _ _ _ _ k hk
  · rw [← hbyte, csByte, hsettled.csMem]
    exact ringRecord_storeOnly _ _ _ _ _ x (by rwa [length_completionBytes])
  · rw [hsettled.reg _ (spared_seatReg hn (by decide) (by decide))]
    exact ringRecord_reg_same _ _ _ _ _

/-- With no record due no byte changes. -/
theorem endOf_storeSame (hinterrupt : wB r.words 0 15 = false) (hstatus : r.status = 0) : s.storeSame (s.endOf n r) := by
  obtain ⟨hmem, -, -, -⟩ := runTraced_kept hoff n r
  obtain ⟨hmem', -, -, -⟩ := runAdvanced_kept (s.runTraced n r) n r
  refine storeSame_of_csMem ?_
  rw [endOf_eq hfence hhold, (runSettled_undisturbed hn _ r).csMem, runRecorded_of_not_due hinterrupt hstatus, hmem', hmem]

end

/-- A status that faults the seat makes it FAULTED. -/
theorem endOf_faulted {s : State} {n : Nat} {r : Run} (hoff : s.traceOff) (hfence : opcodeOf r.words ≠ 6)
    (hhold : s.mustHold n r = false) (heffect : (statusEffect (opcodeOf r.words) r.status).2 = true)
    (hact : (s.seat n).state = .active) :
    ((s.endOf n r).seat n).state = .faulted := by
  obtain ⟨-, -, -, hstate⟩ := runTraced_kept hoff n r
  obtain ⟨-, -, -, hstate'⟩ := runAdvanced_kept (s.runTraced n r) n r
  rw [endOf_eq hfence hhold]
  refine runSettled_faulted heffect ?_
  rw [runRecorded_state, hstate', hstate, hact]

/-- Settles O19: a completion takes the descriptor out of its seat, advances its tumbler, writes its record and judges its
seat, and what follows it disturbs none of these (R68, R69). -/
theorem descriptorCompletes : Obligations.DescriptorCompletes := by
  intro s n idx r hfind hvoid hdone hfence hhold hoff op i a
  have hidx : r.index = idx := by
    simpa using List.find?_some (show (s.seat n.val).running.find? (fun q => decide (q.index = idx)) = some r from hfind)
  refine ⟨s.endOf n.val r, congrArg Host.Outcome.next (descriptorComplete_of_done hfind hvoid hdone), ?_,
    endOf_tumbler n.isLt hoff hfence hhold, fun _ => ⟨endOf_record n.isLt hoff hfence hhold,
      endOf_storeSame n.isLt hoff hfence hhold⟩, endOf_faulted hoff hfence hhold⟩
  rw [← hidx]
  exact findRun_endOf hfence hhold

end Sys2Proof.Proofs
end

namespace Sys2Proof.SMap

/-- The keys of a dropped range read as unlisted, the others as before. -/
theorem get_dropRange {α : Type} (d : α) (m : SMap α) (lo hi k : Nat) :
    get d (m.dropRange lo hi) k = if lo ≤ k ∧ k < hi then d else get d m k := by
  induction m with
  | nil => exact (ite_self d).symm
  | cons e m ih =>
    by_cases hkept : e.1 < lo ∨ hi ≤ e.1
    · have hcons : dropRange (e :: m) lo hi = e :: dropRange m lo hi := List.filter_cons_of_pos (by simpa using hkept)
      rw [hcons]
      by_cases hk : e.1 = k
      · rw [if_neg (by omega)]
        simp [get, find?, hk]
      · simpa [get, find?, hk] using ih
    · have hcons : dropRange (e :: m) lo hi = dropRange m lo hi := List.filter_cons_of_neg (by simpa using hkept)
      rw [hcons, ih]
      by_cases hk : e.1 = k
      · rw [if_pos (by omega), if_pos (by omega)]
      · simp [get, find?, hk]

end Sys2Proof.SMap

section
/-! SUPPORT. What a seat loses when its work is void, and the two ends of a RELEASE (R58, R68). -/

namespace Sys2Proof.Machine

/-- From `s` to `t` every seat's record stays, and every register of the partitions. -/
structure Aloof (s t : State) : Prop where
  seats : t.seats = s.seats
  reg   : ∀ r, 0x2000000 ≤ r → t.reg r = s.reg r

namespace Aloof

variable {s t u : State}

theorem refl (s : State) : Aloof s s := ⟨rfl, fun _ _ => rfl⟩

theorem trans (h : Aloof s t) (k : Aloof t u) : Aloof s u :=
  ⟨k.seats.trans h.seats, fun r hr => (k.reg r hr).trans (h.reg r hr)⟩

theorem of_eq (hseats : t.seats = s.seats) (hvariant : t.variant = s.variant) (hregs : t.regs = s.regs) : Aloof s t :=
  ⟨hseats, fun r _ => State.reg_congr hvariant hregs r⟩

theorem ite {c : Prop} [Decidable c] {a b : State} (h : Aloof s a) (k : Aloof s b) : Aloof s (if c then a else b) := by
  split
  · exact h
  · exact k

theorem fold {α : Type} {f : State → α → State} {l : List α} (h : ∀ x ∈ l, ∀ u, Aloof u (f u x)) (s : State) :
    Aloof s (l.foldl f s) := by
  induction l generalizing s with
  | nil => exact refl s
  | cons x l ih => exact (h x List.mem_cons_self s).trans (ih (fun y hy => h y (List.mem_cons_of_mem _ hy)) _)

theorem setReg {off : Nat} (s : State) (v : Word) (h : off < 0x2000000) : Aloof s (s.setReg off v) :=
  ⟨rfl, fun _ _ => State.reg_setReg_other _ _ (by omega)⟩

/-! What the start of a RELEASE does to other units. -/

theorem setRec {rec_ : Recorder} (h : Aloof s t) : Aloof s { t with rec_ := rec_ } := h.trans (of_eq rfl rfl rfl)

theorem indexDrawn (s : State) (step first count flags : Nat) (digest : List Byte) :
    Aloof s (s.indexEntry step first count flags digest).draw := of_eq rfl rfl rfl

theorem recorderLost (s : State) : Aloof s s.recorderLost := by
  unfold State.recorderLost
  split
  · exact (refl s).setRec
  · exact (ite (refl s) (indexDrawn s _ _ _ _ _)).setRec.trans (setReg _ _ (by decide))

theorem clearSlots (s : State) (p : Nat) (sel : Nat → Bool) : Aloof s (s.clearSlots p sel) :=
  fold (fun a _ u => of_eq (State.modArr_seats u p a _) (State.modArr_variant u p a _) (State.modArr_regs u p a _)) s

theorem dropLines (s : State) (drop : CacheLine → Bool) : Aloof s (s.dropLines drop) := of_eq rfl rfl rfl

theorem shortfall {k : Nat} (hk : k < 12) (s : State) : Aloof s (s.shortfall k) := by
  unfold State.shortfall
  extract_lets u
  have hreg (o : Nat) (ho : o < 0x10000) : hbReg k o < 0x2000000 := by unfold hbReg; omega
  have hu : Aloof s u := by
    refine fold (fun p _ v => ?_) s
    split
    · refine ite (trans (of_eq ?_ ?_ ?_) (setReg _ _ (hreg 0xC (by decide)))) (refl v)
      · exact State.modStack_seats _ _ _
      · exact State.modStack_variant _ _ _
      · exact State.modStack_regs _ _ _
    · refine ite (refl v) (of_eq ?_ ?_ ?_)
      · rw [State.bumpObj_seats, State.modStack_seats]
      · rw [State.bumpObj_variant, State.modStack_variant]
      · rw [State.bumpObj_regs, State.modStack_regs]
  exact hu.trans (setReg u _ (hreg 8 (by decide)))

theorem reserve (s : State) (n v : Nat) : Aloof s (s.reserve n v) := by
  refine trans (t := s.setObj (0x2600 + n / 16) (n % 16 + 1) v) (of_eq rfl rfl rfl) ?_
  exact fold (fun k hk u => shortfall (List.mem_range.1 hk) u) _

end Aloof

namespace State

variable {s t : State} {n : Nat}

/-! The work of a seat is void (R68). -/

/-- Once a seat is void it has no head, and what is left of its runs is void; at the hard end there is none. -/
theorem voidSeat_seat (s : State) (n : Nat) (hard : Bool) : ∃ runs w, (s.voidSeat n hard).seat n =
    { s.seat n with head := none, running := runs, heldBells := [], cqHeld := none, wdStart := w } ∧
      (∀ r ∈ runs, r.void = true) ∧ (hard = true → runs = []) := by
  unfold voidSeat
  extract_lets runs keep s1 s2 reads launches s3 s4 s5
  have h1 : s1.seats = s.seats := (traceVoid_kept s n runs).1
  have h2 : s2.seats = s1.seats := by
    unfold s2
    split
    · exact foldl_frame State.seats (fun u a => by split <;> rfl) _ _
    · rfl
  have h4 : s4.seats = s2.seats := by
    obtain ⟨ports, posted, h⟩ := dropCells_frame s2 n
    unfold s4 s3
    rw [h]
  obtain ⟨w, hw⟩ := refreshWd_seat s5 n n
  have h5 : s5.seat n = { s.seat n with head := none, running := keep, heldBells := [], cqHeld := none } := by
    unfold s5
    rw [seat_modSeat_same, seat_congr ((h4.trans h2).trans h1)]
  refine ⟨keep, w, by rw [hw, h5], fun r hr => ?_, fun hhard => if_pos hhard⟩
  unfold keep at hr
  split at hr
  · exact absurd hr List.not_mem_nil
  · obtain ⟨q, -, rfl⟩ := List.mem_map.mp hr
    rfl

/-- With the trace off a voided descriptor leaves a line on the service UART at most. -/
theorem traceVoid_of_off (runs : List Run) (hoff : s.traceOff) : ∃ out,
    runs.foldl (fun u r => if r.void then u else u.trace n (tagOf r.words) (opcodeOf r.words) 4 0 r.unit) s =
      { s with out := out } := by
  induction runs generalizing s with
  | nil => exact ⟨s.out, rfl⟩
  | cons r runs ih =>
    have hone : ∃ out, (if r.void then s else s.trace n (tagOf r.words) (opcodeOf r.words) 4 0 r.unit) =
        { s with out := out } := by
      by_cases hvoid : r.void = true
      · exact ⟨s.out, if_pos hvoid⟩
      · obtain ⟨out, hout⟩ := trace_of_off n (tagOf r.words) (opcodeOf r.words) 4 0 r.unit hoff
        exact ⟨out, (if_neg hvoid).trans hout⟩
    obtain ⟨out, hone⟩ := hone
    obtain ⟨out', hrest⟩ := ih (s := { s with out := out }) hoff
    exact ⟨out', by rw [List.foldl_cons, hone, hrest]⟩

/-- What a seat's void leaves of the registers, and with the trace off of the Central Store. -/
theorem voidSeat_kept (s : State) (n : Nat) (hard : Bool) :
    (∀ r, r ≠ mgReg 0x118 → (s.voidSeat n hard).reg r = s.reg r) ∧
      (s.traceOff → (s.voidSeat n hard).csMem = s.csMem) := by
  unfold voidSeat
  extract_lets runs keep s1 s2 reads launches s3 s4 s5
  have h2 : s2.regs = s1.regs ∧ s2.variant = s1.variant ∧ s2.csMem = s1.csMem := by
    unfold s2
    split
    · refine ⟨foldl_frame State.regs (fun u a => ?_) _ _, foldl_frame State.variant (fun u a => ?_) _ _,
        foldl_frame State.csMem (fun u a => ?_) _ _⟩ <;> split <;> rfl
    · exact ⟨rfl, rfl, rfl⟩
  obtain ⟨hregs, hvariant, hmem⟩ := h2
  have h4 : (∀ r, s4.reg r = s2.reg r) ∧ s4.csMem = s2.csMem := by
    obtain ⟨ports, posted, h⟩ := dropCells_frame s2 n
    unfold s4 s3
    rw [h]
    exact ⟨fun _ => rfl, rfl⟩
  refine ⟨fun r hr => ?_, fun hoff => ?_⟩
  · rw [reg_congr (refreshWd_variant _ _) (refreshWd_regs _ _)]
    unfold s5
    rw [reg_congr (modSeat_variant _ _ _) (modSeat_regs _ _ _), h4.1, reg_congr hvariant hregs]
    exact (traceVoid_kept s n runs).2.2 r hr
  · obtain ⟨out, hout⟩ := traceVoid_of_off (n := n) runs hoff
    have h1 : s1.csMem = s.csMem := by
      unfold s1
      rw [hout]
    rw [refreshWd_csMem]
    unfold s5
    rw [modSeat_csMem, h4.2, hmem, h1]

/-! The start of a RELEASE (R55, R58). -/

/-- The runs of a seat, those that wait for the Hasp's line now due or not. -/
def dueRuns (b : Bool) (f : LineOp → Bool) (runs : List Run) : List Run :=
  runs.map fun q =>
    match q.work with
    | .haspWait o due => { q with work := .haspWait o (if f o then b else due) }
    | _ => q

theorem haspDue_seat (s : State) (b : Bool) (f : LineOp → Bool) (m : Nat) :
    (s.haspDue b f).seat m = { s.seat m with running := dueRuns b f (s.seat m).running } :=
  SMap.get_map SeatRec.fresh s.seats (fun _ r => { r with running := dueRuns b f r.running }) (fun _ => rfl) m

theorem reg_haspDue (s : State) (b : Bool) (f : LineOp → Bool) (r : Nat) : (s.haspDue b f).reg r = s.reg r := rfl

theorem void_of_mem_dueRuns {b : Bool} {f : LineOp → Bool} {runs : List Run} (h : ∀ r ∈ runs, r.void = true) :
    ∀ q ∈ dueRuns b f runs, q.void = true := by
  intro q hq
  obtain ⟨r, hr, rfl⟩ := List.mem_map.1 hq
  split <;> exact h r hr

/-- The seat RELEASING, with its work void. -/
def releaseVoided (s : State) (n : Nat) : State :=
  ((if s.recorderSeat = n then s.recorderLost else s).voidSeat n false).toState n .releasing

/-- The seat's group slots, cache lines and reserved bandwidth are given back. -/
def releaseFreed (s : State) (n : Nat) : State :=
  let u := s.clearSlots (n / 16) fun m => decide (m = n)
  let w := u.hbmWin n
  (u.dropLines fun l => decide (l.part = n / 16) && inWin w (l.line * 128) 1).reserve n 0

theorem startRelease_eq (s : State) (n : Nat) :
    s.startRelease n = ((s.releaseVoided n).releaseFreed n).haspDue true fun _ => true := rfl

theorem releaseVoided_spec (s : State) (hn : n < 512) :
    ((s.releaseVoided n).seat n).state = .releasing ∧ ((s.releaseVoided n).seat n).head = none ∧
      (∀ r ∈ ((s.releaseVoided n).seat n).running, r.void = true) ∧
      ∀ r, 0x2000000 ≤ r → (s.releaseVoided n).reg r = s.reg r := by
  unfold releaseVoided
  have hlost : Aloof s (if s.recorderSeat = n then s.recorderLost else s) :=
    Aloof.ite (Aloof.recorderLost s) (Aloof.refl s)
  generalize (if s.recorderSeat = n then s.recorderLost else s) = u at hlost
  obtain ⟨runs, wd, hseat, hvoid, -⟩ := voidSeat_seat u n false
  obtain ⟨d, q, e, wd', hstate⟩ := toState_seat (u.voidSeat n false) n .releasing
  rw [hstate, hseat]
  refine ⟨rfl, rfl, hvoid, fun r hr => ?_⟩
  have htrace : r ≠ mgReg 0x118 := by
    simp only [mgReg]
    omega
  rw [reg_toState _ _ hn hr, (voidSeat_kept u n false).1 r htrace, hlost.reg r hr]

theorem releaseFreed_aloof (s : State) (n : Nat) : Aloof s (s.releaseFreed n) :=
  (Aloof.clearSlots s (n / 16) _).trans ((Aloof.dropLines _ _).trans (Aloof.reserve _ n 0))

/-- A seat whose RELEASE has started. -/
theorem startRelease_spec (s : State) (hn : n < 512) :
    ((s.startRelease n).seat n).state = .releasing ∧ ((s.startRelease n).seat n).head = none ∧
      (∀ r ∈ ((s.startRelease n).seat n).running, r.void = true) ∧
      ∀ r, 0x2000000 ≤ r → (s.startRelease n).reg r = s.reg r := by
  obtain ⟨hstate, hhead, hvoid, hreg⟩ := releaseVoided_spec s hn
  have hfreed := releaseFreed_aloof (s.releaseVoided n) n
  have heq := startRelease_eq s n
  generalize s.startRelease n = t at *
  subst heq
  generalize (s.releaseVoided n).releaseFreed n = u at *
  generalize s.releaseVoided n = v at *
  rw [haspDue_seat, seat_congr hfreed.seats]
  exact ⟨hstate, hhead, void_of_mem_dueRuns hvoid, fun r hr => by rw [reg_haspDue, hfreed.reg r hr, hreg r hr]⟩

/-! The end of a RELEASE (R58). -/

/-- Cleared bytes read zero, the others as before. -/
theorem csByte_csClear (s : State) (a k x : Nat) :
    (s.csClear a k).csByte x = if a ≤ x ∧ x < a + k then 0 else s.csByte x :=
  SMap.get_dropRange 0 s.csMem a (a + k) x

theorem seat_csClear (s : State) (a k m : Nat) : (s.csClear a k).seat m = s.seat m := rfl

theorem reg_csClear (s : State) (a k r : Nat) : (s.csClear a k).reg r = s.reg r := rfl

theorem reg_setRegs_zero {l : List Nat} (f : Nat → Nat) {r : Nat} (h : s.reg r = 0) :
    (l.foldl (fun u i => u.setReg (f i) 0) s).reg r = 0 := by
  induction l generalizing s with
  | nil => exact h
  | cons i l ih =>
    refine ih ?_
    by_cases hr : r = f i
    · rw [hr, reg_setReg_same]
    · rw [reg_setReg_other _ _ hr, h]

theorem reg_setRegs_mem {l : List Nat} (f : Nat → Nat) {j : Nat} (hj : j ∈ l) (s : State) :
    (l.foldl (fun u i => u.setReg (f i) 0) s).reg (f j) = 0 := by
  induction l generalizing s with
  | nil => exact absurd hj List.not_mem_nil
  | cons i l ih =>
    by_cases hi : j ∈ l
    · exact ih hi _
    · obtain rfl : j = i := (List.mem_cons.1 hj).resolve_right hi
      exact reg_setRegs_zero (s := s.setReg (f j) 0) f (reg_setReg_same _ _ _)

theorem zeroTumblers_tumbler {i : Nat} (s : State) (n : Nat) (hlo : (s.tumbRange n).1 ≤ i) (hhi : i < (s.tumbRange n).2) :
    (s.zeroTumblers n).tumbler i = 0 := by
  have hmem : i - (s.tumbRange n).1 ∈ List.range ((s.tumbRange n).2 - (s.tumbRange n).1) := List.mem_range.2 (by omega)
  have hzero := reg_setRegs_mem (fun j => tumblerReg ((s.tumbRange n).1 + j)) hmem s
  rwa [show (s.tumbRange n).1 + (i - (s.tumbRange n).1) = i by omega] at hzero

theorem zeroTumblers_frame (s : State) (n : Nat) :
    ∃ regs bad, s.zeroTumblers n = { s with regs := regs, badParity := bad } := by
  unfold zeroTumblers
  extract_lets r
  generalize List.range (r.2 - r.1) = l
  clear_value r
  induction l generalizing s with
  | nil => exact ⟨s.regs, s.badParity, rfl⟩
  | cons i l ih =>
    obtain ⟨regs, bad, h⟩ := ih (s.setReg (tumblerReg (r.1 + i)) 0)
    exact ⟨regs, bad, by rw [List.foldl_cons, h]; rfl⟩

/-- The seat's work is void, its CS window and tumblers are zero, and its ward key is gone. -/
def releaseErased (s : State) (n : Nat) : State :=
  let v := s.voidSeat n true
  let w := v.csWin n
  ((v.csClear w.1 (w.2 - w.1)).zeroTumblers n).modSeat n fun r => { r with wardKey := none }

/-- The seat's posted writes are orphaned, and the seat is FREE. -/
def releaseEnded (s : State) (n : Nat) : State :=
  let posted := s.posted.map fun (w : Posted) => if w.seat = n then { w with seat := n + 512 } else w
  (({ s with posted := posted } : State).toState n .free).leaveForfeited

/-- The command is answered, and the partition is gated when its last seat is free. -/
def releaseAnswered (s : State) (n : Nat) : State :=
  let p := n / 16
  let res := s.reg (ctReg p 4)
  (if bit res 31 && decide (field res 11 8 = n % 16) then s.seatResult p false (n % 16) 0 else s).gatePart p

theorem releaseDone_of_tile (h : ∃ r ∈ (s.seat n).running, r.tileWork?.isSome = true) : s.releaseDone n = s := by
  have htile : ((s.seat n).running.any fun r => r.tileWork?.isSome) = true := List.any_eq_true.2 h
  rw [releaseDone, if_pos (by rw [htile, Bool.or_true])]

theorem releaseDone_of_ready (hstate : (s.seat n).state = .releasing) (hreset : s.resetting (n / 16) = false)
    (htile : ∀ r ∈ (s.seat n).running, r.tileWork?.isSome = false) :
    s.releaseDone n = ((s.releaseErased n).releaseEnded n).releaseAnswered n := by
  have hnone : ((s.seat n).running.any fun r => r.tileWork?.isSome) = false :=
    List.any_eq_false.2 fun r hr => by simp [htile r hr]
  rw [releaseDone, if_neg (by simp [seatIs, hstate, hreset, hnone])]
  rfl

theorem seatReg_ne_trace (n o : Nat) : seatReg n o ≠ mgReg 0x118 := by
  simp only [seatReg, ctReg, partReg, mgReg]
  omega

/-- The tumblers of a seat lie below those that its TUMB_RANGE can name. -/
theorem tumblerReg_lt_of_range {i : Nat} (h : i < (s.tumbRange n).2) : 0x60000 ≤ tumblerReg i ∧ tumblerReg i < 0xB0000 := by
  have hfirst : s.regField (seatReg n 0x38) 12 0 < 2 ^ 13 := Nat.mod_lt _ (Nat.two_pow_pos _)
  have hcount : s.regField (seatReg n 0x38) 29 16 < 2 ^ 14 := Nat.mod_lt _ (Nat.two_pow_pos _)
  have hi : i < s.regField (seatReg n 0x38) 12 0 + s.regField (seatReg n 0x38) 29 16 := h
  unfold tumblerReg
  split <;> omega

theorem releaseErased_seat (s : State) (n : Nat) :
    ((s.releaseErased n).seat n).running = [] ∧ ((s.releaseErased n).seat n).wardKey = none := by
  unfold releaseErased
  extract_lets v w
  obtain ⟨runs, wd, hvoid, -, hnone⟩ := voidSeat_seat s n true
  obtain ⟨regs, bad, hzero⟩ := zeroTumblers_frame (v.csClear w.1 (w.2 - w.1)) n
  have hseats : ((v.csClear w.1 (w.2 - w.1)).zeroTumblers n).seats = (v.csClear w.1 (w.2 - w.1)).seats := by rw [hzero]
  rw [seat_modSeat_same, seat_congr hseats, seat_csClear, hvoid]
  exact ⟨hnone rfl, rfl⟩

theorem releaseErased_csByte (s : State) (n x : Nat) : (s.releaseErased n).csByte x =
    if (s.csWin n).1 ≤ x ∧ x < (s.csWin n).2 then 0 else (s.voidSeat n true).csByte x := by
  unfold releaseErased
  extract_lets v w
  have hw : w = s.csWin n := by
    have hreg (o : Nat) : v.reg (seatReg n o) = s.reg (seatReg n o) := (voidSeat_kept s n true).1 _ (seatReg_ne_trace n o)
    simp only [w, csWin, win, regN, hreg]
  obtain ⟨regs, bad, hzero⟩ := zeroTumblers_frame (v.csClear w.1 (w.2 - w.1)) n
  have hbyte : (((v.csClear w.1 (w.2 - w.1)).zeroTumblers n).modSeat n fun r => { r with wardKey := none }).csByte x =
      (v.csClear w.1 (w.2 - w.1)).csByte x := by
    rw [csByte, modSeat_csMem, hzero, csByte]
  rw [hbyte, csByte_csClear, hw]
  have hle : (s.csWin n).1 + ((s.csWin n).2 - (s.csWin n).1) = (s.csWin n).2 := by
    have hwin : (s.csWin n).1 ≤ (s.csWin n).2 := Nat.le_add_right _ _
    omega
  rw [hle]

theorem releaseErased_tumbler {i : Nat} (s : State) (n : Nat) (hlo : (s.tumbRange n).1 ≤ i) (hhi : i < (s.tumbRange n).2) :
    (s.releaseErased n).tumbler i = 0 := by
  unfold releaseErased
  extract_lets v w
  have hreg : v.reg (seatReg n 0x38) = s.reg (seatReg n 0x38) := (voidSeat_kept s n true).1 _ (seatReg_ne_trace n _)
  clear_value v
  have hrange : (v.csClear w.1 (w.2 - w.1)).tumbRange n = s.tumbRange n := by
    simp only [tumbRange, regField, reg_csClear, hreg]
  rw [tumbler, reg_congr (modSeat_variant _ _ _) (modSeat_regs _ _ _)]
  exact zeroTumblers_tumbler _ n (by rw [hrange]; exact hlo) (by rw [hrange]; exact hhi)

theorem releaseEnded_seat (s : State) (n : Nat) : ((s.releaseEnded n).seat n).state = .free ∧
    ((s.releaseEnded n).seat n).running = (s.seat n).running ∧ ((s.releaseEnded n).seat n).wardKey = (s.seat n).wardKey := by
  unfold releaseEnded
  extract_lets posted
  obtain ⟨d, q, e, w, h⟩ := toState_seat ({ s with posted := posted }) n .free
  have hseats : (({ s with posted := posted } : State).toState n .free).leaveForfeited.seats =
      (({ s with posted := posted } : State).toState n .free).seats := rfl
  rw [seat_congr hseats, h]
  exact ⟨rfl, rfl, rfl⟩

theorem releaseEnded_csMem (s : State) (n : Nat) : (s.releaseEnded n).csMem = s.csMem := by
  unfold releaseEnded
  extract_lets posted
  exact toState_csMem ({ s with posted := posted }) n .free

theorem reg_releaseEnded {r : Nat} (s : State) (n : Nat) (hr : 0x30000 ≤ r) (hpend : r ≠ msixReg (0x8000 + n / 32 * 4)) :
    (s.releaseEnded n).reg r = s.reg r := by
  unfold releaseEnded
  extract_lets posted
  exact reg_toState_other ({ s with posted := posted }) .free hr hpend

theorem gatePart_frame (s : State) (p : Nat) : ∃ parts, s.gatePart p = { s with parts := parts } := by
  unfold gatePart
  extract_lets r
  split
  · exact ⟨_, rfl⟩
  · exact ⟨s.parts, rfl⟩

theorem releaseAnswered_kept (s : State) (n : Nat) : (s.releaseAnswered n).seats = s.seats ∧
    (s.releaseAnswered n).csMem = s.csMem ∧ ∀ r, r ≠ ctReg (n / 16) 4 → (s.releaseAnswered n).reg r = s.reg r := by
  unfold releaseAnswered
  extract_lets p res
  have hanswer : ∀ u, u = (if bit res 31 && decide (field res 11 8 = n % 16) then s.seatResult p false (n % 16) 0 else s) →
      u.seats = s.seats ∧ u.csMem = s.csMem ∧ ∀ r, r ≠ ctReg p 4 → u.reg r = s.reg r := by
    rintro u rfl
    split
    · exact ⟨seatResult_seats _ _ _ _ _, seatResult_csMem _ _ _ _ _, fun r hr => reg_seatResult_other _ _ hr⟩
    · exact ⟨rfl, rfl, fun _ _ => rfl⟩
  obtain ⟨hseats, hmem, hreg⟩ := hanswer _ rfl
  obtain ⟨parts, hgate⟩ := gatePart_frame
    (if bit res 31 && decide (field res 11 8 = n % 16) then s.seatResult p false (n % 16) 0 else s) p
  rw [hgate]
  exact ⟨hseats, hmem, hreg⟩

end State

end Sys2Proof.Machine
end

section
/-! PROOFS. RELEASE. -/

namespace Sys2Proof.Proofs

open Sys2Proof.Machine Sys2Proof.Machine.State

section

variable {s : State} {p l : Nat} (hlive : s.barLive = true) (hpart : partPresent s.variant p = true)
  (hidle : bit (s.reg (ctReg p 4)) 31 = false)

include hlive hpart hidle

theorem seatRelease_of_resetting (h : s.resetting p = true) : s.seatRelease p l = s.seatResult p false l 7 := by
  simp [seatRelease, hlive, hpart, hidle, h]

theorem seatRelease_of_free (hreset : s.resetting p = false) (h : (s.seat (p * 16 + l)).state = .free) :
    s.seatRelease p l = s.seatResult p false l 2 := by
  simp [seatRelease, hlive, hpart, hidle, hreset, seatIs, h]

theorem seatRelease_of_used (hreset : s.resetting p = false) (h : (s.seat (p * 16 + l)).state ≠ .free) :
    s.seatRelease p l = (s.seatResult p true l 0).startRelease (p * 16 + l) := by
  simp [seatRelease, hlive, hpart, hidle, hreset, seatIs, h]

end

/-- The end of a RELEASE (R58). -/
theorem releaseDone_spec {s : State} {n : Nat} (hstate : (s.seat n).state = .releasing)
    (hreset : s.resetting (n / 16) = false) (htile : ∀ r ∈ (s.seat n).running, r.tileWork?.isSome = false) :
    let t := s.releaseDone n
    (t.seat n).state = .free ∧ (t.seat n).wardKey = none ∧ (t.seat n).running = [] ∧
      (∀ x, (s.csWin n).1 ≤ x → x < (s.csWin n).2 → t.csByte x = 0) ∧
      (s.traceOff → ∀ x, (x < (s.csWin n).1 ∨ (s.csWin n).2 ≤ x) → t.csByte x = s.csByte x) ∧
      ∀ i, (s.tumbRange n).1 ≤ i → i < (s.tumbRange n).2 → t.tumbler i = 0 := by
  rw [releaseDone_of_ready hstate hreset htile]
  intro t
  obtain ⟨hseats, hmem, hreg⟩ := releaseAnswered_kept ((s.releaseErased n).releaseEnded n) n
  obtain ⟨hfree, hruns, hkey⟩ := releaseEnded_seat (s.releaseErased n) n
  obtain ⟨hruns', hkey'⟩ := releaseErased_seat s n
  have hbyte (x : Nat) : t.csByte x = (s.releaseErased n).csByte x := by
    rw [csByte, hmem, releaseEnded_csMem, csByte]
  refine ⟨?_, ?_, ?_, fun x hlo hhi => ?_, fun hoff x hx => ?_, fun i hlo hhi => ?_⟩
  · rw [seat_congr hseats, hfree]
  · rw [seat_congr hseats, hkey, hkey']
  · rw [seat_congr hseats, hruns, hruns']
  · rw [hbyte, releaseErased_csByte, if_pos ⟨hlo, hhi⟩]
  · rw [hbyte, releaseErased_csByte, if_neg (by omega), csByte, (voidSeat_kept s n true).2 hoff, csByte]
  · obtain ⟨hlow, hhigh⟩ := tumblerReg_lt_of_range hhi
    rw [tumbler, hreg _ (by simp only [ctReg, partReg]; omega),
      reg_releaseEnded _ _ (by omega) (by simp only [msixReg]; omega)]
    exact releaseErased_tumbler s n hlo hhi

/-- Settles O14: RELEASE is judged by R55 alone and voids its seat's work; its end, once no tile is in the cells, frees the
seat and zeroes what was its own (R58). -/
theorem releaseOfASeat : Obligations.ReleaseOfASeat := by
  refine ⟨fun s p l hlive hpart hidle => ?_, fun s n hstate htile => congrArg Host.Outcome.next (releaseDone_of_tile htile),
    fun s n hstate hreset htile => ⟨_, rfl, releaseDone_spec hstate hreset htile⟩⟩
  intro n
  refine ⟨fun hreset => congrArg Host.Outcome.next (seatRelease_of_resetting hlive hpart hidle hreset),
    fun hreset hfree => congrArg Host.Outcome.next (seatRelease_of_free hlive hpart hidle hreset hfree),
    fun hreset hused => ⟨_, congrArg Host.Outcome.next (seatRelease_of_used hlive hpart hidle hreset hused), ?_⟩⟩
  have hn : n < 512 := by
    have hp := p.isLt
    have hl := l.isLt
    omega
  obtain ⟨hstate, hhead, hvoid, hreg⟩ := startRelease_spec (s.seatResult p.val true l.val 0) hn
  refine ⟨hstate, hhead, hvoid, ?_⟩
  rw [hreg _ (by simp only [ctReg, partReg]; omega)]
  exact bit_seatResult s p.val true l.isLt (by decide)

end Sys2Proof.Proofs
end

section
/-! SUPPORT. Numbers written digit by digit, and rows of packed codes (R99 to R101). -/

namespace Sys2Proof.Machine

/-- A fold that adds up is a sum. -/
theorem foldl_add_range (g : Nat → Nat) (n : Nat) :
    (List.range n).foldl (fun a j => a + g j) 0 = ∑ j ∈ Finset.range n, g j := by
  induction n with
  | zero => rfl
  | succ n ih => rw [List.range_succ, List.foldl_append, ih, Finset.sum_range_succ]; rfl

theorem sum_digits_lt {w : Nat} {f : Nat → Nat} (n : Nat) (hf : ∀ j, f j < 2 ^ w) :
    ∑ j ∈ Finset.range n, f j * 2 ^ (j * w) < 2 ^ (n * w) := by
  induction n with
  | zero => simp
  | succ n ih =>
    have hdigit : (f n + 1) * 2 ^ (n * w) ≤ 2 ^ w * 2 ^ (n * w) := Nat.mul_le_mul_right _ (hf n)
    rw [Finset.sum_range_succ, Nat.succ_mul, Nat.pow_add, Nat.mul_comm (2 ^ (n * w))]
    rw [Nat.add_mul] at hdigit
    omega

/-- Digit `k` of a number written with digits of `w` bits. -/
theorem sum_digits_digit {w : Nat} {f : Nat → Nat} {n k : Nat} (hf : ∀ j, f j < 2 ^ w) (hk : k < n) :
    (∑ j ∈ Finset.range n, f j * 2 ^ (j * w)) / 2 ^ (k * w) % 2 ^ w = f k := by
  induction n with
  | zero => omega
  | succ n ih =>
    rw [Finset.sum_range_succ]
    rcases Nat.lt_succ_iff_lt_or_eq.1 hk with hlt | rfl
    · have hsplit : f n * 2 ^ (n * w) = 2 ^ (k * w) * (2 ^ w * (f n * 2 ^ ((n - (k + 1)) * w))) := by
        have hexp : n * w = k * w + w + (n - (k + 1)) * w := by
          rw [← Nat.succ_mul, ← Nat.add_mul]; congr 1; omega
        rw [hexp, Nat.pow_add, Nat.pow_add]; ring
      rw [hsplit, Nat.add_mul_div_left _ _ (by positivity), Nat.add_mul_mod_self_left, ih hlt]
    · rw [Nat.add_mul_div_right _ _ (by positivity), Nat.div_eq_of_lt (sum_digits_lt k hf), Nat.zero_add,
        Nat.mod_eq_of_lt (hf k)]

theorem ceilDiv_le_iff {a b q : Nat} (hb : 0 < b) : ceilDiv a b ≤ q ↔ a ≤ q * b := by
  rw [ceilDiv, Nat.div_le_iff_le_mul_add_pred hb, Nat.mul_comm]; omega

theorem length_packCodes (w : Nat) (codes : List Nat) : (packCodes w codes).length = ceilDiv codes.length (8 / w) := by
  simp [packCodes]

/-- A byte of a packed row; past the row's end every code is zero (R101). -/
theorem toNat_getD_packCodes {w : Nat} (codes : List Nat) (hw : w ∣ 8) (q : Nat) :
    ((packCodes w codes).getD q 0).toNat =
      ∑ j ∈ Finset.range (8 / w), codes.getD (q * (8 / w) + j) 0 % 2 ^ w * 2 ^ (j * w) := by
  have hper : 0 < 8 / w := Nat.div_pos (Nat.le_of_dvd (by decide) hw) (Nat.pos_of_dvd_of_pos hw (by decide))
  by_cases hq : q < ceilDiv codes.length (8 / w)
  · have hlt := sum_digits_lt (w := w) (f := fun j => codes.getD (q * (8 / w) + j) 0 % 2 ^ w) (8 / w)
      fun j => Nat.mod_lt _ (by positivity)
    rw [Nat.div_mul_cancel hw] at hlt
    simp only [packCodes, List.getD_eq_getElem?_getD, List.getElem?_map, List.getElem?_range hq, Option.map_some,
      Option.getD_some, foldl_add_range, BitVec.toNat_ofNat]
    simp only [List.getD_eq_getElem?_getD] at hlt
    exact Nat.mod_eq_of_lt hlt
  · have hlen := (ceilDiv_le_iff hper).1 (Nat.le_of_not_lt hq)
    rw [List.getD_eq_default _ _ (by rw [length_packCodes]; omega)]
    refine (Finset.sum_eq_zero fun j _ => ?_).symm
    rw [List.getD_eq_default _ _ (by omega)]
    simp

/-- Where the code of element `i` lies (R99, R100). -/
theorem codeAt_eq {w : Nat} (hw : w ∣ 8) (row : List Byte) (i : Nat) :
    codeAt w row i = (row.getD (i / (8 / w)) 0).toNat / 2 ^ (i % (8 / w) * w) % 2 ^ w := by
  have hw0 : 0 < w := Nat.pos_of_dvd_of_pos hw (by decide)
  have hbyte : i * w / 8 = i / (8 / w) := by
    conv_lhs => rw [← Nat.div_mul_cancel hw, Nat.mul_div_mul_right _ _ hw0]
  have hshift : i * w % 8 = i % (8 / w) * w := by
    conv_lhs => rw [← Nat.div_mul_cancel hw, Nat.mul_mod_mul_right]
  rw [codeAt, hbyte, hshift, Nat.shiftRight_eq_div_pow]
  rfl

/-- Packed codes are read back (R100). -/
theorem codeAt_packCodes {w : Nat} (codes : List Nat) (hw : w ∣ 8) (i : Nat) :
    codeAt w (packCodes w codes) i = codes.getD i 0 % 2 ^ w := by
  have hper : 0 < 8 / w := Nat.div_pos (Nat.le_of_dvd (by decide) hw) (Nat.pos_of_dvd_of_pos hw (by decide))
  rw [codeAt_eq hw, toNat_getD_packCodes codes hw,
    sum_digits_digit (fun j => Nat.mod_lt _ (by positivity)) (Nat.mod_lt _ hper), Nat.div_add_mod']

theorem getD_mem_of_ne {α : Type} {l : List α} {d : α} {i : Nat} (h : l.getD i d ≠ d) : l.getD i d ∈ l := by
  have hi : i < l.length := by
    by_contra hge
    exact h (List.getD_eq_default _ _ (not_lt.1 hge))
  rw [List.getD_eq_getElem _ _ hi]
  exact List.getElem_mem hi

theorem getD_lt_of_forall_lt {l : List Nat} {m : Nat} (hm : 0 < m) (h : ∀ c ∈ l, c < m) (i : Nat) : l.getD i 0 < m := by
  rcases eq_or_ne (l.getD i 0) 0 with hzero | hne
  · rwa [hzero]
  · exact h _ (getD_mem_of_ne hne)

/-- A code of `w` bits is read back as it was packed. -/
theorem codeAt_packCodes_of_lt {w : Nat} {codes : List Nat} (hw : w ∣ 8) (h : ∀ c ∈ codes, c < 2 ^ w) (i : Nat) :
    codeAt w (packCodes w codes) i = codes.getD i 0 := by
  rw [codeAt_packCodes codes hw, Nat.mod_eq_of_lt (getD_lt_of_forall_lt (by positivity) h i)]

end Sys2Proof.Machine
end

section
/-! SUPPORT. Powers of two, the logarithm rounded down, and the patterns of BF16 and FP32 (R91, R92, Table 3-1). -/

namespace Sys2Proof.Machine

theorem pow2_eq_zpow (e : Int) : pow2 e = (2 : Rat) ^ e := by
  cases e with
  | ofNat n => simp [pow2]
  | negSucc n => simp [pow2, zpow_negSucc]

theorem pow2_pos (e : Int) : 0 < pow2 e := by
  rw [pow2_eq_zpow]; positivity

theorem pow2_add (d e : Int) : pow2 (d + e) = pow2 d * pow2 e := by
  simp only [pow2_eq_zpow]; exact zpow_add₀ two_ne_zero d e

theorem pow2_natCast (n : Nat) : pow2 n = ((2 ^ n : Nat) : Rat) := rfl

theorem pow2_lt_pow2_iff {d e : Int} : pow2 d < pow2 e ↔ d < e := by
  simp only [pow2_eq_zpow]; exact zpow_lt_zpow_iff_right₀ one_lt_two

/-- The difference of the logarithms of numerator and denominator is at most one too large. -/
theorem log2_num_sub_log2_den {x : Rat} (hx : 0 < x) :
    let c : Int := (Nat.log2 x.num.toNat : Int) - (Nat.log2 x.den : Int)
    pow2 (c - 1) < x ∧ x < pow2 (c + 1) := by
  intro c
  have hnum : x.num.toNat ≠ 0 := by have := Rat.num_pos.2 hx; omega
  have hprod : x * x.den = (x.num.toNat : Rat) := by
    rw [Rat.mul_den_eq_num, ← Int.cast_natCast, Int.toNat_of_nonneg (Rat.num_pos.2 hx).le]
  have hnum_lo : pow2 (Nat.log2 x.num.toNat) ≤ x.num.toNat := by
    rw [pow2_natCast]; exact_mod_cast Nat.log2_self_le hnum
  have hnum_hi : (x.num.toNat : Rat) < pow2 (Nat.log2 x.num.toNat + 1 : Nat) := by
    rw [pow2_natCast]; exact_mod_cast Nat.lt_log2_self
  have hden_lo : pow2 (Nat.log2 x.den) ≤ x.den := by
    rw [pow2_natCast]; exact_mod_cast Nat.log2_self_le x.den_nz
  have hden_hi : (x.den : Rat) < pow2 (Nat.log2 x.den + 1 : Nat) := by
    rw [pow2_natCast]; exact_mod_cast Nat.lt_log2_self
  constructor
  · refine lt_of_mul_lt_mul_right ?_ (pow2_pos (Nat.log2 x.den + 1 : Nat)).le
    rw [← pow2_add, show c - 1 + (Nat.log2 x.den + 1 : Nat) = Nat.log2 x.num.toNat by push_cast; omega]
    calc pow2 (Nat.log2 x.num.toNat) ≤ x * x.den := by rw [hprod]; exact hnum_lo
      _ < x * pow2 (Nat.log2 x.den + 1 : Nat) := mul_lt_mul_of_pos_left hden_hi hx
  · refine lt_of_mul_lt_mul_right ?_ (pow2_pos (Nat.log2 x.den)).le
    rw [← pow2_add, show c + 1 + Nat.log2 x.den = (Nat.log2 x.num.toNat + 1 : Nat) by push_cast; omega]
    calc x * pow2 (Nat.log2 x.den) ≤ x * x.den := mul_le_mul_of_nonneg_left hden_lo hx.le
      _ < _ := by rw [hprod]; exact hnum_hi

/-- `floorLog2` is the logarithm, rounded down. -/
theorem floorLog2_eq {x : Rat} {e : Int} (hlo : pow2 e ≤ x) (hhi : x < pow2 (e + 1)) : floorLog2 x = e := by
  obtain ⟨hclo, hchi⟩ := log2_num_sub_log2_den ((pow2_pos e).trans_le hlo)
  rw [floorLog2]
  generalize (Nat.log2 x.num.toNat : Int) - (Nat.log2 x.den : Int) = c at hclo hchi
  have hle := pow2_lt_pow2_iff.1 (hlo.trans_lt hchi)
  have hge := pow2_lt_pow2_iff.1 (hclo.trans hhi)
  by_cases hc : pow2 c ≤ x
  · rw [if_pos hc]
    have := pow2_lt_pow2_iff.1 (hc.trans_lt hhi)
    omega
  · rw [if_neg hc]
    have := pow2_lt_pow2_iff.1 (hlo.trans_lt (not_le.1 hc))
    omega

/-- The logarithm of an integer significand times a power of two. -/
theorem floorLog2_mul_pow2 {k f : Nat} (e : Int) (hlo : 2 ^ f ≤ k) (hhi : k < 2 ^ (f + 1)) :
    floorLog2 ((k : Rat) * pow2 e) = f + e := by
  refine floorLog2_eq ?_ ?_
  · rw [pow2_add, pow2_natCast]
    exact mul_le_mul_of_nonneg_right (by exact_mod_cast hlo) (pow2_pos e).le
  · rw [show (f : Int) + e + 1 = (f + 1 : Nat) + e by push_cast; ring, pow2_add, pow2_natCast]
    exact mul_lt_mul_of_pos_right (by exact_mod_cast hhi) (pow2_pos e)

theorem floor_mul_div_pow2 (k : Nat) (e : Int) : ((k : Rat) * pow2 e / pow2 e).floor.toNat = k := by
  rw [mul_div_assoc, div_self (pow2_pos e).ne', mul_one, ← Rat.intCast_natCast, Rat.floor_intCast, Int.toNat_natCast]

/-! BF16 and FP32 patterns (R91, R92, Table 3-1). -/

/-- The bit of a sign above `f` fraction bits and 8 exponent bits. -/
def signBit (f : Nat) (neg : Bool) : Nat := if neg then 2 ^ (f + 8) else 0

/-- A number below the smallest normal one is encoded by its fraction alone. -/
theorem encodeFp_subnormal {f frac : Nat} (neg : Bool) (h : frac < 2 ^ f) :
    encodeFp f (.num neg ((frac : Rat) * pow2 (-126 - (f : Int)))) = signBit f neg + frac := by
  rcases Nat.eq_zero_or_pos frac with rfl | hpos
  · simp [encodeFp, signBit]
  · have hm : (frac : Rat) * pow2 (-126 - (f : Int)) ≠ 0 :=
      mul_ne_zero (by exact_mod_cast hpos.ne') (pow2_pos _).ne'
    have hlog : Nat.log2 frac < f := (Nat.log2_lt hpos.ne').2 h
    have hsmall : floorLog2 ((frac : Rat) * pow2 (-126 - (f : Int))) < -126 := by
      rw [floorLog2_mul_pow2 _ (Nat.log2_self_le hpos.ne') Nat.lt_log2_self]; omega
    simp only [encodeFp, if_neg hm, if_pos hsmall, floor_mul_div_pow2, signBit]

theorem encodeFp_normal {f e frac : Nat} (neg : Bool) (he : 1 ≤ e) (h : frac < 2 ^ f) :
    encodeFp f (.num neg (((2 ^ f + frac : Nat) : Rat) * pow2 ((e : Int) - 127 - (f : Int)))) =
      signBit f neg + e * 2 ^ f + frac := by
  have hm : ((2 ^ f + frac : Nat) : Rat) * pow2 ((e : Int) - 127 - (f : Int)) ≠ 0 :=
    mul_ne_zero (by exact_mod_cast (by positivity : 2 ^ f + frac ≠ 0)) (pow2_pos _).ne'
  have hlog : floorLog2 (((2 ^ f + frac : Nat) : Rat) * pow2 ((e : Int) - 127 - (f : Int))) = (e : Int) - 127 := by
    rw [floorLog2_mul_pow2 (f := f) _ (by omega) (by rw [Nat.pow_succ]; omega)]; omega
  simp only [encodeFp, if_neg hm, hlog, if_neg (show ¬ (e : Int) - 127 < -126 by omega), floor_mul_div_pow2, signBit,
    show (e : Int) - 127 + 127 = e by omega, Int.toNat_natCast, Nat.add_sub_cancel_left]

/-- A pattern is its sign, its exponent and its fraction. -/
theorem signBit_add_exponent_add_fraction {f n : Nat} (hn : n < 2 ^ (f + 9)) :
    signBit f (decide (n / 2 ^ (f + 8) % 2 = 1)) + n / 2 ^ f % 256 * 2 ^ f + n % 2 ^ f = n := by
  have hpow : 2 ^ (f + 8) = 2 ^ f * 256 := Nat.pow_add ..
  have hpow' : 2 ^ (f + 9) = 2 ^ f * 512 := Nat.pow_add ..
  have hsign : signBit f (decide (n / 2 ^ (f + 8) % 2 = 1)) = n / 2 ^ f / 256 * 256 * 2 ^ f := by
    have hquot : n / 2 ^ f < 512 := Nat.div_lt_of_lt_mul (hpow' ▸ hn)
    rw [signBit, hpow, ← Nat.div_div_eq_div_mul]
    generalize n / 2 ^ f = q at hquot ⊢
    rcases (show q / 256 = 0 ∨ q / 256 = 1 by omega) with h | h <;> simp [h, Nat.mul_comm]
  rw [hsign, ← Nat.add_mul, Nat.div_add_mod', Nat.div_add_mod']

/-- Decoding a pattern that is no NaN and encoding the value gives the pattern back. -/
theorem encodeFp_decodeFp {f n : Nat} (hn : n < 2 ^ (f + 9)) (hnan : decodeFp f n ≠ .nan) :
    encodeFp f (decodeFp f n) = n := by
  have hfrac : n % 2 ^ f < 2 ^ f := Nat.mod_lt _ (by positivity)
  have hpattern := signBit_add_exponent_add_fraction hn
  simp only [decodeFp] at hnan ⊢
  generalize decide (n / 2 ^ (f + 8) % 2 = 1) = neg at *
  by_cases hmax : n / 2 ^ f % 256 = 255
  · rw [if_pos hmax] at hnan ⊢
    by_cases hzero : n % 2 ^ f = 0
    · rw [if_pos hzero]
      rw [hmax, hzero] at hpattern
      exact hpattern
    · exact absurd (if_neg hzero) hnan
  · rw [if_neg hmax]
    by_cases hexp : n / 2 ^ f % 256 = 0
    · rw [if_pos hexp, encodeFp_subnormal _ hfrac]
      rwa [hexp, Nat.zero_mul, Nat.add_zero] at hpattern
    · rw [if_neg hexp, encodeFp_normal _ (Nat.pos_of_ne_zero hexp) hfrac]
      exact hpattern

theorem encodeFp32_decodeFp32 {n : Nat} (hn : n < 2 ^ 32) (hnan : decodeFp32 n ≠ .nan) :
    encodeFp32 (decodeFp32 n) = n := by
  rw [decodeFp32, Nat.mod_eq_of_lt hn] at hnan ⊢
  exact encodeFp_decodeFp (f := 23) hn hnan

theorem encodeBf16_decodeBf16 {n : Nat} (hn : n < 2 ^ 16) (hnan : decodeBf16 n ≠ .nan) :
    encodeBf16 (decodeBf16 n) = n := by
  rw [decodeBf16, Nat.mod_eq_of_lt hn] at hnan ⊢
  exact encodeFp_decodeFp (f := 7) hn hnan

end Sys2Proof.Machine
end

section
/-! PROOFS. Packed codes and patterns. -/

namespace Sys2Proof.Proofs

open Sys2Proof.Machine

/-- Settles O27: a packed byte is a number whose digits are its codes (R100), and a pattern is its sign, its exponent and
its fraction, which the value's logarithm and significand give back (R91, R92, Table 3-1). -/
theorem patternsRoundTrip : Obligations.PatternsRoundTrip := by
  refine ⟨⟨fun codes h i _ => ?_, fun codes h i _ => ?_, fun b codes hb h i _ => ?_⟩,
    fun n hn => encodeFp32_decodeFp32 hn, fun n hn => encodeBf16_decodeBf16 hn, by decide, by decide⟩
  · have hcode := codeAt_packCodes_of_lt (w := 4) (by decide) h i
    rwa [codeAt_eq (by decide), Nat.mul_comm] at hcode
  · have hcode := codeAt_packCodes_of_lt (w := 2) (by decide) h i
    rwa [codeAt_eq (by decide), Nat.mul_comm] at hcode
  · have hdvd : b ∣ 8 := by rcases hb with rfl | rfl | rfl <;> decide
    exact codeAt_packCodes_of_lt hdvd h i

end Sys2Proof.Proofs
end

section
/-! SUPPORT. Reading byte strings made of pieces: numbers, padding, and pieces of one length. -/

namespace Sys2Proof.Machine

@[simp] theorem length_zeros (n : Nat) : (zeros n).length = n := List.length_replicate

theorem padTo_of_le {n : Nat} {bs : List Byte} (h : bs.length ≤ n) : padTo n bs = bs ++ zeros (n - bs.length) := by
  rw [padTo, List.take_of_length_le h]

theorem length_padTo (n : Nat) (bs : List Byte) : (padTo n bs).length = n := by
  simp [padTo]; omega

/-- Padding with zero bytes reads as the end of the string does. -/
theorem getD_padTo_of_le {n : Nat} {bs : List Byte} (h : bs.length ≤ n) (i : Nat) :
    (padTo n bs).getD i 0 = bs.getD i 0 := by
  rw [padTo_of_le h]
  rcases lt_or_ge i bs.length with hi | hi
  · rw [List.getD_append _ _ _ _ hi]
  · rw [List.getD_append_right _ _ _ _ hi, List.getD_eq_default _ _ hi, zeros]
    exact List.getElem?_getD_replicate_default_eq ..

theorem numAt_add (bs : List Byte) (a b n : Nat) : numAt bs (a + b) n = numAt (bs.drop a) b n := by
  simp only [numAt, slice, List.drop_drop]

theorem numAt_append_of_le {a r : List Byte} {lo n : Nat} (h : a.length ≤ lo) :
    numAt (a ++ r) lo n = numAt r (lo - a.length) n := by
  simp only [numAt, slice, List.drop_append, List.drop_eq_nil_of_le h, List.nil_append]

/-- A number put in at the front is read back. -/
theorem numAt_leBytes_append (n v : Nat) (r : List Byte) : numAt (leBytes n v ++ r) 0 n = v % 2 ^ (8 * n) := by
  have hlen := length_leBytes n v
  rw [numAt, slice_of_le (by simp [hlen]), List.drop_zero, List.take_left' hlen, leNat_leBytes]

/-- Pieces of one length start at its multiples. -/
theorem drop_flatMap {α β : Type} {f : α → List β} {m : Nat} (hlen : ∀ x, (f x).length = m) (l : List α) (i : Nat) :
    (l.flatMap f).drop (m * i) = (l.drop i).flatMap f := by
  induction l generalizing i with
  | nil => simp
  | cons x l ih =>
    cases i with
    | zero => simp
    | succ i =>
      rw [List.flatMap_cons, Nat.mul_succ, Nat.add_comm, ← List.drop_drop, List.drop_left' (hlen x), ih,
        List.drop_succ_cons]

/-- A string has a byte other than zero where one is read. -/
theorem anyNonzero_iff {bs : List Byte} : anyNonzero bs = true ↔ ∃ i, bs.getD i 0 ≠ 0 := by
  simp only [anyNonzero, List.any_eq_true, bne_iff_ne]
  constructor
  · rintro ⟨b, hmem, hb⟩
    obtain ⟨i, hi, rfl⟩ := List.mem_iff_getElem.1 hmem
    exact ⟨i, by rwa [List.getD_eq_getElem _ _ hi]⟩
  · rintro ⟨i, hi⟩
    exact ⟨_, getD_mem_of_ne hi, hi⟩

/-- A packed row has a byte other than zero where it has such a code. -/
theorem anyNonzero_packCodes {w : Nat} {codes : List Nat} (hw : w ∣ 8) (h : ∀ c ∈ codes, c < 2 ^ w) :
    anyNonzero (packCodes w codes) = true ↔ ∃ c ∈ codes, c ≠ 0 := by
  rw [anyNonzero_iff]
  constructor
  · rintro ⟨q, hq⟩
    have hsum : ((packCodes w codes).getD q 0).toNat ≠ 0 := fun h0 => hq (BitVec.eq_of_toNat_eq h0)
    rw [toNat_getD_packCodes codes hw] at hsum
    obtain ⟨j, -, hj⟩ := Finset.exists_ne_zero_of_sum_ne_zero hsum
    have hcode : codes.getD (q * (8 / w) + j) 0 ≠ 0 := fun h0 => hj (by rw [h0]; simp)
    exact ⟨_, getD_mem_of_ne hcode, hcode⟩
  · rintro ⟨c, hmem, hc⟩
    obtain ⟨i, hi⟩ := List.mem_iff_getElem?.1 hmem
    refine ⟨i / (8 / w), fun h0 => hc ?_⟩
    have hcode := codeAt_packCodes_of_lt hw h i
    rw [codeAt_eq hw, h0, List.getD_eq_getElem?_getD, hi] at hcode
    simpa using hcode.symm

/-- Picking the members of a filtered range out of a longer range gives the filtered range back. -/
theorem filter_range_contains {p : Nat → Bool} {m n : Nat} (h : m ≤ n) :
    (List.range n).filter (fun i => ((List.range m).filter p).contains i) = (List.range m).filter p := by
  obtain ⟨d, rfl⟩ := Nat.exists_eq_add_of_le h
  have htail : ((List.range d).map (m + ·)).filter (fun i => ((List.range m).filter p).contains i) = [] :=
    List.filter_eq_nil_iff.2 (by simp)
  rw [List.range_add, List.filter_append, htail, List.append_nil]
  exact List.filter_congr fun i hi => by simp [List.mem_range.1 hi]

theorem ceilDiv_mul_ge (a : Nat) {b : Nat} (hb : 0 < b) : a ≤ ceilDiv a b * b := (ceilDiv_le_iff hb).1 le_rfl

theorem ceilDiv_mono {a c b : Nat} (h : a ≤ c) : ceilDiv a b ≤ ceilDiv c b := Nat.div_le_div_right (by omega)

theorem div_lt_ceilDiv {i a b : Nat} (hb : 0 < b) (h : i < a) : i / b < ceilDiv a b :=
  Nat.div_lt_of_lt_mul (by rw [Nat.mul_comm]; exact h.trans_le (ceilDiv_mul_ge a hb))

end Sys2Proof.Machine
end

section
/-! SUPPORT. The parts of an ACT record, and what a reader finds in them (R103 to R106). -/

namespace Sys2Proof.Machine

/-- Block `b` of a row's codes, 32 codes of 4 bits. -/
def actBlock (codes : List Nat) (b : Nat) : List Byte := padTo 16 (packCodes 4 ((codes.drop (32 * b)).take 32))

/-- The blocks that hold a nonzero code. -/
def actPresent (codes : List Nat) : List Nat :=
  (List.range (ceilDiv codes.length 32)).filter fun b => anyNonzero (actBlock codes b)

/-- The bitmap of the present blocks, for a row of `lb` blocks. -/
def actBitmap (lb : Nat) (present : List Nat) : List Byte :=
  (List.range (16 * ceilDiv lb 128)).map fun j =>
    BitVec.ofNat 8 ((List.range 8).foldl (fun a i => a + (if present.contains (8 * j + i) then 2 ^ i else 0)) 0)

/-- One entry of the outlier list. -/
def outlierEntry (e : Nat × Nat) : List Byte := leBytes 2 e.1 ++ leBytes 2 e.2

/-- The outlier list, filled to whole units of 16 bytes. -/
def outlierList (outl : List (Nat × Nat)) : List Byte := padTo (16 * ceilDiv outl.length 4) (outl.flatMap outlierEntry)

/-- What follows the header. -/
def actBody (codes : List Nat) (outl : List (Nat × Nat)) : List Byte :=
  actBitmap (ceilDiv codes.length 32) (actPresent codes) ++ outlierList outl ++ (actPresent codes).flatMap (actBlock codes)

/-- The header without its check value. -/
def actHead (codes : List Nat) (scale : Nat) (outl : List (Nat × Nat)) : List Byte :=
  leBytes 2 scale ++ leBytes 2 (ceilDiv codes.length 32) ++ leBytes 2 (actPresent codes).length ++
    leBytes 2 outl.length ++ leBytes 1 (b2n (decide (scale % 0x8000 = 0))) ++ zeros 3

theorem actRecord_eq (codes : List Nat) (scale : Nat) (outl : List (Nat × Nat)) :
    actRecord codes scale outl = actHead codes scale outl ++
      (leBytes 4 (crc32c (actHead codes scale outl ++ actBody codes outl)).toNat ++ actBody codes outl) :=
  List.append_assoc ..

theorem length_actHead (codes : List Nat) (scale : Nat) (outl : List (Nat × Nat)) :
    (actHead codes scale outl).length = 12 := by
  simp [actHead, length_leBytes]

theorem length_actBitmap (lb : Nat) (present : List Nat) : (actBitmap lb present).length = 16 * ceilDiv lb 128 := by
  simp [actBitmap]

theorem length_outlierList (outl : List (Nat × Nat)) : (outlierList outl).length = 16 * ceilDiv outl.length 4 :=
  length_padTo _ _

theorem length_actBlock (codes : List Nat) (b : Nat) : (actBlock codes b).length = 16 := length_padTo _ _

/-! Blocks (R103, R104). -/

theorem length_packCodes_block (codes : List Nat) (b : Nat) :
    (packCodes 4 ((codes.drop (32 * b)).take 32)).length ≤ 16 := by
  rw [length_packCodes, ceilDiv_le_iff (by decide), List.length_take]
  omega

theorem forall_lt_block {codes : List Nat} {m : Nat} (h : ∀ c ∈ codes, c < m) (b : Nat) :
    ∀ c ∈ (codes.drop (32 * b)).take 32, c < m :=
  fun c hc => h c (List.mem_of_mem_drop (List.mem_of_mem_take hc))

/-- A block gives its codes back. -/
theorem codeAt_actBlock {codes : List Nat} (h : ∀ c ∈ codes, c < 16) (b : Nat) {j : Nat} (hj : j < 32) :
    codeAt 4 (actBlock codes b) j = codes.getD (32 * b + j) 0 := by
  have hcode := codeAt_packCodes_of_lt (w := 4) (by decide) (forall_lt_block h b) j
  rw [codeAt_eq (by decide), actBlock, getD_padTo_of_le (length_packCodes_block codes b), ← codeAt_eq (by decide), hcode]
  simp [List.getD_eq_getElem?_getD, hj]

theorem anyNonzero_actBlock {codes : List Nat} (h : ∀ c ∈ codes, c < 16) (b : Nat) :
    anyNonzero (actBlock codes b) = true ↔ ∃ c ∈ (codes.drop (32 * b)).take 32, c ≠ 0 := by
  rw [← anyNonzero_packCodes (w := 4) (by decide) (forall_lt_block h b), anyNonzero_iff, anyNonzero_iff, actBlock]
  simp only [getD_padTo_of_le (length_packCodes_block codes b)]

theorem mem_actPresent {codes : List Nat} (h : ∀ c ∈ codes, c < 16) (b : Nat) :
    b ∈ actPresent codes ↔ b < ceilDiv codes.length 32 ∧ ∃ c ∈ (codes.drop (32 * b)).take 32, c ≠ 0 := by
  rw [actPresent, List.mem_filter, List.mem_range, anyNonzero_actBlock h]

theorem length_actPresent_le (codes : List Nat) : (actPresent codes).length ≤ ceilDiv codes.length 32 :=
  (List.length_filter_le _ _).trans_eq List.length_range

/-- A row of zero codes has no block present (R105). -/
theorem actPresent_of_zero {codes : List Nat} (h : ∀ c ∈ codes, c = 0) : actPresent codes = [] := by
  refine List.eq_nil_iff_forall_not_mem.2 fun b hb => ?_
  obtain ⟨-, c, hc, hne⟩ := (mem_actPresent (fun c hc => by rw [h c hc]; decide) b).1 hb
  exact hne (h c (List.mem_of_mem_drop (List.mem_of_mem_take hc)))

/-- A block that is not present holds zero codes alone. -/
theorem getD_of_not_mem_actPresent {codes : List Nat} (h : ∀ c ∈ codes, c < 16) {b j : Nat}
    (hb : b < ceilDiv codes.length 32) (hj : j < 32) (habsent : b ∉ actPresent codes) :
    codes.getD (32 * b + j) 0 = 0 := by
  by_contra hne
  rw [← codeAt_actBlock h b hj, codeAt_eq (by decide)] at hne
  refine habsent (List.mem_filter.2 ⟨List.mem_range.2 hb, anyNonzero_iff.2 ⟨j / (8 / 4), fun h0 => hne ?_⟩⟩)
  rw [h0]
  simp

/-- Code `j` of block `b` as a reader finds it: by the block's place among those present; zero in an absent block. -/
def blockCode (present : List Nat) (blocks : List Byte) (b j : Nat) : Nat :=
  match present.zipIdx.find? fun e => decide (e.1 = b) with
  | some e => codeAt 4 ((blocks.drop (16 * e.2)).take 16) j
  | none => 0

theorem blockCode_eq {codes : List Nat} (h : ∀ c ∈ codes, c < 16) {b j : Nat} (hb : b < ceilDiv codes.length 32)
    (hj : j < 32) :
    blockCode (actPresent codes) ((actPresent codes).flatMap (actBlock codes)) b j = codes.getD (32 * b + j) 0 := by
  unfold blockCode
  cases hfind : (actPresent codes).zipIdx.find? fun e => decide (e.1 = b) with
  | none =>
    refine (getD_of_not_mem_actPresent h hb hj fun hmem => ?_).symm
    obtain ⟨k, hk⟩ := List.mem_iff_getElem?.1 hmem
    simpa using List.find?_eq_none.1 hfind (b, k) (List.mem_zipIdx_iff_getElem?.2 hk)
  | some e =>
    have hplace : (actPresent codes)[e.2]? = some e.1 := List.mem_zipIdx_iff_getElem?.1 (List.mem_of_find?_eq_some hfind)
    have hfst : e.1 = b := by simpa using List.find?_some hfind
    rw [hfst] at hplace
    have hblock : (((actPresent codes).flatMap (actBlock codes)).drop (16 * e.2)).take 16 = actBlock codes b := by
      rw [drop_flatMap (length_actBlock codes), ← List.getElem_cons_drop (h := (List.getElem?_eq_some_iff.1 hplace).1),
        (List.getElem?_eq_some_iff.1 hplace).2, List.flatMap_cons, List.take_left' (length_actBlock codes b)]
    rw [← codeAt_actBlock h b hj, ← hblock]

/-! The bitmap (R104). -/

theorem getLsbD_actBitmap {lb i : Nat} (present : List Nat) (h : i < 8 * (16 * ceilDiv lb 128)) :
    ((actBitmap lb present).getD (i / 8) 0).getLsbD (i % 8) = present.contains i := by
  have hbyte : i / 8 < 16 * ceilDiv lb 128 := by omega
  have hbit (j : Nat) : b2n (present.contains (8 * (i / 8) + j)) < 2 ^ 1 := by unfold b2n; split <;> decide
  have hterm (j : Nat) : (if present.contains (8 * (i / 8) + j) then 2 ^ j else 0) =
      b2n (present.contains (8 * (i / 8) + j)) * 2 ^ (j * 1) := by
    rw [Nat.mul_one]; cases present.contains (8 * (i / 8) + j) <;> simp [b2n]
  have hdigit := sum_digits_digit hbit (Nat.mod_lt i (by decide : 8 > 0))
  simp only [← hterm, ← foldl_add_range] at hdigit
  rw [actBitmap, List.getD_eq_getElem?_getD, List.getElem?_map, List.getElem?_range hbyte, Option.map_some,
    Option.getD_some, BitVec.getLsbD_ofNat, Nat.testBit_eq_decide_div_mod_eq]
  rw [Nat.mul_one, Nat.pow_one, Nat.div_add_mod] at hdigit
  rw [hdigit]
  cases present.contains i <;> simp [b2n, Nat.mod_lt]

/-- The bits set in the bitmap are the present blocks. -/
theorem filter_actBitmap (codes : List Nat) :
    (List.range (8 * (16 * ceilDiv (ceilDiv codes.length 32) 128))).filter (fun i =>
      ((actBitmap (ceilDiv codes.length 32) (actPresent codes)).getD (i / 8) 0).getLsbD (i % 8)) = actPresent codes := by
  have hlen := ceilDiv_mul_ge (ceilDiv codes.length 32) (b := 128) (by decide)
  rw [List.filter_congr fun i hi => getLsbD_actBitmap (actPresent codes) (List.mem_range.1 hi)]
  exact filter_range_contains (by omega)

/-! The outlier list (R104). -/

theorem length_flatMap_outlierEntry (outl : List (Nat × Nat)) : (outl.flatMap outlierEntry).length = 4 * outl.length := by
  induction outl with
  | nil => rfl
  | cons e outl ih => rw [List.flatMap_cons, List.length_append, ih]; simp [outlierEntry, length_leBytes]; omega

/-- The outlier list from entry `i` on. -/
theorem drop_outlierList {outl : List (Nat × Nat)} {i : Nat} (hi : i < outl.length) :
    ∃ r, (outlierList outl).drop (4 * i) = outlierEntry outl[i] ++ r := by
  have hlen := length_flatMap_outlierEntry outl
  have hfit := ceilDiv_mul_ge outl.length (b := 4) (by decide)
  rw [outlierList, padTo_of_le (by omega), List.drop_append_of_le_length (by omega),
    drop_flatMap (f := outlierEntry) (fun e => by simp [outlierEntry, length_leBytes]),
    ← List.getElem_cons_drop (h := hi), List.flatMap_cons, List.append_assoc]
  exact ⟨_, rfl⟩

/-- The outliers are read back. -/
theorem map_numAt_outlierList {outl : List (Nat × Nat)} (h : ∀ e ∈ outl, e.1 < 65536 ∧ e.2 < 65536) (r : List Byte) :
    ((List.range outl.length).map fun i =>
      (numAt (outlierList outl ++ r) (4 * i) 2, numAt (outlierList outl ++ r) (4 * i + 2) 2)) = outl := by
  refine List.ext_getElem (by simp) fun i hi hi' => ?_
  have hlen := length_outlierList outl
  have hfit := ceilDiv_mul_ge outl.length (b := 4) (by decide)
  obtain ⟨tail, htail⟩ := drop_outlierList hi'
  obtain ⟨hfst, hsnd⟩ := h _ (List.getElem_mem hi')
  have hdrop : (outlierList outl ++ r).drop (4 * i) =
      leBytes 2 outl[i].1 ++ (leBytes 2 outl[i].2 ++ (tail ++ r)) := by
    rw [List.drop_append_of_le_length (by omega), htail, outlierEntry]; simp only [List.append_assoc]
  rw [List.getElem_map, List.getElem_range, ← Nat.add_zero (4 * i), numAt_add, Nat.add_zero, numAt_add, hdrop,
    numAt_append_of_le (lo := 2) (length_leBytes _ _).le, length_leBytes, Nat.sub_self, numAt_leBytes_append,
    numAt_leBytes_append]
  exact Prod.ext (Nat.mod_eq_of_lt hfst) (Nat.mod_eq_of_lt hsnd)

/-! The record as a whole (R103 to R106). -/

section

variable {codes : List Nat} {scale : Nat} {outl : List (Nat × Nat)}

theorem drop_actRecord (codes : List Nat) (scale : Nat) (outl : List (Nat × Nat)) :
    (actRecord codes scale outl).drop 16 = actBody codes outl := by
  rw [actRecord_eq, ← List.append_assoc, List.drop_left' (by simp [length_actHead, length_leBytes])]

theorem length_actBody (codes : List Nat) (outl : List (Nat × Nat)) : (actBody codes outl).length =
    16 * (ceilDiv (ceilDiv codes.length 32) 128 + ceilDiv outl.length 4 + (actPresent codes).length) := by
  have hblocks : ((actPresent codes).flatMap (actBlock codes)).length = 16 * (actPresent codes).length := by
    simp [List.length_flatMap, length_actBlock, Nat.mul_comm]
  simp only [actBody, List.length_append, length_actBitmap, length_outlierList, hblocks]
  omega

theorem length_actRecord (codes : List Nat) (scale : Nat) (outl : List (Nat × Nat)) : (actRecord codes scale outl).length =
    16 * (1 + ceilDiv (ceilDiv codes.length 32) 128 + ceilDiv outl.length 4 + (actPresent codes).length) := by
  rw [actRecord_eq, List.length_append, List.length_append, length_actHead, length_leBytes, length_actBody]
  omega

/-- The fields of the header and its reserved byte (R103). -/
theorem numAt_actRecord (hscale : scale < 65536) (hlen : codes.length ≤ 65536)
    (houtl : outl.length ≤ ceilDiv codes.length 32) :
    let bs := actRecord codes scale outl
    numAt bs 0 2 = scale ∧ numAt bs 2 2 = ceilDiv codes.length 32 ∧ numAt bs 4 2 = (actPresent codes).length ∧
      numAt bs 6 2 = outl.length ∧ numAt bs 8 1 = b2n (decide (scale % 0x8000 = 0)) ∧ numAt bs 9 1 = 0 := by
  have hblocks : ceilDiv codes.length 32 ≤ 2048 := (ceilDiv_le_iff (by decide)).2 hlen
  have hpresent := length_actPresent_le codes
  have hzeros : zeros 3 = leBytes 1 0 ++ leBytes 2 0 := rfl
  have hflag : b2n (decide (scale % 0x8000 = 0)) < 256 := by unfold b2n; split <;> decide
  intro bs
  simp only [bs, actRecord_eq, actHead, hzeros, List.append_assoc]
  simp [numAt_append_of_le, numAt_leBytes_append, length_leBytes, Nat.mod_eq_of_lt hscale, Nat.mod_eq_of_lt hflag,
    Nat.mod_eq_of_lt (by omega : ceilDiv codes.length 32 < 65536),
    Nat.mod_eq_of_lt (by omega : (actPresent codes).length < 65536), Nat.mod_eq_of_lt (by omega : outl.length < 65536)]

/-- The check value (R105). -/
theorem numAt_actRecord_crc (codes : List Nat) (scale : Nat) (outl : List (Nat × Nat)) :
    let bs := actRecord codes scale outl
    numAt bs 12 4 = (crc32c (bs.take 12 ++ bs.drop 16)).toNat := by
  intro bs
  have hhead : bs.take 12 = actHead codes scale outl := by
    simp only [bs, actRecord_eq, List.take_left' (length_actHead codes scale outl)]
  rw [hhead, drop_actRecord]
  simp only [bs, actRecord_eq]
  rw [numAt_append_of_le (length_actHead codes scale outl).le, length_actHead, numAt_leBytes_append]
  exact Nat.mod_eq_of_lt (BitVec.isLt _)

/-- The bitmap of a record. -/
theorem filter_actRecord (codes : List Nat) (scale : Nat) (outl : List (Nat × Nat)) :
    (List.range (8 * (16 * ceilDiv (ceilDiv codes.length 32) 128))).filter (fun i =>
      ((actRecord codes scale outl).getD (16 + i / 8) 0).getLsbD (i % 8)) = actPresent codes := by
  refine Eq.trans (List.filter_congr fun i hi => ?_) (filter_actBitmap codes)
  have hbyte : i / 8 < (actBitmap (ceilDiv codes.length 32) (actPresent codes)).length := by
    have := List.mem_range.1 hi
    rw [length_actBitmap]; omega
  rw [List.getD_eq_getElem?_getD, ← List.getElem?_drop, drop_actRecord, actBody, List.append_assoc,
    List.getElem?_append_left hbyte, List.getD_eq_getElem?_getD]

/-- The outlier list of a record. -/
theorem map_numAt_actRecord (codes : List Nat) (scale : Nat) (h : ∀ e ∈ outl, e.1 < 65536 ∧ e.2 < 65536) :
    ((List.range outl.length).map fun i =>
      (numAt (actRecord codes scale outl) (16 + 16 * ceilDiv (ceilDiv codes.length 32) 128 + 4 * i) 2,
        numAt (actRecord codes scale outl) (18 + 16 * ceilDiv (ceilDiv codes.length 32) 128 + 4 * i) 2)) = outl := by
  refine Eq.trans (List.map_congr_left fun i _ => ?_) (map_numAt_outlierList h
    ((actPresent codes).flatMap (actBlock codes)))
  have hdrop : (actRecord codes scale outl).drop (16 + 16 * ceilDiv (ceilDiv codes.length 32) 128) =
      outlierList outl ++ (actPresent codes).flatMap (actBlock codes) := by
    rw [← List.drop_drop, drop_actRecord, actBody, List.append_assoc, List.drop_left' (length_actBitmap _ _)]
  rw [Nat.add_right_comm 18, show 18 + 4 * i = 16 + (4 * i + 2) by omega, Nat.add_right_comm 16 (4 * i + 2), numAt_add,
    numAt_add, hdrop]

/-- The blocks of a record. -/
theorem drop_actRecord_blocks (codes : List Nat) (scale : Nat) (outl : List (Nat × Nat)) :
    (actRecord codes scale outl).drop (16 + 16 * ceilDiv (ceilDiv codes.length 32) 128 + 16 * ceilDiv outl.length 4) =
      (actPresent codes).flatMap (actBlock codes) := by
  rw [Nat.add_assoc, ← List.drop_drop, drop_actRecord, actBody,
    List.drop_left' (by rw [List.length_append, length_actBitmap, length_outlierList])]

/-- The codes of a record, read block by block. -/
theorem map_blockCode (h : ∀ c ∈ codes, c < 16) :
    ((List.range codes.length).map fun i =>
      blockCode (actPresent codes) ((actPresent codes).flatMap (actBlock codes)) (i / 32) (i % 32)) = codes := by
  refine List.ext_getElem (by simp) fun i hi hi' => ?_
  rw [List.getElem_map, List.getElem_range, blockCode_eq h (div_lt_ceilDiv (by decide) hi') (Nat.mod_lt i (by decide)),
    Nat.div_add_mod, List.getD_eq_getElem _ _ hi']

/-- A record decodes to the row it was made from. -/
theorem actDecode_actRecord (hlen : codes.length ≤ 65536) (hcodes : ∀ c ∈ codes, c < 16) (hscale : scale < 65536)
    (hzero : scale % 0x8000 = 0 → ∀ c ∈ codes, c = 0) (houtl : outl.length ≤ ceilDiv codes.length 32)
    (hrising : rising (outl.map Prod.fst) = true) (hentry : ∀ e ∈ outl, e.1 < codes.length ∧ e.2 < 65536) :
    actDecode (actRecord codes scale outl) codes.length =
      some { scale := scale, codes := codes, outl := outl, present := actPresent codes } := by
  obtain ⟨h0, h2, h4, h6, h8, h9⟩ := numAt_actRecord hscale hlen houtl
  have hblocks : ceilDiv codes.length 32 ≤ 2048 := (ceilDiv_le_iff (by decide)).2 hlen
  have hflag : b2n (decide (scale % 0x8000 = 0)) < 2 := by unfold b2n; split <;> decide
  have hbound : ∀ b ∈ actPresent codes, b < ceilDiv codes.length 32 :=
    fun b hb => ((mem_actPresent hcodes b).1 hb).1
  have hempty : ¬ ((b2n (decide (scale % 0x8000 = 0)) = 1 ∨ scale % 0x8000 = 0) ∧ (actPresent codes).length ≠ 0) := by
    rintro ⟨hscale0, hne⟩
    have hscale0 : scale % 0x8000 = 0 := hscale0.elim (fun h => by simpa [b2n] using h) id
    exact hne (by rw [actPresent_of_zero (hzero hscale0), List.length_nil])
  have hmap := map_numAt_actRecord codes scale (outl := outl) fun e he =>
    ⟨(hentry e he).1.trans_le hlen, (hentry e he).2⟩
  have hcrc := numAt_actRecord_crc codes scale outl
  have hpresent := length_actPresent_le codes
  simp only [actDecode, h0, h2, h4, h6, h8, h9, filter_actRecord, hmap, ← hcrc, drop_actRecord_blocks]
  rw [if_pos]
  · exact congrArg (fun codes => some (ActRow.mk scale codes outl (actPresent _))) (map_blockCode hcodes)
  · simp only [Bool.and_eq_true, decide_eq_true_eq, List.all_eq_true, Bool.not_eq_true', decide_eq_false_iff_not, true_and,
      and_true]
    exact ⟨⟨⟨⟨⟨hblocks, hpresent, houtl, hflag⟩, hbound⟩, hrising⟩, fun e he => (hentry e he).1⟩, hempty⟩

theorem length_actRecord_le (scale : Nat) (houtl : outl.length ≤ ceilDiv codes.length 32) :
    (actRecord codes scale outl).length ≤ actMax codes.length := by
  have hpresent := length_actPresent_le codes
  have hlist := ceilDiv_mono (b := 4) houtl
  rw [length_actRecord, actMax]
  omega

end

end Sys2Proof.Machine
end

section
/-! PROOFS. ACT records. -/

namespace Sys2Proof.Proofs

open Sys2Proof.Machine

/-- Settles O28: each part of a record is read back where the header's counts put it, so that the decoder's checks pass and
the blocks it finds are those that hold a nonzero code (R103 to R106). -/
theorem actRecordsRoundTrip : Obligations.ActRecordsRoundTrip := by
  intro codes scale outl _ hlen hcodes hscale hzero houtl hrising hentry
  refine ⟨⟨_, actDecode_actRecord hlen hcodes hscale hzero houtl hrising hentry, rfl, rfl, rfl, mem_actPresent hcodes⟩,
    length_actRecord_le scale houtl, ?_⟩
  rw [length_actRecord]
  exact Nat.mul_mod_right ..

end Sys2Proof.Proofs
end

section
/-! SUPPORT. What the reads of a unit leave alone, and what they find after the numeric log has changed. -/

namespace Sys2Proof.Machine

/-- From `s` to `t` every byte of the Central Store stays, and every register of a seat. -/
structure BytesKept (s t : State) : Prop where
  csMem : t.csMem = s.csMem
  seatReg : ∀ m o, o < 0x100 → t.reg (seatReg m o) = s.reg (seatReg m o)

/-- Whatever a unit's read depends on is the same in `s` and in `t`. -/
structure SameReads (s t : State) : Prop extends BytesKept s t where
  csPoison : t.csPoison = s.csPoison
  csUpset : t.csUpset = s.csUpset
  seats : t.seats = s.seats
  parts : t.parts = s.parts
  ec : t.ec = s.ec

theorem seatReg_ne_csReg (m o : Nat) {i : Nat} (hi : i < 0x1000) : seatReg m o ≠ csReg i := by
  simp only [seatReg, ctReg, partReg, csReg]; omega

theorem seatReg_ne_wpNumLog (m n : Nat) {o : Nat} (ho : o < 0x100) : seatReg m o ≠ wpNumLog n := by
  simp only [seatReg, ctReg, wpNumLog, wpReg, partReg]; omega

namespace BytesKept

variable {s t u : State}

theorem refl (s : State) : BytesKept s s := ⟨rfl, fun _ _ _ => rfl⟩

theorem trans (h : BytesKept s t) (k : BytesKept t u) : BytesKept s u :=
  ⟨k.csMem.trans h.csMem, fun m o ho => (k.seatReg m o ho).trans (h.seatReg m o ho)⟩

theorem flush (h : BytesKept s t) (n : Nat) : t.flush n = s.flush n :=
  congrArg (bit · 12) (h.seatReg n 0 (by decide))

theorem csByte (h : BytesKept s t) (x : Nat) : t.csByte x = s.csByte x := by rw [State.csByte, h.csMem, State.csByte]

theorem csBytes (h : BytesKept s t) (a n : Nat) : t.csBytes a n = s.csBytes a n := by
  simp only [State.csBytes, h.csByte]

end BytesKept

namespace SameReads

variable {s t u : State}

theorem refl (s : State) : SameReads s s := ⟨.refl s, rfl, rfl, rfl, rfl, rfl⟩

theorem symm (h : SameReads s t) : SameReads t s :=
  ⟨⟨h.csMem.symm, fun m o ho => (h.seatReg m o ho).symm⟩, h.csPoison.symm, h.csUpset.symm, h.seats.symm, h.parts.symm,
    h.ec.symm⟩

theorem trans (h : SameReads s t) (k : SameReads t u) : SameReads s u :=
  ⟨h.toBytesKept.trans k.toBytesKept, k.csPoison.trans h.csPoison, k.csUpset.trans h.csUpset, k.seats.trans h.seats,
    k.parts.trans h.parts, k.ec.trans h.ec⟩

/-- A register of no seat is written. -/
theorem setReg (s : State) {off : Nat} (v : Word) (h : ∀ m o, o < 0x100 → seatReg m o ≠ off) :
    SameReads s (s.setReg off v) :=
  ⟨⟨rfl, fun m o ho => State.reg_setReg_other _ _ (h m o ho)⟩, rfl, rfl, rfl, rfl, rfl⟩

theorem setReg_csReg (s : State) {i : Nat} (v : Word) (hi : i < 0x1000) : SameReads s (s.setReg (csReg i) v) :=
  setReg s v fun m o _ => seatReg_ne_csReg m o hi

theorem numLog (s : State) (n i : Nat) (b : Bool) : SameReads s (s.numLog n i b) := by
  unfold State.numLog
  split
  · exact setReg s _ fun m o ho => seatReg_ne_wpNumLog m n ho
  · exact refl s

theorem logInputs (s : State) (n : Nat) (xs : List Fp) : SameReads s (s.logInputs n xs) :=
  (numLog s n 1 _).trans (numLog _ n 0 _)

theorem logResults (s : State) (n : Nat) (ys : List Wv) : SameReads s (s.logResults n ys) :=
  (numLog s n 0 _).trans (numLog _ n 2 _)

theorem wConst (s : State) (n : Nat) (rec : List Byte) (i : Nat) : SameReads s (s.wConst n rec i).2 :=
  logInputs s n _

/-- The same sectors are marked in both. -/
theorem mark (h : SameReads s t) (poison : SMap Bool) (upset : SMap EccSeen) :
    SameReads { s with csPoison := poison, csUpset := upset } { t with csPoison := poison, csUpset := upset } :=
  ⟨⟨h.csMem, h.seatReg⟩, rfl, rfl, h.seats, h.parts, h.ec⟩

theorem underReset (h : SameReads s t) (n a : Nat) : t.underReset n a = s.underReset n a := by
  have hlist : t.seatList = s.seatList := by rw [State.seatList, h.seats, State.seatList]
  have hstate (m : Nat) (st : SeatState) : t.seatIs m st = s.seatIs m st := by
    rw [State.seatIs, State.seat, h.seats]; rfl
  have hreset (p : Nat) : t.resetting p = s.resetting p := by
    rw [State.resetting, State.part, h.parts, h.ec]; rfl
  have hwin (m : Nat) : t.csWin m = s.csWin m := by
    simp only [State.csWin, State.win, State.regN, h.seatReg m 0x4 (by decide), h.seatReg m (0x4 + 4) (by decide)]
  simp only [State.underReset, hlist, hstate, hreset, hwin]

end SameReads

/-! A read of the Central Store (R239, R240). -/

/-- What the read of one sector finds and how it leaves the sectors' marks: an error is cleared when it is corrected, and
poisons its sector when it is not. -/
def fetchMarks (poison : SMap Bool) (upset : SMap EccSeen) (sec : Nat) : Bool × SMap Bool × SMap EccSeen :=
  if SMap.get false poison sec then (true, poison, upset)
  else
    match SMap.get EccSeen.clean upset sec with
    | .clean => (false, poison, upset)
    | .single => (false, poison, SMap.erase upset sec)
    | .uncorrectable => (true, SMap.set false poison sec true, SMap.erase upset sec)

namespace State

variable {s t : State}

/-- Beside the marks, the read of a sector changes the log of CS_ alone. -/
theorem csFetch_marks (s : State) (sec : Nat) :
    let m := fetchMarks s.csPoison s.csUpset sec
    (s.csFetch sec).1 = m.1 ∧ SameReads { s with csPoison := m.2.1, csUpset := m.2.2 } (s.csFetch sec).2 := by
  unfold csFetch fetchMarks csPoisoned
  by_cases hpoison : SMap.get false s.csPoison sec = true
  · simp only [if_pos hpoison]
    exact ⟨trivial, .setReg_csReg s _ (by decide)⟩
  · simp only [if_neg hpoison]
    cases SMap.get EccSeen.clean s.csUpset sec with
    | clean => exact ⟨rfl, .refl s⟩
    | single => exact ⟨rfl, (SameReads.setReg_csReg _ _ (by decide)).trans (.setReg_csReg _ _ (by decide))⟩
    | uncorrectable =>
      refine ⟨rfl, ?_⟩
      dsimp only
      split
      · exact .setReg_csReg _ _ (by decide)
      · exact (SameReads.setReg_csReg _ _ (by decide)).trans (.setReg_csReg _ _ (by decide))

theorem csFetch_kept (s : State) (sec : Nat) : BytesKept s (s.csFetch sec).2 :=
  have h := (csFetch_marks s sec).2
  ⟨h.csMem, h.seatReg⟩

theorem csFetch_same (h : SameReads s t) (sec : Nat) :
    (t.csFetch sec).1 = (s.csFetch sec).1 ∧ SameReads (s.csFetch sec).2 (t.csFetch sec).2 := by
  obtain ⟨hs, hsame⟩ := csFetch_marks s sec
  obtain ⟨ht, hsame'⟩ := csFetch_marks t sec
  rw [h.csPoison, h.csUpset] at ht hsame'
  exact ⟨ht.trans hs.symm, hsame.symm.trans ((h.mark _ _).trans hsame')⟩

theorem csFetchAll_kept (s : State) (l : List Nat) : BytesKept s (s.csFetchAll l).2 := by
  induction l generalizing s with
  | nil => exact .refl s
  | cons sec l ih => exact (csFetch_kept s sec).trans (ih _)

theorem csFetchAll_same (h : SameReads s t) (l : List Nat) : SameReads (s.csFetchAll l).2 (t.csFetchAll l).2 := by
  induction l generalizing s t with
  | nil => exact h
  | cons sec l ih => exact ih (csFetch_same h sec).2

/-! A read of a unit (Table 9-12), and a row of the wide path (R93, R95). -/

theorem unitRead_kept (s : State) (n a len : Nat) : BytesKept s (s.unitRead n a len).2 := csFetchAll_kept s _

/-- A unit's read delivers the stored bytes. -/
theorem bytes_unitRead (s : State) (n a len : Nat) : Marked.bytes (s.unitRead n a len).1 = s.csBytes a len := by
  simp only [Marked.bytes, unitRead, csReadMarked, csBytes, List.map_map]
  refine List.map_congr_left fun i hi => ?_
  simp [List.mem_range.1 hi]

theorem unitRead_same (h : SameReads s t) (n a len : Nat) :
    (t.unitRead n a len).1 = (s.unitRead n a len).1 ∧ SameReads (s.unitRead n a len).2 (t.unitRead n a len).2 := by
  have hfetch := csFetchAll_same h (sectorsOf a len)
  refine ⟨?_, hfetch⟩
  simp only [unitRead, csReadMarked, csPoisoned, hfetch.csPoison, h.csByte, h.underReset]

theorem wRead_kept (s : State) (n : Nat) (f : Fmt) (a cols : Nat) : BytesKept s (s.wRead n f a cols).2.2 :=
  (unitRead_kept s n a _).trans (SameReads.logInputs _ n _).toBytesKept

/-- The elements of a row as the wide path reads them. -/
theorem wRead_elements (s : State) (n : Nat) (f : Fmt) (a cols : Nat) : (s.wRead n f a cols).2.1 =
    (decodeRow f 0 cols (s.csBytes a (rowBytes f.bits cols))).map (flushSub (s.flush n)) := by
  rw [← bytes_unitRead s n]; rfl

theorem wRead_same (h : SameReads s t) (n : Nat) (f : Fmt) (a cols : Nat) :
    (t.wRead n f a cols).1 = (s.wRead n f a cols).1 ∧ SameReads (s.wRead n f a cols).2.2 (t.wRead n f a cols).2.2 := by
  obtain ⟨hbytes, hafter⟩ := unitRead_same h n a (rowBytes f.bits cols)
  refine ⟨congrArg Marked.poisoned hbytes, ?_⟩
  exact (SameReads.logInputs _ n _).symm.trans (hafter.trans (.logInputs _ n _))

end State

end Sys2Proof.Machine
end

section
/-! SUPPORT. EWISE: its constants, and a row that no poison reaches (R207, R209). -/

namespace Sys2Proof.Machine.State

variable {s t : State}

/-- The constants of an EWISE, read where its function has them, and the state after. -/
def ewiseConsts (s : State) (n : Nat) (w : List Word) (rec : List Byte) : Fp × Fp × State :=
  if wFunc w = 2 then
    let a := s.wConst n rec 0
    let b := a.2.wConst n rec 1
    (a.1, b.1, b.2)
  else (one, one, s)

/-- Row `r` of an EWISE with its constants. -/
def ewiseRow (s : State) (n : Nat) (w : List Word) (ka kb : Fp) (r : Nat) : Bool × State :=
  let a := s.wRead n (wFmtA w) (wAddr w 8 + r * wN w 9) (wCols w)
  let b := if wUsesB w then
      a.2.2.wRead n (wFmtB w) (wAddr w 10 + (if wBcast w then 0 else r * wN w 11)) (wCols w)
    else (false, a.2.1, a.2.2)
  if a.1 || b.1 then (true, b.2.2)
  else (false, b.2.2.wWrite n (wFmtOut w) (wAddr w 12 + r * wN w 13)
    (List.zipWith (ewise (wFunc w) (fpFmtOf (wFmtOut w)) (s.flush n) ka kb) a.2.1 b.2.1))

theorem wideEwiseRun_eq (s : State) (n : Nat) (w : List Word) (rec : List Byte) :
    s.wideEwiseRun n w rec =
      wRowsLoop (fun t r => t.ewiseRow n w (s.ewiseConsts n w rec).1 (s.ewiseConsts n w rec).2.1 r) (wRows w) 0
        (s.ewiseConsts n w rec).2.2 := by
  by_cases hfunc : wFunc w = 2
  · simp only [wideEwiseRun, ewiseConsts, decide_eq_true hfunc, if_pos hfunc, if_true]
    rfl
  · simp only [wideEwiseRun, ewiseConsts, decide_eq_false hfunc, if_neg hfunc, Bool.false_eq_true, if_false]
    rfl

/-- Reading the constants changes the numeric log alone. -/
theorem ewiseConsts_same (s : State) (n : Nat) (w : List Word) (rec : List Byte) :
    SameReads s (s.ewiseConsts n w rec).2.2 := by
  unfold ewiseConsts
  split
  · exact (SameReads.wConst s n rec 0).trans (.wConst _ n rec 1)
  · exact .refl s

theorem ewiseConsts_eq (s : State) (n : Nat) (w : List Word) (rec : List Byte) :
    let k := fun i => if wFunc w = 2 then flushSub (s.flush n) (decodeFp32 (recN rec i)) else one
    (s.ewiseConsts n w rec).1 = k 0 ∧ (s.ewiseConsts n w rec).2.1 = k 1 := by
  have hflush := (SameReads.wConst s n rec 0).flush n
  by_cases hfunc : wFunc w = 2
  · simp only [ewiseConsts, if_pos hfunc]
    exact ⟨rfl, congrArg (flushSub · (decodeFp32 (recN rec 1))) hflush⟩
  · simp only [ewiseConsts, if_neg hfunc, and_self]

/-- The elements of the row at `a` in format `f`, flushed where FLUSH_SUBN says so (R93). -/
def rowElements (s : State) (n : Nat) (w : List Word) (f : Fmt) (a : Nat) : List Fp :=
  (decodeRow f 0 (wCols w) (s.csBytes a (rowBytes f.bits (wCols w)))).map (flushSub (s.flush n))

/-- The second operand of an EWISE of one row: the elements of B where its function has them. -/
def secondElements (s : State) (n : Nat) (w : List Word) : List Fp :=
  if wUsesB w then s.rowElements n w (wFmtB w) (wAddr w 10) else s.rowElements n w (wFmtA w) (wAddr w 8)

/-- The results of an EWISE of one row (Table 7-5). -/
def ewiseResults (s : State) (n : Nat) (w : List Word) (ka kb : Fp) : List Wv :=
  List.zipWith (ewise (wFunc w) (fpFmtOf (wFmtOut w)) (s.flush n) ka kb) (s.rowElements n w (wFmtA w) (wAddr w 8))
    (s.secondElements n w)

/-- A first row that no poison reaches is computed and stored, wherever the log of the seat stands. -/
theorem ewiseRow_of_clean {n : Nat} {w : List Word} (h : SameReads s t) (ka kb : Fp)
    (ha : (s.wRead n (wFmtA w) (wAddr w 8) (wCols w)).1 = false)
    (hb : wUsesB w = true →
      ((s.wRead n (wFmtA w) (wAddr w 8) (wCols w)).2.2.wRead n (wFmtB w) (wAddr w 10) (wCols w)).1 = false) :
    ∃ u, BytesKept s u ∧
      t.ewiseRow n w ka kb 0 = (false, u.wWrite n (wFmtOut w) (wAddr w 12) (s.ewiseResults n w ka kb)) := by
  obtain ⟨ha', hafter⟩ := wRead_same h n (wFmtA w) (wAddr w 8) (wCols w)
  have hkept := wRead_kept s n (wFmtA w) (wAddr w 8) (wCols w)
  have hxs : (t.wRead n (wFmtA w) (wAddr w 8) (wCols w)).2.1 = s.rowElements n w (wFmtA w) (wAddr w 8) := by
    rw [wRead_elements, h.csBytes, h.flush, rowElements]
  rw [ha] at ha'
  by_cases hused : wUsesB w = true
  · obtain ⟨hb', hafter'⟩ := wRead_same hafter n (wFmtB w) (wAddr w 10) (wCols w)
    have hys : ((t.wRead n (wFmtA w) (wAddr w 8) (wCols w)).2.2.wRead n (wFmtB w) (wAddr w 10) (wCols w)).2.1 =
        s.rowElements n w (wFmtB w) (wAddr w 10) := by
      rw [wRead_elements, hafter.csBytes, hafter.flush, hkept.csBytes, hkept.flush, rowElements]
    rw [hb hused] at hb'
    refine ⟨_, hkept.trans ((wRead_kept _ n (wFmtB w) (wAddr w 10) (wCols w)).trans hafter'.toBytesKept), ?_⟩
    simp only [ewiseRow, ewiseResults, secondElements, Nat.zero_mul, Nat.add_zero, ite_self, if_pos hused, ha', hb', hxs,
      hys, h.flush, Bool.or_self, Bool.false_eq_true, if_false]
  · refine ⟨_, hkept.trans hafter.toBytesKept, ?_⟩
    simp only [ewiseRow, ewiseResults, secondElements, Nat.zero_mul, Nat.add_zero, if_neg hused, ha', hxs, h.flush,
      Bool.or_self, Bool.false_eq_true, if_false]

/-- Results are stored where they are written, and nowhere else. -/
theorem wWrite_stores {u : State} (h : BytesKept s u) (n : Nat) (f : Fmt) (a : Nat) (ys : List Wv) :
    let out := ys.flatMap fun y => encFp f y.v
    (u.wWrite n f a ys).holds a out ∧ s.storeOnly (u.wWrite n f a ys) a out.length := by
  intro out
  have hbyte (x : Nat) : (u.wWrite n f a ys).csByte x = (u.csWrite a out).csByte x :=
    (SameReads.logResults _ n ys).csByte x
  refine ⟨fun i hi => ?_, fun x hx => ?_⟩
  · rw [hbyte]; exact csWrite_holds u a out i hi
  · rw [hbyte, csWrite_storeOnly u a out x hx, h.csByte]

end Sys2Proof.Machine.State
end

section
/-! PROOFS. EWISE of one row. -/

namespace Sys2Proof.Proofs

open Sys2Proof.Machine Sys2Proof.Machine.State

/-- Settles O26: the constants change the numeric log alone, so that the row is read as from the first state, and its
results are what is stored (R93, R207, R209). -/
theorem ewiseOfOneRow : Obligations.EwiseOfOneRow := by
  intro s n w rec hrows _ cols a b fl k xs ys out q ha hb
  obtain ⟨hka, hkb⟩ := ewiseConsts_eq s n w rec
  obtain ⟨u, hkept, hrow⟩ := ewiseRow_of_clean (ewiseConsts_same s n w rec) (k 0) (k 1) ha hb
  have hq : q = (0, u.wWrite n (wFmtOut w) (wAddr w 12) (s.ewiseResults n w (k 0) (k 1))) := by
    simp only [q, wideEwiseRun_eq, hrows, wRowsLoop, hka, hkb]
    rw [hrow]
    rfl
  rw [hq]
  exact ⟨rfl, wWrite_stores hkept n (wFmtOut w) (wAddr w 12) _⟩

end Sys2Proof.Proofs
end

section
/-! SUPPORT. Arrays: the record of one beside the others, the pair a tile runs on, group slots, and the entry of a tile
(R33, R121, R126, R401). -/

namespace Sys2Proof.Machine.State

/-! The record of an array, and the pair it belongs to (R401). -/

variable {s t : State}

theorem arr_congr (h : t.arrays = s.arrays) (p a : Nat) : t.arr p a = s.arr p a := by rw [arr, h, arr]

theorem arr_modArr_other {p a q b : Nat} (s : State) (f : ArrRec → ArrRec) (h : q * 8 + b ≠ p * 8 + a) :
    (s.modArr p a f).arr q b = s.arr q b :=
  SMap.get_set_other _ _ _ _ h

theorem arr_modArr_beside {p a b : Nat} (s : State) (f : ArrRec → ArrRec) (h : b ≠ a) :
    (s.modArr p b f).arr p a = s.arr p a := arr_modArr_other s f (by omega)

theorem modArr_reg (s : State) (p a : Nat) (f : ArrRec → ArrRec) (o : Nat) : (s.modArr p a f).reg o = s.reg o :=
  reg_congr (modArr_variant s p a f) (modArr_regs s p a f) o

theorem mem_pairOf_self (s : State) (p a : Nat) : a ∈ s.pairOf p a := by
  unfold pairOf
  split <;> exact List.mem_cons_self

theorem partner_ne (a : Nat) : a ^^^ 1 ≠ a := fun h => by simpa using congrArg (a ^^^ ·) h

theorem pairOf_congr (h : t.reg (ecReg 0x20) = s.reg (ecReg 0x20)) (p a : Nat) : t.pairOf p a = s.pairOf p a := by
  rw [pairOf, paired, h, pairOf, paired]

/-- Of the steps of a fold over the pair of an array, its own alone reaches its record. -/
theorem arr_foldl_pair {f : State → Nat → State} {p a : Nat} (h : ∀ u b, b ≠ a → (f u b).arr p a = u.arr p a)
    (s u : State) : ((s.pairOf p a).foldl f u).arr p a = (f u a).arr p a := by
  unfold pairOf
  split
  · exact h _ _ (partner_ne a)
  · rfl

/-- An array that a seat may use is not retired, nor in paired mode its partner (R400, R401). -/
theorem retired_of_mayUse {n a : Nat} (h : s.mayUse n a = true) :
    ∀ b ∈ s.pairOf (n / 16) a, (s.arr (n / 16) b).retired = false := by
  have hone (b : Nat) (hb : s.mayUseOne n b = true) : (s.arr (n / 16) b).retired = false := by
    simp only [mayUseOne, Bool.and_eq_true, Bool.not_eq_true'] at hb
    obtain ⟨⟨hlive, -⟩, -⟩ := hb
    exact hlive
  obtain ⟨hself, hpartner⟩ := Bool.and_eq_true_iff.1 h
  unfold pairOf
  split
  · next hp =>
    rw [hp] at hpartner
    simpa using ⟨hone a hself, hone _ hpartner⟩
  · simpa using hone a hself

/-! Group slots (R121, R126). -/

theorem slotOf_congr {p a : Nat} (h : t.arr p a = s.arr p a) (k : Nat) : t.slotOf p a k = s.slotOf p a k := by
  rw [slotOf, h, slotOf]

theorem slotOf_setSlot_same (s : State) (p a k : Nat) (g : Slot) : (s.setSlot p a k g).slotOf p a k = g := by
  rw [slotOf, setSlot, arr_modArr_same, SMap.get_set_same]

theorem freeSlot_spec {p k : Nat} {as : List Nat} (h : s.freeSlot p as = some k) :
    k < 4 ∧ ∀ a ∈ as, (s.slotOf p a k).seat = none :=
  ⟨List.mem_range.1 (List.mem_of_find?_eq_some h), by simpa using List.find?_some h⟩

/-- A slot that a new tile can take is free, on the array that the descriptor names or on one that its seat may use
(R124, R126). -/
theorem takeSlot_spec {n a k : Nat} {w : List Word} (h : s.takeSlot n w = some (a, k)) :
    (mxArray w ≠ 15 ∧ mxArray w = a ∨ mxArray w = 15 ∧ s.mayUse n a = true) ∧ k < 4 ∧
      (s.slotOf (n / 16) a k).seat = none := by
  obtain ⟨b, hb, htake⟩ := List.exists_of_findSome?_eq_some h
  split at htake
  · cases htake
  · obtain ⟨k', hfree, hk⟩ := Option.map_eq_some_iff.1 htake
    obtain ⟨rfl, rfl⟩ := Prod.mk.inj hk
    obtain ⟨hlt, hseat⟩ := freeSlot_spec hfree
    refine ⟨?_, hlt, hseat b (mem_pairOf_self s _ b)⟩
    split at hb
    · next h15 => exact .inr ⟨h15, (List.mem_filter.1 hb).2⟩
    · next h15 => exact .inl ⟨h15, (List.mem_singleton.1 hb).symm⟩

theorem slotOf_bindSlot (s : State) (n a k handle : Nat) (anchor : Int) :
    (s.bindSlot n a k handle anchor).slotOf (n / 16) a k =
      { Slot.fresh with seat := some n, handle := handle, anchor := anchor, eff := anchor } := by
  unfold bindSlot
  extract_lets p u
  refine (slotOf_congr (arr_foldl_pair (fun v b hb => ?_) u u) k).trans ?_
  · exact (arr_modArr_beside _ _ hb).trans (arr_modArr_beside v _ hb)
  · rw [slotOf, arr_modArr_same]
    exact slotOf_setSlot_same _ _ _ _ _

theorem bindSlot_kept (s : State) (n a k handle : Nat) (anchor : Int) : TileKept s (s.bindSlot n a k handle anchor) :=
  .fold (fun u _ => (TileKept.refl u).setSlot.modArr fun _ => rfl) ((TileKept.refl s).of_eq rfl rfl)

theorem bindSlot_reg (s : State) (n a k handle : Nat) (anchor : Int) (o : Nat) :
    (s.bindSlot n a k handle anchor).reg o = s.reg o :=
  foldl_frame (fun u => u.reg o) (fun u b => (modArr_reg _ _ b _ o).trans (modArr_reg u _ b _ o)) _ _

/-- Where the arrays of a tile are not retired, they are not retired once its slot is bound. -/
theorem bindSlot_good {p n a k handle : Nat} {anchor : Int} {b : Nat}
    (h : ∀ c ∈ s.pairOf p b, (s.arr p c).retired = false) :
    ∀ c ∈ (s.bindSlot n a k handle anchor).pairOf p b, ((s.bindSlot n a k handle anchor).arr p c).retired = false := by
  rw [pairOf_congr (bindSlot_reg s n a k handle anchor _)]
  exact fun c hc => ((bindSlot_kept s n a k handle anchor).retired p c).trans (h c hc)

/-! A tile enters the cells (R33, R133). -/

theorem enterArrays_reg (s : State) (n : Nat) (as : List Nat) (o : Nat) : (s.enterArrays n as).reg o = s.reg o :=
  foldl_frame (fun u => u.reg o) (fun u b => modArr_reg u _ b _ o) as s

theorem enterArray_kept (s : State) (n a : Nat) : SlotsKept s (s.enterArray n a) := .enterArrays s n _

/-- An array that is not retired, nor its partner in paired mode, takes the tile with its clocks on (R133, R400). -/
theorem enterArray_good {n a : Nat} (h : ∀ b ∈ s.pairOf (n / 16) a, (s.arr (n / 16) b).retired = false) :
    ((s.enterArray n a).arr (n / 16) a).busy.isSome = true ∧ ((s.enterArray n a).arr (n / 16) a).gated = false := by
  have hgood : ¬ ((s.pairOf (n / 16) a).any fun b => (s.arr (n / 16) b).retired) = true := by simpa using h
  rw [enterArray, enterArrays, arr_foldl_pair fun u b hb => arr_modArr_beside u _ hb, arr_modArr_same, if_neg hgood]
  split
  · next hbusy => exact ⟨hbusy, rfl⟩
  · exact ⟨rfl, rfl⟩

end Sys2Proof.Machine.State
end

section
/-! SUPPORT. The start of a MATRIX descriptor (R120 to R127, R194, R400). -/

namespace Sys2Proof.Machine

/-- From `s` to `t` the arrays stay, and the paired mode of the partitions (R401). -/
structure ArraysKept (s t : State) : Prop where
  arrays : t.arrays = s.arrays
  mode : t.reg (ecReg 0x20) = s.reg (ecReg 0x20)

namespace ArraysKept

variable {s t u : State}

theorem refl (s : State) : ArraysKept s s := ⟨rfl, rfl⟩

theorem trans (h : ArraysKept s t) (k : ArraysKept t u) : ArraysKept s u :=
  ⟨k.arrays.trans h.arrays, k.mode.trans h.mode⟩

theorem arr (h : ArraysKept s t) (p a : Nat) : t.arr p a = s.arr p a := State.arr_congr h.arrays p a

theorem slotOf (h : ArraysKept s t) (p a k : Nat) : t.slotOf p a k = s.slotOf p a k :=
  State.slotOf_congr (h.arr p a) k

theorem pairOf (h : ArraysKept s t) (p a : Nat) : t.pairOf p a = s.pairOf p a := State.pairOf_congr h.mode p a

theorem openSlot (h : ArraysKept s t) (n a i : Nat) : t.openSlot n a i = s.openSlot n a i := by
  simp only [State.openSlot, h.slotOf]

theorem retired (h : ArraysKept s t) {p a : Nat} (hs : ∀ b ∈ s.pairOf p a, (s.arr p b).retired = false) :
    ∀ b ∈ t.pairOf p a, (t.arr p b).retired = false := by
  simpa only [h.pairOf, h.arr] using hs

theorem setReg {off : Nat} (h : ArraysKept s t) (v : Word) (hoff : off ≠ ecReg 0x20) :
    ArraysKept s (t.setReg off v) :=
  h.trans ⟨rfl, State.reg_setReg_other t v hoff.symm⟩

theorem csFetch (s : State) (sec : Nat) : ArraysKept s (s.csFetch sec).2 := by
  have hlog {u : State} (h : ArraysKept s u) (mask : Nat) : ArraysKept s (u.raise (csReg 0xC) mask) :=
    h.setReg _ (by decide)
  have hpoisoned : ArraysKept s (State.setCsPoison { s with csUpset := SMap.erase s.csUpset sec } sec true) := ⟨rfl, rfl⟩
  have hcorrected : ArraysKept s { s with csUpset := SMap.erase s.csUpset sec } := ⟨rfl, rfl⟩
  unfold State.csFetch
  split
  · exact hlog (refl s) 4
  · split
    · exact refl s
    · exact (hlog hcorrected 1).setReg (off := csReg 0x14) _ (by decide)
    · dsimp only
      split
      · exact hlog hpoisoned 2
      · exact (hlog hpoisoned 2).setReg (off := csReg 0x10) _ (by decide)

theorem unitRead (s : State) (n a len : Nat) : ArraysKept s (s.unitRead n a len).2 := by
  have hall (l : List Nat) : ∀ s : State, ArraysKept s (s.csFetchAll l).2 := by
    induction l with
    | nil => exact refl
    | cons sec l ih => exact fun s => (csFetch s sec).trans (ih _)
  exact hall _ s

theorem start (s : State) (n : Nat) (h : Head) (unit : Nat) : ArraysKept s (s.start n h unit) := by
  refine ⟨?_, (State.started_start s n h unit).reg _ ?_ (by decide)⟩
  · unfold State.start
    extract_lets u v
    obtain ⟨out, hv | hv | ⟨a, bs, x, hv⟩⟩ := State.trace_cases v n (tagOf h.words) (opcodeOf h.words) 1 0 unit <;>
      rw [hv] <;> rfl
  · simp only [ecReg, seatReg, ctReg, partReg]; omega

end ArraysKept

namespace State

variable {s u : State} {n : Nat} {h : Head}

theorem reg_start_ringCons (s : State) (n : Nat) (h : Head) (unit : Nat) :
    (s.start n h unit).reg (seatReg n 0x1C) = h.index + BitVec.ofNat 32 (1 + countOf h.words) := by
  unfold start
  extract_lets u v
  rw [(trace_kept v n (tagOf h.words) (opcodeOf h.words) 1 0 unit).2.2 _ (seatReg_ne_trace n _),
    reg_congr (modSeat_variant u n _) (modSeat_regs u n _)]
  exact reg_setReg_same s _ _

/-- A descriptor enters its seat with a tile on an array. -/
theorem runOnArray_spec (u : State) (n : Nat) (r : Run) (a : Nat) :
    let t := (u.addRun n r).enterArray n a
    r ∈ (t.seat n).running ∧ (∀ o, t.reg o = u.reg o) ∧ (∀ p b k, t.slotOf p b k = u.slotOf p b k) ∧
      ((∀ b ∈ u.pairOf (n / 16) a, (u.arr (n / 16) b).retired = false) →
        (t.arr (n / 16) a).busy.isSome = true ∧ (t.arr (n / 16) a).gated = false) := by
  intro t
  have hslots : SlotsKept (u.addRun n r) t := enterArray_kept _ n a
  have hkept : ArraysKept u (u.addRun n r) := by
    obtain ⟨seats, parts, shakes, h⟩ := addRun_frame u n r
    exact ⟨by rw [h], addRun_reg u n r _⟩
  refine ⟨?_, fun o => ?_, fun p b k => ?_, fun hgood => enterArray_good (hkept.retired hgood)⟩
  · rw [seat_congr hslots.seats]
    exact mem_addRun u n r
  · exact (enterArrays_reg _ _ _ o).trans (addRun_reg u n r o)
  · rw [hslots.slotOf, hkept.slotOf]

/-- A descriptor enters its seat with a tile on a slot that it binds. -/
theorem runOnNewSlot_spec (u : State) (n : Nat) (r : Run) (a k handle : Nat) (anchor : Int) :
    let t := ((u.bindSlot n a k handle anchor).addRun n r).enterArray n a
    r ∈ (t.seat n).running ∧ (∀ o, t.reg o = u.reg o) ∧
      t.slotOf (n / 16) a k = { Slot.fresh with seat := some n, handle := handle, anchor := anchor, eff := anchor } ∧
      ((∀ b ∈ u.pairOf (n / 16) a, (u.arr (n / 16) b).retired = false) →
        (t.arr (n / 16) a).busy.isSome = true ∧ (t.arr (n / 16) a).gated = false) := by
  obtain ⟨hrun, hreg, hslot, hcells⟩ := runOnArray_spec (u.bindSlot n a k handle anchor) n r a
  exact ⟨hrun, fun o => (hreg o).trans (bindSlot_reg u n a k handle anchor o),
    (hslot _ a k).trans (slotOf_bindSlot u n a k handle anchor), fun hgood => hcells (bindSlot_good hgood)⟩

/-- The read of its conversion record with which a narrow MATRIX starts (R194). -/
def mxRead (s : State) (n : Nat) (w : List Word) : Marked × State :=
  if mxNarrow w then s.unitRead n (wAddr w 25) 64 else ([], s)

/-- The run of a MATRIX as it enters its seat, with the copy of its conversion record. -/
def mxRun (s : State) (n : Nat) (h : Head) (g : List Region) (work : Work) (a : Nat) : Run :=
  let read := s.mxRead n h.words
  { newRun h work 0 with
    record := if mxNarrow h.words && !Marked.poisoned read.1 then read.2.convDefaults n (Marked.bytes read.1) else [],
    guard := g, tensor := wN h.words 27, unit := a }

theorem mxRead_kept (s : State) (n : Nat) (w : List Word) : ArraysKept s (s.mxRead n w).2 := by
  unfold mxRead
  split
  · exact .unitRead s n _ _
  · exact .refl s

theorem mxRead_seatReg (s : State) (n : Nat) (w : List Word) (m : Nat) {o : Nat} (ho : o < 0x100) :
    (s.mxRead n w).2.reg (seatReg m o) = s.reg (seatReg m o) := by
  unfold mxRead
  split
  · exact (unitRead_kept s n _ _).seatReg m o ho
  · rfl

/-- The group of a handle after the start of a CONTINUE or CLOSE of it, which leaves the handle (R127, log entry 67). -/
def handleLeft (u : State) (n : Nat) (w : List Word) (k : Nat) : State :=
  if mxOp w = 3 then
    (u.pairOf (n / 16) (mxArray w)).foldl (fun v b =>
      v.setSlot (n / 16) b k { v.slotOf (n / 16) b k with handle := 4 }) u
  else u

theorem handleLeft_reg (u : State) (n : Nat) (w : List Word) (k o : Nat) : (u.handleLeft n w k).reg o = u.reg o := by
  unfold handleLeft
  split
  · exact foldl_frame (fun v => v.reg o) (fun v b => modArr_reg v _ b _ o) _ u
  · rfl

theorem handleLeft_good {w : List Word} {k p a : Nat} (h : ∀ b ∈ u.pairOf p a, (u.arr p b).retired = false) :
    ∀ b ∈ (u.handleLeft n w k).pairOf p a, ((u.handleLeft n w k).arr p b).retired = false := by
  have hkept : TileKept u (u.handleLeft n w k) := by
    unfold handleLeft
    exact .ite (.fold (fun v _ => (TileKept.refl v).setSlot) (.refl u)) (.refl u)
  rw [pairOf_congr (handleLeft_reg u n w k _)]
  exact fun b hb => (hkept.retired p b).trans (h b hb)

theorem handleLeft_entries (u : State) (n : Nat) (w : List Word) (k : Nat) :
    ((u.handleLeft n w k).slotOf (n / 16) (mxArray w) k).entries = (u.slotOf (n / 16) (mxArray w) k).entries := by
  unfold handleLeft
  split
  · refine (congrArg Slot.entries (slotOf_congr (arr_foldl_pair (fun v b hb => ?_) u u) k)).trans ?_
    · exact arr_modArr_beside v _ hb
    · rw [slotOf_setSlot_same]
  · rfl

/-! The three ways in which a MATRIX starts (R121, R126, R127). -/

section

variable {k : Nat} (g : List Region)

theorem mxStart_of_no_slot (hnew : ¬ (mxOp h.words = 2 ∨ mxOp h.words = 3))
    (htake : (s.mxRead n h.words).2.takeSlot n h.words = none) :
    mxStart n h g s =
      (s.mxRead n h.words).2.addRun n (s.mxRun n h g (.slotWait (mxArray h.words) 0 none) (mxArray h.words)) := by
  unfold mxStart
  extract_lets w read u copy run
  have hu : u.takeSlot n w = none := htake
  rw [if_neg hnew, hu]
  rfl

theorem mxStart_of_slot {a : Nat} (hnew : ¬ (mxOp h.words = 2 ∨ mxOp h.words = 3))
    (htake : (s.mxRead n h.words).2.takeSlot n h.words = some (a, k)) :
    mxStart n h g s = (((s.mxRead n h.words).2.bindSlot n a k (mxHandle h.words) (mxAnchor h.words)).addRun n
      (s.mxRun n h g (tileWork h.words a k) a)).enterArray n a := by
  unfold mxStart
  extract_lets w read u copy run
  have hu : u.takeSlot n w = some (a, k) := htake
  rw [if_neg hnew, hu]
  rfl

theorem mxStart_of_open (hold : mxOp h.words = 2 ∨ mxOp h.words = 3)
    (hopen : (s.mxRead n h.words).2.openSlot n (mxArray h.words) (mxGroup h.words) = some k) :
    mxStart n h g s = (((s.mxRead n h.words).2.handleLeft n h.words k).addRun n
      (s.mxRun n h g (tileWork h.words (mxArray h.words) k) (mxArray h.words))).enterArray n (mxArray h.words) := by
  obtain rfl : ((s.mxRead n h.words).2.openSlot n (mxArray h.words) (mxGroup h.words)).getD 0 = k := by
    rw [hopen, Option.getD_some]
  exact if_pos hold

end

end State

end Sys2Proof.Machine
end

section
/-! SUPPORT. The checks of a MATRIX (Table 4-7). -/

namespace Sys2Proof.Machine

theorem firstCause_eq_none {l : List (Bool × Nat)} (h : firstCause l = none) : ∀ e ∈ l, e.1 = false := by
  induction l with
  | nil => simp
  | cons e l ih =>
    obtain ⟨b, k⟩ := e
    cases b with
    | true => simp [firstCause] at h
    | false => exact List.forall_mem_cons.2 ⟨rfl, ih h⟩

/-- A SINGLE, OPEN or OPEN_LOAD that passes its checks may use the array it names (Table 4-7). -/
theorem State.mayUse_of_mxCause {s : State} {n : Nat} {w : List Word} (h : s.mxCause n w = none) (harr : mxArray w ≠ 15)
    (hnew : ¬ (mxOp w = 2 ∨ mxOp w = 3)) : s.mayUse n (mxArray w) = true := by
  unfold State.mxCause at h
  extract_lets op arr k need c slot gBad at h
  have huse := firstCause_eq_none h (if arr = 15 then !(List.range 8).any (s.mayUse n)
     else !s.mayUse n arr && !(decide (op = 2 ∨ op = 3) && s.openLost n arr slot), 0x104) (by simp)
  have hop : decide (op = 2 ∨ op = 3) = false := decide_eq_false hnew
  rw [if_neg harr, hop] at huse
  simpa using huse

end Sys2Proof.Machine
end

section
/-! PROOFS. The start of a MATRIX. -/

namespace Sys2Proof.Proofs

open Sys2Proof.Machine Sys2Proof.Machine.State

section

variable {s : State} {n : SeatNo} {h : Head} {op : Nat}

theorem mxOp_of_isOp (hop : isOp 1 25 23 op h.words = true) : mxOp h.words = op := (of_decide_eq_true hop).2

/-- A MATRIX that can start does so from a state that has the arrays of `s`, with RING_CONS past the descriptor. -/
theorem mxDispatch_of_canStart (hop : isOp 1 25 23 op h.words = true)
    (hstart : s.canStart n.val (s.mxChecks n.val) (s.guardOf n.val (s.mxWrites n.val h.words)) h) :
    ∃ g v, s.mxDispatch n.val op = mxStart n.val h g v ∧ ArraysKept s (v.mxRead n.val h.words).2 ∧
      (v.mxRead n.val h.words).2.reg (seatReg n.val 0x1C) = h.index + BitVec.ofNat 32 (1 + countOf h.words) := by
  refine ⟨s.guardOf n.val (s.mxWrites n.val h.words), s.start n.val h (s.mxUnit n.val h.words), ?_, ?_, ?_⟩
  · exact dispatch_of_canStart (gf := fun w => s.guardOf n.val (s.mxWrites n.val w)) hstart hop
  · exact (ArraysKept.start s n.val h _).trans (mxRead_kept _ n.val h.words)
  · rw [mxRead_seatReg _ _ _ _ (by decide), reg_start_ringCons]

/-- SINGLE, OPEN and OPEN_LOAD (R121, R126). -/
theorem newGroup_starts (hop : isOp 1 25 23 op h.words = true) (hnew : ¬ (op = 2 ∨ op = 3))
    (hstart : s.canStart n.val (s.mxChecks n.val) (s.guardOf n.val (s.mxWrites n.val h.words)) h) :
    let t := s.mxDispatch n.val op
    ∃ r ∈ (t.seat n.val).running, r.index = h.index ∧ r.words = h.words ∧ r.status = 0 ∧
      r.void = false ∧ t.reg (seatReg n.val 0x1C) = h.index + BitVec.ofNat 32 (1 + countOf h.words) ∧
      (r.work = .slotWait (mxArray h.words) 0 none ∨
        ∃ a k, r.work = tileWork h.words a k ∧ k < 4 ∧ (s.slotOf (n.val / 16) a k).seat = none ∧
          (t.slotOf (n.val / 16) a k).seat = some n.val ∧ (t.slotOf (n.val / 16) a k).entries = [] ∧
          (t.arr (n.val / 16) a).busy.isSome = true ∧ (t.arr (n.val / 16) a).gated = false) := by
  intro t
  rw [← mxOp_of_isOp hop] at hnew
  obtain ⟨g, v, hdispatch, hkept, hcons⟩ := mxDispatch_of_canStart hop hstart
  have hcause : s.mxCause n.val h.words = none := by
    obtain ⟨-, -, hcause, -⟩ := hstart
    exact hcause
  set u := (v.mxRead n.val h.words).2
  cases htake : u.takeSlot n.val h.words with
  | none =>
    have ht : t = u.addRun n.val _ := hdispatch.trans (mxStart_of_no_slot g hnew htake)
    rw [ht]
    exact ⟨_, mem_addRun u n.val _, rfl, rfl, rfl, rfl, (addRun_reg u _ _ _).trans hcons, .inl rfl⟩
  | some place =>
    obtain ⟨a, k⟩ := place
    obtain ⟨harray, hlt, hfree⟩ := takeSlot_spec htake
    have hgood : ∀ b ∈ u.pairOf (n.val / 16) a, (u.arr (n.val / 16) b).retired = false := by
      obtain ⟨hnamed, rfl⟩ | ⟨-, huse⟩ := harray
      · exact hkept.retired (retired_of_mayUse (mayUse_of_mxCause hcause hnamed hnew))
      · exact retired_of_mayUse huse
    have ht : t = _ := hdispatch.trans (mxStart_of_slot g hnew htake)
    obtain ⟨hrun, hreg, hslot, hcells⟩ := runOnNewSlot_spec u n.val (v.mxRun n.val h g (tileWork h.words a k) a) a k
      (mxHandle h.words) (mxAnchor h.words)
    rw [← ht] at hrun hreg hslot hcells
    refine ⟨_, hrun, rfl, rfl, rfl, rfl, (hreg _).trans hcons, .inr ⟨a, k, rfl, hlt, ?_, ?_, ?_, hcells hgood⟩⟩
    · rw [← hkept.slotOf, hfree]
    · rw [hslot]
    · rw [hslot]; rfl

/-- CONTINUE and CLOSE (R121, R127), on a retired array too (R400). -/
theorem openGroup_goesOn {k : Nat} (hop : isOp 1 25 23 op h.words = true) (hold : op = 2 ∨ op = 3)
    (hstart : s.canStart n.val (s.mxChecks n.val) (s.guardOf n.val (s.mxWrites n.val h.words)) h)
    (hopen : s.openSlot n.val (mxArray h.words) (mxGroup h.words) = some k) :
    let t := s.mxDispatch n.val op
    t.inWork n.val h (tileWork h.words (mxArray h.words) k) 0 ∧
      (t.slotOf (n.val / 16) (mxArray h.words) k).entries = (s.slotOf (n.val / 16) (mxArray h.words) k).entries ∧
      ((∀ b ∈ s.pairOf (n.val / 16) (mxArray h.words), (s.arr (n.val / 16) b).retired = false) →
        (t.arr (n.val / 16) (mxArray h.words)).busy.isSome = true) := by
  intro t
  rw [← mxOp_of_isOp hop] at hold
  obtain ⟨g, v, hdispatch, hkept, -⟩ := mxDispatch_of_canStart hop hstart
  rw [← hkept.openSlot] at hopen
  have ht : t = _ := hdispatch.trans (mxStart_of_open g hold hopen)
  obtain ⟨hrun, -, hslot, hcells⟩ := runOnArray_spec ((v.mxRead n.val h.words).2.handleLeft n.val h.words k) n.val
    (v.mxRun n.val h g (tileWork h.words (mxArray h.words) k) (mxArray h.words)) (mxArray h.words)
  rw [← ht] at hrun hslot hcells
  refine ⟨⟨_, hrun, rfl, rfl, rfl, rfl⟩, ?_, fun hgood => (hcells ?_).1⟩
  · rw [hslot, handleLeft_entries, hkept.slotOf]
  · exact handleLeft_good (hkept.retired hgood)

end

/-- Settles O20: the state in which a MATRIX takes its slot has the arrays of the state before its start; a slot that it
takes is free there, on arrays that are not retired (R121, R126, R127, R400). -/
theorem matrixStarts : Obligations.MatrixStarts := by
  refine ⟨fun s n h c op hc hop hstart => ?_, fun s n h c op hc hop hstart k hopen => ?_⟩
  · have hnew : ¬ (op = 2 ∨ op = 3) := by omega
    have hexec : exec c s = .next (s.mxDispatch n.val op) := by
      obtain ⟨rfl, rfl⟩ | ⟨rfl, rfl⟩ | ⟨rfl, rfl⟩ := hc <;> rfl
    obtain ⟨r, hstarted⟩ := newGroup_starts hop hnew hstart
    exact ⟨_, r, hexec, hstarted⟩
  · have hexec : exec c s = .next (s.mxDispatch n.val op) := by obtain ⟨rfl, rfl⟩ | ⟨rfl, rfl⟩ := hc <;> rfl
    exact ⟨_, hexec, openGroup_goesOn hop (by omega) hstart hopen⟩

end Sys2Proof.Proofs
end

section
/-! SUPPORT. Retirement, the grant of a freed slot and the clock gate of an array (R126, R133, R399, R400). -/

namespace Sys2Proof.Machine.State

variable {s : State}

theorem logArray_arrays (s : State) (mask : Nat) : (s.logArray mask).arrays = s.arrays := by
  obtain ⟨regs, bad, fn, ec, out, h, -⟩ := raiseEc_frame s 0xC mask
  rw [logArray, h]

/-- A retirement is logged, and changes the record of its array alone. -/
theorem retireArray_spec (s : State) (p a : Nat) :
    ((s.retireArray p a).arr p a).retired = true ∧ bit ((s.retireArray p a).reg (ecReg 0xC)) 3 = true ∧
      ∀ q b, q * 8 + b ≠ p * 8 + a → (s.retireArray p a).arr q b = s.arr q b := by
  unfold retireArray
  extract_lets keep u
  have harr := arr_congr (logArray_arrays u 8)
  refine ⟨?_, ?_, fun q b hne => ?_⟩
  · rw [harr, arr_modArr_same]
  · rw [logArray, reg_raiseEc_same u 8 (by decide)]
    simp [bit]
  · rw [harr, arr_modArr_other s _ hne]

/-- The descriptor that wins a slot waits for one (R126). -/
theorem slotWinner_waits {p a n : Nat} {r : Run} (h : s.slotWinner p a = some (n, r)) :
    ∃ x i l, r.work = .slotWait x i l := by
  obtain ⟨m, -, hm⟩ := List.exists_of_findSome?_eq_some h
  obtain ⟨q, hfind, hq⟩ := Option.map_eq_some_iff.1 hm
  obtain ⟨-, rfl⟩ := Prod.mk.inj hq
  have hwait := List.find?_some hfind
  split at hwait
  · next x i l hwork => exact ⟨x, i, l, hwork⟩
  · cases hwait

/-- A freed slot is bound for the seat that wins it, whose descriptor goes on with the tile it waited for (R126). -/
theorem slotGrant_spec {p a n k : Nat} {r : Run} (hwin : s.slotWinner p a = some (n, r))
    (hfree : s.freeSlot p (s.pairOf p a) = some k) (hpart : n / 16 = p) (hfind : s.findRun n r.index = some r) :
    ∃ q x i l, (s.slotGrant p a).findRun n r.index = some q ∧ r.work = .slotWait x i l ∧
      q.work = tileWorkAt r.words a k i l ∧ ((s.slotGrant p a).slotOf p a k).seat = some n := by
  subst hpart
  obtain ⟨x, i, l, hwork⟩ := slotWinner_waits hwin
  obtain ⟨u, hu⟩ : ∃ u, u = s.bindSlot n a k (mxHandle r.words) (mxAnchor r.words) := ⟨_, rfl⟩
  obtain ⟨v, hv⟩ : ∃ v, v = u.modRun n r.index fun q => { q with work := slotGrant.grantWork q a k, unit := a } :=
    ⟨_, rfl⟩
  have hgrant : s.slotGrant (n / 16) a = v.enterArray n a := by
    unfold slotGrant
    rw [hwin, hfree, hv, hu]
  have hkept := enterArray_kept v n a
  have hrun : v.findRun n r.index = some { r with work := slotGrant.grantWork r a k, unit := a } := by
    rw [hv]
    exact findRun_modRun ((findRun_congr (hu ▸ (bindSlot_frame s n a k _ _).1) n r.index).trans hfind) fun _ => rfl
  refine ⟨{ r with work := slotGrant.grantWork r a k, unit := a }, x, i, l, ?_, hwork, ?_, ?_⟩
  · rw [hgrant, findRun_congr hkept.seats, hrun]
  · simp only [slotGrant.grantWork, hwork]
  · rw [hgrant, hkept.slotOf, hv, hu]
    exact congrArg Slot.seat (slotOf_bindSlot s n a k _ _)

/-- An array that is idle gates its clocks when GATE_IDLE cycles have passed (R133). -/
theorem gateArray_of_idle {p a : Nat} (hidle : (s.arr p a).gateIdle ≠ 0) (hfree : (s.arr p a).busy = none)
    (hon : (s.arr p a).gated = false) (hruns : s.partRuns p = true) : s.gateArray p a =
      (s.reachUp ((s.arr p a).idleFrom + ceilDiv ((s.arr p a).gateIdle * 1000) (s.arrayMHz p))).modArr p a
        fun r => { r with gated := true } := by
  simp [gateArray, hidle, hfree, hon, hruns]

end Sys2Proof.Machine.State
end

section
/-! PROOFS. Array events. -/

namespace Sys2Proof.Proofs

open Sys2Proof.Machine Sys2Proof.Machine.State

section

variable {s : State} {p : PartNo} {a : ArrayNo}

theorem exec_arrayRetired (hpart : partPresent s.variant p.val = true)
    (hlimit : s.retireLimit ≤ (s.arr p.val a.val).faults) (hlive : (s.arr p.val a.val).retired = false) :
    exec (.arrayRetired p a) s = .next (s.retireArray p.val a.val) := by
  change Host.Outcome.next (ite _ _ _) = _
  rw [if_pos (by simp [hpart, hlimit, hlive])]

theorem exec_groupSlotGrant (hlive : ∀ b ∈ s.pairOf p.val a.val, (s.arr p.val b).retired = false)
    (hreset : s.resetting p.val = false) : exec (.groupSlotGrant p a) s = .next (s.slotGrant p.val a.val) := by
  change Host.Outcome.next (ite _ _ _) = _
  rw [if_neg (by simpa [hreset] using hlive)]

end

/-- Settles O23: the limit retires and logs, the winner of a freed slot has waited for it, and the clock gate waits until
its instant (R126, R133, R399, R400). -/
theorem arrayEvents : Obligations.ArrayEvents := by
  refine ⟨fun s p a hpart hlimit hlive => ?_, fun s p a n k r hlive hreset hwin hfree hpart hfind => ?_,
    fun s p a hidle hfree hon hruns => ?_⟩
  · exact ⟨_, exec_arrayRetired hpart hlimit hlive, retireArray_spec s p.val a.val⟩
  · obtain ⟨q, x, i, l, hspec⟩ := slotGrant_spec hwin hfree hpart hfind
    exact ⟨_, q, x, i, l, exec_groupSlotGrant hlive hreset, hspec⟩
  · refine ⟨_, congrArg Host.Outcome.next (gateArray_of_idle hidle hfree hon hruns), ?_, ?_, ?_⟩
    · rw [arr_modArr_same]
    · rw [modArr_regs, reachUp_regs]
    · rw [modArr_uptime]
      exact le_uptime_reachUp s _

end Sys2Proof.Proofs
end

section
/-! SUPPORT. Writes to several keys of a sparse map, one after another. -/

namespace Sys2Proof.SMap

variable {α β : Type} [DecidableEq α] (d : α) (key : β → Nat) (val : β → α)

theorem get_foldl_set_of_notMem {k : Nat} {l : List β} (m : SMap α) (hk : k ∉ l.map key) :
    get d (l.foldl (fun m x => set d m (key x) (val x)) m) k = get d m k := by
  induction l generalizing m with
  | nil => rfl
  | cons y l ih =>
    obtain ⟨hne, hrest⟩ : k ≠ key y ∧ k ∉ l.map key := by
      simpa only [List.map_cons, List.mem_cons, not_or] using hk
    rw [List.foldl_cons, ih _ hrest, get_set_other _ _ _ _ hne]

theorem get_foldl_set_of_mem {x : β} {l : List β} (m : SMap α) (hkeys : (l.map key).Nodup) (hx : x ∈ l) :
    get d (l.foldl (fun m x => set d m (key x) (val x)) m) (key x) = val x := by
  induction l generalizing m with
  | nil => cases hx
  | cons y l ih =>
    obtain ⟨hfirst, hrest⟩ := List.nodup_cons.1 hkeys
    rw [List.foldl_cons]
    rcases List.mem_cons.1 hx with rfl | hx
    · rw [get_foldl_set_of_notMem d key val _ hfirst, get_set_same]
    · exact ih _ hrest hx

end Sys2Proof.SMap
end

section
/-! SUPPORT. A step of contributions that are multiples of the least significant weight and stay in the window (R140). -/

namespace Sys2Proof.Machine

theorem laUnit_ne_zero (a : Int) : laUnit a ≠ 0 := (pow2_pos _).ne'

theorem laOut_eq_false {l : Int} (hlo : laMin ≤ l) (hhi : l ≤ laMax) : laOut l = false := by
  simp [laOut, hlo, hhi]

theorem roundEven_intCast (n : Int) : roundEven n = n := by
  simp [roundEven]

theorem roundEven_of_den_eq_one {x : Rat} (h : x.den = 1) : roundEven x = x.num := by
  conv_lhs => rw [← (Rat.den_eq_one_iff x).1 h, roundEven_intCast]

/-- The entries when each contribution is added as its multiple of the least significant weight, none rounded. -/
def Slot.foldedEntries (g : Slot) (items : List (Nat × Rat)) : SMap Int :=
  items.foldl (fun m e => SMap.set 0 m e.1 (SMap.get 0 g.entries e.1 + (e.2 / laUnit g.eff).num)) g.entries

variable {g : Slot} {items : List (Nat × Rat)}

theorem get_foldedEntries_of_mem {e : Nat × Rat} (hkeys : (items.map Prod.fst).Nodup) (he : e ∈ items) :
    SMap.get 0 (g.foldedEntries items) e.1 = SMap.get 0 g.entries e.1 + (e.2 / laUnit g.eff).num :=
  SMap.get_foldl_set_of_mem 0 Prod.fst _ _ hkeys he

theorem get_foldedEntries_of_notMem {k : Nat} (hk : k ∉ items.map Prod.fst) :
    SMap.get 0 (g.foldedEntries items) k = SMap.get 0 g.entries k :=
  SMap.get_foldl_set_of_notMem 0 Prod.fst _ _ hk

/-- Where nothing is saturated, rounded or out of the window, a step is the plain sum: no re-anchor, no event. -/
theorem laStep_of_multiples (det : Bool) (hsat : ∀ e ∈ items, SMap.get false g.sat e.1 = false)
    (hden : ∀ e ∈ items, (e.2 / laUnit g.eff).den = 1)
    (hitem : ∀ e ∈ items, laOut (e.2 / laUnit g.eff).num = false)
    (hsum : ∀ e ∈ items, laOut (SMap.get 0 g.entries e.1 + (e.2 / laUnit g.eff).num) = false) :
    laStep det g items = ({ g with entries := g.foldedEntries items }, noSpan) := by
  have hlive : items.filter (fun e => !SMap.get false g.sat e.1) = items :=
    List.filter_eq_self.2 fun e he => by simp [hsat e he]
  have hround : items.map (fun e => (e.1, e.2, roundEven (e.2 / laUnit g.eff))) =
      items.map fun e => (e.1, e.2, (e.2 / laUnit g.eff).num) :=
    List.map_congr_left fun e he => by rw [roundEven_of_den_eq_one (hden e he)]
  have hinside : (items.map fun e => (e.1, e.2, (e.2 / laUnit g.eff).num)).filter
      (fun e => laOut e.2.2 || laOut (SMap.get 0 g.entries e.1 + e.2.2)) = [] :=
    List.filter_eq_nil_iff.2 <| List.forall_mem_map.2 fun e he => by simp [hitem e he, hsum e he]
  have hmultiple : items.filter (fun e => decide ((e.2 / laUnit g.eff).den ≠ 1)) = [] :=
    List.filter_eq_nil_iff.2 fun e he => by simp [hden e he]
  simp only [laStep, hlive, hround, hinside, hmultiple, List.isEmpty_nil, if_true, List.foldl_map, List.map_nil,
    List.foldl_nil, Option.isSome_none, Bool.or_false, Bool.false_eq_true, if_false, Slot.foldedEntries, noSpan]

end Sys2Proof.Machine
end

section
/-! PROOFS. Accumulation. -/

namespace Sys2Proof.Proofs

open Sys2Proof.Machine

/-- Settles O22: such a step is the plain sum, and a multiple of the least significant weight is the weight times its
own numerator, so each entry moves by the contribution itself (R138, R140). -/
theorem accumulationIsExact : Obligations.AccumulationIsExact := by
  intro det g items hkeys hsat hden hwindow q
  have hq : q = ({ g with entries := g.foldedEntries items }, noSpan) :=
    laStep_of_multiples det hsat hden
      (fun e he => let ⟨hlo, hhi, _, _⟩ := hwindow e he; laOut_eq_false hlo hhi)
      (fun e he => let ⟨_, _, hlo, hhi⟩ := hwindow e he; laOut_eq_false hlo hhi)
  rw [hq]
  refine ⟨rfl, rfl, rfl, rfl, fun e he => ?_, fun k hk => get_foldedEntries_of_notMem hk⟩
  calc ((SMap.get 0 (g.foldedEntries items) e.1 : Int) : Rat) * laUnit g.eff
      = (SMap.get 0 g.entries e.1 + e.2 / laUnit g.eff) * laUnit g.eff := by
        rw [get_foldedEntries_of_mem hkeys he, Int.cast_add, (Rat.den_eq_one_iff _).1 (hden e he)]
    _ = SMap.get 0 g.entries e.1 * laUnit g.eff + e.2 := by
        rw [add_mul, div_mul_cancel₀ _ (laUnit_ne_zero _)]

end Sys2Proof.Proofs
end

section
/-! SUPPORT. A descriptor whose unit copies a record and runs with the copy (R161, R206, R213, R223). -/

namespace Sys2Proof.Machine.State

variable {s : State} {c : Instr} {n : SeatNo} {h : Head}

/-- The command `c` starts the descriptor `h` of seat `n`, whose record is read as `f`: a poisoned record ends it with
status 3 and the Central Store as the read left it; otherwise it runs as `q` (R195, R214, R225). -/
def startsWithRecord (s : State) (c : Instr) (n : Nat) (h : Head) (f : Marked × State) (q : Nat × State) : Prop :=
  (Marked.poisoned f.1 = true → ∃ t, exec c s = .next t ∧ t.inWork n h .done 3 ∧ t.csMem = f.2.csMem) ∧
  (Marked.poisoned f.1 = false → ∃ t, exec c s = .next t ∧ t.inWork n h .done q.1 ∧ t.csMem = q.2.csMem)

/-- Entering its seat with the status that its poison or its run gave it, a descriptor is in work with that status and
moves no byte more. -/
theorem startsWithRecord_of_exec {n : Nat} {f : Marked × State} {q : Nat × State} {g : List Region}
    (hexec : exec c s = .next (if Marked.poisoned f.1 then f.2.startDone n h 3 g else q.2.startDone n h q.1 g)) :
    s.startsWithRecord c n h f q := by
  refine ⟨fun hpoison => ⟨_, hexec, ?_⟩, fun hclean => ⟨_, hexec, ?_⟩⟩
  · rw [if_pos hpoison]
    exact ⟨startDone_inWork _ _ _ _ _, startDone_csMem _ _ _ _ _⟩
  · rw [if_neg (by simp [hclean])]
    exact ⟨startDone_inWork _ _ _ _ _, startDone_csMem _ _ _ _ _⟩

/-- The record of a WIDE descriptor as its unit reads it (R206, R213, R223). -/
def wideRecord (s : State) (n : Nat) (h : Head) : Marked × State :=
  (s.start n h 0xFF).unitRead n (wAddr h.words 14) (wRecLen h.words)

/-- A WIDE descriptor that can start runs with the copy of its record. -/
theorem startsWithRecord_of_wideGo {mine : List Word → Bool} {checks : Checks} {guard : List Word → List Region}
    {run : State → List Word → List Byte → Nat × State}
    (hexec : exec c s = .next (s.dispatch n.val mine checks guard (fun _ => 0xFF) (wideGo n.val run)))
    (hmine : mine h.words = true) (hstart : s.canStart n.val checks (guard h.words) h) :
    s.startsWithRecord c n.val h (s.wideRecord n.val h)
      (run (s.wideRecord n.val h).2 h.words (Marked.bytes (s.wideRecord n.val h).1)) := by
  rw [dispatch_of_canStart hstart hmine] at hexec
  exact startsWithRecord_of_exec hexec

/-- The record of a QUANT as its unit reads it (R161). -/
def quantRecord (s : State) (n : Nat) (h : Head) : Marked × State :=
  (s.start n h 0xFF).unitRead n (wAddr h.words 11) 64

/-- The rows of a QUANT with operation `op`, converted as the record `f` says, its zero fields at the defaults of the
quantiser (R161, R190). -/
def quantRows (n op : Nat) (w : List Word) (f : Marked × State) : Nat × State :=
  let k := f.2.qConv n w (f.2.convDefaults n (Marked.bytes f.1))
  if op = 1 then f.2.qRestoreRows n w k (qRows w) 0 0 else f.2.qNarrowRows n w k (qRows w) 0 0

/-- A QUANT that can start converts its rows with the copy of its record. -/
theorem startsWithRecord_of_qDispatch {op : Nat} (hexec : exec c s = .next (s.qDispatch n.val op))
    (hop : isOp 3 23 22 op h.words = true)
    (hstart : s.canStart n.val (s.qChecks n.val) (s.guardOf n.val (s.qWrites n.val h.words)) h) :
    s.startsWithRecord c n.val h (s.quantRecord n.val h) (quantRows n.val op h.words (s.quantRecord n.val h)) := by
  obtain ⟨-, rfl⟩ : opcodeOf h.words = 3 ∧ qOp h.words = op := of_decide_eq_true hop
  rw [qDispatch, dispatch_of_canStart (gf := fun w => s.guardOf n.val (s.qWrites n.val w)) hstart hop] at hexec
  exact startsWithRecord_of_exec hexec

end Sys2Proof.Machine.State
end

section
/-! PROOFS. QUANT, the WIDE operations, UPDATE and WATCH. -/

namespace Sys2Proof.Proofs

open Sys2Proof.Machine Sys2Proof.Machine.State

/-- Settles O24: each of these commands is a dispatch whose unit copies its record, ends with status 3 where the copy is
poisoned, and otherwise enters the seat with the status of its rows (R161, R190, R195, R206 to R216, R223 to R226). -/
theorem quantAndWideRun : Obligations.QuantAndWideRun := by
  refine ⟨fun s n h c op hc hop hstart => ?_, fun s n h c mine run hc hmine hstart => ?_,
    fun s n h => ⟨fun m c hc hop hmode hstart => ?_, fun hop hstart => ?_⟩⟩
  · have hexec : exec c s = .next (s.qDispatch n.val op) := by
      obtain ⟨rfl, rfl⟩ | ⟨rfl, rfl⟩ | ⟨rfl, rfl⟩ := hc <;> rfl
    exact startsWithRecord_of_qDispatch hexec hop hstart
  · obtain ⟨kind, hexec, hkind⟩ : ∃ kind, exec c s = .next (s.widePlain n.val kind run) ∧ kind h.words = mine := by
      obtain ⟨rfl, rfl, rfl⟩ | ⟨rfl, rfl, rfl⟩ | ⟨rfl, rfl, rfl⟩ | ⟨rfl, rfl, rfl⟩ | ⟨rfl, rfl, rfl⟩ | ⟨rfl, rfl, rfl⟩ |
        ⟨rfl, rfl, rfl⟩ | ⟨rfl, rfl, rfl⟩ | ⟨rfl, rfl, rfl⟩ | ⟨rfl, rfl, rfl⟩ := hc <;> exact ⟨_, rfl, rfl⟩
    exact startsWithRecord_of_wideGo (guard := fun w => s.guardOf n.val (wPlainWrites w (s.wRecord w))) hexec
      (hkind.trans hmine) hstart
  · have hexec : exec c s = .next (s.watchDispatch n.val m) := by
      obtain ⟨rfl, rfl⟩ | ⟨rfl, rfl⟩ | ⟨rfl, rfl⟩ := hc <;> rfl
    exact startsWithRecord_of_wideGo (guard := fun w => s.guardOf n.val (watchWrites w (s.wRecord w)))
      (run := fun s _ r => s.watchRun n.val m r) hexec (by simp [hop, hmode]) hstart
  · exact startsWithRecord_of_wideGo (guard := fun w => s.guardOf n.val (uWrites w (s.wRecord w)))
      (run := fun s w r => s.updateRun n.val w r) (c := .wideUpdate n) rfl hop hstart

end Sys2Proof.Proofs
end

section
/-! SUPPORT. The areas that a plain WIDE operation writes: the rows of its output, the bytes of its results, and the blocks of
a D4 row (R99, R204, R205). -/

namespace Sys2Proof.Machine

/-- The `len` bytes at `a` lie in one of the areas. -/
def Inside (areas : List (Nat × Nat)) (a len : Nat) : Prop := ∃ r ∈ areas, r.1 ≤ a ∧ a + len ≤ r.1 + r.2

/-- A row lies in the span of the rows of its tensor. -/
theorem row_le_spanOf {r rows : Nat} (pitch len : Nat) (h : r < rows) : r * pitch + len ≤ spanOf pitch rows len := by
  have hrow : r * pitch ≤ (rows - 1) * pitch := Nat.mul_le_mul_right _ (by omega)
  rw [spanOf, if_neg (by omega)]
  omega

theorem inside_outputRow {r : Nat} {w : List Word} (rec : List Byte) (h : r < wRows w) :
    Inside (wPlainWrites w rec) (wAddr w 12 + r * wN w 13) (wLenOut w) := by
  have hspan := row_le_spanOf (wN w 13) (wLenOut w) h
  exact ⟨_, List.mem_cons_self, Nat.le_add_right _ _, by dsimp only; omega⟩

/-- The block scales of a row of a CAST to D4 (R204, Table 7-6). -/
theorem inside_blockScales {r : Nat} {w : List Word} (rec : List Byte) (hop : wOp w = 5) (hd4 : wFmtOut w = .d4)
    (h : r < wRows w) :
    Inside (wPlainWrites w rec) (recN rec 2 * 64 + r * recN rec 3) (2 * ceilDiv (wCols w) 32) := by
  have hspan := row_le_spanOf (recN rec 3) (2 * ceilDiv (wCols w) 32) h
  have hscales : wD4 w = true ∧ wFmtOut w = .d4 := ⟨by simp [wD4, hop, hd4], hd4⟩
  refine ⟨(recN rec 2 * 64, spanOf (recN rec 3) (wRows w) (2 * ceilDiv (wCols w) 32)), ?_, Nat.le_add_right _ _, ?_⟩
  · simp [wPlainWrites, hscales]
  · dsimp only; omega

/-! Lengths. -/

theorem Fmt.isFp_iff {f : Fmt} : f.isFp = true ↔ f = .bf16 ∨ f = .fp32 := by
  cases f <;> simp [Fmt.isFp]

/-- Results in FP32 or BF16 take the bytes of a row of as many elements (R99). -/
theorem length_flatMap_encFp {f : Fmt} (hf : f.isFp = true) (ys : List Wv) :
    (ys.flatMap fun y => encFp f y.v).length = rowBytes f.bits ys.length := by
  obtain rfl | rfl := Fmt.isFp_iff.1 hf <;>
    simp [encFp, length_leBytes, List.length_flatMap, rowBytes, ceilDiv, Fmt.bits] <;> omega

theorem length_flatMap_leBytes (k : Nat) (l : List Nat) : (l.flatMap (leBytes k)).length = k * l.length := by
  simp [List.length_flatMap, length_leBytes, Nat.mul_comm]

theorem length_decodeRow (f : Fmt) (anchor : Int) (cols : Nat) (bs : List Byte) :
    (decodeRow f anchor cols bs).length = cols := by
  simp [decodeRow]

theorem length_d4Decode (cols : Nat) (body scales : List Byte) : (d4Decode cols body scales).length = cols := by
  simp [d4Decode]

theorem length_dotRow (f : FpFmt) (flush : Bool) (a : List Fp) (bs : List (List Fp)) :
    (dotRow f flush a bs).length = bs.length := by
  simp [dotRow]

theorem length_rmsRow (f : FpFmt) (flush : Bool) (eps : Fp) {xs gain : List Fp} (h : gain.length = xs.length) :
    (rmsRow f flush eps xs gain).length = xs.length := by
  simp [rmsRow, h]

theorem length_softRow (f : FpFmt) (flush : Bool) (scale : Fp) (mask : Nat → Bool) (xs : List Fp) :
    (softRow f flush scale mask xs).length = xs.length := by
  unfold softRow
  extract_lets live zero
  split
  · simp
  · split <;> simp

theorem length_d4Block (stoch : Bool) (tensor step seed e0 : Nat) (xs : List Fp) :
    (d4Block stoch tensor step seed e0 xs).2.length = xs.length := by
  unfold d4Block
  split
  · simp
  · extract_lets vs
    split <;> simp [vs]

/-- Blocks of 32 elements, each with one code per element, hold one code per element of the row. -/
theorem length_flatMap_blocks {α β : Type} {f : Nat → List β} (xs : List α)
    (hf : ∀ b, (f b).length = ((xs.drop (32 * b)).take 32).length) (k : Nat) :
    ((List.range k).flatMap f).length = min (32 * k) xs.length := by
  induction k with
  | zero => simp
  | succ k ih =>
    rw [List.range_succ, List.flatMap_append, List.length_append, ih]
    simp [hf]
    omega

theorem length_d4Row_codes (stoch : Bool) (tensor step seed e0 : Nat) (xs : List Fp) :
    (d4Row stoch tensor step seed e0 xs).2.length = xs.length := by
  have hblocks := ceilDiv_mul_ge xs.length (b := 32) (by decide)
  simp only [d4Row, List.flatMap_map]
  rw [length_flatMap_blocks xs fun b => length_d4Block _ _ _ _ _ _]
  omega

theorem length_d4Row_scales (stoch : Bool) (tensor step seed e0 : Nat) (xs : List Fp) :
    (d4Row stoch tensor step seed e0 xs).1.length = ceilDiv xs.length 32 := by
  simp [d4Row]

/-- The packed codes of a D4 row take the bytes of a row of as many elements (R100). -/
theorem length_packCodes_d4Row (stoch : Bool) (tensor step seed e0 : Nat) (xs : List Fp) :
    (packCodes 4 (d4Row stoch tensor step seed e0 xs).2).length = rowBytes Fmt.d4.bits xs.length := by
  rw [length_packCodes, length_d4Row_codes]
  simp only [rowBytes, ceilDiv, Fmt.bits]
  omega

namespace State

theorem length_wRead (s : State) (n : Nat) (f : Fmt) (a cols : Nat) : (s.wRead n f a cols).2.1.length = cols := by
  rw [wRead_elements, List.length_map, length_decodeRow]

theorem length_wReadRows (n : Nat) (f : Fmt) (base pitch cols k : Nat) (s : State) (r : Nat) :
    (s.wReadRows n f base pitch cols k r).2.1.length = k := by
  induction k generalizing s r with
  | zero => rfl
  | succ k ih => exact congrArg Nat.succ (ih _ _)

end State

end Sys2Proof.Machine
end

section
/-! SUPPORT. What a plain WIDE operation leaves unchanged (R207 to R214). -/

namespace Sys2Proof.Machine

/-- The registers that the plain WIDE operations of seat `n` change: RING_CONS, the error log, capture and counter of CS_,
the seat's numeric log, and the counter of products of its partition. -/
def wideRegs (n : Nat) : List Nat :=
  [seatReg n 0x1C, csReg 0xC, csReg 0x10, csReg 0x14, wpNumLog n, wpReg (n / 16) 0x10, wpReg (n / 16) 0x14]

/-- From `s` to `t` the bytes outside the areas stay, the registers but those of a WIDE operation of seat `n`, the other
seats, and whatever is no part of the Central Store, of the records of seats and partitions, of error control or of what
left the device. -/
structure StoresInside (n : Nat) (areas : List (Nat × Nat)) (s t : State) : Prop where
  csByte : ∀ a, (∀ r ∈ areas, a < r.1 ∨ r.1 + r.2 ≤ a) → t.csByte a = s.csByte a
  regs   : s.regsOnly t (wideRegs n)
  seats  : ∀ m, m ≠ n → t.seat m = s.seat m
  rest   : t = { s with csMem := t.csMem, csPoison := t.csPoison, csUpset := t.csUpset, regs := t.regs,
                        badParity := t.badParity, seats := t.seats, parts := t.parts, ec := t.ec, out := t.out }

namespace StoresInside

variable {n : Nat} {areas : List (Nat × Nat)} {s t u : State}

theorem refl (s : State) : StoresInside n areas s s := ⟨fun _ _ => rfl, fun _ _ => rfl, fun _ _ => rfl, rfl⟩

theorem trans (h : StoresInside n areas s t) (k : StoresInside n areas t u) : StoresInside n areas s u where
  csByte a ha := (k.csByte a ha).trans (h.csByte a ha)
  regs o ho := (k.regs o ho).trans (h.regs o ho)
  seats m hm := (k.seats m hm).trans (h.seats m hm)
  rest := k.rest.trans (by rw [h.rest])

theorem ite {c : Prop} [Decidable c] {a b : State} (h : StoresInside n areas s a) (k : StoresInside n areas s b) :
    StoresInside n areas s (if c then a else b) := by
  split
  · exact h
  · exact k

theorem ite_snd {α : Type} {c : Prop} [Decidable c] {a b : α × State} (h : StoresInside n areas s a.2)
    (k : StoresInside n areas s b.2) : StoresInside n areas s (if c then a else b).2 := by
  split
  · exact h
  · exact k

/-! Registers (R21, R232). -/

theorem setReg {off : Nat} (h : StoresInside n areas s t) (v : Word) (hoff : off ∈ wideRegs n) :
    StoresInside n areas s (t.setReg off v) :=
  h.trans ⟨fun _ _ => rfl, fun _ ho => State.reg_setReg_other _ _ (ne_of_mem_of_not_mem hoff ho).symm,
    fun _ _ => rfl, rfl⟩

theorem raise {off : Nat} (h : StoresInside n areas s t) (mask : Nat) (hoff : off ∈ wideRegs n) :
    StoresInside n areas s (t.raise off mask) := h.setReg _ hoff

theorem countProducts (h : StoresInside n areas s t) (k : Nat) :
    StoresInside n areas s (t.count (wpReg (n / 16) 0x10) k) :=
  (h.setReg (off := wpReg (n / 16) 0x10) _ (by simp [wideRegs])).setReg (off := wpReg (n / 16) 0x14) _ (by simp [wideRegs])

theorem numLog (h : StoresInside n areas s t) (i : Nat) (b : Bool) : StoresInside n areas s (t.numLog n i b) :=
  ite (h.raise _ (by simp [wideRegs])) h

theorem logInputs (h : StoresInside n areas s t) (xs : List Fp) : StoresInside n areas s (t.logInputs n xs) :=
  (h.numLog 1 _).numLog 0 _

theorem logResults (h : StoresInside n areas s t) (ys : List Wv) : StoresInside n areas s (t.logResults n ys) :=
  (h.numLog 0 _).numLog 2 _

/-! The Central Store (R239, R240). -/

theorem marks (h : StoresInside n areas s t) (poison : SMap Bool) (upset : SMap EccSeen) :
    StoresInside n areas s { t with csPoison := poison, csUpset := upset } :=
  h.trans ⟨fun _ _ => rfl, fun _ _ => rfl, fun _ _ => rfl, rfl⟩

theorem csFetch (h : StoresInside n areas s t) (sec : Nat) : StoresInside n areas s (t.csFetch sec).2 := by
  have hlog {u : State} (hu : StoresInside n areas s u) (mask : Nat) : StoresInside n areas s (u.raise (csReg 0xC) mask) :=
    hu.raise mask (by simp [wideRegs])
  unfold State.csFetch
  refine ite_snd (hlog h 4) ?_
  split
  · exact h
  · exact (hlog (h.marks _ _) 1).setReg _ (by simp [wideRegs])
  · exact ite (hlog (h.marks _ _) 2) ((hlog (h.marks _ _) 2).setReg _ (by simp [wideRegs]))

theorem unitRead (h : StoresInside n areas s t) (m a len : Nat) : StoresInside n areas s (t.unitRead m a len).2 := by
  have hall (l : List Nat) : ∀ {t}, StoresInside n areas s t → StoresInside n areas s (t.csFetchAll l).2 := by
    induction l with
    | nil => exact id
    | cons sec l ih => exact fun ht => ih (ht.csFetch sec)
  exact hall _ h

theorem csWrite {a : Nat} {bs : List Byte} (h : StoresInside n areas s t) (hin : Inside areas a bs.length) :
    StoresInside n areas s (t.csWrite a bs) := by
  obtain ⟨r, hr, hlo, hhi⟩ := hin
  refine h.trans ⟨fun x hx => State.csByte_csWrite_outside t a bs ?_, fun _ _ => rfl, fun _ _ => rfl, rfl⟩
  have houtside := hx r hr
  omega

/-! Descriptors (R516). -/

theorem modSeat (h : StoresInside n areas s t) (f : SeatRec → SeatRec) : StoresInside n areas s (t.modSeat n f) :=
  h.trans ⟨fun _ _ => rfl, fun _ _ => rfl, fun _ hm => State.seat_modSeat_other _ _ hm, rfl⟩

theorem out (h : StoresInside n areas s t) (out : List Emission) : StoresInside n areas s { t with out := out } :=
  h.trans ⟨fun _ _ => rfl, fun _ _ => rfl, fun _ _ => rfl, rfl⟩

/-- With the trace off the start of a descriptor stores nothing, and changes RING_CONS and its seat. -/
theorem start (hoff : s.traceOff) (h : Head) (unit : Nat) :
    StoresInside n areas s (s.start n h unit) ∧ (s.start n h unit).csMem = s.csMem := by
  obtain ⟨out, hstart⟩ := State.start_of_off n h unit hoff
  rw [hstart]
  exact ⟨(((refl s).setReg _ (by simp [wideRegs])).modSeat _).out _, rfl⟩

theorem startDone (h : StoresInside n areas s t) (head : Head) (status : Nat) (guard : List Region) :
    StoresInside n areas s (t.startDone n head status guard) := by
  set r : Run := { newRun head .done status with guard := guard }
  obtain ⟨seats, parts, shakes, hadd⟩ := State.addRun_frame t n r
  refine h.trans (u := t.addRun n r) ⟨fun _ _ => ?_, fun o _ => State.addRun_reg t n r o,
    fun m hm => State.addRun_seat_other t r hm, ?_⟩ <;> rw [hadd]
  rfl

/-! Operands, results and rows of the wide path (R93, R95, R214). -/

theorem wConst (h : StoresInside n areas s t) (rec : List Byte) (i : Nat) : StoresInside n areas s (t.wConst n rec i).2 :=
  h.logInputs _

theorem wRead (h : StoresInside n areas s t) (f : Fmt) (a cols : Nat) : StoresInside n areas s (t.wRead n f a cols).2.2 :=
  (h.unitRead n a _).logInputs _

theorem wReadRows {f : Fmt} {base pitch cols k : Nat} (h : StoresInside n areas s t) (r : Nat) :
    StoresInside n areas s (t.wReadRows n f base pitch cols k r).2.2 := by
  induction k generalizing t r with
  | zero => exact h
  | succ k ih => exact ih (h.wRead f _ cols) _

/-- Where each row keeps to the areas, the rows do. -/
theorem rowsLoop {f : State → Nat → Bool × State} {rows r : Nat}
    (hf : ∀ u i, i < r + rows → StoresInside n areas s u → StoresInside n areas s (f u i).2)
    (h : StoresInside n areas s t) : StoresInside n areas s (wRowsLoop f rows r t).2 := by
  induction rows generalizing t r with
  | zero => exact h
  | succ k ih => exact ite_snd (hf _ _ (by omega) h) (ih (fun u i hi => hf u i (by omega)) (hf _ _ (by omega) h))

variable {w : List Word} {rec : List Byte} {r : Nat}

/-- A row of results in FP32 or BF16, one for each column, stays inside the output. -/
theorem wWrite {ys : List Wv} (h : StoresInside n (wPlainWrites w rec) s t) (hfp : (wFmtOut w).isFp = true)
    (hr : r < wRows w) (hlen : ys.length = wCols w) :
    StoresInside n (wPlainWrites w rec) s (t.wWrite n (wFmtOut w) (wAddr w 12 + r * wN w 13) ys) := by
  refine (h.csWrite ?_).logResults ys
  rw [length_flatMap_encFp hfp, hlen]
  exact inside_outputRow rec hr

/-- A row stored as D4 stays inside the output and its block scales (R204). -/
theorem d4Write {xs : List Fp} (h : StoresInside n (wPlainWrites w rec) s t) (hop : wOp w = 5) (hd4 : wFmtOut w = .d4)
    (hr : r < wRows w) (hlen : xs.length = wCols w) (stoch : Bool) (tensor step seed e0 : Nat) :
    let q := d4Row stoch tensor step seed e0 xs
    StoresInside n (wPlainWrites w rec) s
      ((t.csWrite (wAddr w 12 + r * wN w 13) (packCodes 4 q.2)).csWrite (recN rec 2 * 64 + r * recN rec 3)
        (q.1.flatMap (leBytes 2))) := by
  refine (h.csWrite ?_).csWrite ?_
  · rw [length_packCodes_d4Row, hlen, ← hd4]
    exact inside_outputRow rec hr
  · rw [length_flatMap_leBytes, length_d4Row_scales, hlen]
    exact inside_blockScales rec hop hd4 hr

/-! The operations (R208 to R212). -/

theorem wideDotRun (h : StoresInside n (wPlainWrites w rec) s t) (hfp : (wFmtOut w).isFp = true) :
    StoresInside n (wPlainWrites w rec) s (t.wideDotRun n w).2 := by
  have hb := h.wReadRows (f := wFmtB w) (base := wAddr w 10) (pitch := wN w 11) (cols := wK w) (k := wCols w) 0
  refine ite_snd hb (rowsLoop (fun u i hi hu => ?_) hb)
  have ha := hu.wRead (wFmtA w) (wAddr w 8 + i * wN w 9) (wK w)
  refine ite_snd ha ((ha.wWrite hfp (by omega) ?_).countProducts _)
  rw [length_dotRow, State.length_wReadRows]

theorem ewiseRow (h : StoresInside n (wPlainWrites w rec) s t) (hfp : (wFmtOut w).isFp = true) (hr : r < wRows w)
    (ka kb : Fp) : StoresInside n (wPlainWrites w rec) s (t.ewiseRow n w ka kb r).2 := by
  have ha := h.wRead (wFmtA w) (wAddr w 8 + r * wN w 9) (wCols w)
  unfold State.ewiseRow
  by_cases hused : wUsesB w = true
  · simp only [if_pos hused]
    have hb := ha.wRead (wFmtB w) (wAddr w 10 + (if wBcast w then 0 else r * wN w 11)) (wCols w)
    exact ite_snd hb (hb.wWrite hfp hr (by simp [State.length_wRead]))
  · simp only [if_neg hused]
    exact ite_snd ha (ha.wWrite hfp hr (by simp [State.length_wRead]))

theorem wideEwiseRun (h : StoresInside n (wPlainWrites w rec) s t) (hfp : (wFmtOut w).isFp = true) :
    StoresInside n (wPlainWrites w rec) s (t.wideEwiseRun n w rec).2 := by
  rw [State.wideEwiseRun_eq]
  refine rowsLoop (fun u i hi hu => hu.ewiseRow hfp (by omega) _ _) ?_
  unfold State.ewiseConsts
  split
  · exact (h.wConst rec 0).wConst rec 1
  · exact h

theorem wideRmsRun (h : StoresInside n (wPlainWrites w rec) s t) (hfp : (wFmtOut w).isFp = true) :
    StoresInside n (wPlainWrites w rec) s (t.wideRmsRun n w rec).2 := by
  have hgain := (h.wConst rec 0).wRead .fp32 (wAddr w 10) (wCols w)
  refine ite_snd hgain (rowsLoop (fun u i hi hu => ?_) hgain)
  have ha := hu.wRead (wFmtA w) (wAddr w 8 + i * wN w 9) (wCols w)
  refine ite_snd ha (ha.wWrite hfp (by omega) ?_)
  rw [length_rmsRow] <;> simp only [State.length_wRead]

theorem wideSoftRun (h : StoresInside n (wPlainWrites w rec) s t) (hfp : (wFmtOut w).isFp = true) :
    StoresInside n (wPlainWrites w rec) s (t.wideSoftRun n w rec).2 := by
  refine rowsLoop (fun u i hi hu => ?_) (h.wConst rec 0)
  have ha := hu.wRead (wFmtA w) (wAddr w 8 + i * wN w 9) (wCols w)
  refine ite_snd ha (ha.wWrite hfp (by omega) ?_)
  rw [length_softRow, State.length_wRead]

theorem wideCastRun (h : StoresInside n (wPlainWrites w rec) s t) (hop : wOp w = 5)
    (hfmt : (wFmtOut w).isFp = true ∨ wFmtOut w = .d4) :
    StoresInside n (wPlainWrites w rec) s (t.wideCastRun n w rec).2 := by
  refine rowsLoop (fun u i hi hu => ?_) h
  have hm := hu.unitRead n (wAddr w 8 + i * wN w 9) (rowBytes (wFmtA w).bits (wCols w))
  extract_lets m c raw v xs out q
  have hc : StoresInside n (wPlainWrites w rec) s c.2 := ite_snd (hm.unitRead n _ _) hm
  have hv : StoresInside n (wPlainWrites w rec) s v := ite (hc.logInputs _) (hc.numLog 1 _)
  have hraw : raw.length = wCols w := by
    dsimp only [raw]; split
    · exact length_d4Decode _ _ _
    · exact length_decodeRow _ _ _ _
  have hxs : xs.length = wCols w := by
    dsimp only [xs]; split
    · rw [List.length_map, hraw]
    · exact hraw
  refine ite_snd hc ?_
  by_cases hd4 : wFmtOut w = .d4
  · rw [if_pos hd4]
    exact (hv.d4Write hop hd4 (by omega) hxs _ _ _ _ _).numLog 2 _
  · rw [if_neg hd4]
    exact hv.wWrite (hfmt.resolve_right hd4) (by omega) (by rw [List.length_map, hxs])

/-- A plain WIDE operation whose rows keep to its output, run or ended by its record's poison (R213, R214). -/
theorem wideGo {h : Head} {run : State → List Word → List Byte → Nat × State} (hoff : s.traceOff)
    (hrun : ∀ t rec, StoresInside n (wPlainWrites h.words rec) t (run t h.words rec).2) (guard : List Region) :
    StoresInside n (wPlainWrites h.words (s.wRecord h.words)) s (wideGo n run h guard (s.start n h 0xFF)) := by
  obtain ⟨hstart, hmem⟩ := start (n := n) (areas := wPlainWrites h.words (s.wRecord h.words)) hoff h 0xFF
  have hread := hstart.unitRead n (wAddr h.words 14) (wRecLen h.words)
  have hrec : Marked.bytes ((s.start n h 0xFF).unitRead n (wAddr h.words 14) (wRecLen h.words)).1 =
      s.wRecord h.words := by
    rw [State.bytes_unitRead]
    simp only [State.wRecord, State.csBytes, State.csByte, hmem]
  unfold Machine.wideGo
  refine ite (hread.startDone h 3 guard) ?_
  rw [hrec]
  exact (hread.trans (hrun _ _)).startDone h _ guard

end StoresInside

/-! The ten commands (R206, Tables 7-4 and 7-5). -/

/-- The formats of a plain operation that passes its checks are those of Table 7-4. -/
theorem State.wFormatOk_of_wPlainCause {s : State} {n : Nat} {w : List Word} (h : s.wPlainCause n w = none) :
    wFormatOk w = true := by
  unfold State.wPlainCause at h
  extract_lets r far usesPitchB at h
  simpa using firstCause_eq_none h (!wFormatOk w, 0x101) (by simp)

theorem wOp_of_isOp {k : Nat} {w : List Word} (h : isOp 2 31 28 k w = true) : wOp w = k := (of_decide_eq_true h).2

/-- DOT, EWISE, RMSNORM and SOFTMAX store FP32 or BF16 (Table 7-4). -/
theorem isFp_wFmtOut {w : List Word} (h : wFormatOk w = true) (hop : wOp w < 4) : (wFmtOut w).isFp = true := by
  unfold wFormatOk at h
  split at h <;> simp_all

/-- A CAST stores FP32, BF16 or D4 (Table 7-4). -/
theorem isFp_or_d4_wFmtOut {w : List Word} (h : wFormatOk w = true) (hop : wOp w = 5) :
    (wFmtOut w).isFp = true ∨ wFmtOut w = .d4 := by
  unfold wFormatOk at h
  simp_all

/-- The command `c` of seat `n` dispatches a WIDE descriptor with the words `w`, which it takes as its own where `mine` says
so, and whose rows keep to the areas it names. -/
def RunsInside (n : Nat) (c : Instr) (w : List Word) (mine : Bool) : Prop :=
  ∃ kind run, (∀ s, exec c s = .next (s.widePlain n kind run)) ∧ kind w = mine ∧
    (wFormatOk w = true → kind w = true → ∀ t rec, StoresInside n (wPlainWrites w rec) t (run t w rec).2)

theorem runsInside_wideDot (n : SeatNo) (w : List Word) :
    RunsInside n.val (.wideDot n) w (isOp 2 31 28 0 w) :=
  ⟨_, _, fun _ => rfl, rfl, fun hfmt hop t _ =>
    (StoresInside.refl t).wideDotRun (isFp_wFmtOut hfmt (by rw [wOp_of_isOp hop]; decide))⟩

theorem runsInside_ewise {n : SeatNo} {c : Instr} {f : Nat} (w : List Word)
    (hexec : ∀ s, exec c s = .next (s.widePlain n.val (isEwise f) fun s w r => s.wideEwiseRun n.val w r)) :
    RunsInside n.val c w (isEwise f w) :=
  ⟨_, _, hexec, rfl, fun hfmt hmine t _ =>
    have hop := wOp_of_isOp (Bool.and_eq_true_iff.1 hmine).1
    (StoresInside.refl t).wideEwiseRun (isFp_wFmtOut hfmt (by rw [hop]; decide))⟩

theorem runsInside_wideRmsnorm (n : SeatNo) (w : List Word) :
    RunsInside n.val (.wideRmsnorm n) w (isOp 2 31 28 2 w) :=
  ⟨_, _, fun _ => rfl, rfl, fun hfmt hop t _ =>
    (StoresInside.refl t).wideRmsRun (isFp_wFmtOut hfmt (by rw [wOp_of_isOp hop]; decide))⟩

theorem runsInside_wideSoftmax (n : SeatNo) (w : List Word) :
    RunsInside n.val (.wideSoftmax n) w (isOp 2 31 28 3 w) :=
  ⟨_, _, fun _ => rfl, rfl, fun hfmt hop t _ =>
    (StoresInside.refl t).wideSoftRun (isFp_wFmtOut hfmt (by rw [wOp_of_isOp hop]; decide))⟩

theorem runsInside_wideCast (n : SeatNo) (w : List Word) :
    RunsInside n.val (.wideCast n) w (isOp 2 31 28 5 w) :=
  ⟨_, _, fun _ => rfl, rfl, fun hfmt hop t _ =>
    (StoresInside.refl t).wideCastRun (wOp_of_isOp hop) (isFp_or_d4_wFmtOut hfmt (wOp_of_isOp hop))⟩

end Sys2Proof.Machine
end

section
/-! PROOFS. The frame of the plain WIDE operations. -/

namespace Sys2Proof.Proofs

open Sys2Proof.Machine Sys2Proof.Machine.State

/-- Settles O25: each of the ten commands is a dispatch that starts the descriptor, copies its record and stores row after
row inside its output and block scales; nothing on that way changes more than `StoresInside` names (R207 to R214). -/
theorem wideFrames : Obligations.WideFrames := by
  intro s n h c mine hc hmine hoff hstart
  obtain ⟨kind, run, hexec, hkind, hrun⟩ : RunsInside n.val c h.words mine := by
    obtain ⟨rfl, rfl⟩ | ⟨rfl, rfl⟩ | ⟨rfl, rfl⟩ | ⟨rfl, rfl⟩ | ⟨rfl, rfl⟩ | ⟨rfl, rfl⟩ | ⟨rfl, rfl⟩ | ⟨rfl, rfl⟩ |
      ⟨rfl, rfl⟩ | ⟨rfl, rfl⟩ := hc
    · exact runsInside_wideDot n _
    iterate 6 exact runsInside_ewise _ fun _ => rfl
    · exact runsInside_wideRmsnorm n _
    · exact runsInside_wideSoftmax n _
    · exact runsInside_wideCast n _
  have htaken : kind h.words = true := hkind.trans hmine
  have ⟨_, _, hcause, _, _⟩ := hstart
  have hkept := StoresInside.wideGo hoff (hrun (wFormatOk_of_wPlainCause hcause) htaken)
    (s.guardOf n.val (wPlainWrites h.words (s.wRecord h.words)))
  refine ⟨_, ?_, hkept.csByte, hkept.regs, hkept.seats, hkept.rest⟩
  rw [hexec, widePlain, dispatch_of_canStart (gf := fun w => s.guardOf n.val (wPlainWrites w (s.wRecord w))) hstart htaken]

end Sys2Proof.Proofs
end

section
/-! SUPPORT. OPEN cells at their target: what the router keeps on their way, and what a PUT and a REMOTE_ADD may change
(R275, R279, R368). -/

namespace Sys2Proof.Machine.State

variable {s : State} {loc : CellAt} {body : List Byte} {r : RxTurn}

/-- A cell of a turn that is taken is accepted; only the record of its port changes. -/
theorem rxAccept_of_turnTakes {tkind : BitVec 4} (htakes : s.turnTakes loc tkind r) (kind : Nat) (body : List Byte) :
    ∃ f, s.rxAccept loc kind tkind body = some (r, s.modPort loc.port.val f) := by
  obtain ⟨hcore, hup, hturn, hmissed, hkind⟩ := htakes
  simp [rxAccept, hcore, hup, hturn, hmissed, hkind]

theorem sendCtrl_frame (s : State) (dest : Nat) (body : List Byte) :
    ∃ ports, s.sendCtrl dest body = { s with ports := ports } := by
  unfold sendCtrl
  split
  · split
    · exact ⟨_, rfl⟩
    · exact ⟨s.ports, rfl⟩
  · exact ⟨s.ports, rfl⟩

theorem modPort_frame (s : State) (p : Nat) (f : PortRec → PortRec) :
    ∃ ports, s.modPort p f = { s with ports := ports } := ⟨_, rfl⟩

theorem takeOpen_here {okind : Nat} (s : State) (p : Nat) (hkind : numAt body 0 1 = okind) (hknown : okind ≤ 1)
    (hhere : numAt body 8 2 = s.hallIndex) :
    ∃ ports, s.takeOpen p okind body =
      if okind = 0 then applyPut { s with ports := ports } body else applyAdd { s with ports := ports } body := by
  obtain ⟨ports, hfreed⟩ : ∃ ports, s.freeCell (some p) = { s with ports := ports } := ⟨_, rfl⟩
  exact ⟨ports, by rw [takeOpen, if_neg (by omega), if_neg (not_not.2 hhere), hfreed]⟩

/-- An OPEN cell of OKIND `okind` that its turn takes, for this device, is applied; on the way only ports change. -/
theorem openReceived_here {okind : Nat} (htakes : s.turnTakes loc 2#4 r) (hkind : numAt body 0 1 = okind)
    (hknown : okind ≤ 1) (hhere : numAt body 8 2 = s.hallIndex) :
    ∃ ports, s.openReceived loc okind body =
      if okind = 0 then applyPut { s with ports := ports } body else applyAdd { s with ports := ports } body := by
  obtain ⟨f, hf⟩ := rxAccept_of_turnTakes htakes 3 body
  obtain ⟨ports, hkept⟩ := modPort_frame s loc.port.val f
  obtain ⟨ports', hnoted⟩ := modPort_frame { s with ports := ports } loc.port.val fun q =>
    { q with ivJobs := if q.linkKey.isSome then (numAt body 2 2 :: q.ivJobs).dedup else q.ivJobs }
  rw [openReceived, hf]
  simp only [hkept, hnoted]
  exact takeOpen_here { s with ports := ports' } loc.port.val hkind hknown hhere

theorem applyPut_accepted (hfirst : s.putRefused body = false) (hok : s.putCause body (min 608 (numAt body 14 2)) = none) :
    ∃ ports, s.applyPut body =
      { s.csWrite (numAt body 16 8) (slice body 32 (min 608 (numAt body 14 2))) with ports := ports } := by
  simp only [applyPut, hfirst, hok]
  split
  · contradiction
  · split
    · exact sendCtrl_frame _ _ _
    · exact ⟨_, rfl⟩

theorem applyPut_refused {cause : Nat} (hfirst : s.putRefused body = false)
    (hbad : s.putCause body (min 608 (numAt body 14 2)) = some cause) :
    ∃ ports more, s.applyPut body = noteRefusal { s with ports := ports } body more := by
  obtain ⟨ports, hsent⟩ := sendCtrl_frame s (numAt body 10 2) (ctrlCell 2 (numAt body 2 2) (numAt body 4 4)
    (numAt body 10 2) s.hallIndex (leBytes 2 cause ++ zeros 6 ++ leBytes 8 s.now))
  refine ⟨ports, !decide (numAt body 28 1 / 2 % 2 = 1), ?_⟩
  simp only [applyPut, hfirst, hbad, refuseOpen, hsent]
  rfl

theorem applyAdd_accepted (hok : s.addCause body = none) :
    ∃ ports seats free, s.applyAdd body =
      { s.setReg (tumblerReg (numAt body 16 8)) (s.tumbler (numAt body 16 8) + BitVec.ofNat 32 (numAt body 24 4)) with
        ports := ports, seats := seats, free := free } := by
  simp only [applyAdd, hok, ackOpen]
  generalize hu : (if decide (numAt body 28 1 % 2 = 1) = true then s.draw else s) = u
  have hfree : ∃ free, u = { s with free := free } := by
    subst hu
    split
    · exact ⟨_, rfl⟩
    · exact ⟨s.free, rfl⟩
  obtain ⟨free, rfl⟩ := hfree
  obtain ⟨seats, hset⟩ := setTumbler_frame { s with free := free } (numAt body 16 8)
    (s.tumbler (numAt body 16 8) + BitVec.ofNat 32 (numAt body 24 4))
  obtain ⟨ports, hsent⟩ := sendCtrl_frame (setTumbler { s with free := free } (numAt body 16 8)
    (s.tumbler (numAt body 16 8) + BitVec.ofNat 32 (numAt body 24 4))) (numAt body 10 2)
    (ctrlCell 1 (numAt body 2 2) (numAt body 4 4) (numAt body 10 2) (setTumbler { s with free := free } (numAt body 16 8)
    (s.tumbler (numAt body 16 8) + BitVec.ofNat 32 (numAt body 24 4))).hallIndex [])
  exact ⟨ports, seats, free, hsent.trans (by rw [hset]; rfl)⟩

/-- A refused REMOTE_ADD is noted, but for a RELEASE one, which is the release point of what follows (R279). -/
theorem applyAdd_refused {cause : Nat} (hbad : s.addCause body = some cause) :
    ∃ ports free, s.applyAdd body =
      if numAt body 28 1 % 2 = 1 then { s with ports := ports, free := free }
      else noteRefusal { s with ports := ports } body false := by
  simp only [applyAdd, hbad, refuseOpen, decide_eq_true_eq]
  split
  · obtain ⟨ports, hsent⟩ := sendCtrl_frame s.draw (numAt body 10 2) (ctrlCell 2 (numAt body 2 2) (numAt body 4 4)
      (numAt body 10 2) s.draw.hallIndex (leBytes 2 cause ++ zeros 6 ++ leBytes 8 s.draw.now))
    exact ⟨ports, _, hsent⟩
  · obtain ⟨ports, hsent⟩ := sendCtrl_frame s (numAt body 10 2) (ctrlCell 2 (numAt body 2 2) (numAt body 4 4)
      (numAt body 10 2) s.hallIndex (leBytes 2 cause ++ zeros 6 ++ leBytes 8 s.now))
    exact ⟨ports, 0, congrArg (noteRefusal · body false) hsent⟩

end Sys2Proof.Machine.State
end

section
/-! PROOFS. OPEN cells at their target. -/

namespace Sys2Proof.Proofs

open Sys2Proof.Machine Sys2Proof.Machine.State

/-- Settles O38: the cell is applied where it lands, and what is sent back changes ports alone (R275, R279, R368). -/
theorem openCellsArrive : Obligations.OpenCellsArrive := by
  intro s loc body r htakes hhere
  refine ⟨fun hkind hfirst => ?_, fun hkind => ?_⟩
  · obtain ⟨ports, hput⟩ := openReceived_here htakes hkind (by decide) hhere
    refine ⟨fun hok => ?_, fun cause hbad => ?_⟩
    · obtain ⟨ports', hdone⟩ := applyPut_accepted (s := { s with ports := ports }) hfirst hok
      refine ⟨_, congrArg Host.Outcome.next (hput.trans hdone), ?_, ?_, rfl, rfl⟩
      · exact csWrite_holds s _ _
      · exact fun x hx => csByte_csWrite_outside s _ _ hx
    · obtain ⟨ports', more, hdone⟩ := applyPut_refused (s := { s with ports := ports }) hfirst hbad
      exact ⟨_, _, congrArg Host.Outcome.next (hput.trans hdone), rfl, rfl, rfl, rfl, rfl, rfl⟩
  · obtain ⟨ports, hadd⟩ := openReceived_here htakes hkind (by decide) hhere
    refine ⟨fun hok _ => ?_, fun cause hbad => ?_⟩
    · obtain ⟨ports', seats, free, hdone⟩ := applyAdd_accepted (s := { s with ports := ports }) hok
      refine ⟨_, congrArg Host.Outcome.next (hadd.trans hdone), reg_setReg_same s _ _, fun o ho => ?_, rfl⟩
      exact reg_setReg_other s _ (List.mem_singleton.not.1 ho)
    · obtain ⟨ports', free, hdone⟩ := applyAdd_refused (s := { s with ports := ports }) hbad
      refine ⟨_, congrArg Host.Outcome.next (hadd.trans hdone), ?_⟩
      by_cases hrel : numAt body 28 1 % 2 = 1
      · rw [if_pos hrel]
        exact ⟨rfl, rfl, fun _ => rfl, fun h => by omega⟩
      · rw [if_neg hrel]
        exact ⟨rfl, rfl, fun h => absurd h hrel, fun _ => ⟨_, rfl, rfl, rfl⟩⟩

end Sys2Proof.Proofs
end

section
/-! SUPPORT. A state whose seats are listed out of order: storing the record of a seat moves it in the list, and with it
the seat that is found to own a tumbler. -/

namespace Sys2Proof.Machine

/-- A TUMBLER ADD of 1 to tumbler 0, without RESULT and without RELEASE. -/
def strayAdd : Head :=
  { index := 0, words := [7#32, 0#32, 0#32, 0#32, 0x10000000#32, 0#32, 1#32] ++ List.replicate 9 0#32 }

/-- Seats 20 and 3 are ACTIVE and hold tumbler 0 alone, and 20 is listed before 3; the partition of seat 3 is under
reset, that of seat 20 is awake. -/
def strayState : State :=
  { State.reset with
    pw := { Power.fresh with state := .on }
    seats := [(20, { SeatRec.fresh with state := .active, head := some strayAdd }),
              (3, { SeatRec.fresh with state := .active })]
    parts := [(0, { PartRec.fresh with resetting := some { cause := .hostCmd, start := 0, jobs := [] } }),
              (1, { PartRec.fresh with gated := false })]
    regs := [(seatReg 3 0x38, 0x10000#32), (seatReg 20 0x38, 0x10000#32)] }

/-- Before the ADD the owner found is seat 20, whose partition is not under reset. -/
theorem tumbOwner_strayState : strayState.tumbOwner 0 = some 20 ∧ strayState.resetting 1 = false := by decide +kernel

theorem canStart_strayState :
    strayState.canStart 20 (strayState.tumblerChecks 20)
      (if tResult strayAdd.words = 0 then [] else strayState.guardRegion 20 (tResult strayAdd.words) 4) strayAdd := by
  unfold State.canStart
  decide +kernel

/-- The ADD ends with status 5: its start has stored seat 20 behind seat 3, whose partition is under reset. -/
theorem status_strayAdd : ((strayState.tumblerStart 20 1).seat 20).running.map Run.status = [5] := by decide +kernel

end Sys2Proof.Machine
end

section
/-! PROOFS. The TUMBLER commands. -/

namespace Sys2Proof.Proofs

open Sys2Proof.Machine Sys2Proof.Machine.State

/-- Refutes O33, by a state that no run from reset reaches: its seats are not listed in rising order. The ADD of seat 20
to its own tumbler starts, and no owner's partition is under reset (R280); but the start stores the record of seat 20
again, behind that of seat 3, so that the first owner found is now seat 3, and the ADD ends with status 5. -/
theorem not_tumblersAct : ¬ Obligations.TumblersAct := by
  intro hall
  have hadd := (hall strayState 20 strayAdd (.tumblerAdd 20) 1 (.inr (.inl ⟨rfl, rfl⟩)) (by decide +kernel)
    canStart_strayState).1
  have howners : ∀ m, strayState.tumbOwner (tNum strayAdd.words) = some m → strayState.resetting (m / 16) = false := by
    obtain ⟨howner, hawake⟩ := tumbOwner_strayState
    intro m hm
    obtain rfl : 20 = m := Option.some.inj (howner.symm.trans hm)
    exact hawake
  obtain ⟨t, hexec, hdone, -⟩ := hadd (by decide) (.inl (by decide +kernel)) howners
  obtain rfl : strayState.tumblerStart 20 1 = t := Host.Outcome.next.inj hexec
  obtain ⟨run, hrun, -, -, -, hok⟩ := hdone
  have hmem : run.status ∈ ((strayState.tumblerStart 20 1).seat 20).running.map Run.status := List.mem_map_of_mem hrun
  rw [status_strayAdd, hok] at hmem
  exact absurd hmem (by decide)

end Sys2Proof.Proofs
end

section
/-! SUPPORT. The words of hasps: their fields, and the operations of Table 9-10 on a word (R282, R283). -/

namespace Sys2Proof.Machine

theorem haspHeld_eq (w : BitVec 64) : haspHeld w = decide (w.toNat / 2 ^ 25 % 2 = 1) := by
  rw [haspHeld, BitVec.getLsbD, Nat.testBit_eq_decide_div_mod_eq]

theorem haspBroken_eq (w : BitVec 64) : haspBroken w = decide (w.toNat / 2 ^ 26 % 2 = 1) := by
  rw [haspBroken, BitVec.getLsbD, Nat.testBit_eq_decide_div_mod_eq]

section

variable {version cgen owner epoch : Nat} {broken held : Bool}

/-- The fields of a hasp word do not overlap. -/
theorem toNat_haspWord (hcgen : cgen < 2 ^ 8) (howner : owner < 2 ^ 9) (hepoch : epoch < 2 ^ 16) :
    (haspWord version cgen broken held owner epoch).toNat = version % 2 ^ 24 * 2 ^ 40 + cgen * 2 ^ 32 +
      b2n broken * 2 ^ 26 + b2n held * 2 ^ 25 + owner * 2 ^ 16 + epoch := by
  have hbroken : b2n broken ≤ 1 := by cases broken <;> decide
  have hheld : b2n held ≤ 1 := by cases held <;> decide
  rw [haspWord, BitVec.toNat_ofNat]
  omega

section

variable (hcgen : cgen < 2 ^ 8) (howner : owner < 2 ^ 9) (hepoch : epoch < 2 ^ 16)

include hcgen howner hepoch

theorem haspHeld_haspWord : haspHeld (haspWord version cgen broken held owner epoch) = held := by
  rw [haspHeld_eq, toNat_haspWord hcgen howner hepoch]
  cases broken <;> cases held <;> simp only [b2n, decide_eq_true_eq, decide_eq_false_iff_not, if_true, Bool.false_eq_true, if_false] <;> omega

theorem haspBroken_haspWord : haspBroken (haspWord version cgen broken held owner epoch) = broken := by
  rw [haspBroken_eq, toNat_haspWord hcgen howner hepoch]
  cases broken <;> cases held <;> simp only [b2n, decide_eq_true_eq, decide_eq_false_iff_not, if_true, Bool.false_eq_true, if_false] <;> omega

theorem haspFields_haspWord :
    haspField (haspWord version cgen broken held owner epoch) 63 40 = version % 2 ^ 24 ∧
      haspField (haspWord version cgen broken held owner epoch) 39 32 = cgen ∧
      haspOwner (haspWord version cgen broken held owner epoch) = owner ∧
      haspField (haspWord version cgen broken held owner epoch) 15 0 = epoch := by
  have hbroken : b2n broken ≤ 1 := by cases broken <;> decide
  have hheld : b2n held ≤ 1 := by cases held <;> decide
  simp only [haspOwner, haspField, toNat_haspWord hcgen howner hepoch]
  omega

end

end

theorem haspField_lt (w : BitVec 64) (hi lo : Nat) : haspField w hi lo < 2 ^ (hi + 1 - lo) := Nat.mod_lt _ (by positivity)

/-- A release: VERSION counts on, HELD is clear, BROKEN is as given. -/
theorem haspReleased_spec (w : BitVec 64) (broken : Bool) :
    haspHeld (haspReleased w broken) = false ∧ haspBroken (haspReleased w broken) = broken ∧
      haspField (haspReleased w broken) 63 40 = (haspField w 63 40 + 1) % 2 ^ 24 :=
  have hcgen := haspField_lt w 39 32
  have howner := haspField_lt w 24 16
  have hepoch := haspField_lt w 15 0
  ⟨haspHeld_haspWord hcgen howner hepoch, haspBroken_haspWord hcgen howner hepoch,
    (haspFields_haspWord hcgen howner hepoch).1⟩

namespace State

variable {s t : State} {n : Nat} {w : BitVec 64}

theorem epoch_lt (s : State) (p : Nat) : s.epoch p < 2 ^ 16 := Nat.mod_lt _ (by decide)

/-- A word that is taken is held by the seat that takes it, and keeps VERSION. -/
theorem haspTaken_spec (hn : n < 512) (hcgen : s.cgen n < 256) (w : BitVec 64) :
    s.haspMine n (s.haspTaken n w) = true ∧ haspField (s.haspTaken n w) 63 40 = haspField w 63 40 := by
  have hepoch := s.epoch_lt (n / 16)
  obtain ⟨hversion, hgen, howner, hage⟩ := haspFields_haspWord (version := haspField w 63 40) (broken := haspBroken w)
    (held := true) hcgen hn hepoch
  refine ⟨?_, hversion.trans (Nat.mod_eq_of_lt (haspField_lt w 63 40))⟩
  rw [haspMine, haspTaken, haspHeld_haspWord hcgen hn hepoch, hgen, howner, hage]
  simp

/-- ACQUIRE and TRY on a word that is not held. -/
theorem haspAct_free {hop : Nat} (hhop : hop = 0 ∨ hop = 1) (hfree : haspHeld w = false) :
    s.haspAct n hop w = (s.haspTaken n w, some (if haspBroken w then 2 else 0)) := by
  obtain rfl | rfl := hhop <;> simp [haspAct, hfree]

/-- What the operations on a hasp word read is the same in both states. -/
structure SameHolders (s t : State) : Prop where
  epoch     : ∀ p, t.epoch p = s.epoch p
  cgen      : ∀ m, t.cgen m = s.cgen m
  resetting : ∀ p, t.resetting p = s.resetting p
  seatIs    : ∀ m st, t.seatIs m st = s.seatIs m st

theorem SameHolders.trans {u : State} (h : SameHolders s t) (k : SameHolders t u) : SameHolders s u :=
  ⟨fun p => (k.epoch p).trans (h.epoch p), fun m => (k.cgen m).trans (h.cgen m),
    fun p => (k.resetting p).trans (h.resetting p), fun m st => (k.seatIs m st).trans (h.seatIs m st)⟩

theorem SameHolders.putLine (s : State) (l : CacheLine) : SameHolders s (s.putLine l) :=
  ⟨fun _ => rfl, fun _ => rfl, fun _ => rfl, fun _ _ => rfl⟩

/-- A counter of the shared cache holds no EPOCH and no CGEN. -/
theorem SameHolders.count {o : Nat} (ho : o < 0x100) (s : State) (k : Nat) : SameHolders s (s.count (csReg o) k) := by
  have hreg (x : Nat) (hx : 0x2000000 ≤ x) : (s.count (csReg o) k).reg x = s.reg x := by
    unfold State.count
    extract_lets v
    rw [setRegN, reg_setReg_other _ _ (by unfold csReg; omega), setRegN, reg_setReg_other _ _ (by unfold csReg; omega)]
  refine ⟨fun p => ?_, fun m => ?_, fun p => rfl, fun m st => rfl⟩
  · simp only [State.epoch, hreg _ (Nat.le_add_right _ _ |>.trans (Nat.le_add_right _ _) : 0x2000000 ≤ ctReg p 8)]
  · simp only [State.cgen, regN, hreg _ (Nat.le_add_right _ _ |>.trans (Nat.le_add_right _ _) : 0x2000000 ≤ seatReg m 0x6C)]

theorem Entered.sameHolders {r : Run} (he : Entered s t n r) : SameHolders s t := by
  refine ⟨fun p => ?_, fun m => ?_, he.reset, he.seatIs⟩
  · have hne : ctReg p 8 ≠ seatReg n 0x1C := by simp only [seatReg, ctReg, partReg]; omega
    simp only [State.epoch, he.reg _ hne]
  · have hne : seatReg m 0x6C ≠ seatReg n 0x1C := by simp only [seatReg, ctReg, partReg]; omega
    simp only [State.cgen, regN, he.reg _ hne]

theorem SameHolders.haspSeen (h : SameHolders s t) (w : BitVec 64) : t.haspSeen w = s.haspSeen w := by
  simp only [State.haspSeen, haspStale, h.epoch, h.cgen, h.resetting, h.seatIs]
  rfl

theorem SameHolders.haspAct (h : SameHolders s t) (n hop : Nat) (w : BitVec 64) :
    t.haspAct n hop w = s.haspAct n hop w := by
  simp only [State.haspAct, haspTaken, haspMine, h.epoch, h.cgen]
  rfl

end State

end Sys2Proof.Machine
end

section
/-! SUPPORT. A HASP on a line that the cache holds, and the retry of one acquire that waits (R284). -/

namespace Sys2Proof.Machine

/-- The hasp word of an operation in its line. -/
def LineOp.word (o : LineOp) (l : CacheLine) : BitVec 64 := BitVec.ofNat 64 (leNat (l.get o.addr 8))

/-- The line that holds `v` in the word of an operation. -/
def LineOp.storing (o : LineOp) (v : BitVec 64) (l : CacheLine) : CacheLine :=
  if v = o.word l then l else l.set o.addr (leBytes 8 v.toNat)

theorem LineOp.get_storing {o : LineOp} {l : CacheLine} (hbytes : l.bytes.length = 128) (halign : o.addr % 8 = 0)
    (v : BitVec 64) : leNat ((o.storing v l).get o.addr 8) = v.toNat := by
  unfold LineOp.storing
  split
  · rename_i hsame
    rw [hsame, LineOp.word, BitVec.toNat_ofNat, Nat.mod_eq_of_lt (l.leNat_get_lt _ _)]
  · have hget := CacheLine.get_set (l := l) (a := o.addr) (bs := leBytes 8 v.toNat)
      (by rw [length_leBytes, hbytes]; omega)
    rw [length_leBytes] at hget
    rw [hget, leNat_leBytes, Nat.mod_eq_of_lt v.isLt]

namespace State

variable {s t u : State} {n : Nat} {idx : Word} {o : LineOp} {l : CacheLine} {h : Head} {r : Run}

/-- The state in which a HASP's word has been written and the acquires it lets go on are due. -/
def haspStored (s : State) (n : Nat) (o : LineOp) (l : CacheLine) : State :=
  let w := o.word l
  let a := s.haspAct n o.op (s.haspSeen w)
  let s := if a.1 = w then s.putLine l else (s.putLine l).putLine (l.set o.addr (leBytes 8 a.1.toNat))
  if haspHeld w && !haspHeld a.1 then s.haspDue true fun v => decide (v.part = o.part ∧ v.addr / 8 = o.addr / 8) else s

/-- How a HASP's work goes on once its word is written. -/
def haspEnd (s : State) (n : Nat) (idx : Word) (o : LineOp) (v : Nat) : Option Nat → State
  | none => s.modRun n idx fun r => { r with work := .haspWait o false }
  | some st => ((s.lineResult o v).endRun n idx st).raise (seatReg n 0x68) (haspLog st)

theorem lineDo_hasp (s : State) (idx : Word) (hop : o.isHasp = true) (hclean : l.poisonAt o.addr = false)
    (hform : haspField (o.word l) 31 27 = 0) :
    s.lineDo n idx o l =
      (s.haspStored n o l).haspEnd n idx o (o.word l).toNat (s.haspAct n o.op (s.haspSeen (o.word l))).2 := by
  have hsame := SameHolders.putLine s l
  rw [lineDo, hclean, hop]
  simp only [Bool.false_eq_true, if_false, if_true, hsame.haspSeen, hsame.haspAct]
  exact (if_neg (not_not.2 hform)).trans rfl

theorem haspStored_lineOf (s : State) (n : Nat) (hpart : l.part = o.part) (hline : l.line = o.addr / 128) :
    (s.haspStored n o l).lineOf o.part (o.addr / 128) =
      some (o.storing (s.haspAct n o.op (s.haspSeen (o.word l))).1 l) := by
  unfold haspStored LineOp.storing
  extract_lets w a u
  have hu : u.lineOf o.part (o.addr / 128) = some (if a.1 = w then l else l.set o.addr (leBytes 8 a.1.toNat)) := by
    unfold u
    split
    · exact lineOf_putLine_same _ hpart hline
    · exact lineOf_putLine_same _ hpart hline
  split
  · exact hu
  · exact hu

/-- A run of the seat that does not wait for a hasp stays as it is. -/
theorem mem_haspStored (hr : r ∈ (s.seat n).running) (hwork : ∀ v due, r.work ≠ .haspWait v due) (m : Nat) :
    r ∈ ((s.haspStored m o l).seat n).running := by
  unfold haspStored
  extract_lets w a u
  have hu : u.seat n = s.seat n := by
    unfold u
    split <;> rfl
  have hdue (f : LineOp → Bool) : r ∈ dueRuns true f (u.seat n).running := by
    refine List.mem_map.2 ⟨r, hu ▸ hr, ?_⟩
    split
    · exact absurd ‹_› (hwork _ _)
    · rfl
  split
  · rw [haspDue_seat]
    exact hdue _
  · exact hu ▸ hr

theorem haspStored_csMem (s : State) (n : Nat) (o : LineOp) (l : CacheLine) : (s.haspStored n o l).csMem = s.csMem := by
  unfold haspStored
  extract_lets w a u
  have hu : u.csMem = s.csMem := by
    unfold u
    split <;> rfl
  split <;> exact hu

theorem lineResult_csWrite (hres : o.result ≠ 0) (s : State) (v : Nat) :
    s.lineResult o v = s.csWrite o.result (leBytes 8 v) := if_neg fun hno => hres hno.2

theorem lineResult_none (hop : o.isHasp = true) (hres : o.result = 0) (s : State) (v : Nat) : s.lineResult o v = s :=
  if_pos ⟨hop, hres⟩

theorem lineResult_kept (s : State) (o : LineOp) (v : Nat) :
    (s.lineResult o v).seats = s.seats ∧ (s.lineResult o v).cache = s.cache := by
  unfold lineResult
  split <;> exact ⟨rfl, rfl⟩

/-- What a HASP's end says of the run `r` of its descriptor, its line and RESULT. -/
theorem haspEnd_spec (hop : o.isHasp = true) (hr : r ∈ (s.seat n).running) (hidx : r.index = h.index)
    (hwords : r.words = h.words) (hstatus : r.status = 0) (v : Nat) (a : Option Nat) :
    let t := s.haspEnd n h.index o v a
    t.cache = s.cache ∧
      match a with
      | none => t.inWork n h (.haspWait o false) 0 ∧ s.storeSame t
      | some st => t.inWork n h .done st ∧
          (o.result ≠ 0 → t.holds o.result (leBytes 8 v) ∧ s.storeOnly t o.result 8) ∧
          (o.result = 0 → s.storeSame t) := by
  cases a with
  | none =>
    have hwait := inWork_modRun (f := fun r => { r with work := .haspWait o false }) hr hidx ⟨hidx, hwords⟩
    rw [hstatus] at hwait
    exact ⟨rfl, hwait, fun _ => rfl⟩
  | some st =>
    obtain ⟨hseats, hcache⟩ := lineResult_kept s o v
    have hrun : r ∈ ((s.lineResult o v).seat n).running := by rwa [seat_congr hseats]
    refine ⟨hcache, inWork_modRun hrun hidx ⟨hidx, hwords⟩, fun hres => ?_, fun hres => ?_⟩
    · have hput := lineResult_csWrite hres s v
      refine ⟨fun i hi => ?_, fun x hx => ?_⟩
      · show (s.lineResult o v).csByte _ = _
        rw [hput]
        exact csWrite_holds _ _ _ i hi
      · show (s.lineResult o v).csByte _ = _
        rw [hput]
        exact csWrite_storeOnly s o.result (leBytes 8 v) x (by rw [length_leBytes]; exact hx)
    · intro x
      show (s.lineResult o v).csByte _ = _
      rw [lineResult_none hop hres]

/-- A HASP that has entered its seat and finds its line in the cache. -/
theorem lineStart_hasp_spec (he : Entered s u n r) (hidx : r.index = h.index) (hwords : r.words = h.words)
    (hstatus : r.status = 0) (hwork : r.work = .release) (hgone : s.lineGone n o = false) (hop : o.isHasp = true)
    (hl : s.lineOf o.part (o.addr / 128) = some l) (hclean : l.poisonAt o.addr = false)
    (hform : haspField (o.word l) 31 27 = 0) :
    let a := s.haspAct n o.op (s.haspSeen (o.word l))
    let t := u.lineStart n h.index o
    t.lineOf o.part (o.addr / 128) = some (o.storing a.1 l) ∧
      match a.2 with
      | none => t.inWork n h (.haspWait o false) 0 ∧ s.storeSame t
      | some st => t.inWork n h .done st ∧
          (o.result ≠ 0 → t.holds o.result (leBytes 8 (o.word l).toNat) ∧ s.storeOnly t o.result 8) ∧
          (o.result = 0 → s.storeSame t) := by
  set c := u.count (csReg 0x20) 1 with hc
  have hsame : SameHolders s c := he.sameHolders.trans (SameHolders.count (by decide) u 1)
  have hact : c.haspAct n o.op (c.haspSeen (o.word l)) = s.haspAct n o.op (s.haspSeen (o.word l)) := by
    rw [hsame.haspSeen, hsame.haspAct]
  have hmem : (c.haspStored n o l).csMem = s.csMem := by
    rw [haspStored_csMem, hc, count_csMem, he.csMem]
  have hrun : r ∈ ((c.haspStored n o l).seat n).running := by
    refine mem_haspStored ?_ (fun v due => by rw [hwork]; exact Work.noConfusion) n
    rw [hc, seat_congr (count_seats _ _ _), he.running]
    exact List.mem_append_right _ (List.mem_singleton.2 rfl)
  obtain ⟨hpart, hline⟩ := lineOf_is hl
  have hafter := haspStored_lineOf c n hpart hline
  obtain ⟨hcache, hend⟩ := haspEnd_spec hop hrun hidx hwords hstatus (o.word l).toNat
    (s.haspAct n o.op (s.haspSeen (o.word l))).2
  intro a t
  have ht : t = (c.haspStored n o l).haspEnd n h.index o (o.word l).toNat a.2 := by
    have hdo := lineDo_hasp (n := n) c h.index hop hclean hform
    rw [hact] at hdo
    exact (lineStart_of_hit n h.index ((he.lineGone n o).trans hgone) ((he.lineOf _ _).trans hl)).trans hdo
  rw [ht]
  rw [hact] at hafter
  refine ⟨(lineOf_congr hcache _ _).trans hafter, ?_⟩
  have hstore (x : Nat) : (c.haspStored n o l).csByte x = s.csByte x := by rw [csByte, hmem, csByte]
  revert hend
  cases a.2 with
  | none => exact fun ⟨hwait, hkept⟩ => ⟨hwait, fun x => (hkept x).trans (hstore x)⟩
  | some st =>
    exact fun ⟨hdone, hput, hkept⟩ => ⟨hdone,
      fun hres => ⟨(hput hres).1, fun x hx => ((hput hres).2 x hx).trans (hstore x)⟩,
      fun hres x => (hkept hres x).trans (hstore x)⟩

/-- A HASP that starts with no earlier descriptor of its seat in work reaches the cache at once. -/
theorem haspStart_of_canStart {hop : Nat} (hmine : isOp 8 31 28 hop h.words = true)
    (hidle : (s.seat n).running = []) (hoff : s.traceOff)
    (hstart : s.canStart n (s.haspChecks n)
      (if hResult h.words = 0 then [] else s.guardRegion n (hResult h.words) 8) h) :
    ∃ u r, Entered s u n r ∧ (r.index = h.index ∧ r.words = h.words ∧ r.status = 0 ∧ r.work = .release) ∧
      s.haspStart n hop = u.lineStart n h.index (haspOp h.words) := by
  set g := if hResult h.words = 0 then [] else s.guardRegion n (hResult h.words) 8 with hg
  set r : Run := { newRun h .release 0 with guard := g } with hr
  set u := (s.start n h 0xFF).addRun n r with hu
  have he : Entered s u n r := entered_start n h 0xFF r hoff
  have hfirst : u.clearBefore n h.index 1 = true := by
    rw [clearBefore, runsBefore, he.running, hidle, hr]
    simp [newRun]
  have hcode : opcodeOf h.words = 8 := (of_decide_eq_true hmine).1
  refine ⟨u, r, he, ⟨rfl, rfl, rfl, rfl⟩, ?_⟩
  rw [haspStart, dispatch_of_canStart (mine := isOp 8 31 28 hop)
    (gf := fun w => if hResult w = 0 then [] else s.guardRegion n (hResult w) 8) hstart hmine]
  refine (if_pos ?_).trans ?_
  · exact Bool.or_eq_true_iff.2 (.inr hfirst)
  · show u.releaseDo n r = _
    rw [releaseDo, show opcodeOf r.words = 8 from hcode]
    rfl

/-! The retry of an acquire. -/

theorem haspWaiters_haspDue (s : State) (b : Bool) (f : LineOp → Bool) (p a : Nat) :
    (s.haspDue b f).haspWaiters p a = s.haspWaiters p a := by
  have hlist : (s.haspDue b f).seatList = s.seatList := by
    simp only [seatList, haspDue, List.map_map]
    rfl
  unfold haspWaiters
  rw [hlist]
  refine congrArg (List.flatMap · s.seatList) (funext fun m => ?_)
  rw [haspDue_seat, dueRuns, List.filterMap_map]
  refine congrArg (List.filterMap · (s.seat m).running) (funext fun q => ?_)
  rw [Function.comp]
  cases hwork : q.work <;> simp only [hwork]

theorem lineGone_haspDue (s : State) (b : Bool) (f : LineOp → Bool) (m : Nat) (v : LineOp) :
    (s.haspDue b f).lineGone m v = s.lineGone m v := by
  have hstate (k : Nat) (st : SeatState) : (s.haspDue b f).seatIs k st = s.seatIs k st := by
    simp only [seatIs, haspDue_seat]
  have howner (p a : Nat) : (s.haspDue b f).hbmOwner p a = s.hbmOwner p a := by
    simp only [hbmOwner, hstate]
    rfl
  unfold lineGone
  simp only [howner, hstate]
  rfl

/-- With one acquire waiting, the choice of the next owner is it. -/
theorem nextOwner_singleton (last : Nat) (x : Nat × Word × LineOp) : nextOwner last [x] = some x := by
  simp [nextOwner]

theorem seats_ite_putLine (s : State) (c : Prop) [Decidable c] (l : CacheLine) :
    (if c then s else s.putLine l).seats = s.seats := by
  split <;> rfl

/-- The acquire that alone waits for a hasp that is not held takes it. -/
theorem haspTry_one {a : Nat} (s : State) (hclean : l.poisonAt (a / 8 * 8) = false) :
    let w := BitVec.ofNat 64 (leNat (l.get (a / 8 * 8) 8))
    haspField w 31 27 = 0 → haspHeld (s.haspSeen w) = false →
      ∃ u : State, u.seats = s.seats ∧
        s.haspTry a l [(n, idx, o)] = u.haspEndAll [(n, idx, o)] (if haspBroken (s.haspSeen w) then 2 else 0)
          (some w.toNat) := by
  intro w hform hfree
  have hseen : (s.putLine l).haspSeen w = s.haspSeen w := (SameHolders.putLine s l).haspSeen w
  let u := if s.haspSeen w = w then s.putLine l else
    (s.putLine l).putLine (l.set (a / 8 * 8) (leBytes 8 (s.haspSeen w).toNat))
  refine ⟨u.putLine (l.set (a / 8 * 8) (leBytes 8 (u.haspTaken n (s.haspSeen w)).toNat)), ?_, ?_⟩
  · rw [putLine_seats, seats_ite_putLine, putLine_seats]
  · rw [haspTry]
    simp only [hclean, Bool.false_eq_true, if_false]
    refine (if_neg (not_not.2 hform)).trans ?_
    rw [hseen]
    refine (if_neg (by rw [hfree]; decide)).trans ?_
    rw [nextOwner_singleton]

theorem haspAgain_of_hit {p a : Nat} {ws : List (Nat × Word × LineOp)} (hl : s.lineOf p (a / 128) = some l) :
    s.haspAgain p a ws = (s.count (csReg 0x20) 1).haspTry a l ws := by
  have hneed : haspTry.need s p (a / 128) = s.count (csReg 0x20) 1 := by rw [haspTry.need, hl]
  have hhit : (s.count (csReg 0x20) 1).lineOf p (a / 128) = some l := hl
  rw [haspAgain, hneed, hhit]

/-- A run whose end is reached is found with that end. -/
theorem findRun_endRun (hfind : s.findRun n idx = some r) (st : Nat) :
    (s.endRun n idx st).findRun n idx = some { r with work := .done, status := st } := by
  have hkey : (fun q : Run => decide (q.index = idx)) ∘
      (fun q => if q.index = idx then { q with work := .done, status := st } else q) =
      fun q => decide (q.index = idx) := by
    funext q
    simp only [Function.comp]
    split <;> rfl
  have hidx : r.index = idx := of_decide_eq_true (List.find?_some hfind :)
  rw [findRun, endRun, modRun, seat_modSeat_same, List.find?_map, hkey]
  rw [findRun] at hfind
  rw [hfind, Option.map_some, if_pos hidx]

theorem haspEndAll_one (s : State) (hfind : s.findRun n idx = some r) (st v : Nat) :
    (s.haspEndAll [(n, idx, o)] st (some v)).findRun n idx = some { r with work := .done, status := st } := by
  have hfind' : (s.lineResult o v).findRun n idx = some r := by
    rw [findRun, seat_congr (lineResult_kept s o v).1]
    exact hfind
  exact findRun_endRun hfind' st

theorem findRun_of_haspWaiters {p a : Nat} (hone : s.haspWaiters p a = [(n, idx, o)]) : ∃ r, s.findRun n idx = some r := by
  have hmem : (n, idx, o) ∈ s.haspWaiters p a := by rw [hone]; exact List.mem_singleton.2 rfl
  obtain ⟨m, -, hq⟩ := List.mem_flatMap.1 hmem
  obtain ⟨q, hrun, hkey⟩ := List.mem_filterMap.1 hq
  split at hkey
  · split at hkey
    · cases hkey
      exact Option.isSome_iff_exists.1 (List.find?_isSome.2 ⟨q, hrun, decide_eq_true rfl⟩)
    · exact absurd hkey (by simp)
  · exact absurd hkey (by simp)

/-- A retry with one acquire waiting, whose target is still there. -/
theorem execHaspRetry_one {p : PartNo} {a : Nat} (hdue : s.haspRetryDue p.val a = true)
    (hone : s.haspWaiters p.val a = [(n, idx, o)]) (hgone : s.lineGone n o = false) :
    ∃ f, exec (.haspRetry p a) s = .next ((s.haspDue false f).haspAgain p.val a [(n, idx, o)]) := by
  refine ⟨fun v => decide (v.part = p.val ∧ v.addr / 8 = a / 8), ?_⟩
  set u := s.haspDue false fun v => decide (v.part = p.val ∧ v.addr / 8 = a / 8) with hu
  have hws : u.haspWaiters p.val a = [(n, idx, o)] := (haspWaiters_haspDue s false _ p.val a).trans hone
  have hstay : u.lineGone n o = false := (lineGone_haspDue s false _ n o).trans hgone
  have hnone : (u.haspWaiters p.val a).filter (fun w => u.lineGone w.1 w.2.2) = [] := by
    rw [hws, List.filter_cons, hstay]
    rfl
  show execHaspRetry p a s = _
  rw [execHaspRetry]
  simp only [hdue, Bool.not_true, Bool.false_eq_true, if_false]
  rw [← hu, hnone, List.foldl_nil, hws]
  rfl

end State

end Sys2Proof.Machine
end

section
/-! PROOFS. The holder of a hasp. -/

namespace Sys2Proof.Proofs

open Sys2Proof.Machine Sys2Proof.Machine.State

/-- Settles O34: Table 9-10 on the word, a HASP on a line the cache holds, and the retry of one acquire (R282 to R284). -/
theorem haspsHaveOneHolder : Obligations.HaspsHaveOneHolder := by
  refine ⟨fun s n w hn hcgen => ⟨rfl, fun hheld hother => ?_, fun hfree hop hhop => ?_, fun hmine => ?_, fun hstale => ?_⟩,
    ?_, ?_⟩
  · simp [haspAct, hheld, hother]
  · obtain ⟨htaken, hversion⟩ := haspTaken_spec hn hcgen w
    intro a
    have ha : a = _ := haspAct_free hhop hfree
    rw [ha]
    exact ⟨htaken, rfl, hversion⟩
  · obtain ⟨hfree, -, hversion⟩ := haspReleased_spec w (haspBroken w)
    have ha : s.haspAct n 2 w = (haspReleased w (haspBroken w), some 0) := if_pos hmine
    intro a
    rw [show a = _ from ha]
    exact ⟨rfl, hfree, hversion⟩
  · obtain ⟨hfree, hbroken, -⟩ := haspReleased_spec w true
    rw [haspSeen, if_pos hstale]
    exact ⟨hfree, hbroken⟩
  · intro s n h c hop l hc hmine hidle hoff hstart o hgone hl hclean hbytes halign w a hform
    obtain ⟨u, r, he, ⟨hidx, hwords, hstatus, hwork⟩, hgo⟩ := haspStart_of_canStart hmine hidle hoff hstart
    have hop' : o.op = hop := (of_decide_eq_true hmine).2
    obtain ⟨hafter, hend⟩ := lineStart_hasp_spec he hidx hwords hstatus hwork hgone rfl hl hclean hform
    rw [hop'] at hafter hend
    have hexec : exec c s = .next (u.lineStart n.val h.index o) := by
      rw [← hgo]
      obtain ⟨rfl, rfl⟩ | ⟨rfl, rfl⟩ | ⟨rfl, rfl⟩ | ⟨rfl, rfl⟩ | ⟨rfl, rfl⟩ := hc <;> rfl
    exact ⟨_, _, hexec, hafter, LineOp.get_storing hbytes halign _, hend⟩
  · intro s p addr n idx o l hdue hone hgone hl hclean w hform hfree
    obtain ⟨f, hexec⟩ := execHaspRetry_one hdue hone hgone
    set u := s.haspDue false f with hu
    have hkept : SameHolders s u :=
      ⟨fun _ => rfl, fun _ => rfl, fun _ => rfl, fun m st => by simp only [seatIs, hu, haspDue_seat]⟩
    have hsame : SameHolders s (u.count (csReg 0x20) 1) := hkept.trans (SameHolders.count (by decide) u 1)
    obtain ⟨v, hseats, htry⟩ := haspTry_one (n := n) (idx := idx) (o := o) (u.count (csReg 0x20) 1) hclean hform
      (by rw [hsame.haspSeen]; exact hfree)
    obtain ⟨r, hr⟩ := findRun_of_haspWaiters ((haspWaiters_haspDue s false f p.val addr).trans hone)
    have hfind : v.findRun n idx = some r := by
      rw [findRun, seat_congr (hseats.trans (count_seats _ _ _))]
      exact hr
    rw [haspAgain_of_hit (show u.lineOf p.val (addr / 128) = some l from hl), htry, hsame.haspSeen] at hexec
    exact ⟨_, _, hexec, haspEndAll_one v hfind _ _, rfl, rfl⟩

end Sys2Proof.Proofs
end

section
/-! SUPPORT. The stages of a completion, for a fence too: its registers, record and tumbler (R68, R268, R273). -/

namespace Sys2Proof.Machine.State

variable {s t u : State} {n : Nat} {r : Run}

/-- The stages of a completion in their order. -/
def runEnded (s : State) (n : Nat) (r : Run) : State :=
  (((s.runTraced n r).runAdvanced r).runRecorded n r).runSettled n r

/-- RESET of a fence with status 2 (Table 9-14). -/
def fenceNoted (s : State) (n : Nat) (r : Run) : State := if r.status = 2 then s.raise (seatReg n 0x68) 2 else s

/-- A fence takes its status, notes RESET, and completes. -/
theorem endOf_fence (hfence : opcodeOf r.words = 6)
    (hhold : s.mustHold n { r with status := s.fenceStatus n r } = false) :
    s.endOf n r = (s.fenceNoted n { r with status := s.fenceStatus n r }).runEnded n
      { r with status := s.fenceStatus n r } := by
  have hyes : decide (opcodeOf r.words = 6) = true := decide_eq_true hfence
  simp only [endOf, hyes, Bool.true_and, if_true, hhold, Bool.false_eq_true, if_false, decide_eq_true_eq]
  rfl

theorem fenceNoted_csMem (s : State) (n : Nat) (r : Run) : (s.fenceNoted n r).csMem = s.csMem := by
  unfold fenceNoted
  split <;> rfl

theorem fenceNoted_now (s : State) (n : Nat) (r : Run) : (s.fenceNoted n r).now = s.now := by
  unfold fenceNoted
  split <;> rfl

theorem fenceNoted_reg {o : Nat} (s : State) (r : Run) (ho : o ≠ seatReg n 0x68) :
    (s.fenceNoted n r).reg o = s.reg o := by
  unfold fenceNoted
  split
  · exact reg_raise_other _ _ ho
  · rfl

/-- What a fence's status does (Table 9-4). -/
theorem statusEffect_fence (status : Nat) : statusEffect 6 status = (decide (status = 0), false) := by
  unfold statusEffect
  split
  · next h => simp [h]
  · next h => simp [h]

/-- Only the trace's own register changes before ADVANCE. -/
theorem runTraced_reg {o : Nat} (s : State) (n : Nat) (r : Run) (ho : o ≠ mgReg 0x118) :
    (s.runTraced n r).reg o = s.reg o := by
  obtain ⟨objs, hcount⟩ := collCount_frame s r
  obtain ⟨seats, parts, hleft⟩ := runLeft_frame (s.collCount r) n r
  rw [runTraced, (trace_kept _ _ _ _ _ _ _).2.2 o ho, hleft, hcount]
  rfl

theorem ne_traceReg {o : Nat} (h : Spared n o) : o ≠ mgReg 0x118 := by
  obtain ⟨hlow, -⟩ := h
  unfold mgReg
  omega

theorem runAdvanced_of_no_effect (heffect : (statusEffect (opcodeOf r.words) r.status).1 = false) (s : State) :
    s.runAdvanced r = s := by
  rw [runAdvanced, heffect]
  rfl

/-- The descriptor is gone. -/
theorem findRun_runEnded (s : State) (n : Nat) (r : Run) : (s.runEnded n r).findRun n r.index = none := by
  have hserved : Served ((s.collCount r).runLeft n r) (s.runEnded n r) := by
    have h := ((Served.afterLeft (s.collCount r) n r).trans (Served.sideStep _ n r)).trans (Served.pumpReads _)
    rwa [complete_eq] at h
  refine List.find?_eq_none.2 fun q hq hidx => ?_
  obtain ⟨p, hp, hpq⟩ := hserved.runs n q hq
  exact runLeft_running _ n r p hp (hpq.trans (of_decide_eq_true hidx))

/-- A seat with no other descriptor in work is left with none. -/
theorem running_runEnded (h : ∀ q ∈ (s.seat n).running, q.index = r.index) : ((s.runEnded n r).seat n).running = [] := by
  obtain ⟨objs, hcount⟩ := collCount_frame s r
  have hcoll : Served s (s.collCount r) := Served.of_seats (by rw [hcount])
  have hserved : Served s (s.runEnded n r) := by
    have hleft := (hcoll.trans (Served.runLeft _ n r)).trans (Served.afterLeft (s.collCount r) n r)
    have hdone := hleft.trans ((Served.sideStep _ n r).trans (Served.pumpReads _))
    rwa [complete_eq] at hdone
  refine List.eq_nil_iff_forall_not_mem.2 fun q hq => ?_
  obtain ⟨p, hp, hpq⟩ := hserved.runs n q hq
  have hnone := List.find?_eq_none.1 (findRun_runEnded s n r) q hq
  exact hnone (decide_eq_true (hpq.symm.trans (h p hp)))

/-- The registers of the seat before its record. -/
theorem reg_before_record {o : Nat} (s : State) (r : Run) (ho : Spared n (seatReg n o)) :
    ((s.runTraced n r).runAdvanced r).reg (seatReg n o) = s.reg (seatReg n o) := by
  obtain ⟨-, hreg, -, -⟩ := runAdvanced_kept (s.runTraced n r) n r
  rw [hreg, runTraced_reg s n r (ne_traceReg ho)]

section

variable (hn : n < 512)

include hn

theorem runEnded_tumbler {k : Nat} (hk : k < 8192) (s : State) (r : Run) :
    (s.runEnded n r).tumbler k = ((s.runTraced n r).runAdvanced r).tumbler k := by
  rw [runEnded, tumbler, (runSettled_undisturbed hn _ r).reg _ (spared_tumblerReg hk)]
  exact runRecorded_tumbler hn hk _ r

/-- ADVANCE (R68). -/
theorem runEnded_advanced (s : State) (heffect : (statusEffect (opcodeOf r.words) r.status).1 = true)
    (hadvance : wB r.words 0 14 = true) :
    (s.runEnded n r).tumbler (wF r.words 2 28 16) = s.tumbler (wF r.words 2 28 16) + 1 := by
  have hk := wF_advance_lt r.words
  rw [runEnded_tumbler hn hk, runAdvanced_tumbler heffect hadvance, tumbler,
    runTraced_reg s n r (ne_traceReg (n := n) (spared_tumblerReg hk)), tumbler]

theorem runEnded_not_advanced (s : State) (heffect : (statusEffect (opcodeOf r.words) r.status).1 = false) :
    (s.runEnded n r).tumbler (wF r.words 2 28 16) = s.tumbler (wF r.words 2 28 16) := by
  have hk := wF_advance_lt r.words
  rw [runEnded_tumbler hn hk, runAdvanced_of_no_effect heffect, tumbler,
    runTraced_reg s n r (ne_traceReg (n := n) (spared_tumblerReg hk)), tumbler]

/-- A register of the seat other than its completion index keeps its value. -/
theorem runEnded_reg {o : Nat} (s : State) (r : Run) (ho : o < 0x100) (hother : o ≠ 0x70 ∧ o ≠ 0x28) :
    (s.runEnded n r).reg (seatReg n o) = s.reg (seatReg n o) := by
  have hspared := spared_seatReg hn ho hother.1
  rw [runEnded, (runSettled_undisturbed hn _ r).reg _ hspared, ← reg_before_record s r hspared, runRecorded]
  split
  · rw [completionRecord_eq]
    exact ringRecord_reg_other _ _ _ _ _ (seatReg_ne_pending n o) fun he => hother.2 (by
      simp only [seatReg, ctReg, partReg] at he
      omega)
  · rfl

/-- The record that is due raises the seat's completion index. -/
theorem runEnded_produced (s : State) (hdue : wB r.words 0 15 = true ∨ r.status ≠ 0) :
    (s.runEnded n r).reg (seatReg n 0x28) = s.reg (seatReg n 0x28) + 1 := by
  have hspared : Spared n (seatReg n 0x28) := spared_seatReg hn (by decide) (by decide)
  rw [runEnded, (runSettled_undisturbed hn _ r).reg _ hspared, runRecorded_of_due hdue]
  refine (ringRecord_reg_same _ _ _ _ _).trans ?_
  rw [regN, reg_before_record s r hspared, BitVec.ofNat_add, BitVec.ofNat_toNat, BitVec.setWidth_eq]
  rfl

variable (hoff : s.traceOff)

include hoff

/-- The completion record, where one is due (R68). -/
theorem runEnded_record (hdue : wB r.words 0 15 = true ∨ r.status ≠ 0) :
    (s.runEnded n r).holds (s.completionAddr n) (completionBytes (tagOf r.words) r.status (opcodeOf r.words) s.now) ∧
      s.storeOnly (s.runEnded n r) (s.completionAddr n) 16 := by
  obtain ⟨hmem, -, hnow, -⟩ := runTraced_kept hoff n r
  obtain ⟨hmem', -, hnow', -⟩ := runAdvanced_kept (s.runTraced n r) n r
  have haddr : ((s.runTraced n r).runAdvanced r).completionAddr n = s.completionAddr n := by
    have hreg {o : Nat} (ho : o < 0x100) (hjob : o ≠ 0x70) := reg_before_record s r (spared_seatReg hn ho hjob)
    simp only [completionAddr, regN, regField, hreg (o := 0x20) (by decide) (by decide),
      hreg (o := 0x24) (by decide) (by decide), hreg (o := 0x28) (by decide) (by decide)]
  have hsettled := runSettled_undisturbed hn (((s.runTraced n r).runAdvanced r).runRecorded n r) r
  rw [runRecorded_of_due hdue, haddr, hnow', hnow] at hsettled
  have hbyte (x : Nat) : ((s.runTraced n r).runAdvanced r).csByte x = s.csByte x := by rw [csByte, hmem', hmem, csByte]
  rw [runEnded, runRecorded_of_due hdue, haddr, hnow', hnow]
  refine ⟨fun k hk => ?_, fun x hx => ?_⟩
  · rw [csByte, hsettled.csMem]
    exact ringRecord_holds _ _ _ _ _ k hk
  · rw [← hbyte, csByte, hsettled.csMem]
    exact ringRecord_storeOnly _ _ _ _ _ x (by rwa [length_completionBytes])

/-- With no record due no byte changes. -/
theorem runEnded_storeSame (hinterrupt : wB r.words 0 15 = false) (hstatus : r.status = 0) :
    s.storeSame (s.runEnded n r) := by
  obtain ⟨hmem, -, -, -⟩ := runTraced_kept hoff n r
  obtain ⟨hmem', -, -, -⟩ := runAdvanced_kept (s.runTraced n r) n r
  refine storeSame_of_csMem ?_
  rw [runEnded, (runSettled_undisturbed hn _ r).csMem, runRecorded_of_not_due hinterrupt hstatus, hmem', hmem]

end

/-! When a fence completes (R271). -/

/-- A descriptor whose work is a fence, or has ended, is left as it is by its last step. -/
theorem descriptorComplete_of_ready {idx : Word} (hfind : s.findRun n idx = some r) (hvoid : r.void = false)
    (hlast : s.lastWork n r = s) (hready : s.fenceReady n r = true) : s.descriptorComplete n idx = s.endOf n r := by
  simp [descriptorComplete, hfind, hlast, hvoid, hready]

theorem lastWork_fence {kind dest : Nat} {all : Bool} {tag : Option Nat} (hwork : r.work = .fence kind all dest tag) :
    s.lastWork n r = s := by
  simp [lastWork, hwork]

theorem lastWork_done (hwork : r.work = .done) : s.lastWork n r = s := by simp [lastWork, hwork]

theorem fenceReady_fence {kind dest : Nat} {all : Bool} {tag : Option Nat} (hwork : r.work = .fence kind all dest tag)
    (hkind : kind ≤ 2) (hclear : s.clearBefore n r.index kind = true)
    (hfabric : kind = 2 → s.fabricClear n r.index all dest = true) : s.fenceReady n r = true := by
  have hkind' : kind ≠ 3 := by omega
  by_cases h2 : kind = 2
  · simp [fenceReady, hwork, hkind', hclear, hfabric h2]
  · simp [fenceReady, hwork, hkind', hclear, h2]

/-- A fence before which something it covers has not ended waits. -/
theorem descriptorComplete_waits {idx : Word} {kind dest : Nat} {all : Bool} {tag : Option Nat}
    (hfind : s.findRun n idx = some r) (hwork : r.work = .fence kind all dest tag)
    (hcovered : ∃ q ∈ s.runsBefore n idx, q.covered kind = true) : s.descriptorComplete n idx = s := by
  have hidx : r.index = idx := of_decide_eq_true (List.find?_some hfind :)
  have hbusy : s.clearBefore n r.index kind = false := by
    obtain ⟨q, hq, hcov⟩ := hcovered
    rw [clearBefore, hidx]
    exact List.all_eq_false.2 ⟨q, hq, by rw [hcov]; decide⟩
  have hready : s.fenceReady n r = false := by simp [fenceReady, hwork, hbusy]
  simp [descriptorComplete, hfind, lastWork_fence hwork, hready]

end Sys2Proof.Machine.State
end

section
/-! SUPPORT. A FENCE that starts and waits (R270, R271). -/

namespace Sys2Proof.Machine

/-- Does work ask for a read on the host port: a transfer, or a HOST fence, none of whose reads is out (R261, R271)? -/
def Work.asksRead : Work → Bool
  | .hostRead _ _ _ none => true
  | .fence 3 _ _ none => true
  | _ => false

namespace State

variable {s t u : State} {n : Nat} {h : Head} {kind : Nat}

/-- One run's step of `pumpReads`. -/
def pumpRun (m : Nat) (s : State) (r : Run) : State :=
  match s.freeTag with
  | none => s
  | some t =>
    match r.work with
    | .hostRead host cs left none =>
      (s.issueRead m r.index host cs (readLen host left) t false).modRun m r.index fun r =>
        { r with work := .hostRead host cs left (some t) }
    | .fence 3 all dest none =>
      if s.clearBefore m r.index 3 then
        (s.issueRead m r.index 0 0 0 t true).modRun m r.index fun r => { r with work := .fence 3 all dest (some t) }
      else s
    | _ => s

theorem pumpReads_eq (s : State) :
    s.pumpReads = s.seatList.foldl (fun s n => (s.seat n).running.foldl (pumpRun n) s) s := rfl

/-- What one step of `pumpReads` can do: nothing, or a read is issued for a run that asks for one. -/
theorem pumpRun_cases (m : Nat) (s : State) (r : Run) :
    s.pumpRun m r = s ∨ ∃ host cs len tag fence work,
      s.pumpRun m r = (s.issueRead m r.index host cs len tag fence).modRun m r.index (fun q => { q with work := work }) ∧
        ((∃ a b c, r.work = .hostRead a b c none) ∨
          ∃ all dest, r.work = .fence 3 all dest none ∧ work = .fence 3 all dest (some tag)) := by
  unfold pumpRun
  split
  · exact .inl rfl
  · split
    · next hwork => exact .inr ⟨_, _, _, _, _, _, rfl, .inl ⟨_, _, _, hwork⟩⟩
    · next hwork =>
      split
      · exact .inr ⟨_, _, _, _, _, _, rfl, .inr ⟨_, _, hwork, rfl⟩⟩
      · exact .inl rfl
    · exact .inl rfl

/-- A run that asks for no read changes nothing. -/
theorem pumpRun_of_not_asks {r : Run} (hr : r.work.asksRead = false) (m : Nat) (s : State) : s.pumpRun m r = s := by
  rcases pumpRun_cases m s r with h | ⟨_, _, _, _, _, _, -, ⟨_, _, _, hwork⟩ | ⟨_, _, hwork, -⟩⟩
  · exact h
  · simp [hwork, Work.asksRead] at hr
  · simp [hwork, Work.asksRead] at hr

theorem foldl_pumpRun_of_not_asks (m : Nat) {l : List Run} (hl : ∀ r ∈ l, r.work.asksRead = false) (s : State) :
    l.foldl (pumpRun m) s = s := by
  induction l with
  | nil => rfl
  | cons r l ih =>
    rw [List.foldl_cons, pumpRun_of_not_asks (hl r List.mem_cons_self)]
    exact ih fun q hq => hl q (List.mem_cons_of_mem _ hq)

/-- No run of any seat asks for a read. -/
def NoReadAsked (s : State) : Prop := ∀ m, ∀ r ∈ (s.seat m).running, r.work.asksRead = false

theorem foldl_pump_of_noReadAsked (hs : s.NoReadAsked) (l : List Nat) :
    l.foldl (fun s n => (s.seat n).running.foldl (pumpRun n) s) s = s := by
  induction l with
  | nil => rfl
  | cons m l ih => rw [List.foldl_cons, foldl_pumpRun_of_not_asks m (hs m), ih]

theorem pumpReads_of_noReadAsked (hs : s.NoReadAsked) : s.pumpReads = s := foldl_pump_of_noReadAsked hs _

/-- What `pumpReads` leaves of the posted writes and of a seat's record. -/
theorem pumpReads_kept (s : State) (m : Nat) :
    s.pumpReads.posted = s.posted ∧ (s.pumpReads.seat m).fenceBad = (s.seat m).fenceBad ∧
      (s.pumpReads.seat m).cqHeld = (s.seat m).cqHeld := by
  have hissue (u : State) (k : Nat) (idx : Word) (host cs len tag : Nat) (fence : Bool) :
      (u.issueRead k idx host cs len tag fence).posted = u.posted := by
    unfold issueRead
    extract_lets v
    split <;> rfl
  have hrun (u : State) (k : Nat) (r : Run) : (u.pumpRun k r).posted = u.posted ∧
      ((u.pumpRun k r).seat m).fenceBad = (u.seat m).fenceBad ∧ ((u.pumpRun k r).seat m).cqHeld = (u.seat m).cqHeld := by
    rcases pumpRun_cases k u r with hstep | ⟨host, cs, len, tag, fence, work, hstep, -⟩
    · rw [hstep]
      exact ⟨rfl, rfl, rfl⟩
    · have hseats := issueRead_seats u k r.index host cs len tag fence
      rw [hstep]
      refine ⟨hissue _ _ _ _ _ _ _ _, ?_⟩
      by_cases hm : m = k
      · rw [modRun, hm, seat_modSeat_same, seat_congr hseats]
        exact ⟨rfl, rfl⟩
      · rw [modRun, seat_modSeat_other _ _ hm, seat_congr hseats]
        exact ⟨rfl, rfl⟩
  have hpump := foldl_frame (fun u => (u.posted, (u.seat m).fenceBad, (u.seat m).cqHeld))
    (fun u k => foldl_frame (f := State.pumpRun k) (fun u => (u.posted, (u.seat m).fenceBad, (u.seat m).cqHeld))
      (fun v r => by
        obtain ⟨hposted, hbad, hheld⟩ := hrun v k r
        simp only [hposted, hbad, hheld]) (u.seat k).running u) s.seatList s
  rw [Prod.mk.injEq, Prod.mk.injEq] at hpump
  rwa [pumpReads_eq]

/-- A run of the fence `h`, of this KIND: it waits, and only a HOST fence has a read out. -/
structure IsFence (h : Head) (kind : Nat) (r : Run) : Prop where
  words  : r.words = h.words
  status : r.status = 0
  void   : r.void = false
  work   : ∃ tag, r.work = .fence kind (fAll h.words) (fDest h.words) tag ∧ (kind ≠ 3 → tag = none)

/-- The runs of seat `n` have the ring indices `ixs`, and those with the index of `h` are its fence. -/
structure FenceWaits (s : State) (n : Nat) (h : Head) (kind : Nat) (ixs : List Word) : Prop where
  indices : (s.seat n).running.map Run.index = ixs
  fence   : ∀ r ∈ (s.seat n).running, r.index = h.index → IsFence h kind r

/-- A step of `pumpReads` keeps the fence waiting. -/
theorem FenceWaits.pumpRun {ixs : List Word} (hs : FenceWaits s n h kind ixs) (m : Nat) {r : Run}
    (hr : m = n → r.index = h.index → IsFence h kind r) : FenceWaits (s.pumpRun m r) n h kind ixs := by
  rcases pumpRun_cases m s r with hstep | ⟨host, cs, len, tag, fence, work, hstep, hasks⟩
  · rwa [hstep]
  · rw [hstep]
    have hseat : ((s.issueRead m r.index host cs len tag fence).seat n) = s.seat n :=
      seat_congr (issueRead_seats _ _ _ _ _ _ _ _) n
    by_cases hm : n = m
    · subst hm
      have hrunning : (((s.issueRead n r.index host cs len tag fence).modRun n r.index
          (fun q => { q with work := work })).seat n).running =
          (s.seat n).running.map fun q => if q.index = r.index then { q with work := work } else q := by
        rw [modRun, seat_modSeat_same, hseat]
      refine ⟨?_, ?_⟩
      · rw [hrunning, List.map_map, ← hs.indices]
        refine List.map_congr_left fun q _ => ?_
        simp only [Function.comp]
        split <;> rfl
      · rw [hrunning]
        intro q hq hidx
        obtain ⟨p, hp, rfl⟩ := List.mem_map.1 hq
        by_cases hsame : p.index = r.index
        · rw [if_pos hsame] at hidx ⊢
          have hold := hs.fence p hp hidx
          obtain ⟨-, -, -, tag', hwork, -⟩ := hr rfl (hsame.symm.trans hidx)
          refine ⟨hold.words, hold.status, hold.void, ?_⟩
          rcases hasks with ⟨_, _, _, hread⟩ | ⟨all, dest, hfence, rfl⟩
          · rw [hread] at hwork
            exact Work.noConfusion hwork
          · rw [hfence] at hwork
            obtain ⟨rfl, rfl, rfl, -⟩ := Work.fence.inj hwork
            exact ⟨_, rfl, fun hkind => absurd rfl hkind⟩
        · rw [if_neg hsame] at hidx ⊢
          exact hs.fence p hp hidx
    · have hrunning : ((s.issueRead m r.index host cs len tag fence).modRun m r.index
          (fun q => { q with work := work })).seat n = s.seat n := by
        rw [modRun, seat_modSeat_other _ _ hm, hseat]
      exact ⟨by rw [hrunning]; exact hs.indices, by rw [hrunning]; exact hs.fence⟩

theorem FenceWaits.foldl_pumpRun {ixs : List Word} (m : Nat) (l : List Run)
    (hl : m = n → ∀ r ∈ l, r.index = h.index → IsFence h kind r) (hs : FenceWaits s n h kind ixs) :
    FenceWaits (l.foldl (State.pumpRun m) s) n h kind ixs := by
  induction l generalizing s with
  | nil => exact hs
  | cons r l ih =>
    exact ih (fun hm q hq => hl hm q (List.mem_cons_of_mem _ hq)) (hs.pumpRun m fun hm => hl hm r List.mem_cons_self)

theorem FenceWaits.foldl_pump {ixs : List Word} (l : List Nat) (hs : FenceWaits s n h kind ixs) :
    FenceWaits (l.foldl (fun s n => (s.seat n).running.foldl (State.pumpRun n) s) s) n h kind ixs := by
  induction l generalizing s with
  | nil => exact hs
  | cons m l ih =>
    refine ih (FenceWaits.foldl_pumpRun m _ (fun hm => ?_) hs)
    subst hm
    exact hs.fence

theorem FenceWaits.pumpReads {ixs : List Word} (hs : FenceWaits s n h kind ixs) : FenceWaits s.pumpReads n h kind ixs :=
  hs.foldl_pump s.seatList

/-! The start. -/

/-- The run with which a FENCE enters its seat. -/
def fenceRun (h : Head) (kind : Nat) : Run := newRun h (.fence kind (fAll h.words) (fDest h.words) none) 0

theorem isFence_fenceRun (h : Head) (kind : Nat) : IsFence h kind (fenceRun h kind) :=
  ⟨rfl, rfl, rfl, none, rfl, fun _ => rfl⟩

/-- The state in which a FENCE has entered its seat and no read has been issued for it. -/
def fenceEntered (s : State) (n : Nat) (h : Head) (kind : Nat) : State := (s.start n h 0xFF).addRun n (fenceRun h kind)

theorem fenceStart_of_canStart (hmine : isOp 6 31 30 kind h.words = true) (hstart : s.canStart n fenceChecks [] h) :
    s.fenceStart n kind = (s.fenceEntered n h kind).pumpReads := by
  rw [fenceStart, dispatch_of_canStart (mine := isOp 6 31 30 kind) (gf := fun _ => []) hstart hmine]
  rfl

/-- What a trace record has nothing to do with. -/
theorem trace_apart (s : State) (n tag opcode event st unit : Nat) :
    (s.trace n tag opcode event st unit).posted = s.posted ∧
      (s.trace n tag opcode event st unit).hostReads = s.hostReads ∧
      (s.trace n tag opcode event st unit).variant = s.variant ∧
      (s.trace n tag opcode event st unit).parts = s.parts := by
  unfold trace
  split
  · exact ⟨rfl, rfl, rfl, rfl⟩
  · extract_lets u ctrl size dev bs
    have hu : u.posted = s.posted ∧ u.hostReads = s.hostReads ∧ u.variant = s.variant ∧ u.parts = s.parts := by
      unfold u
      split <;> exact ⟨rfl, rfl, rfl, rfl⟩
    clear_value u
    split
    · split
      · rwa [bumpObj_posted, bumpObj_hostReads, bumpObj_variant, bumpObj_parts]
      · rwa [setReg_posted, setReg_hostReads, setReg_variant, setReg_parts, csWrite_posted, csWrite_hostReads,
          csWrite_variant, csWrite_parts]
    · exact hu

/-- What the start of a FENCE leaves: its seat but for the run, the posted writes, the reads, and the registers. -/
theorem fenceEntered_kept (s : State) (n : Nat) (h : Head) (kind : Nat) :
    ((s.fenceEntered n h kind).seat n).running = (s.seat n).running ++ [fenceRun h kind] ∧
      ((s.fenceEntered n h kind).seat n).fenceBad = (s.seat n).fenceBad ∧
      ((s.fenceEntered n h kind).seat n).cqHeld = (s.seat n).cqHeld ∧
      ((s.fenceEntered n h kind).seat n).cqAcc = (s.seat n).cqAcc ∧
      (s.fenceEntered n h kind).posted = s.posted ∧ (s.fenceEntered n h kind).hostReads = s.hostReads := by
  obtain ⟨seats, parts, shakes, hadd⟩ := addRun_frame (s.start n h 0xFF) n (fenceRun h kind)
  obtain ⟨w, hseat⟩ := addRun_seat (s.start n h 0xFF) n (fenceRun h kind)
  have hstart : (s.start n h 0xFF).seats = (s.modSeat n fun r => { r with head := none }).seats :=
    (trace_kept _ _ _ _ _ _ _).1
  obtain ⟨hposted, hreads, -, -⟩ := trace_apart ((s.setReg (seatReg n 0x1C)
    (h.index + BitVec.ofNat 32 (1 + countOf h.words))).modSeat n fun r => { r with head := none }) n (tagOf h.words)
    (opcodeOf h.words) 1 0 0xFF
  unfold fenceEntered
  rw [hseat, seat_congr hstart, seat_modSeat_same, hadd]
  exact ⟨rfl, rfl, rfl, rfl, hposted, hreads⟩

theorem fenceEntered_reg {o : Nat} (s : State) (n : Nat) (h : Head) (kind : Nat) (ho : o ≠ mgReg 0x118) :
    (s.fenceEntered n h kind).reg o =
      (s.setReg (seatReg n 0x1C) (h.index + BitVec.ofNat 32 (1 + countOf h.words))).reg o := by
  obtain ⟨seats, parts, shakes, hadd⟩ := addRun_frame (s.start n h 0xFF) n (fenceRun h kind)
  have hvariant : (s.fenceEntered n h kind).variant = (s.start n h 0xFF).variant := by rw [fenceEntered, hadd]
  rw [reg_congr hvariant (addRun_regs _ _ _)]
  exact (trace_kept _ _ _ _ _ _ _).2.2 o ho

theorem fenceWaits_fenceEntered (hnew : s.newIndex n h) :
    FenceWaits (s.fenceEntered n h kind) n h kind ((s.seat n).running.map Run.index ++ [h.index]) := by
  obtain ⟨hrunning, -⟩ := fenceEntered_kept s n h kind
  refine ⟨by rw [hrunning, List.map_append]; rfl, fun r hr hidx => ?_⟩
  rw [hrunning, List.mem_append, List.mem_singleton] at hr
  obtain hr | rfl := hr
  · exact absurd hidx (hnew r hr)
  · exact isFence_fenceRun h kind

/-! What the end of a fence finds. -/

/-- From `s` to `t` the FENCE `h` of seat `n` has started, and nothing that its end reads has changed. -/
structure FenceStarted (s t : State) (n : Nat) (h : Head) : Prop where
  posted   : t.posted = s.posted
  fenceBad : (t.seat n).fenceBad = (s.seat n).fenceBad
  cqHeld   : (t.seat n).cqHeld = (s.seat n).cqHeld
  cqAcc    : (t.seat n).cqAcc = (s.seat n).cqAcc
  cons     : t.reg (seatReg n 0x1C) = h.index + BitVec.ofNat 32 (1 + countOf h.words)
  reg      : ∀ o, Spared n o → o ≠ seatReg n 0x1C → t.reg o = s.reg o

theorem fenceStarted_fenceEntered (hn : n < 512) (s : State) (h : Head) (kind : Nat) :
    FenceStarted s (s.fenceEntered n h kind) n h := by
  obtain ⟨-, hbad, hheld, hacc, hposted, -⟩ := fenceEntered_kept s n h kind
  have hcons : Spared n (seatReg n 0x1C) := spared_seatReg hn (by decide) (by decide)
  refine ⟨hposted, hbad, hheld, hacc, ?_, fun o ho hne => ?_⟩
  · rw [fenceEntered_reg s n h kind (ne_traceReg hcons), reg_setReg_same]
  · rw [fenceEntered_reg s n h kind (ne_traceReg ho), reg_setReg_other _ _ hne]

theorem FenceStarted.pumpReads (hn : n < 512) (hs : FenceStarted s t n h) : FenceStarted s t.pumpReads n h := by
  obtain ⟨hposted, hbad, hheld⟩ := pumpReads_kept t n
  have hkept := Undisturbed.pumpReads (n := n) t
  exact ⟨hposted.trans hs.posted, hbad.trans hs.fenceBad, hheld.trans hs.cqHeld,
    ((Served.pumpReads t).cqAcc n).trans hs.cqAcc,
    (hkept.reg _ (spared_seatReg hn (by decide) (by decide))).trans hs.cons,
    fun o ho hne => (hkept.reg o ho).trans (hs.reg o ho hne)⟩

/-- A run of the seat changes, and reads are noted or forgotten. -/
theorem FenceStarted.modRun (hs : FenceStarted s t n h) (hposted : u.posted = t.posted) (hseats : u.seats = t.seats)
    (hvariant : u.variant = t.variant) (hregs : u.regs = t.regs) (idx : Word) (f : Run → Run) :
    FenceStarted s (u.modRun n idx f) n h := by
  have hseat : (u.modRun n idx f).seat n =
      { t.seat n with running := (t.seat n).running.map fun r => if r.index = idx then f r else r } := by
    rw [State.modRun, seat_modSeat_same, seat_congr hseats]
  refine ⟨hposted.trans hs.posted, ?_, ?_, ?_, (reg_congr hvariant hregs _).trans hs.cons,
    fun o ho hne => (reg_congr hvariant hregs o).trans (hs.reg o ho hne)⟩
  · rw [hseat]
    exact hs.fenceBad
  · rw [hseat]
    exact hs.cqHeld
  · rw [hseat]
    exact hs.cqAcc

/-- A fence of a seat with no failed write has the status its work ended with (R273). -/
theorem fenceStatus_of_no_bad {r : Run} (hbad : (s.seat n).fenceBad = []) : s.fenceStatus n r = r.status := by
  simp [fenceStatus, hbad]

/-- The end of the FENCE `h`, the one descriptor of its seat, with SUCCESS. -/
theorem FenceStarted.ended {r : Run} (hn : n < 512) (hs : FenceStarted s t n h) (hcode : opcodeOf h.words = 6)
    (hbad : (s.seat n).fenceBad = []) (hheld : (s.seat n).cqHeld = none) (hfull : s.cqFull n = false)
    (hone : (t.seat n).running = [r]) (hidx : r.index = h.index) (hwords : r.words = h.words) (hstatus : r.status = 0)
    (hvoid : r.void = false) (hlast : t.lastWork n r = t) (hready : t.fenceReady n r = true) :
    let u := t.descriptorComplete n h.index
    (u.seat n).running = [] ∧ u.reg (seatReg n 0x1C) = h.index + BitVec.ofNat 32 (1 + countOf h.words) ∧
      (wB h.words 0 14 = true → u.tumbler (wF h.words 2 28 16) = s.tumbler (wF h.words 2 28 16) + 1) ∧
      (wB h.words 0 15 = true → u.reg (seatReg n 0x28) = s.reg (seatReg n 0x28) + 1) := by
  have hne {o : Nat} (ho : o < 0x1C ∨ 0x1C < o) : seatReg n o ≠ seatReg n 0x1C := by
    simp only [seatReg, ctReg, partReg]
    omega
  have hreg {o : Nat} (ho : o < 0x100) (hjob : o ≠ 0x70) (hcons : o < 0x1C ∨ 0x1C < o) :
      t.reg (seatReg n o) = s.reg (seatReg n o) := hs.reg _ (spared_seatReg hn ho hjob) (hne hcons)
  have hcq : t.cqFull n = false := by
    rw [← hfull]
    simp only [cqFull, ringSize, regField, hreg (o := 0x24) (by decide) (by decide) (by decide),
      hreg (o := 0x28) (by decide) (by decide) (by decide), hs.cqAcc]
    rfl
  have hgo : t.mustHold n r = false := by simp [mustHold, hcq, hs.cqHeld, hheld]
  have hsame : { r with status := t.fenceStatus n r } = r := by
    rw [fenceStatus_of_no_bad (hs.fenceBad.trans hbad)]
  have hfind : t.findRun n h.index = some r := by simp [findRun, hone, hidx]
  have hend := endOf_fence (s := t) (n := n) (r := r) (by rw [hwords, hcode]) (by rw [hsame, hgo])
  have hnoted : t.fenceNoted n r = t := by simp [fenceNoted, hstatus]
  intro u
  have hu : u = t.runEnded n r := by
    rw [hsame, hnoted] at hend
    exact (descriptorComplete_of_ready hfind hvoid hlast hready).trans hend
  have heffect : (statusEffect (opcodeOf r.words) r.status).1 = true := by
    rw [hwords, hcode, hstatus]
    rfl
  rw [hu, ← hwords]
  refine ⟨running_runEnded fun q hq => ?_, ?_, fun hadvance => ?_, fun hint => ?_⟩
  · rw [hone] at hq
    rw [List.mem_singleton.1 hq]
  · rw [runEnded_reg hn t r (by decide) (by decide), hs.cons, hwords]
  · have hk := wF_advance_lt r.words
    have hlow := (tumblerReg_bounds hk).2
    have hfar := le_seatReg n 0x1C
    rw [runEnded_advanced hn t heffect hadvance, tumbler, hs.reg _ (spared_tumblerReg hk) (by omega), tumbler]
  · rw [runEnded_produced hn t (.inl hint), hreg (by decide) (by decide) (by decide)]

/-- Nothing precedes the one descriptor of a seat. -/
theorem runsBefore_of_one {r : Run} (hone : (s.seat n).running = [r]) : s.runsBefore n r.index = [] := by
  simp [runsBefore, hone]

theorem clearBefore_of_one {r : Run} (hone : (s.seat n).running = [r]) (k : Nat) : s.clearBefore n r.index k = true := by
  rw [clearBefore, runsBefore_of_one hone]
  rfl

theorem fabricClear_of_one {r : Run} (hone : (s.seat n).running = [r]) (hposted : ∀ w ∈ s.posted, w.seat ≠ n) (all : Bool)
    (dest : Nat) : s.fabricClear n r.index all dest = true := by
  rw [fabricClear, runsBefore_of_one hone]
  exact Bool.and_eq_true_iff.2 ⟨rfl, List.all_eq_true.2 fun w hw => by simp [hposted w hw]⟩

theorem cqHeld_of_readyHead (hready : s.readyHead n = some h) : (s.seat n).cqHeld = none := by
  unfold readyHead at hready
  split at hready
  · next hgo =>
    simp only [Bool.and_eq_true, Bool.not_eq_true', blocked, Bool.or_eq_false_iff] at hgo
    simpa using hgo.2.1
  · exact absurd hready (by simp)

/-! The read of a HOST fence (R271). -/

theorem mem_keys_of_find? {α : Type} {m : SMap α} {k : Nat} {v : α} (hfind : SMap.find? m k = some v) :
    k ∈ m.map Prod.fst := by
  induction m with
  | nil => exact absurd hfind (by simp [SMap.find?])
  | cons e m ih =>
    rw [SMap.find?] at hfind
    split at hfind
    · next hkey => exact List.mem_map.2 ⟨e, List.mem_cons_self, hkey⟩
    · exact List.mem_cons_of_mem _ (ih hfind)

/-- A seat with work is listed. -/
theorem mem_seatList_of_running {r : Run} (hr : r ∈ (s.seat n).running) : n ∈ s.seatList := by
  cases hfind : SMap.find? s.seats n with
  | some v => exact mem_keys_of_find? hfind
  | none =>
    rw [seat, SMap.get, hfind] at hr
    exact absurd hr (by simp [SeatRec.fresh])

/-- The HOST fence's read under `tag`. -/
def fenceRead (s : State) (n : Nat) (h : Head) (tag : Nat) : State :=
  (s.issueRead n h.index 0 0 0 tag true).modRun n h.index fun r =>
    { r with work := .fence 3 (fAll h.words) (fDest h.words) (some tag) }

/-- Where a HOST fence is the one descriptor in work of all seats and a tag is free, its read is the one that is issued. -/
theorem pumpReads_fence {tag : Nat} (hone : (s.seat n).running = [fenceRun h 3])
    (hothers : ∀ m, m ≠ n → (s.seat m).running = []) (htag : s.freeTag = some tag) :
    s.pumpReads = s.fenceRead n h tag := by
  have hissued : ((s.fenceRead n h tag).seat n).running =
      [{ fenceRun h 3 with work := .fence 3 (fAll h.words) (fDest h.words) (some tag) }] := by
    rw [fenceRead, modRun, seat_modSeat_same, seat_congr (issueRead_seats _ _ _ _ _ _ _ _), hone]
    exact congrArg (fun r => [r]) (if_pos rfl)
  have hquiet : (s.fenceRead n h tag).NoReadAsked := fun m r hr => by
    by_cases hm : m = n
    · rw [hm, hissued, List.mem_singleton] at hr
      rw [hr]
      rfl
    · rw [fenceRead, modRun, seat_modSeat_other _ _ hm, seat_congr (issueRead_seats _ _ _ _ _ _ _ _), hothers m hm] at hr
      exact absurd hr List.not_mem_nil
  have hstep : s.pumpRun n (fenceRun h 3) = s.fenceRead n h tag := by
    have hclear : s.clearBefore n (fenceRun h 3).index 3 = true := clearBefore_of_one hone 3
    simp only [pumpRun, htag]
    exact if_pos hclear
  have hfold (l : List Nat) (hl : n ∈ l) :
      l.foldl (fun s n => (s.seat n).running.foldl (pumpRun n) s) s = s.fenceRead n h tag := by
    induction l with
    | nil => exact absurd hl List.not_mem_nil
    | cons m l ih =>
      rw [List.foldl_cons]
      by_cases hm : m = n
      · rw [hm, hone, List.foldl_cons, List.foldl_nil, hstep]
        exact foldl_pump_of_noReadAsked hquiet l
      · rw [hothers m hm]
        exact ih ((List.mem_cons.1 hl).resolve_left fun he => hm he.symm)
  exact hfold s.seatList (mem_seatList_of_running (by rw [hone]; exact List.mem_singleton.2 rfl))

/-- A free tag is none of an outstanding read. -/
theorem freeTag_spec {tag : Nat} (htag : s.freeTag = some tag) : ∀ q ∈ s.hostReads, q.tag ≠ tag := by
  have hfree := List.find?_some (show (List.range 256).find? (fun t => s.hostReads.all fun q => decide (q.tag ≠ t)) =
    some tag from htag)
  exact fun q hq => of_decide_eq_true (List.all_eq_true.1 hfree q hq)

/-- The read of a HOST fence, as the host port holds it. -/
def fenceHostRead (n : Nat) (h : Head) (tag : Nat) : HostRead :=
  { tag := tag, seat := n, index := h.index, cs := 0, len := 0, fence := true }

/-- The read of a tag is out no longer. -/
def readForgotten (s : State) (tag : Nat) : State :=
  { s with hostReads := s.hostReads.filter fun q => decide (q.tag ≠ tag) }

/-- The state in which the read of a HOST fence has come back. -/
def fenceAnswered (s : State) (n : Nat) (h : Head) (tag : Nat) : State := (s.readForgotten tag).endRun n h.index 0

/-- The completion of a HOST fence's read ends the fence's work with SUCCESS. -/
theorem hostReadCompletion_fence {tag : Nat} (hfree : ∀ q ∈ s.hostReads, q.tag ≠ tag) (data : List Byte) :
    exec (.hostReadCompletion tag .success data) (s.fenceRead n h tag) =
      .next ((s.fenceRead n h tag).fenceAnswered n h tag).pumpReads := by
  have hreads : (s.fenceRead n h tag).hostReads = s.hostReads ++ [fenceHostRead n h tag] := by
    show (s.issueRead n h.index 0 0 0 tag true).hostReads = _
    rw [issueRead]
    rfl
  have hold : s.hostReads.find? (fun q => decide (q.tag = tag)) = none :=
    List.find?_eq_none.2 fun q hq => by simpa using hfree q hq
  have hfind : (s.fenceRead n h tag).hostReads.find? (fun q => decide (q.tag = tag)) = some (fenceHostRead n h tag) := by
    rw [hreads, List.find?_append, hold]
    simp [fenceHostRead]
  show execHostReadCompletion tag .success data _ = _
  rw [execHostReadCompletion, hfind]
  rfl

/-- A HOST fence whose read has come back is a run that is done, and asks for no read any more. -/
theorem fenceAnswered_spec {tag : Nat} (hone : (s.seat n).running = [fenceRun h 3])
    (hothers : ∀ m, m ≠ n → (s.seat m).running = []) :
    (((s.fenceRead n h tag).fenceAnswered n h tag).seat n).running = [{ fenceRun h 3 with work := .done }] ∧
      ((s.fenceRead n h tag).fenceAnswered n h tag).pumpReads = (s.fenceRead n h tag).fenceAnswered n h tag := by
  have hseats : ((s.fenceRead n h tag).readForgotten tag).seats = (s.fenceRead n h tag).seats := rfl
  have hdone : (((s.fenceRead n h tag).fenceAnswered n h tag).seat n).running =
      [{ fenceRun h 3 with work := .done }] := by
    rw [fenceAnswered, endRun, modRun, seat_modSeat_same, seat_congr hseats, fenceRead, modRun, seat_modSeat_same,
      seat_congr (issueRead_seats _ _ _ _ _ _ _ _), hone]
    simp [fenceRun, newRun]
  refine ⟨hdone, pumpReads_of_noReadAsked fun m r hr => ?_⟩
  by_cases hm : m = n
  · rw [hm, hdone, List.mem_singleton] at hr
    rw [hr]
    rfl
  · rw [fenceAnswered, endRun, modRun, seat_modSeat_other _ _ hm, seat_congr hseats, fenceRead, modRun,
      seat_modSeat_other _ _ hm, seat_congr (issueRead_seats _ _ _ _ _ _ _ _), hothers m hm] at hr
    exact absurd hr List.not_mem_nil

theorem FenceStarted.fenceAnswered {tag : Nat} (hs : FenceStarted s t n h) :
    FenceStarted s ((t.fenceRead n h tag).fenceAnswered n h tag) n h := by
  have hposted : (t.issueRead n h.index 0 0 0 tag true).posted = t.posted := by
    rw [issueRead]
    rfl
  have hregs : (t.issueRead n h.index 0 0 0 tag true).variant = t.variant ∧
      (t.issueRead n h.index 0 0 0 tag true).regs = t.regs := by
    rw [issueRead]
    exact ⟨rfl, rfl⟩
  have hread : FenceStarted s (t.fenceRead n h tag) n h :=
    hs.modRun hposted (issueRead_seats _ _ _ _ _ _ _ _) hregs.1 hregs.2 _ _
  exact hread.modRun (u := (t.fenceRead n h tag).readForgotten tag) rfl rfl rfl rfl _ _

end State

end Sys2Proof.Machine
end

section
/-! PROOFS. Fences. -/

namespace Sys2Proof.Proofs

open Sys2Proof.Machine Sys2Proof.Machine.State

/-- The command of a FENCE of KIND `kind`. -/
theorem exec_fence {s : State} {n : SeatNo} {c : Instr} {kind : Nat}
    (hc : (c = .fenceLocal n ∧ kind = 0) ∨ (c = .fenceChip n ∧ kind = 1) ∨ (c = .fenceFabric n ∧ kind = 2) ∨
      (c = .fenceHost n ∧ kind = 3)) : exec c s = .next (s.fenceStart n.val kind) ∧ kind ≤ 3 := by
  obtain ⟨rfl, rfl⟩ | ⟨rfl, rfl⟩ | ⟨rfl, rfl⟩ | ⟨rfl, rfl⟩ := hc <;> exact ⟨rfl, by decide⟩

/-- Settles O32: a FENCE enters its seat and waits there; what it covers holds it; its end is a completion with the status
of Table 9-4, which for the one descriptor of its seat is SUCCESS (R268, R270, R271, R273). -/
theorem fencesWait : Obligations.FencesWait := by
  refine ⟨fun s n h c kind hc hmine hstart hnew => ?_, fun s n idx r kind dest all tag hfind hwork hcovered => ?_,
    fun s n idx r hfind hvoid hcode hwork => ?_, fun s n h c kind hc hmine hstart hidle hbad hposted hfull => ?_⟩
  · have hwaits := (fenceWaits_fenceEntered (kind := kind) hnew).pumpReads
    rw [← fenceStart_of_canStart hmine hstart] at hwaits
    obtain ⟨r, hr, hidx⟩ : ∃ r ∈ ((s.fenceStart n.val kind).seat n.val).running, r.index = h.index := by
      refine List.mem_map.1 ?_
      rw [hwaits.indices]
      exact List.mem_append_right _ (List.mem_singleton.2 rfl)
    obtain ⟨hwords, hstatus, -, tag, hwork, htag⟩ := hwaits.fence r hr hidx
    exact ⟨_, tag, (exec_fence hc).1, ⟨r, hr, hidx, hwords, hwork, hstatus⟩, htag⟩
  · exact congrArg Host.Outcome.next (descriptorComplete_waits hfind hwork hcovered)
  · intro st i a hhold hoff
    have hidx : r.index = idx := of_decide_eq_true (List.find?_some hfind :)
    have hready : s.fenceReady n.val r = true ∧ s.lastWork n.val r = s := by
      obtain hdone | ⟨kind, all, dest, tag, hfence, hkind, hclear, hfabric⟩ := hwork
      · exact ⟨by simp [fenceReady, hdone], lastWork_done hdone⟩
      · exact ⟨fenceReady_fence hfence hkind hclear hfabric, lastWork_fence hfence⟩
    set q : Run := { r with status := st } with hq
    set u := s.fenceNoted n.val q with hu
    have hend : s.descriptorComplete n.val idx = u.runEnded n.val q :=
      (descriptorComplete_of_ready hfind hvoid hready.2 hready.1).trans (endOf_fence hcode hhold)
    have heffect : (statusEffect (opcodeOf q.words) q.status).1 = decide (st = 0) := by
      rw [hq, show opcodeOf r.words = 6 from hcode, statusEffect_fence]
    have hreg {o : Nat} (ho : o ≠ seatReg n.val 0x68) : u.reg o = s.reg o := fenceNoted_reg s q ho
    have hfar := le_seatReg n.val 0x68
    have hoff' : u.traceOff := by
      rw [traceOff, hreg (by unfold mgReg; omega)]
      exact hoff
    have htumbler : u.tumbler (wF r.words 2 28 16) = s.tumbler (wF r.words 2 28 16) := by
      have hlow := (tumblerReg_bounds (wF_advance_lt r.words)).2
      rw [tumbler, hreg (by omega), tumbler]
    have haddr : u.completionAddr n.val = a := by
      have hne {o : Nat} (ho : o < 0x68) : seatReg n.val o ≠ seatReg n.val 0x68 := by
        simp only [seatReg, ctReg, partReg]
        omega
      simp only [completionAddr, regN, regField, hreg (hne (show 0x20 < 0x68 by decide)),
        hreg (hne (show 0x24 < 0x68 by decide)), hreg (hne (show 0x28 < 0x68 by decide))]
      rfl
    have hbyte (x : Nat) : u.csByte x = s.csByte x := by rw [csByte, hu, fenceNoted_csMem, csByte]
    refine ⟨_, congrArg Host.Outcome.next hend, ?_, fun hzero hadvance => ?_, fun hfail => ?_, fun hreset => ?_,
      fun hdue => ?_, fun hint hzero => ?_⟩
    · rw [← hidx]
      exact findRun_runEnded u n.val q
    · rw [← htumbler]
      exact runEnded_advanced (r := q) n.isLt u (by rw [heffect, hzero]; rfl) hadvance
    · rw [← htumbler]
      exact runEnded_not_advanced (r := q) n.isLt u (by rw [heffect]; exact decide_eq_false hfail)
    · rw [runEnded_reg n.isLt u q (by decide) (by decide), hu, fenceNoted, if_pos hreset, reg_raise_same]
      simp [bit]
    · obtain ⟨hholds, honly⟩ := runEnded_record (r := q) n.isLt hoff' hdue
      rw [haddr] at hholds honly
      rw [hu, fenceNoted_now, show opcodeOf q.words = 6 from hcode] at hholds
      exact ⟨hholds, fun x hx => (honly x hx).trans (hbyte x)⟩
    · exact fun x => (runEnded_storeSame (r := q) n.isLt hoff' hint hzero x).trans (hbyte x)
  · obtain ⟨hexec, hkind⟩ := exec_fence (s := s) hc
    obtain ⟨hready, -⟩ := id hstart
    have hcode : opcodeOf h.words = 6 := (of_decide_eq_true hmine).1
    have hheld := cqHeld_of_readyHead hready
    rw [fenceStart_of_canStart hmine hstart] at hexec
    have hentered := fenceStarted_fenceEntered n.isLt s h kind
    obtain ⟨hrunning, -, -, -, -, hreads⟩ := fenceEntered_kept s n.val h kind
    rw [hidle, List.nil_append] at hrunning
    refine ⟨fun hlocal => ?_, ?_⟩
    · have hnew : s.newIndex n.val h := fun r hr => by
        rw [hidle] at hr
        exact absurd hr List.not_mem_nil
      have hwaits := (fenceWaits_fenceEntered (kind := kind) hnew).pumpReads
      set t := (s.fenceEntered n.val h kind).pumpReads
      obtain ⟨r, hone, hidx⟩ : ∃ r, (t.seat n.val).running = [r] ∧ r.index = h.index := by
        have hixs := hwaits.indices
        rw [hidle] at hixs
        exact List.map_eq_singleton_iff.1 hixs
      obtain ⟨hwords, hstatus, hvoid, tag, hwork, -⟩ := hwaits.fence r (by rw [hone]; exact List.mem_singleton.2 rfl) hidx
      have hstarted : FenceStarted s t n.val h := hentered.pumpReads n.isLt
      have hposted' : ∀ w ∈ t.posted, w.seat ≠ n.val := by rwa [hstarted.posted]
      exact ⟨t, _, hexec, rfl, hstarted.ended n.isLt hcode hbad hheld hfull hone hidx hwords hstatus hvoid
        (lastWork_fence hwork) (fenceReady_fence hwork (by omega) (clearBefore_of_one hone kind)
          fun _ => fabricClear_of_one hone hposted' _ _)⟩
    · rintro rfl hothers htag
      obtain ⟨tag, htag⟩ := Option.isSome_iff_exists.1 htag
      set e := s.fenceEntered n.val h 3 with he
      have hfree : e.freeTag = some tag := by rw [freeTag, hreads]; exact htag
      have hothers' (m : Nat) (hm : m ≠ n.val) : (e.seat m).running = [] := by
        have hstart : (s.start n.val h 0xFF).seats = (s.modSeat n.val fun r => { r with head := none }).seats :=
          (trace_kept _ _ _ _ _ _ _).1
        rw [he, fenceEntered, addRun_seat_other _ _ hm, seat_congr hstart, seat_modSeat_other _ _ hm, hothers m hm]
      rw [pumpReads_fence hrunning hothers' hfree] at hexec
      obtain ⟨hdone, hquiet⟩ := fenceAnswered_spec (tag := tag) hrunning hothers'
      refine ⟨_, tag, hexec, fun data => ⟨_, _, hostReadCompletion_fence (freeTag_spec hfree) data, rfl, ?_⟩⟩
      rw [hquiet]
      exact (FenceStarted.fenceAnswered hentered).ended n.isLt hcode hbad hheld hfull hdone rfl rfl rfl rfl
        (lastWork_done rfl) rfl

end Sys2Proof.Proofs
end

section
/-! SUPPORT. The steps of a partition reset, and what they leave alone (R407, R408, R425). -/

namespace Sys2Proof.Machine

/-- A register that no step of a partition reset writes after the first: EC_RESET_CAUSE, and the registers of partitions
but for the CT_SYNC_LOG of their seats. -/
def ResetSpared (r : Nat) : Prop := 0x30040 ≤ r ∧ r < 0x30050 ∨ 0x2000000 ≤ r ∧ r % 0x100 ≠ 0x68

theorem ResetSpared.ne_msix {r : Nat} (h : ResetSpared r) : blockOf r ≠ .msix := by
  obtain ⟨hlo, hhi⟩ | ⟨hlo, -⟩ := h
  · have hblock : r / 0x10000 = 3 := by omega
    simp [blockOf, hblock]
  · have hblock : 0x200 ≤ r / 0x10000 := by omega
    unfold blockOf
    generalize r / 0x10000 = b at hblock ⊢
    dsimp only
    iterate 13 rw [if_neg (by omega)]
    split
    · split <;> exact Block.noConfusion
    · exact Block.noConfusion

/-- From `s` to `t` the spared registers stay, no partition's wake begins or ends, and a seat that has no descriptor or no
ward key gets none. -/
structure ResetStep (s t : State) : Prop where
  variant : t.variant = s.variant
  wakeAt  : ∀ p, (t.part p).wakeAt = (s.part p).wakeAt
  idle    : ∀ m, (s.seat m).running = [] → (t.seat m).running = []
  keyless : ∀ m, (s.seat m).wardKey = none → (t.seat m).wardKey = none
  reg     : ∀ r, ResetSpared r → t.reg r = s.reg r

namespace ResetStep

variable {s t u : State}

theorem refl (s : State) : ResetStep s s := ⟨rfl, fun _ => rfl, fun _ h => h, fun _ h => h, fun _ _ => rfl⟩

theorem trans (h : ResetStep s t) (k : ResetStep t u) : ResetStep s u :=
  ⟨k.variant.trans h.variant, fun p => (k.wakeAt p).trans (h.wakeAt p), fun m hm => k.idle m (h.idle m hm),
    fun m hm => k.keyless m (h.keyless m hm), fun r hr => (k.reg r hr).trans (h.reg r hr)⟩

/-- The records of seats and partitions stay. -/
theorem of_reg (hvariant : t.variant = s.variant) (hparts : t.parts = s.parts) (hseats : t.seats = s.seats)
    (hreg : ∀ r, ResetSpared r → t.reg r = s.reg r) : ResetStep s t :=
  ⟨hvariant, fun p => by rw [State.part_congr hparts], fun m h => by rwa [State.seat_congr hseats],
    fun m h => by rwa [State.seat_congr hseats], hreg⟩

theorem of_eq (hvariant : t.variant = s.variant) (hparts : t.parts = s.parts) (hseats : t.seats = s.seats)
    (hregs : t.regs = s.regs) : ResetStep s t :=
  of_reg hvariant hparts hseats fun r _ => State.reg_congr hvariant hregs r

theorem ite {c : Prop} [Decidable c] {a b : State} (h : ResetStep s a) (k : ResetStep s b) :
    ResetStep s (if c then a else b) := by
  split
  · exact h
  · exact k

theorem fold {α : Type} {f : State → α → State} {l : List α} (h : ∀ x ∈ l, ∀ u, ResetStep u (f u x)) (s : State) :
    ResetStep s (l.foldl f s) := by
  induction l generalizing s with
  | nil => exact refl s
  | cons x l ih => exact (h x List.mem_cons_self s).trans (ih (fun y hy => h y (List.mem_cons_of_mem _ hy)) _)

/-! Registers, and the records of the state. -/

theorem setReg {off : Nat} (s : State) (v : Word) (h : ¬ ResetSpared off) : ResetStep s (s.setReg off v) :=
  of_reg rfl rfl rfl fun _ hr => State.reg_setReg_other s v fun he => h (he ▸ hr)

theorem raise {off : Nat} (s : State) (mask : Nat) (h : ¬ ResetSpared off) : ResetStep s (s.raise off mask) :=
  setReg s _ h

theorem bumpObj (s : State) (i j k : Nat) : ResetStep s (s.bumpObj i j k) := of_eq rfl rfl rfl rfl

theorem modSeat (s : State) (n : Nat) {f : SeatRec → SeatRec} (hidle : ∀ r, r.running = [] → (f r).running = [])
    (hkeyless : ∀ r, r.wardKey = none → (f r).wardKey = none) : ResetStep s (s.modSeat n f) := by
  refine ⟨rfl, fun _ => rfl, fun m h => ?_, fun m h => ?_, fun _ _ => rfl⟩ <;> by_cases hm : m = n
  · rw [hm] at h ⊢
    rw [State.seat_modSeat_same]
    exact hidle _ h
  · rwa [State.seat_modSeat_other _ _ hm]
  · rw [hm] at h ⊢
    rw [State.seat_modSeat_same]
    exact hkeyless _ h
  · rwa [State.seat_modSeat_other _ _ hm]

theorem modPart (s : State) (p : Nat) {f : PartRec → PartRec} (h : ∀ r, (f r).wakeAt = r.wakeAt) :
    ResetStep s (s.modPart p f) := by
  refine ⟨rfl, fun q => ?_, fun _ h => h, fun _ h => h, fun _ _ => rfl⟩
  by_cases hq : q = p
  · rw [hq, State.part_modPart_same, h]
  · rw [State.modPart, State.part_setPart_other _ _ hq]

theorem refreshWd (s : State) (n : Nat) : ResetStep s (s.refreshWd n) := by
  refine ⟨State.refreshWd_variant _ _, fun p => ?_, fun m h => ?_, fun m h => ?_,
    fun r _ => State.reg_congr (State.refreshWd_variant _ _) (State.refreshWd_regs _ _) r⟩
  · obtain ⟨w, hw⟩ := State.refreshWd_part s n p
    rw [hw]
  · obtain ⟨w, hw⟩ := State.refreshWd_seat s n m
    rwa [hw]
  · obtain ⟨w, hw⟩ := State.refreshWd_seat s n m
    rwa [hw]

theorem haspDue (s : State) (b : Bool) (f : LineOp → Bool) : ResetStep s (s.haspDue b f) := by
  refine ⟨rfl, fun _ => rfl, fun m h => ?_, fun m h => ?_, fun _ _ => rfl⟩ <;> rw [State.haspDue_seat]
  · simp only [h, State.dueRuns, List.map_nil]
  · exact h

/-! What a reset does to the recorder, the trace and the forfeits (R385, R410, R474). -/

theorem trace (s : State) (n tag opcode event st unit : Nat) :
    ResetStep s (s.trace n tag opcode event st unit) := by
  obtain ⟨hseats, -, hreg⟩ := State.trace_kept s n tag opcode event st unit
  obtain ⟨-, -, hvariant, hparts⟩ := State.trace_apart s n tag opcode event st unit
  refine of_reg hvariant hparts hseats fun r hr => hreg r ?_
  unfold ResetSpared at hr
  unfold mgReg
  omega

theorem setRec {rec_ : Recorder} (h : ResetStep s t) : ResetStep s { t with rec_ := rec_ } :=
  h.trans (of_eq rfl rfl rfl rfl)

theorem indexDrawn (s : State) (step first count flags : Nat) (digest : List Byte) :
    ResetStep s (s.indexEntry step first count flags digest).draw := of_eq rfl rfl rfl rfl

theorem recorderLost (s : State) : ResetStep s s.recorderLost := by
  unfold State.recorderLost
  split
  · exact (refl s).setRec
  · refine (ite (refl s) (indexDrawn s _ _ _ _ _)).setRec.trans (raise _ _ ?_)
    unfold ResetSpared ecReg
    omega

theorem tdiError (s : State) (n : Nat) : ResetStep s (s.tdiError n) := by
  refine ⟨by rw [State.tdiError_frame], fun p => by rw [State.tdiError_frame]; rfl, fun m h => ?_, fun m h => ?_,
    fun r hr => State.reg_tdiError s n (by unfold ResetSpared at hr; omega)⟩
  · obtain ⟨d, hd⟩ := State.tdiError_seat s n m
    rwa [hd]
  · obtain ⟨d, hd⟩ := State.tdiError_seat s n m
    rwa [hd]

theorem traceLost (s : State) (n : Nat) : ResetStep s (s.traceLost n) :=
  of_reg (by rw [State.traceLost_frame]) (by rw [State.traceLost_frame]) (State.traceLost_seats s n)
    fun r hr => State.reg_traceLost s n (by unfold ResetSpared at hr; omega)

theorem logFault (s : State) (mask : Nat) : ResetStep s (s.logFault mask) := by
  obtain ⟨regs, bad, fn, ec, out, h, -⟩ := State.raiseEc_frame s 8 mask
  refine of_reg (by rw [State.logFault, h]) (by rw [State.logFault, h]) (by rw [State.logFault, h])
    fun r hr => State.reg_raiseEc_other s mask ?_ hr.ne_msix
  unfold ResetSpared at hr
  unfold ecReg
  omega

theorem queueCtrlAll (s : State) (ports : List Nat) (body : List Byte) : ResetStep s (s.queueCtrlAll ports body) :=
  fold (f := fun u n => u.queueCtrl n body) (fun n _ u => of_eq (t := u.queueCtrl n body) rfl rfl rfl rfl) s

theorem originate (s : State) (j cause n : Nat) : ResetStep s (s.originate j cause n) := by
  unfold State.originate
  extract_lets effect tag me body f seen ec u
  have hu : ResetStep s u := of_eq rfl rfl rfl rfl
  clear_value u
  refine ite (refl s) (((hu.trans (queueCtrlAll u u.upPorts body)).trans (logFault _ 0x80)).trans (bumpObj _ _ _ _))

/-! What it does to seats and their memory (R407). -/

theorem setWork {hostReads : List HostRead} {launches : List Launch} (h : ResetStep s t) :
    ResetStep s { t with hostReads := hostReads, launches := launches } := h.trans (of_eq rfl rfl rfl rfl)

theorem dropCells (s : State) (n : Nat) : ResetStep s (s.dropCells n) := by
  obtain ⟨ports, posted, h⟩ := State.dropCells_frame s n
  rw [h]
  exact of_eq rfl rfl rfl rfl

/-- A seat that is void at the hard end has no descriptor left, and no other gets one. -/
theorem voidSeat (s : State) (n : Nat) : ResetStep s (s.voidSeat n true) := by
  unfold State.voidSeat
  extract_lets runs keep s1 s2 reads launches s3 s4 s5
  have h1 : ResetStep s s1 := fold (fun r _ u => ite (refl u) (trace u _ _ _ _ _ _)) s
  have h2 : ResetStep s1 s2 :=
    ite (fold (fun a _ u => ite (of_eq (t := u.freeArray (n / 16) a) rfl rfl rfl rfl) (refl u)) s1) (refl s1)
  have h4 : ResetStep s2 s4 := (dropCells s2 n).setWork
  have hkeep : keep = [] := if_pos rfl
  have h5 : ResetStep s4 s5 := modSeat s4 n (fun _ _ => hkeep) fun _ h => h
  exact (((h1.trans h2).trans h4).trans h5).trans (refreshWd s5 n)

theorem clearSlots (s : State) (p : Nat) (sel : Nat → Bool) : ResetStep s (s.clearSlots p sel) :=
  fold (fun a _ u => of_eq (State.modArr_variant u p a _) (State.modArr_parts u p a _) (State.modArr_seats u p a _)
    (State.modArr_regs u p a _)) s

theorem dropLines (s : State) (drop : CacheLine → Bool) : ResetStep s (s.dropLines drop) := of_eq rfl rfl rfl rfl

theorem setFills {fills : List (Nat × Nat)} (h : ResetStep s t) : ResetStep s { t with fills := fills } :=
  h.trans (of_eq rfl rfl rfl rfl)

theorem csClear (s : State) (a k : Nat) : ResetStep s (s.csClear a k) := of_eq rfl rfl rfl rfl

theorem dropKey (s : State) (n : Nat) : ResetStep s (s.modSeat n fun r => { r with wardKey := none }) :=
  modSeat s n (f := fun r => { r with wardKey := none }) (fun _ h => h) fun _ _ => rfl

theorem shortfall {k : Nat} (hk : k < 12) (s : State) : ResetStep s (s.shortfall k) := by
  unfold State.shortfall
  extract_lets u
  have hreg (o : Nat) (ho : o < 0x10000) : ¬ ResetSpared (hbReg k o) := by
    unfold ResetSpared hbReg
    omega
  have hstack (v : State) (f : StackRec → StackRec) : ResetStep v (v.modStack k f) := of_eq rfl rfl rfl rfl
  have hu : ResetStep s u := by
    refine fold (fun p _ v => ?_) s
    split
    · exact ite ((hstack v _).trans (raise _ _ (hreg 0xC (by decide)))) (refl v)
    · exact ite (refl v) ((hstack v _).trans (bumpObj _ _ _ _))
  exact hu.trans (setReg u _ (hreg 8 (by decide)))

theorem reserve (s : State) (n v : Nat) : ResetStep s (s.reserve n v) := by
  refine trans (t := s.setObj (0x2600 + n / 16) (n % 16 + 1) v) (of_eq rfl rfl rfl rfl) ?_
  exact fold (fun k hk u => shortfall (List.mem_range.1 hk) u) _

theorem endTargetReset (s : State) (p : Nat) : ResetStep s (s.endTargetReset p) := by
  have hlog (n : Nat) : ¬ ResetSpared (seatReg n 0x68) := by
    simp only [ResetSpared, seatReg, ctReg, partReg]
    omega
  refine fold (fun n _ u => ite (refl u) (ite ?_ (ite ?_ (refl u)))) s
  · refine trans ?_ (raise _ _ (hlog n))
    exact modSeat u n (fun r h => by simp [h]) fun _ h => h
  · exact modSeat u n (fun _ h => h) fun _ h => h

theorem csWin (h : ResetStep s t) (n : Nat) : t.csWin n = s.csWin n := by
  have hspared (o : Nat) (ho : o < 0x68) : ResetSpared (seatReg n o) := by
    simp only [ResetSpared, seatReg, ctReg, partReg]
    omega
  simp only [State.csWin, State.win, State.regN, h.reg _ (hspared 4 (by decide)), h.reg _ (hspared (4 + 4) (by decide))]

end ResetStep

namespace State

variable {s t : State} {p : Nat} {c : ResetCause}

/-! The stages of the start of a partition reset. -/

/-- The jobs of seats. -/
def resetJobs (s : State) (p : Nat) : List Nat := (((s.partSeats p).map s.job).filter fun j => decide (j ≠ 0)).dedup

/-- The cause is captured, the shaker's tests are given up, and a CREATE or RELEASE in progress has its answer. -/
def resetAnswered (s : State) (p : Nat) (c : ResetCause) : State :=
  ((s.captureCause p c).takeBack p fun _ => true).abortCommand p

/-- A seat's work is void, and its TDI in ERROR. -/
def seatVoided (s : State) (n : Nat) : State := (s.voidSeat n true).tdiError n

/-- The recorder has lost its seat, and the work of the seats is void. -/
def resetVoided (s : State) (p : Nat) (seats : List Nat) : State :=
  seats.foldl seatVoided (if s.recorderSeat / 16 = p then s.recorderLost else s)

/-- The partition is under reset. -/
def resetBegun (s : State) (p : Nat) (c : ResetCause) (jobs : List Nat) : State :=
  s.modPart p fun r => { r with resetting := some { cause := c, start := s.uptime, jobs := jobs }, lowV := false }

/-- The jobs are forfeited, and group slots, cache lines and operations on the partition's memory are gone. -/
def resetDropped (s : State) (p : Nat) (c : ResetCause) (seats jobs : List Nat) : State :=
  let s := jobs.foldl (fun s j => s.originate j (forfeitOf c)
    ((seats.filter fun n => decide (s.job n = j)).headD 0)) s
  let s := (s.clearSlots p fun _ => true).dropLines fun l => decide (l.part = p)
  let s := { s with fills := s.fills.filter fun f => decide (f.1 ≠ p) }
  (s.endTargetReset p).haspDue true fun _ => true

/-- A seat's window, ward key and reserved bandwidth are cleared. -/
def seatCleared (s : State) (n : Nat) : State :=
  ((s.csClear (s.csWin n).1 ((s.csWin n).2 - (s.csWin n).1)).modSeat n fun r => { r with wardKey := none }).reserve n 0

/-- What follows the mark of the reset. -/
def resetRun (s : State) (p : Nat) (c : ResetCause) (seats jobs : List Nat) : State :=
  let s := seats.foldl seatCleared (s.resetDropped p c seats jobs)
  s.traceLost (seats.find? (fun n => decide (s.regField (mgReg 0x110) 24 16 = n)) |>.getD 512)

theorem startPartReset_eq (c : ResetCause) (hp : partPresent s.variant p = true) (hidle : (s.part p).resetting = none)
    (hwake : (s.part p).wakeAt = none) :
    s.startPartReset p c = (((s.resetAnswered p c).resetVoided p (s.partSeats p)).resetBegun p c
      (s.resetJobs p)).resetRun p c (s.partSeats p) (s.resetJobs p) := by
  unfold startPartReset
  rw [if_neg (by simp [hp, hidle]), if_neg (by simp [hwake])]
  rfl

theorem resetAnswered_kept (s : State) (p : Nat) (c : ResetCause) :
    (s.resetAnswered p c).variant = s.variant ∧ (s.resetAnswered p c).parts = s.parts ∧
      (s.resetAnswered p c).seats = s.seats := by
  have hcapture : (s.captureCause p c).variant = s.variant ∧ (s.captureCause p c).parts = s.parts ∧
      (s.captureCause p c).seats = s.seats := by
    unfold captureCause
    extract_lets off i
    split <;> exact ⟨rfl, rfl, rfl⟩
  unfold resetAnswered abortCommand
  extract_lets res
  split <;> exact hcapture

theorem seatVoided_step (s : State) (n : Nat) : ResetStep s (s.seatVoided n) :=
  (ResetStep.voidSeat s n).trans (ResetStep.tdiError _ n)

theorem seatsVoided_step (s : State) (seats : List Nat) : ResetStep s (seats.foldl seatVoided s) :=
  ResetStep.fold (fun n _ u => seatVoided_step u n) s

theorem resetVoided_step (s : State) (p : Nat) (seats : List Nat) : ResetStep s (s.resetVoided p seats) :=
  (ResetStep.ite (ResetStep.recorderLost s) (ResetStep.refl s)).trans (seatsVoided_step _ seats)

theorem resetBegun_step (s : State) (p : Nat) (c : ResetCause) (jobs : List Nat) :
    ResetStep s (s.resetBegun p c jobs) := ResetStep.modPart s p fun _ => rfl

theorem resetDropped_step (s : State) (p : Nat) (c : ResetCause) (seats jobs : List Nat) :
    ResetStep s (s.resetDropped p c seats jobs) := by
  unfold resetDropped
  extract_lets s1 s2 s3
  have h1 : ResetStep s s1 := ResetStep.fold (fun j _ u => ResetStep.originate u j _ _) s
  have h2 : ResetStep s1 s2 := (ResetStep.clearSlots s1 p _).trans (ResetStep.dropLines _ _)
  have h3 : ResetStep s2 s3 := (ResetStep.refl s2).setFills
  exact ((h1.trans h2).trans h3).trans ((ResetStep.endTargetReset s3 p).trans (ResetStep.haspDue _ _ _))

theorem seatCleared_step (s : State) (n : Nat) : ResetStep s (s.seatCleared n) :=
  ((ResetStep.csClear s _ _).trans (ResetStep.dropKey _ n)).trans (ResetStep.reserve _ n 0)

theorem seatsCleared_step (s : State) (seats : List Nat) : ResetStep s (seats.foldl seatCleared s) :=
  ResetStep.fold (fun n _ u => seatCleared_step u n) s

theorem resetRun_step (s : State) (p : Nat) (c : ResetCause) (seats jobs : List Nat) :
    ResetStep s (s.resetRun p c seats jobs) :=
  ((resetDropped_step s p c seats jobs).trans (seatsCleared_step _ seats)).trans (ResetStep.traceLost _ _)

/-- From the answer to the end of the start. -/
theorem startPartReset_step (hp : partPresent s.variant p = true) (hidle : (s.part p).resetting = none)
    (hwake : (s.part p).wakeAt = none) : ResetStep (s.resetAnswered p c) (s.startPartReset p c) := by
  rw [startPartReset_eq c hp hidle hwake]
  exact ((resetVoided_step _ _ _).trans (resetBegun_step _ _ _ _)).trans (resetRun_step _ _ _ _ _)

/-! The seats of the partition. -/

theorem idle_seatVoided (s : State) (n : Nat) : ((s.seatVoided n).seat n).running = [] := by
  obtain ⟨runs, w, hvoid, -, hnone⟩ := voidSeat_seat s n true
  refine (ResetStep.tdiError _ n).idle n ?_
  rw [hvoid]
  exact hnone rfl

theorem idle_seatsVoided {seats : List Nat} {n : Nat} (hn : n ∈ seats) (s : State) :
    ((seats.foldl seatVoided s).seat n).running = [] := by
  induction seats generalizing s with
  | nil => exact absurd hn List.not_mem_nil
  | cons m l ih =>
    rw [List.foldl_cons]
    by_cases hl : n ∈ l
    · exact ih hl _
    · obtain rfl : n = m := (List.mem_cons.1 hn).resolve_right hl
      exact (seatsVoided_step _ l).idle n (idle_seatVoided s n)

theorem keyless_seatCleared (s : State) (n : Nat) : ((s.seatCleared n).seat n).wardKey = none := by
  refine (ResetStep.reserve _ n 0).keyless n ?_
  rw [seat_modSeat_same]

theorem keyless_seatsCleared {seats : List Nat} {n : Nat} (hn : n ∈ seats) (s : State) :
    ((seats.foldl seatCleared s).seat n).wardKey = none := by
  induction seats generalizing s with
  | nil => exact absurd hn List.not_mem_nil
  | cons m l ih =>
    rw [List.foldl_cons]
    by_cases hl : n ∈ l
    · exact ih hl _
    · obtain rfl : n = m := (List.mem_cons.1 hn).resolve_right hl
      exact (seatsCleared_step _ l).keyless n (keyless_seatCleared s n)

theorem shortfall_csMem (s : State) (k : Nat) : (s.shortfall k).csMem = s.csMem := by
  unfold shortfall
  extract_lets u
  have hu : u.csMem = s.csMem := foldl_frame State.csMem (fun v p => by split <;> split <;> rfl) s.partList s
  exact hu

theorem reserve_csMem (s : State) (n v : Nat) : (s.reserve n v).csMem = s.csMem :=
  foldl_frame State.csMem shortfall_csMem _ _

theorem csByte_seatCleared (s : State) (n x : Nat) :
    (s.seatCleared n).csByte x = if (s.csWin n).1 ≤ x ∧ x < (s.csWin n).2 then 0 else s.csByte x := by
  have hwin : (s.csWin n).1 ≤ (s.csWin n).2 := Nat.le_add_right _ _
  have hlen : (s.csWin n).1 + ((s.csWin n).2 - (s.csWin n).1) = (s.csWin n).2 := by omega
  rw [csByte, seatCleared, reserve_csMem, modSeat_csMem, ← csByte, csByte_csClear, hlen]

/-- Bytes that are clear stay so, and those of the seats' windows are cleared. -/
theorem csByte_seatsCleared {win : Nat → Nat × Nat} {x : Nat} (seats : List Nat) (hwin : ∀ n, s.csWin n = win n)
    (hx : s.csByte x = 0 ∨ ∃ n ∈ seats, (win n).1 ≤ x ∧ x < (win n).2) : (seats.foldl seatCleared s).csByte x = 0 := by
  induction seats generalizing s with
  | nil => exact hx.resolve_right fun ⟨_, hn, _⟩ => absurd hn List.not_mem_nil
  | cons m l ih =>
    rw [List.foldl_cons]
    refine ih (fun n => ((seatCleared_step s m).csWin n).trans (hwin n)) ?_
    rw [csByte_seatCleared, hwin]
    by_cases hm : (win m).1 ≤ x ∧ x < (win m).2
    · exact .inl (if_pos hm)
    · rw [if_neg hm]
      refine hx.imp_right fun ⟨n, hn, hin⟩ => ⟨n, (List.mem_cons.1 hn).resolve_left ?_, hin⟩
      rintro rfl
      exact hm hin

/-! What the first step writes (R55, R425). -/

theorem lt_of_partPresent {v : Variant} (hp : partPresent v p = true) : p < 32 := by
  revert hp
  cases v <;> simp [partPresent]
  omega

theorem field_setField {hi lo v : Nat} (w : Word) (hhi : hi < 32) (hv : v < 2 ^ (hi + 1 - lo)) :
    field (setField w hi lo v) hi lo = v := by
  refine Nat.eq_of_testBit_eq fun i => ?_
  rw [field, Nat.testBit_mod_two_pow, Nat.testBit_shiftRight, ← BitVec.getLsbD, setField]
  by_cases hin : i < hi + 1 - lo
  · have hword : lo + i < 32 := by omega
    simp only [BitVec.getLsbD_or, BitVec.getLsbD_and, BitVec.getLsbD_not, BitVec.getLsbD_ofNat, Nat.testBit_shiftLeft,
      Nat.testBit_two_pow_sub_one]
    simp [hin, hword]
  · have hhigh : v.testBit i = false :=
      Nat.testBit_lt_two_pow (Nat.lt_of_lt_of_le hv (Nat.pow_le_pow_right (by decide) (by omega)))
    simp [hin, hhigh]

theorem causeCode_lt (c : ResetCause) : causeCode c < 16 := by cases c <;> decide

theorem regField_captureCause (h : s.regField (ecReg (0x40 + p / 8 * 4)) (4 * (p % 8) + 3) (4 * (p % 8)) = 0) :
    (s.captureCause p c).regField (ecReg (0x40 + p / 8 * 4)) (4 * (p % 8) + 3) (4 * (p % 8)) = causeCode c := by
  unfold captureCause
  rw [if_pos h, regField, setRegField, reg_setReg_same]
  refine field_setField _ (by omega) ?_
  have hwidth : 4 * (p % 8) + 3 + 1 - 4 * (p % 8) = 4 := by omega
  rw [hwidth]
  exact causeCode_lt c

theorem reg_captureCause {r : Nat} (s : State) (c : ResetCause) (h : r ≠ ecReg (0x40 + p / 8 * 4)) :
    (s.captureCause p c).reg r = s.reg r := by
  unfold captureCause
  extract_lets off i
  split
  · exact reg_setReg_other s _ h
  · rfl

theorem reg_abortCommand {r : Nat} (s : State) (h : r ≠ ctReg p 4) : (s.abortCommand p).reg r = s.reg r := by
  unfold abortCommand
  extract_lets res
  split
  · exact reg_seatResult_other _ _ h
  · rfl

theorem reg_resetAnswered {r : Nat} (s : State) (c : ResetCause) (hanswer : r ≠ ctReg p 4)
    (hcause : r ≠ ecReg (0x40 + p / 8 * 4)) : (s.resetAnswered p c).reg r = s.reg r :=
  (reg_abortCommand _ hanswer).trans (reg_captureCause s c hcause)

/-- EC_RESET_CAUSE has the cause where it had none. -/
theorem regField_resetAnswered (h : s.regField (ecReg (0x40 + p / 8 * 4)) (4 * (p % 8) + 3) (4 * (p % 8)) = 0) :
    (s.resetAnswered p c).regField (ecReg (0x40 + p / 8 * 4)) (4 * (p % 8) + 3) (4 * (p % 8)) = causeCode c := by
  have hne : ecReg (0x40 + p / 8 * 4) ≠ ctReg p 4 := by
    simp only [ecReg, ctReg, partReg]
    omega
  rw [← regField_captureCause (c := c) h, regField, resetAnswered, reg_abortCommand _ hne]
  rfl

/-- A command in progress is answered PARTITION_RESETTING. -/
theorem reg_resetAnswered_busy (hbusy : bit (s.reg (ctReg p 4)) 31 = true) :
    (s.resetAnswered p c).reg (ctReg p 4) = BitVec.ofNat 32 (s.regField (ctReg p 4) 11 8 * 2 ^ 8 + 7) := by
  have hres : ((s.captureCause p c).takeBack p fun _ => true).reg (ctReg p 4) = s.reg (ctReg p 4) :=
    reg_captureCause s c (by simp only [ecReg, ctReg, partReg]; omega)
  rw [resetAnswered, abortCommand, hres, if_pos hbusy]
  refine (reg_seatResult_same _ _ _ _ _).trans ?_
  rw [b2n, if_neg Bool.false_ne_true, Nat.zero_mul, Nat.zero_add, regField]

/-- The seats that were not FREE have no descriptor, no ward key and no byte in their windows left (R407). -/
theorem startPartReset_seats (hp : partPresent s.variant p = true) (hidle : (s.part p).resetting = none)
    (hwake : (s.part p).wakeAt = none) {n : Nat} (hn : n ∈ s.partSeats p) :
    ((s.startPartReset p c).seat n).running = [] ∧ ((s.startPartReset p c).seat n).wardKey = none ∧
      ∀ x, (s.csWin n).1 ≤ x → x < (s.csWin n).2 → (s.startPartReset p c).csByte x = 0 := by
  set a := s.resetAnswered p c with ha
  set v := a.resetVoided p (s.partSeats p) with hv
  set b := v.resetBegun p c (s.resetJobs p) with hb
  set d := b.resetDropped p c (s.partSeats p) (s.resetJobs p) with hd
  have hab : ResetStep a b := (resetVoided_step _ _ _).trans (resetBegun_step _ _ _ _)
  have hbd : ResetStep b d := resetDropped_step _ _ _ _ _
  have hwin (m : Nat) : d.csWin m = s.csWin m := by
    have hreg (o : Nat) (ho : o < 0x68) : a.reg (seatReg m o) = s.reg (seatReg m o) := by
      refine reg_resetAnswered s c ?_ ?_
      · simp only [seatReg, ctReg, partReg]
        omega
      · have hfar := le_seatReg m o
        have hlow := lt_of_partPresent hp
        unfold ecReg
        omega
    rw [(hab.trans hbd).csWin]
    simp only [csWin, win, regN, hreg 4 (by decide), hreg (4 + 4) (by decide)]
  rw [startPartReset_eq c hp hidle hwake]
  refine ⟨(resetRun_step _ _ _ _ _).idle n (idle_seatsVoided hn _), ?_, fun x hlo hhi => ?_⟩
  · exact (ResetStep.traceLost _ _).keyless n (keyless_seatsCleared hn d)
  · have hclear := csByte_seatsCleared (s := d) (x := x) (s.partSeats p) hwin (.inr ⟨n, hn, hlo, hhi⟩)
    rw [csByte, resetRun, traceLost_frame]
    exact hclear

/-! Several partitions (R395, R408). -/

/-- A reset that starts is of its partition alone. -/
theorem startPartReset_other {q : Nat} (hp : partPresent s.variant p = true) (hidle : (s.part p).resetting = none)
    (hwake : (s.part p).wakeAt = none) (hq : q ≠ p) :
    ((s.startPartReset p c).part q).resetting = (s.part q).resetting := by
  have hanswered : Sticky s (s.resetAnswered p c) :=
    ((Sticky.captureCause s p c).trans (Sticky.takeBack _ p _)).trans (Sticky.abortCommand _ p)
  have hvoided (u : State) (seats : List Nat) : Sticky u (u.resetVoided p seats) :=
    (Sticky.ite (Sticky.recorderLost u) (Sticky.refl u)).trans
      (Sticky.fold (f := seatVoided) (fun v n => (Sticky.voidSeat v n true).trans (Sticky.tdiError _ n)) seats _)
  have hbegun (u : State) (jobs : List Nat) : ((u.resetBegun p c jobs).part q) = u.part q := part_setPart_other _ _ hq
  have hdropped (u : State) (seats jobs : List Nat) : Sticky u (u.resetDropped p c seats jobs) := by
    unfold resetDropped
    extract_lets s1 s2 s3
    have h1 : Sticky u s1 := Sticky.fold (fun v j => Sticky.originate v j _ _) jobs u
    have h2 : Sticky s1 s2 := (Sticky.clearSlots s1 p _).trans (Sticky.dropLines _ _)
    have h3 : Sticky s2 s3 := (Sticky.refl s2).set
    exact ((h1.trans h2).trans h3).trans ((Sticky.endTargetReset s3 p).trans (Sticky.haspDue _ _ _))
  have hrun (u : State) (seats jobs : List Nat) : Sticky u (u.resetRun p c seats jobs) :=
    ((hdropped u seats jobs).trans (Sticky.fold (f := seatCleared) Sticky.seatCleared seats _)).trans
      (Sticky.traceLost _ _)
  rw [startPartReset_eq c hp hidle hwake, (hrun _ _ _).resets, hbegun, (hvoided _ _).resets, hanswered.resets]

/-- What a reset's start does to the resets and wakes of all partitions. -/
theorem startPartReset_parts (s : State) (p : Nat) (c : ResetCause) :
    (s.startPartReset p c).variant = s.variant ∧ (∀ q, ((s.startPartReset p c).part q).wakeAt = (s.part q).wakeAt) ∧
      (∀ q, q ≠ p → ((s.startPartReset p c).part q).resetting = (s.part q).resetting) ∧
      ((s.part p).resetting.isSome = true → s.startPartReset p c = s) ∧
      (partPresent s.variant p = true → (s.part p).wakeAt = none →
        ((s.startPartReset p c).part p).resetting.isSome = true) := by
  by_cases hnone : (!partPresent s.variant p || (s.part p).resetting.isSome) = true
  · have hsame : s.startPartReset p c = s := if_pos hnone
    rw [hsame]
    refine ⟨rfl, fun _ => rfl, fun _ _ => rfl, fun _ => rfl, fun hp _ => ?_⟩
    simpa [hp] using hnone
  · obtain ⟨hp, hidle⟩ : partPresent s.variant p = true ∧ (s.part p).resetting = none := by simpa using hnone
    by_cases hwake : (s.part p).wakeAt = none
    · obtain ⟨hvariant, hparts, -⟩ := resetAnswered_kept s p c
      have hstep := startPartReset_step (c := c) hp hidle hwake
      obtain ⟨r, hr, -⟩ := startPartReset_spec c hp hidle hwake
      refine ⟨hstep.variant.trans hvariant, fun q => (hstep.wakeAt q).trans (by rw [part_congr hparts]),
        fun q hq => startPartReset_other hp hidle hwake hq, fun h => ?_, fun _ _ => by rw [hr]; rfl⟩
      rw [hidle] at h
      exact absurd h (by decide)
    · have hqueued : s.startPartReset p c =
          s.modPart p fun r => { r with resetQueued := some (r.resetQueued.getD c) } := by
        unfold startPartReset
        rw [if_neg hnone, if_pos (Option.isSome_iff_ne_none.2 hwake)]
      have hkept (q : Nat) : ((s.startPartReset p c).part q).wakeAt = (s.part q).wakeAt ∧
          ((s.startPartReset p c).part q).resetting = (s.part q).resetting := by
        rw [hqueued]
        by_cases hq : q = p
        · rw [hq, part_modPart_same]
          exact ⟨rfl, rfl⟩
        · rw [modPart, part_setPart_other _ _ hq]
          exact ⟨rfl, rfl⟩
      refine ⟨by rw [hqueued]; rfl, fun q => (hkept q).1, fun q _ => (hkept q).2, fun h => ?_,
        fun _ h => absurd h hwake⟩
      rw [hidle] at h
      exact absurd h (by decide)

theorem isSome_startPartReset {q : Nat} (h : (s.part q).resetting.isSome = true) :
    ((s.startPartReset p c).part q).resetting.isSome = true := by
  obtain ⟨-, -, hother, hsame, -⟩ := startPartReset_parts s p c
  by_cases hq : q = p
  · subst hq
    rw [hsame h]
    exact h
  · rw [hother q hq]
    exact h

/-- A fold of starts: the partitions listed are under reset, the others are as before. -/
theorem startPartResets_spec (l : List Nat) (c : ResetCause) (s : State) (q : Nat) :
    (q ∉ l → ((l.foldl (fun s p => s.startPartReset p c) s).part q).resetting = (s.part q).resetting) ∧
      ((s.part q).resetting.isSome = true ∨ q ∈ l ∧ partPresent s.variant q = true ∧ (s.part q).wakeAt = none →
        ((l.foldl (fun s p => s.startPartReset p c) s).part q).resetting.isSome = true) := by
  induction l generalizing s with
  | nil => exact ⟨fun _ => rfl, fun h => h.resolve_right fun ⟨hq, _⟩ => absurd hq List.not_mem_nil⟩
  | cons p l ih =>
    obtain ⟨hvariant, hwake, hother, -, hbegins⟩ := startPartReset_parts s p c
    obtain ⟨hout, hin⟩ := ih (s.startPartReset p c)
    rw [List.foldl_cons]
    refine ⟨fun hq => ?_, fun hq => hin ?_⟩
    · rw [hout fun h => hq (List.mem_cons_of_mem _ h), hother q fun he => hq (he ▸ List.mem_cons_self)]
    · obtain hq | ⟨hq, hp, hawake⟩ := hq
      · exact .inl (isSome_startPartReset hq)
      · by_cases he : q = p
        · subst he
          exact .inl (hbegins hp hawake)
        · exact .inr ⟨(List.mem_cons.1 hq).resolve_left he, by rw [hvariant]; exact hp, by rw [hwake]; exact hawake⟩

theorem mem_partList_of_present (hp : partPresent s.variant p = true) : p ∈ s.partList := by
  refine List.mem_range.2 ?_
  revert hp
  cases s.variant <;> simp [partPresent, numParts]

end State

end Sys2Proof.Machine
end

section
/-! SUPPORT. The end of a partition reset (R27, R36, R285, R408). -/

namespace Sys2Proof.SMap

/-- What every entry of a key and the default have in common, the value read at the key has. -/
theorem get_of_forall {α : Type} {d : α} {m : SMap α} {k : Nat} {P : α → Prop} (hd : P d)
    (hm : ∀ e ∈ m, e.1 = k → P e.2) : P (get d m k) := by
  induction m with
  | nil => exact hd
  | cons e m ih =>
    by_cases he : e.1 = k
    · simpa [get, find?, he] using hm e List.mem_cons_self he
    · simpa [get, find?, he] using ih fun f hf => hm f (List.mem_cons_of_mem _ hf)

end Sys2Proof.SMap

namespace Sys2Proof.Machine.State

variable {s t : State} {p : Nat}

theorem freshSeats_seat (s : State) {n : Nat} (hn : n / 16 = p) :
    ((s.freshSeats p).seat n).state = .free ∧ ((s.freshSeats p).seat n).running = [] := by
  refine SMap.get_of_forall (P := fun r : SeatRec => r.state = .free ∧ r.running = []) ⟨rfl, rfl⟩ fun e he hkey => ?_
  obtain ⟨f, -, hf⟩ := List.mem_filterMap.1 he
  dsimp only at hf
  split at hf
  · next hother =>
    obtain rfl := Option.some.inj hf
    exact absurd (by rw [hkey, hn]) hother
  · split at hf
    · exact absurd hf (Option.some_ne_none e).symm
    · obtain rfl := Option.some.inj hf
      exact ⟨rfl, rfl⟩

/-- A seat that becomes FREE changes the record of its own partition alone. -/
theorem toState_part_other {n q : Nat} (s : State) (st : SeatState) (hq : q ≠ n / 16) :
    (s.toState n st).part q = s.part q := by
  by_cases h : (s.seat n).state = st
  · rw [toState_of_same h]
  · have hparts : ((s.takeState n st).signalSeat n).parts = s.parts := by rw [signalSeat_frame, takeState_frame]
    rw [toState_of_ne h, refreshWd, modPart, part_setPart_other _ _ hq, part_congr (modSeat_parts _ _ _),
      part_congr hparts]

theorem resetRegs_kept (s : State) (lo hi : Nat) : (s.resetRegs lo hi).seats = s.seats ∧
    (s.resetRegs lo hi).parts = s.parts ∧ ∀ r, r < lo ∨ hi ≤ r → (s.resetRegs lo hi).reg r = s.reg r := by
  refine ⟨rfl, rfl, fun r hr => (SMap.get_dropRange _ _ lo hi r).trans (if_neg ?_)⟩
  omega

theorem mem_partSeats {n : Nat} (h : n ∈ s.partSeats p) : n / 16 = p ∧ (p < 32 → n < 512) := by
  obtain ⟨l, hl, rfl⟩ := List.mem_map.1 (List.mem_filter.1 h).1
  have hl16 := List.mem_range.1 hl
  omega

theorem foldl_frame_mem {α β : Type} (π : State → β) {f : State → α → State} {l : List α}
    (h : ∀ x ∈ l, ∀ u, π (f u x) = π u) (s : State) : π (l.foldl f s) = π s := by
  induction l generalizing s with
  | nil => rfl
  | cons x l ih => exact (ih (fun y hy => h y (List.mem_cons_of_mem _ hy)) _).trans (h x List.mem_cons_self s)

/-! The tumblers of the partition's seats (R408). -/

theorem tumbRange_zeroTumblers (s : State) (n m : Nat) : (s.zeroTumblers n).tumbRange m = s.tumbRange m := by
  have hreg : (s.zeroTumblers n).reg (seatReg m 0x38) = s.reg (seatReg m 0x38) := by
    refine foldl_frame_mem (fun u => u.reg (seatReg m 0x38)) (fun i hi u => reg_setReg_other _ _ ?_) s
    have hi' := List.mem_range.1 hi
    have hlow := (tumblerReg_lt_of_range (s := s) (n := n) (i := (s.tumbRange n).1 + i) (by omega)).2
    have hfar := le_seatReg m 0x38
    omega
  simp only [tumbRange, regField, hreg]

/-- The ranges of all the seats are zero. -/
theorem tumbler_zeroed {l : List Nat} {n x : Nat} (s : State)
    (h : s.tumbler x = 0 ∨ n ∈ l ∧ (s.tumbRange n).1 ≤ x ∧ x < (s.tumbRange n).2) :
    (l.foldl zeroTumblers s).tumbler x = 0 := by
  induction l generalizing s with
  | nil => exact h.resolve_right fun ⟨hn, _⟩ => absurd hn List.not_mem_nil
  | cons m l ih =>
    rw [List.foldl_cons]
    refine ih _ ?_
    obtain hzero | ⟨hn, hlo, hhi⟩ := h
    · exact .inl (reg_setRegs_zero _ hzero)
    · rw [tumbRange_zeroTumblers]
      by_cases hm : n = m
      · subst hm
        exact .inl (zeroTumblers_tumbler s n hlo hhi)
      · exact .inr ⟨(List.mem_cons.1 hn).resolve_left hm, hlo, hhi⟩

/-! The stages of the end. -/

/-- The self-test is over, and the tumblers of the seats are 0. -/
def resetZeroed (s : State) (p : Nat) (seats : List Nat) : State := seats.foldl zeroTumblers (s.selfTest p)

/-- The counters are kept, and the seats are FREE and as after a reset. -/
def resetFreed (s : State) (p : Nat) (seats : List Nat) : State :=
  (seats.foldl (fun s n => s.toState n .free) (s.foldPart p)).freshSeats p

/-- The partition's arrays are as after a reset, but for what is known of their faults. -/
def resetArrays (s : State) (p : Nat) : State :=
  (List.range 8).foldl (fun s a => s.modArr p a fun r =>
    { ArrRec.fresh with faults := r.faults, retired := r.retired }) s

/-- The registers have their reset values, the epoch is the next one, and the partition is gated. -/
def resetGated (s : State) (p epoch : Nat) : State :=
  (((s.resetRegs (partReg p 0) (partReg (p + 1) 0)).setRegN (ctReg p 8) epoch).resetArrays p).setPart p
    { PartRec.fresh with gated := true }

/-- The channels are trained again, and the reset is logged and counted. -/
def resetLogged (s : State) (p : Nat) : State :=
  (((s.retrainPart p).leaveForfeited).logFault 0x10).bumpObj 0x60B0 (p + 1) 1

theorem finishPartReset_eq (s : State) (p : Nat) : s.finishPartReset p =
    (((s.resetZeroed p (s.partSeats p)).resetFreed p (s.partSeats p)).resetGated p
      ((s.epoch p + 1) % 2 ^ 16)).resetLogged p := rfl

theorem resetZeroed_frame (s : State) (p : Nat) (seats : List Nat) : (s.resetZeroed p seats).parts = s.parts :=
  foldl_frame State.parts (fun u n => by
    obtain ⟨regs, bad, h⟩ := zeroTumblers_frame u n
    rw [h]) seats (s.selfTest p)

theorem foldPart_kept (s : State) (p : Nat) :
    (s.foldPart p).parts = s.parts ∧ (s.foldPart p).variant = s.variant ∧ (s.foldPart p).regs = s.regs := by
  simp only [foldPart, foldWide, bumpObj_parts, bumpObj_variant, bumpObj_regs, and_self]

theorem resetFreed_part {q : Nat} {seats : List Nat} (hseats : ∀ n ∈ seats, n / 16 = p) (hq : q ≠ p) (s : State) :
    (s.resetFreed p seats).part q = s.part q := by
  refine (foldl_frame_mem (fun u => u.part q) (fun n hn u => toState_part_other u .free ?_) (s.foldPart p)).trans ?_
  · rw [hseats n hn]
    exact hq
  · exact part_congr (foldPart_kept s p).1 q

theorem resetFreed_tumbler {seats : List Nat} {x : Nat} (hx : x < 8192) (hseats : ∀ n ∈ seats, n < 512) (s : State) :
    (s.resetFreed p seats).tumbler x = s.tumbler x := by
  obtain ⟨-, hvariant, hregs⟩ := foldPart_kept s p
  have hspared {n : Nat} : Spared n (tumblerReg x) := spared_tumblerReg hx
  refine (foldl_frame_mem (fun u => u.reg (tumblerReg x)) (fun n hn u => ?_) (s.foldPart p)).trans ?_
  · have hmine := hspared (n := n)
    exact reg_toState_other u .free hmine.1 (hmine.ne_pending (hseats n hn))
  · exact reg_congr hvariant hregs _

theorem resetArrays_kept (s : State) (p : Nat) : (s.resetArrays p).seats = s.seats ∧
    (s.resetArrays p).parts = s.parts ∧ (s.resetArrays p).variant = s.variant ∧ (s.resetArrays p).regs = s.regs :=
  ⟨foldl_frame State.seats (fun u a => modArr_seats u p a _) _ s, foldl_frame State.parts (fun u a => modArr_parts u p a _) _ s,
    foldl_frame State.variant (fun u a => modArr_variant u p a _) _ s, foldl_frame State.regs (fun u a => modArr_regs u p a _) _ s⟩

theorem resetGated_kept (s : State) (p epoch : Nat) :
    (s.resetGated p epoch).seats = s.seats ∧ (s.resetGated p epoch).part p = { PartRec.fresh with gated := true } ∧
      (∀ q, q ≠ p → (s.resetGated p epoch).part q = s.part q) ∧
      (s.resetGated p epoch).reg (ctReg p 8) = BitVec.ofNat 32 epoch ∧
      ∀ x < 8192, (s.resetGated p epoch).tumbler x = s.tumbler x := by
  obtain ⟨hseats, hparts, hzeroed⟩ := resetRegs_kept s (partReg p 0) (partReg (p + 1) 0)
  rw [resetGated]
  generalize s.resetRegs (partReg p 0) (partReg (p + 1) 0) = u at hseats hparts hzeroed ⊢
  obtain ⟨hseats', hparts', hvariant', hregs'⟩ := resetArrays_kept (u.setRegN (ctReg p 8) epoch) p
  generalize (u.setRegN (ctReg p 8) epoch).resetArrays p = v at hseats' hparts' hvariant' hregs' ⊢
  have hreg (r : Nat) : (v.setPart p { PartRec.fresh with gated := true }).reg r = (u.setRegN (ctReg p 8) epoch).reg r :=
    reg_congr (t := v.setPart p { PartRec.fresh with gated := true }) hvariant' hregs' r
  refine ⟨(hseats'.trans (setReg_seats _ _ _)).trans hseats, part_setPart_same _ _ _, fun q hq => ?_, ?_, fun x hx => ?_⟩
  · rw [part_setPart_other _ _ hq, part_congr hparts', setRegN, part_congr (setReg_parts _ _ _), part_congr hparts]
  · rw [hreg, setRegN, reg_setReg_same]
  · have hlow := (tumblerReg_bounds hx).2
    have hne : tumblerReg x ≠ ctReg p 8 := by
      simp only [ctReg, partReg]
      omega
    rw [tumbler, hreg, setRegN, reg_setReg_other _ _ hne]
    refine hzeroed _ (.inl ?_)
    simp only [partReg]
    omega

/-- The re-initialisation retrains the partition's channel of one stack. -/
def retrainStack (p : Nat) (s : State) (k : Nat) : State :=
  ((s.retrainEnds k p).modStack k fun r => { r with retrainFails := SMap.erase r.retrainFails p }).raise (hbReg k 0xC) 0x40

theorem retrainPart_eq (s : State) (p : Nat) : s.retrainPart p = (List.range 12).foldl (retrainStack p) s := rfl

theorem retrainStack_kept (s : State) (p k : Nat) :
    (retrainStack p s k).seats = s.seats ∧ (retrainStack p s k).parts = s.parts := by
  simp only [retrainStack, retrainEnds, raise_seats, raise_parts, modStack_seats, modStack_parts, status_seats,
    status_parts, and_self]

theorem reg_retrainStack_other {k r : Nat} (s : State) (p : Nat) (hk : k < 12) (hr : r < 0x100000 ∨ 0x200000 ≤ r) :
    (retrainStack p s k).reg r = s.reg r := by
  have hlog : r ≠ hbReg k 0xC := by
    unfold hbReg
    omega
  have hstatus : r ≠ hbReg k 8 := by
    unfold hbReg
    omega
  rw [retrainStack, reg_raise_other _ _ hlog, reg_congr (modStack_variant _ _ _) (modStack_regs _ _ _), retrainEnds,
    status, reg_setReg_other _ _ hstatus, reg_congr (modStack_variant _ _ _) (modStack_regs _ _ _)]

theorem retrainPart_kept (s : State) (p : Nat) : (s.retrainPart p).seats = s.seats ∧
    (s.retrainPart p).parts = s.parts ∧
      ∀ r, r < 0x100000 ∨ 0x200000 ≤ r → (s.retrainPart p).reg r = s.reg r := by
  rw [retrainPart_eq]
  exact ⟨foldl_frame State.seats (fun u k => (retrainStack_kept u p k).1) _ s,
    foldl_frame State.parts (fun u k => (retrainStack_kept u p k).2) _ s, fun r hr =>
      foldl_frame_mem (fun u => u.reg r) (fun k hk u => reg_retrainStack_other u p (List.mem_range.1 hk) hr) s⟩

theorem leaveForfeited_kept (s : State) : s.leaveForfeited.seats = s.seats ∧ s.leaveForfeited.parts = s.parts ∧
    s.leaveForfeited.variant = s.variant ∧ s.leaveForfeited.regs = s.regs := ⟨rfl, rfl, rfl, rfl⟩

theorem resetLogged_kept (s : State) (p : Nat) : (s.resetLogged p).seats = s.seats ∧
    (s.resetLogged p).parts = s.parts ∧ bit ((s.resetLogged p).reg (ecReg 8)) 4 = true ∧
      ∀ r, r < 0x100000 ∨ 0x200000 ≤ r → r ≠ ecReg 8 → blockOf r ≠ .msix → (s.resetLogged p).reg r = s.reg r := by
  obtain ⟨hseats, hparts, hreg⟩ := retrainPart_kept s p
  obtain ⟨hseats', hparts', hvariant', hregs'⟩ := leaveForfeited_kept (s.retrainPart p)
  rw [resetLogged]
  generalize (s.retrainPart p).leaveForfeited = u at hseats' hparts' hvariant' hregs' ⊢
  obtain ⟨regs, bad, fn, ec, out, hlog, -⟩ := raiseEc_frame u 8 0x10
  refine ⟨?_, ?_, ?_, fun r hr hne hblock => ?_⟩
  · rw [bumpObj_seats, logFault, hlog]
    exact hseats'.trans hseats
  · rw [bumpObj_parts, logFault, hlog]
    exact hparts'.trans hparts
  · rw [reg_congr (bumpObj_variant _ _ _ _) (bumpObj_regs _ _ _ _)]
    exact bit_logFault u (by decide)
  · rw [reg_congr (bumpObj_variant _ _ _ _) (bumpObj_regs _ _ _ _), logFault, reg_raiseEc_other _ _ hne hblock]
    exact (reg_congr hvariant' hregs' r).trans (hreg r hr)

/-- The whole end of the reset of a partition. -/
theorem finishPartReset_spec (hp : p < 32) (s : State) :
    let t := s.finishPartReset p
    (t.part p).resetting = none ∧ (t.part p).gated = true ∧ t.epoch p = (s.epoch p + 1) % 2 ^ 16 ∧
      bit (t.reg (ecReg 8)) 4 = true ∧
      (∀ n, n / 16 = p → (t.seat n).state = .free ∧ (t.seat n).running = []) ∧
      (∀ n ∈ s.partSeats p, ∀ x, x < 8192 → (s.tumbRange n).1 ≤ x → x < (s.tumbRange n).2 → t.tumbler x = 0) ∧
      ∀ q, q ≠ p → t.part q = s.part q := by
  set u := s.resetZeroed p (s.partSeats p)
  set v := u.resetFreed p (s.partSeats p)
  set w := v.resetGated p ((s.epoch p + 1) % 2 ^ 16)
  have hmine (n : Nat) (hn : n ∈ s.partSeats p) : n / 16 = p ∧ n < 512 := ⟨(mem_partSeats hn).1, (mem_partSeats hn).2 hp⟩
  obtain ⟨hseats, hpart, hother, hepoch, htumbler⟩ := resetGated_kept v p ((s.epoch p + 1) % 2 ^ 16)
  obtain ⟨hseats', hparts', hlogged, hreg⟩ := resetLogged_kept w p
  have hct : ResetSpared (ctReg p 8) := by
    simp only [ResetSpared, ctReg, partReg]
    omega
  intro t
  have ht : t = w.resetLogged p := finishPartReset_eq s p
  rw [ht]
  refine ⟨?_, ?_, ?_, hlogged, fun n hn => ?_, fun n hn x hx hlo hhi => ?_, fun q hq => ?_⟩
  · rw [part_congr hparts', hpart]
    rfl
  · rw [part_congr hparts', hpart]
  · have hne : ctReg p 8 ≠ ecReg 8 := by
      simp only [ctReg, partReg, ecReg]
      omega
    rw [epoch, hreg _ (.inr (by simp only [ctReg, partReg]; omega)) hne hct.ne_msix, hepoch, field, BitVec.toNat_ofNat,
      Nat.shiftRight_zero]
    omega
  · rw [seat_congr hseats', seat_congr hseats]
    exact freshSeats_seat _ hn
  · have hspared : Spared 0 (tumblerReg x) := spared_tumblerReg hx
    have hbounds := tumblerReg_bounds hx
    rw [tumbler, hreg _ (.inl (by omega)) (by unfold ecReg; omega) hspared.2.1, ← tumbler, htumbler x hx,
      resetFreed_tumbler hx (fun m hm => (hmine m hm).2)]
    exact tumbler_zeroed (s.selfTest p) (.inr ⟨hn, hlo, hhi⟩)
  · rw [part_congr hparts', hother q hq, resetFreed_part (fun m hm => (hmine m hm).1) hq,
      part_congr (resetZeroed_frame s p _)]

end Sys2Proof.Machine.State
end

section
/-! PROOFS. Partition resets. -/

namespace Sys2Proof.Proofs

open Sys2Proof.Machine Sys2Proof.Machine.State

/-- Settles O49: the start of a partition reset stage by stage, that of several, and its end (R285, R286, R395, R407 to
R409, R425, R490). -/
theorem partitionResets : Obligations.PartitionResets := by
  refine ⟨fun s p c hcore hp => ⟨fun hbusy => ?_, fun hidle hwake => ?_, fun hidle hwake => ?_⟩, fun s v hlive => ?_,
    fun s p r hcore hr hretired hdev hunits => ⟨fun hold hnone => ?_, fun hold hheld => ?_, fun hgone => ?_⟩⟩
  · have hexec : exec (.partitionReset p c) s = .next (s.startPartReset p.val c) := congrArg Host.Outcome.next (if_pos hcore)
    rw [hexec, (startPartReset_parts s p.val c).2.2.2.1 hbusy]
  · have hexec : exec (.partitionReset p c) s = .next (s.startPartReset p.val c) := congrArg Host.Outcome.next (if_pos hcore)
    have hqueued : s.startPartReset p.val c =
        s.modPart p.val fun r => { r with resetQueued := some (r.resetQueued.getD c) } := by
      unfold startPartReset
      rw [if_neg (by simp [hp, hidle]), if_pos hwake]
    refine ⟨_, hexec.trans (congrArg Host.Outcome.next hqueued), ?_, rfl, rfl⟩
    rw [part_modPart_same]
  · have hexec : exec (.partitionReset p c) s = .next (s.startPartReset p.val c) := congrArg Host.Outcome.next (if_pos hcore)
    obtain ⟨r, hr, hcause, -⟩ := startPartReset_spec c hp hidle hwake
    have hstep := startPartReset_step (c := c) hp hidle hwake
    refine ⟨_, r, hexec, hr, hcause, fun hfree => ?_, fun hbusy => ?_,
      fun n hn => startPartReset_seats hp hidle hwake hn⟩
    · have hspared : ResetSpared (ecReg (0x40 + p.val / 8 * 4)) := by
        unfold ResetSpared ecReg
        omega
      rw [regField, hstep.reg _ hspared]
      exact regField_resetAnswered hfree
    · have hspared : ResetSpared (ctReg p.val 4) := by
        simp only [ResetSpared, ctReg, partReg]
        omega
      rw [hstep.reg _ hspared, reg_resetAnswered_busy hbusy]
  · refine ⟨_, congrArg Host.Outcome.next (if_pos hlive), fun p hp => ?_⟩
    obtain ⟨hout, hin⟩ := startPartResets_spec (s.partList.filter fun q => v.toNat.testBit q) .hostCmd s p.val
    have hlist : p.val ∈ (s.partList.filter fun q => v.toNat.testBit q) ↔ bit v p.val = true :=
      List.mem_filter.trans (and_iff_right (mem_partList_of_present hp))
    exact ⟨fun hbit hawake => hin (.inr ⟨hlist.2 hbit, hp, hawake⟩),
      fun hbit => hout fun hmem => absurd (hlist.1 hmem) (by rw [hbit]; decide)⟩
  · have hend : s.partResetEnd p.val = s := by
      have hnone' : r.jobs.any s.forfeitHeld = false := List.any_eq_false.2 fun j hj => by rw [hnone j hj]; decide
      simp only [partResetEnd, hr, hcore, hretired, hdev, hunits, hold, hnone']
      rfl
    exact congrArg Host.Outcome.next hend
  · have hend : s.partResetEnd p.val = s.logFault 0x400 := by
      have hany : r.jobs.any s.forfeitHeld = true := List.any_eq_true.2 hheld
      simp only [partResetEnd, hr, hcore, hretired, hdev, hunits, hold, hany]
      rfl
    obtain ⟨regs, bad, fn, ec, out, hlog, -⟩ := raiseEc_frame s 8 0x400
    refine ⟨_, congrArg Host.Outcome.next hend, bit_logFault s (by decide), ?_, ?_, ?_⟩ <;> rw [logFault, hlog]
  · have hend : s.partResetEnd p.val = s.finishPartReset p.val := by
      simp only [partResetEnd, hr, hcore, hretired, hdev, hunits, hgone]
      rfl
    obtain ⟨hnone, hgated, hepoch, hbit, hfree, hzero, hother⟩ := finishPartReset_spec p.isLt s
    refine ⟨_, congrArg Host.Outcome.next hend, hnone, hgated, hepoch, hbit, fun l => hfree _ (by omega), hzero,
      fun q hq => hother q.val fun he => hq (Fin.ext he)⟩

end Sys2Proof.Proofs
end

section
/-! SUPPORT. Bits of words, and of the registers that a log or a status write changes (R20, R21). -/

namespace Sys2Proof.Machine

theorem bit_of_ge {i : Nat} (w : Word) (h : 32 ≤ i) : bit w i = false := BitVec.getLsbD_of_ge w i h

theorem bit_two_pow (i j : Nat) : bit (BitVec.ofNat 32 (2 ^ i)) j = (decide (j < 32) && decide (i = j)) := by
  rw [bit, BitVec.getLsbD_ofNat, Nat.testBit_two_pow]

/-- The bits of a word of which one has been written. -/
theorem bit_setBit (w : Word) (i j : Nat) (b : Bool) :
    bit (setBit w i b) j = if j < 32 ∧ i = j then b else bit w j := by
  have hset : bit (setBit w i true) j = (bit w j || (decide (j < 32) && decide (i = j))) := by
    rw [← bit_two_pow]
    exact BitVec.getLsbD_or
  have hclear : bit (setBit w i false) j = (bit w j && (decide (j < 32) && !(decide (j < 32) && decide (i = j)))) := by
    rw [← bit_two_pow]
    exact BitVec.getLsbD_and.trans (congrArg (bit w j && ·) BitVec.getLsbD_not)
  by_cases hj : j < 32
  · cases b
    · rw [hclear]
      by_cases hi : i = j <;> simp [hj, hi]
    · rw [hset]
      by_cases hi : i = j <;> simp [hj, hi]
  · cases b <;> simp [hset, hclear, bit_of_ge w (Nat.le_of_not_lt hj), hj]

theorem bit_setBit_same {i : Nat} (w : Word) (b : Bool) (h : i < 32) : bit (setBit w i b) i = b := by
  rw [bit_setBit, if_pos ⟨h, rfl⟩]

theorem bit_setBit_other {i j : Nat} (w : Word) (b : Bool) (h : j ≠ i) : bit (setBit w i b) j = bit w j := by
  rw [bit_setBit, if_neg fun hij => h hij.2.symm]

theorem bit_setField_other {hi lo j : Nat} (w : Word) (v : Nat) (h : j < lo ∨ hi < j) :
    bit (setField w hi lo v) j = bit w j := by
  have hmask : ((2 ^ (hi + 1 - lo) - 1) <<< lo).testBit j = false := by
    rw [Nat.testBit_shiftLeft, Nat.testBit_two_pow_sub_one]
    by_cases hlo : lo ≤ j
    · have hout : ¬ j - lo < hi + 1 - lo := by omega
      simp [hout]
    · simp [hlo]
  by_cases hj : j < 32
  · simp only [setField, bit, BitVec.getLsbD_or, BitVec.getLsbD_and, BitVec.getLsbD_not, BitVec.getLsbD_ofNat, hmask]
    simp [hj]
  · rw [bit_of_ge _ (Nat.le_of_not_lt hj), bit_of_ge _ (Nat.le_of_not_lt hj)]

/-- A field is what its bits are. -/
theorem field_congr {v w : Word} {hi lo : Nat} (h : ∀ i, lo ≤ i → i ≤ hi → bit v i = bit w i) :
    field v hi lo = field w hi lo := by
  refine Nat.eq_of_testBit_eq fun i => ?_
  simp only [field, Nat.testBit_mod_two_pow, Nat.testBit_shiftRight]
  by_cases hi' : i < hi + 1 - lo
  · have hbit : v.toNat.testBit (lo + i) = w.toNat.testBit (lo + i) := h (lo + i) (by omega) (by omega)
    rw [hbit]
  · simp [hi']

theorem bit_or (v w : Word) (i : Nat) : bit (v ||| w) i = (bit v i || bit w i) := BitVec.getLsbD_or

namespace State

variable {s : State}

theorem reg_status_same (s : State) (off i : Nat) (b : Bool) : (s.status off i b).reg off = setBit (s.reg off) i b :=
  reg_setReg_same _ _ _

theorem reg_status_other {r off : Nat} (s : State) (i : Nat) (b : Bool) (h : r ≠ off) :
    (s.status off i b).reg r = s.reg r := reg_setReg_other _ _ h

theorem bit_status_same {i : Nat} (s : State) (off : Nat) (b : Bool) (h : i < 32) :
    bit ((s.status off i b).reg off) i = b := by
  rw [reg_status_same, bit_setBit_same _ _ h]

theorem bit_status_other {i j : Nat} (s : State) (r off : Nat) (b : Bool) (h : j ≠ i) :
    bit ((s.status off i b).reg r) j = bit (s.reg r) j := by
  by_cases hr : r = off
  · rw [hr, reg_status_same, bit_setBit_other _ _ h]
  · rw [reg_status_other _ _ _ hr]

theorem bit_raise_of_mask {mask i : Nat} (s : State) (off : Nat) (h : bit (BitVec.ofNat 32 mask) i = true) :
    bit ((s.raise off mask).reg off) i = true := by
  rw [reg_raise_same, bit_or, h, Bool.or_true]

/-- A log bit that is set stays set (R21). -/
theorem bit_raise_of_set {r i : Nat} (off mask : Nat) (h : bit (s.reg r) i = true) :
    bit ((s.raise off mask).reg r) i = true := by
  by_cases hr : r = off
  · rw [hr] at h ⊢
    rw [reg_raise_same, bit_or, h, Bool.true_or]
  · rwa [reg_raise_other s _ hr]

/-- A write of one register leaves every other. -/
theorem regsOnly_status (s : State) (off i : Nat) (b : Bool) : s.regsOnly (s.status off i b) [off] :=
  fun _ ho => reg_status_other s i b (fun he => ho (List.mem_singleton.2 he))

theorem regsOnly_raise (s : State) (off mask : Nat) : s.regsOnly (s.raise off mask) [off] :=
  fun _ ho => reg_raise_other s _ (fun he => ho (List.mem_singleton.2 he))

theorem hbReg_ne {k o j : Nat} (h : o ≠ j) : hbReg k o ≠ hbReg k j := by
  unfold hbReg
  omega

end State

end Sys2Proof.Machine
end

section
/-! SUPPORT. The step of an HBM stack, and what the judgement of its reservations leaves alone (R300 to R304). -/

namespace Sys2Proof.Machine

/-- From `s` to `t` the time, the readout of stack `k`, its critical temperature and every register but its status and its
log stay; its log loses no bit, and of its status only the step and RESERVATION_SHORT's bit 5 can change. -/
structure StackAside (k : Nat) (s t : State) : Prop where
  uptime : t.uptime = s.uptime
  readAt : (t.stack k).readAt = (s.stack k).readAt
  crit   : t.hbmT 4 = s.hbmT 4
  reg    : ∀ r, r ≠ hbReg k 8 → r ≠ hbReg k 0xC → t.reg r = s.reg r
  log    : ∀ i, bit (s.reg (hbReg k 0xC)) i = true → bit (t.reg (hbReg k 0xC)) i = true
  status : ∀ i, 2 ≤ i → i ≠ 5 → bit (t.reg (hbReg k 8)) i = bit (s.reg (hbReg k 8)) i

namespace State

theorem obj_setObj_other {i j a b : Nat} (s : State) (v d : Nat) (h : objKey i j ≠ objKey a b) :
    (s.setObj a b v).obj i j d = s.obj i j d := by
  unfold obj setObj
  rw [SMap.find?_insert_other _ _ h, SMap.find?_erase_other _ h]

theorem obj_congr {s t : State} (h : t.objs = s.objs) (i j d : Nat) : t.obj i j d = s.obj i j d := by
  unfold obj
  rw [h]

end State

namespace StackAside

variable {k : Nat} {s t u : State}

theorem refl (k : Nat) (s : State) : StackAside k s s :=
  ⟨rfl, rfl, rfl, fun _ _ _ => rfl, fun _ h => h, fun _ _ _ => rfl⟩

theorem trans (h : StackAside k s t) (g : StackAside k t u) : StackAside k s u :=
  ⟨g.uptime.trans h.uptime, g.readAt.trans h.readAt, g.crit.trans h.crit,
    fun r h8 hC => (g.reg r h8 hC).trans (h.reg r h8 hC), fun i hi => g.log i (h.log i hi),
    fun i h2 h5 => (g.status i h2 h5).trans (h.status i h2 h5)⟩

theorem ite {c : Prop} [Decidable c] {a b : State} (h : StackAside k s a) (g : StackAside k s b) :
    StackAside k s (if c then a else b) := by
  split
  · exact h
  · exact g

theorem fold {α : Type} {f : State → α → State} {l : List α} (h : ∀ x ∈ l, ∀ u, StackAside k u (f u x)) (s : State) :
    StackAside k s (l.foldl f s) := by
  induction l generalizing s with
  | nil => exact refl k s
  | cons x l ih => exact (h x List.mem_cons_self s).trans (ih (fun y hy => h y (List.mem_cons_of_mem _ hy)) _)

/-- The stack's record changes, but not its readout. -/
theorem modStack (s : State) {f : StackRec → StackRec} (h : ∀ r, (f r).readAt = r.readAt) :
    StackAside k s (s.modStack k f) :=
  ⟨rfl, by rw [State.stack_modStack_same, h], rfl, fun _ _ _ => rfl, fun _ hi => hi, fun _ _ _ => rfl⟩

theorem raise (k : Nat) (s : State) (mask : Nat) : StackAside k s (s.raise (hbReg k 0xC) mask) :=
  ⟨rfl, rfl, rfl, fun _ _ hC => State.reg_raise_other s _ hC, fun _ hi => State.bit_raise_of_set _ _ hi,
    fun _ _ _ => by rw [State.reg_raise_other s _ (State.hbReg_ne (by decide))]⟩

/-- A write of the stack's status that leaves all but the step and bit 5. -/
theorem setStatus (s : State) {v : Word} (h : ∀ i, 2 ≤ i → i ≠ 5 → bit v i = bit (s.reg (hbReg k 8)) i) :
    StackAside k s (s.setReg (hbReg k 8) v) :=
  ⟨rfl, rfl, rfl, fun _ h8 _ => State.reg_setReg_other s _ h8,
    fun _ hi => by rwa [State.reg_setReg_other s _ (State.hbReg_ne (by decide))],
    fun i h2 h5 => by rw [State.reg_setReg_same, h i h2 h5]⟩

/-- A shortfall's length is added to object 0x6070. -/
theorem bumpShort (s : State) (k n : Nat) {p : Nat} (hp : p < 32) : StackAside k s (s.bumpObj 0x6070 (p + 1) n) :=
  ⟨rfl, rfl, State.obj_setObj_other s _ _ (by unfold objKey; omega), fun _ _ _ => rfl, fun _ hi => hi, fun _ _ _ => rfl⟩

end StackAside

namespace State

variable {s : State}

theorem lt_of_mem_partList {p : Nat} (h : p ∈ s.partList) : p < 32 := by
  have hlt : p < numParts s.variant := List.mem_range.1 h
  revert hlt
  cases s.variant <;> simp only [numParts] <;> omega

/-- The episodes of a stack are judged: bit 5 of its status, and its log, follow (R304). -/
theorem shortfall_judged (s : State) (k : Nat) : ∃ u b, s.shortfall k = u.status (hbReg k 8) 5 b ∧ StackAside k s u ∧
    u.reg (hbReg k 8) = s.reg (hbReg k 8) := by
  unfold shortfall
  extract_lets u
  refine ⟨u, _, rfl, ?_, ?_⟩
  · refine StackAside.fold (fun p hp v => ?_) s
    split
    · refine .ite (.trans ?_ (.raise k _ _)) (.refl k v)
      exact .modStack v fun _ => rfl
    · refine .ite (.refl k v) (.trans ?_ (.bumpShort _ k _ (lt_of_mem_partList hp)))
      exact .modStack v fun _ => rfl
  · refine foldl_frame (fun v => v.reg (hbReg k 8)) (fun v p => ?_) _ s
    split
    · split
      · exact reg_raise_other _ _ (hbReg_ne (by decide))
      · rfl
    · split <;> rfl

theorem shortfall_aside (s : State) (k : Nat) : StackAside k s (s.shortfall k) := by
  obtain ⟨u, b, heq, haside, -⟩ := shortfall_judged s k
  rw [heq]
  exact haside.trans (.setStatus u fun i _ h5 => bit_setBit_other _ _ h5)

theorem stackStep_shortfall (s : State) (k : Nat) : (s.shortfall k).stackStep k = s.stackStep k := by
  obtain ⟨u, b, heq, -, hreg⟩ := shortfall_judged s k
  rw [heq, stackStep, regField, reg_status_same, hreg]
  exact field_congr fun i _ hi => bit_setBit_other _ _ (by omega)

/-! The step (R301). -/

theorem setStep_aside (s : State) (k v : Nat) : StackAside k s (s.setStep k v) := by
  unfold setStep
  refine .ite (.refl k s) ?_
  refine StackAside.trans ?_ (shortfall_aside _ k)
  refine StackAside.trans (.trans (.setStatus s fun i h2 _ => ?_) (.raise k _ _)) (.modStack _ fun _ => rfl)
  exact bit_setField_other _ _ (.inr (by omega))

/-- The stack is at the step it is set to. -/
theorem stackStep_setStep {v : Nat} (s : State) (k : Nat) (hv : v < 4) : (s.setStep k v).stackStep k = v := by
  unfold setStep
  split
  · next h => exact h.symm
  · rw [stackStep_shortfall]
    refine Eq.trans (congrArg (field · 1 0) ?_) (field_setField (s.reg (hbReg k 8)) (by decide) hv)
    exact (reg_raise_other _ _ (hbReg_ne (by decide))).trans (reg_setReg_same s _ _)

/-- A change of step is logged: THROTTLED. -/
theorem throttled_setStep {v : Nat} (k : Nat) (h : v ≠ s.stackStep k) :
    bit ((s.setStep k v).reg (hbReg k 0xC)) 3 = true := by
  unfold setStep
  rw [if_neg h]
  exact (shortfall_aside _ k).log 3 (bit_raise_of_mask _ _ (by decide))

theorem coolCheck_aside (s : State) (k : Nat) : StackAside k s (s.coolCheck k) := by
  unfold coolCheck
  exact .modStack s fun _ => rfl

@[simp] theorem coolCheck_reg (s : State) (k r : Nat) : (s.coolCheck k).reg r = s.reg r := rfl
@[simp] theorem coolCheck_uptime (s : State) (k : Nat) : (s.coolCheck k).uptime = s.uptime := rfl

end State

end Sys2Proof.Machine
end

section
/-! SUPPORT. Temperature of an HBM stack: its readout, the fall of its step, a missing readout (R300, R301, R492). -/

namespace Sys2Proof.Machine.State

variable {s t : State} {k : Nat}

theorem stackTemp_congr (h : t.reg (hbReg k 0x10) = s.reg (hbReg k 0x10)) : t.stackTemp k = s.stackTemp k := by
  rw [stackTemp, regField, h, stackTemp, regField]

theorem stackStep_congr (h : t.reg (hbReg k 8) = s.reg (hbReg k 8)) : t.stackStep k = s.stackStep k := by
  rw [stackStep, regField, h, stackStep, regField]

/-- Bits from 2 on are not of the step. -/
theorem stackStep_status {i : Nat} (s : State) (k : Nat) (b : Bool) (hi : 2 ≤ i) :
    (s.status (hbReg k 8) i b).stackStep k = s.stackStep k := by
  rw [stackStep, regField, reg_status_same]
  exact field_congr fun j _ hj => bit_setBit_other _ _ (by omega)

theorem stackStep_lt (s : State) (k : Nat) : s.stackStep k < 4 := Nat.mod_lt _ (by decide)

theorem forceStep_lt (s : State) (k : Nat) : s.forceStep k < 4 := Nat.mod_lt _ (by decide)

theorem stepOf_lt (s : State) (x : Nat) : s.stepOf x < 4 := by
  unfold stepOf
  split_ifs <;> decide

/-- HB_TEMP with VALID shows the temperature (R300). -/
theorem stackTemp_shown {x : Nat} (hx : x < 256) (h : t.reg (hbReg k 0x10) = BitVec.ofNat 32 (256 + x)) :
    t.stackTemp k = some x := by
  have hnat : (BitVec.ofNat 32 (256 + x)).toNat = 256 + x := by
    rw [BitVec.toNat_ofNat]
    omega
  have hvalid : bit (BitVec.ofNat 32 (256 + x)) 8 = true := by
    rw [bit, BitVec.getLsbD, hnat, Nat.testBit_eq_decide_div_mod_eq]
    simp
    omega
  have hfield : field (BitVec.ofNat 32 (256 + x)) 7 0 = x := by
    rw [field, hnat]
    simp
    omega
  rw [stackTemp, regField, h, if_pos hvalid, hfield]

/-! The power step (R491, R492). -/

theorem reg_setPower_other {r : Nat} (s : State) (v : Nat) (h4 : r ≠ pwReg 4) (h8 : r ≠ pwReg 8) :
    (s.setPower v).reg r = s.reg r := by
  have hfield : (s.setRegField (pwReg 4) 1 0 v).reg r = s.reg r := reg_setReg_other s _ h4
  unfold setPower
  extract_lets old u w
  have hw : w.reg r = s.reg r := by
    unfold w
    split
    · rw [reg_raise_other _ _ h8, hfield]
    · exact hfield
  split <;> exact hw

theorem setPower_stack (s : State) (v : Nat) : (s.setPower v).stack k = s.stack k := by
  unfold setPower
  extract_lets old u w
  have hw : w.stack k = s.stack k := by
    unfold w
    split <;> rfl
  split <;> exact hw

theorem regField_setPower {v : Nat} (s : State) (hv : v < 4) : (s.setPower v).regField (pwReg 4) 1 0 = v := by
  have hfield : (s.setRegField (pwReg 4) 1 0 v).regField (pwReg 4) 1 0 = v :=
    (congrArg (field · 1 0) (reg_setReg_same s _ _)).trans (field_setField _ (by decide) hv)
  unfold setPower
  extract_lets old u w
  have hw : w.regField (pwReg 4) 1 0 = v := by
    unfold w
    split
    · rw [regField, reg_raise_other _ _ (by decide), ← regField, hfield]
    · exact hfield
  split <;> exact hw

/-! The readout (R300, R301). -/

/-- The step that a readout of `x` sets: the one it calls for at once, but a step shown before stays till it falls. -/
def readoutStep (s : State) (k x : Nat) : Nat :=
  let want := max (s.stepOf x) (s.forceStep k)
  if (s.stackTemp k).isSome then max want (s.stackStep k) else want

theorem readoutStep_lt (s : State) (k x : Nat) : s.readoutStep k x < 4 := by
  have hwant : max (s.stepOf x) (s.forceStep k) < 4 := Nat.max_lt.2 ⟨s.stepOf_lt x, s.forceStep_lt k⟩
  unfold readoutStep
  dsimp only
  split
  · exact Nat.max_lt.2 ⟨hwant, s.stackStep_lt k⟩
  · exact hwant

/-- A readout is shown, before it sets the step. -/
def readoutShown (s : State) (k x : Nat) : State :=
  (s.setRegN (hbReg k 0x10) (256 + x)).modStack k fun r => { r with readAt := s.uptime }

theorem reg_readoutShown_other {o : Nat} (s : State) (k x : Nat) (h : o ≠ 0x10) :
    (s.readoutShown k x).reg (hbReg k o) = s.reg (hbReg k o) := reg_setReg_other s _ (hbReg_ne h)

/-- The status of a stack whose readout is `x`: THERMAL_CRIT and the doubled refresh (R296, R300). -/
def readoutStatus (s : State) (k x : Nat) : State :=
  (s.status (hbReg k 8) 4 (decide (s.hbmT 4 ≤ x))).status (hbReg k 8) 3 (decide (85 ≤ x))

/-- The stages of a readout; at T_CRIT it forces the power step to 3 (R492). -/
theorem tempReadout_eq (s : State) (k x : Nat) :
    let u := ((((s.readoutShown k x).setStep k (s.readoutStep k x)).readoutStatus k x).coolCheck k)
    s.tempReadout k x = if s.hbmT 4 ≤ x then u.setPower 3 else u := by
  intro u
  have hforce : (s.readoutShown k x).forceStep k = s.forceStep k :=
    congrArg (field · 1 0) (reg_readoutShown_other s k x (by decide))
  have hstep : (s.readoutShown k x).stackStep k = s.stackStep k :=
    stackStep_congr (reg_readoutShown_other s k x (by decide))
  have hcrit : ((s.readoutShown k x).setStep k (s.readoutStep k x)).hbmT 4 = s.hbmT 4 :=
    (setStep_aside (s.readoutShown k x) k _).crit
  have hset : (s.readoutShown k x).setStep k (if (s.stackTemp k).isSome then
      max (max ((s.readoutShown k x).stepOf x) ((s.readoutShown k x).forceStep k)) ((s.readoutShown k x).stackStep k)
      else max ((s.readoutShown k x).stepOf x) ((s.readoutShown k x).forceStep k)) =
      (s.readoutShown k x).setStep k (s.readoutStep k x) := by
    rw [hforce, hstep]
    rfl
  have hstages (v : State) (hv : v = (s.readoutShown k x).setStep k (s.readoutStep k x)) :
      s.tempReadout k x = if decide (v.hbmT 4 ≤ x) then ((v.readoutStatus k x).coolCheck k).setPower 3
        else (v.readoutStatus k x).coolCheck k := by
    rw [hv, ← hset]
    rfl
  rw [hstages _ rfl, hcrit]
  simp only [decide_eq_true_eq]
  rfl

theorem readoutStatus_aside (s : State) (k x : Nat) :
    (s.readoutStatus k x).stackStep k = s.stackStep k ∧ (s.readoutStatus k x).stack k = s.stack k ∧
      (∀ r, r ≠ hbReg k 8 → (s.readoutStatus k x).reg r = s.reg r) ∧
      bit ((s.readoutStatus k x).reg (hbReg k 8)) 4 = decide (s.hbmT 4 ≤ x) ∧
      bit ((s.readoutStatus k x).reg (hbReg k 8)) 3 = decide (85 ≤ x) := by
  unfold readoutStatus
  refine ⟨?_, rfl, fun r hr => ?_, ?_, ?_⟩
  · rw [stackStep_status _ _ _ (by decide), stackStep_status _ _ _ (by decide)]
  · rw [reg_status_other _ _ _ hr, reg_status_other _ _ _ hr]
  · rw [bit_status_other _ _ _ _ (by decide), bit_status_same _ _ _ (by decide)]
  · rw [bit_status_same _ _ _ (by decide)]

/-- What a readout shows and sets (R296, R300, R301, R492). -/
theorem tempReadout_spec {x : Nat} (s : State) (k : Nat) (hx : x < 256) :
    (s.tempReadout k x).stackTemp k = some x ∧ (s.tempReadout k x).stackStep k = s.readoutStep k x ∧
      ((s.tempReadout k x).stack k).readAt = s.uptime ∧
      bit ((s.tempReadout k x).reg (hbReg k 8)) 4 = decide (s.hbmT 4 ≤ x) ∧
      bit ((s.tempReadout k x).reg (hbReg k 8)) 3 = decide (85 ≤ x) ∧
      (s.hbmT 4 ≤ x → (s.tempReadout k x).regField (pwReg 4) 1 0 = 3) := by
  let v := (s.readoutShown k x).setStep k (s.readoutStep k x)
  let u := (v.readoutStatus k x).coolCheck k
  have hset : StackAside k (s.readoutShown k x) v := setStep_aside _ k _
  obtain ⟨hstep, hstack, hreg, hcrit, hwarm⟩ := readoutStatus_aside v k x
  have hcool : StackAside k (v.readoutStatus k x) u := coolCheck_aside _ k
  have hend : s.tempReadout k x = if s.hbmT 4 ≤ x then u.setPower 3 else u := tempReadout_eq s k x
  have hpower (o : Nat) : (s.tempReadout k x).reg (hbReg k o) = u.reg (hbReg k o) := by
    rw [hend]
    split
    · exact reg_setPower_other u 3 (by simp only [hbReg, pwReg]; omega) (by simp only [hbReg, pwReg]; omega)
    · rfl
  have hshown : (s.tempReadout k x).reg (hbReg k 0x10) = BitVec.ofNat 32 (256 + x) := by
    rw [hpower, coolCheck_reg, hreg _ (hbReg_ne (by decide)), hset.reg _ (hbReg_ne (by decide)) (hbReg_ne (by decide))]
    exact reg_setReg_same s _ _
  refine ⟨stackTemp_shown hx hshown, ?_, ?_, ?_, ?_, fun hhot => ?_⟩
  · rw [stackStep_congr (hpower 8), stackStep_congr (coolCheck_reg _ _ _), hstep]
    exact stackStep_setStep _ k (readoutStep_lt s k x)
  · have hkept : (u.stack k).readAt = s.uptime := by
      rw [hcool.readAt, hstack, hset.readAt, readoutShown, stack_modStack_same]
    rw [hend]
    split
    · rwa [setPower_stack]
    · exact hkept
  · rw [hpower, coolCheck_reg, hcrit, hset.crit]
    rfl
  · rw [hpower, coolCheck_reg, hwarm]
  · rw [hend, if_pos hhot]
    exact regField_setPower u (by decide)

/-! The step falls; a readout is missing (R301). -/

theorem reg_reachUp (s : State) (due r : Nat) : (s.reachUp due).reg r = s.reg r :=
  reg_congr (reachUp_variant s due) (reachUp_regs s due) r

theorem uptime_setStep (s : State) (k v : Nat) : (s.setStep k v).uptime = s.uptime := (setStep_aside s k v).uptime

/-- After its 10 ms a stack falls one step (R301). -/
theorem exec_throttleStepFall {since : Nat} {k : StackNo} (hon : s.pw.state = .on)
    (hcool : (s.stack k.val).coolFrom = some since) (hforce : s.forceStep k.val < s.stackStep k.val) :
    ∃ t, exec (.throttleStepFall k) s = .next t ∧ t.stackStep k.val = s.stackStep k.val - 1 ∧
      since + 10000000 ≤ t.uptime ∧ bit (t.reg (hbReg k.val 0xC)) 3 = true := by
  let u := s.reachUp (since + 10000000)
  have hstep : u.stackStep k.val = s.stackStep k.val := stackStep_congr (reg_reachUp s _ _)
  have hlt := u.stackStep_lt k.val
  have hexec : exec (.throttleStepFall k) s = .next ((u.setStep k.val (u.stackStep k.val - 1)).coolCheck k.val) := by
    simp only [exec, execThrottleStepFall, hcool, hbmRuns, hon]
    rw [if_neg (by simp [hforce])]
  refine ⟨_, hexec, ?_, ?_, ?_⟩
  · rw [stackStep_congr (coolCheck_reg _ _ _), stackStep_setStep _ _ (by omega), hstep]
  · rw [coolCheck_uptime, uptime_setStep]
    exact le_uptime_reachUp s _
  · rw [coolCheck_reg]
    exact throttled_setStep _ (by omega)

/-- Without a readout for 10 ms a stack shows none, and is at step 3 (R301). -/
theorem exec_tempReadoutTimeout (k : StackNo) (hon : s.pw.state = .on) :
    ∃ t, exec (.tempReadoutTimeout k) s = .next t ∧ t.stackTemp k.val = none ∧ t.stackStep k.val = 3 ∧
      (s.stack k.val).readAt + 10000000 ≤ t.uptime := by
  let u := s.reachUp ((s.stack k.val).readAt + 10000000)
  let v := u.status (hbReg k.val 0x10) 8 false
  have hexec : exec (.tempReadoutTimeout k) s = .next ((v.setStep k.val 3).coolCheck k.val) := by
    simp only [exec, execTempReadoutTimeout, hbmRuns, hon]
    rw [if_neg (by simp)]
  have htemp : v.stackTemp k.val = none := by
    rw [stackTemp, if_neg]
    rw [bit_status_same u _ _ (by decide)]
    decide
  refine ⟨_, hexec, ?_, ?_, ?_⟩
  · rw [stackTemp_congr (coolCheck_reg _ _ _), stackTemp_congr, htemp]
    exact (setStep_aside v _ _).reg _ (hbReg_ne (by decide)) (hbReg_ne (by decide))
  · rw [stackStep_congr (coolCheck_reg _ _ _), stackStep_setStep _ _ (by decide)]
  · rw [coolCheck_uptime, uptime_setStep, status_uptime]
    exact le_uptime_reachUp s _

end Sys2Proof.Machine.State
end

section
/-! SUPPORT. What the resets of partitions leave of firmware, of a device reset under way, and of the logs of EC_ and of the
HBM stacks (R407, R416, R477). -/

namespace Sys2Proof.Machine

/-- EC_FAULT, or the log of an HBM stack. -/
def IsLog (r : Nat) : Prop := r = ecReg 8 ∨ ∃ k < 12, r = hbReg k 0xC

theorem IsLog.place {r : Nat} (h : IsLog r) : r = 0x30008 ∨ 0x100000 ≤ r ∧ r < 0x1C0000 ∧ r % 0x10000 = 0xC := by
  obtain rfl | ⟨k, hk, rfl⟩ := h
  · exact .inl rfl
  · unfold hbReg
    omega

theorem IsLog.ne_msix {r : Nat} (h : IsLog r) : blockOf r ≠ .msix := by
  obtain rfl | ⟨k, hk, rfl⟩ := h
  · decide
  · have hblock : hbReg k 0xC / 0x10000 = 0x10 + k := by unfold hbReg; omega
    interval_cases k <;> decide

/-- From `s` to `t` firmware's record and the device reset under way stay, and the logs lose no bit (R21). -/
structure ResetLeaves (s t : State) : Prop where
  fw       : t.fw = s.fw
  devReset : t.ec.devReset = s.ec.devReset
  log      : ∀ r, IsLog r → ∀ i, bit (s.reg r) i = true → bit (t.reg r) i = true

namespace ResetLeaves

variable {s t u : State}

theorem refl (s : State) : ResetLeaves s s := ⟨rfl, rfl, fun _ _ _ h => h⟩

theorem trans (h : ResetLeaves s t) (k : ResetLeaves t u) : ResetLeaves s u :=
  ⟨k.fw.trans h.fw, k.devReset.trans h.devReset, fun r hr i hi => k.log r hr i (h.log r hr i hi)⟩

theorem of_reg (hfw : t.fw = s.fw) (hdev : t.ec.devReset = s.ec.devReset) (hreg : ∀ r, IsLog r → t.reg r = s.reg r) :
    ResetLeaves s t := ⟨hfw, hdev, fun r hr i hi => by rwa [hreg r hr]⟩

/-- An update of other fields. -/
theorem of_eq (hfw : t.fw = s.fw) (hdev : t.ec.devReset = s.ec.devReset) (hvariant : t.variant = s.variant)
    (hregs : t.regs = s.regs) : ResetLeaves s t := of_reg hfw hdev fun r _ => State.reg_congr hvariant hregs r

theorem ite {c : Prop} [Decidable c] {a b : State} (h : ResetLeaves s a) (k : ResetLeaves s b) :
    ResetLeaves s (if c then a else b) := by
  split
  · exact h
  · exact k

theorem fold {α : Type} {f : State → α → State} {l : List α} (h : ∀ x ∈ l, ∀ u, ResetLeaves u (f u x)) (s : State) :
    ResetLeaves s (l.foldl f s) := by
  induction l generalizing s with
  | nil => exact refl s
  | cons x l ih => exact (h x List.mem_cons_self s).trans (ih (fun y hy => h y (List.mem_cons_of_mem _ hy)) _)

/-! Registers. -/

theorem setReg {off : Nat} (s : State) (v : Word) (h : ¬ IsLog off) : ResetLeaves s (s.setReg off v) :=
  of_reg rfl rfl fun _ hr => State.reg_setReg_other s v fun he => h (he ▸ hr)

theorem raise (s : State) (off mask : Nat) : ResetLeaves s (s.raise off mask) :=
  ⟨rfl, rfl, fun _ _ _ hi => State.bit_raise_of_set off mask hi⟩

theorem bumpObj (s : State) (i j n : Nat) : ResetLeaves s (s.bumpObj i j n) := of_eq rfl rfl rfl rfl
theorem setObj (s : State) (i j v : Nat) : ResetLeaves s (s.setObj i j v) := of_eq rfl rfl rfl rfl
theorem modSeat (s : State) (n : Nat) (f : SeatRec → SeatRec) : ResetLeaves s (s.modSeat n f) := of_eq rfl rfl rfl rfl
theorem modPart (s : State) (p : Nat) (f : PartRec → PartRec) : ResetLeaves s (s.modPart p f) := of_eq rfl rfl rfl rfl
theorem modStack (s : State) (k : Nat) (f : StackRec → StackRec) : ResetLeaves s (s.modStack k f) :=
  of_eq rfl rfl rfl rfl

theorem csClear (s : State) (a n : Nat) : ResetLeaves s (s.csClear a n) := of_eq rfl rfl rfl rfl
theorem freeArray (s : State) (p a : Nat) : ResetLeaves s (s.freeArray p a) := of_eq rfl rfl rfl rfl
theorem takeBack (s : State) (p : Nat) (f : ShakeUnit → Bool) : ResetLeaves s (s.takeBack p f) := of_eq rfl rfl rfl rfl
theorem haspDue (s : State) (b : Bool) (f : LineOp → Bool) : ResetLeaves s (s.haspDue b f) := of_eq rfl rfl rfl rfl
theorem dropLines (s : State) (d : CacheLine → Bool) : ResetLeaves s (s.dropLines d) := of_eq rfl rfl rfl rfl
theorem refreshWd (s : State) (n : Nat) : ResetLeaves s (s.refreshWd n) := of_eq rfl rfl rfl rfl
theorem queueCtrl (s : State) (n : Nat) (body : List Byte) : ResetLeaves s (s.queueCtrl n body) := of_eq rfl rfl rfl rfl

/-- An update of other fields. -/
theorem set {launches : List Launch} {fills : List (Nat × Nat)} {hostReads : List HostRead} {rec_ : Recorder}
    (h : ResetLeaves s t) :
    ResetLeaves s { t with launches := launches, fills := fills, hostReads := hostReads, rec_ := rec_ } :=
  h.trans (of_eq rfl rfl rfl rfl)

theorem signalEc_kept (s : State) : s.signalEc.fw = s.fw ∧ s.signalEc.ec.devReset = s.ec.devReset := by
  unfold State.signalEc
  split
  · exact ⟨rfl, rfl⟩
  · rw [State.msix_frame]
    exact ⟨rfl, rfl⟩

theorem logFault (s : State) (mask : Nat) : ResetLeaves s (s.logFault mask) := by
  by_cases hset : s.reg (ecReg 8) ||| BitVec.ofNat 32 mask = s.reg (ecReg 8)
  · rw [State.logFault, State.raiseEc_of_set hset]
    exact refl s
  · have hkept : (s.logFault mask).fw = s.fw ∧ (s.logFault mask).ec.devReset = s.ec.devReset := by
      obtain ⟨fn, halarm⟩ := State.gatherAlarm_frame (s.raise (ecReg 8) mask) 8
        ((s.reg (ecReg 8) ||| BitVec.ofNat 32 mask) &&& ~~~ s.reg (ecReg 8))
      rw [State.logFault, State.raiseEc_of_new hset, halarm]
      exact signalEc_kept _
    refine ⟨hkept.1, hkept.2, fun r hr i hi => ?_⟩
    by_cases h8 : r = ecReg 8
    · rw [h8] at hi ⊢
      rw [State.logFault, State.reg_raiseEc_same s mask (by decide), bit_or, hi, Bool.true_or]
    · rwa [State.logFault, State.reg_raiseEc_other s mask h8 hr.ne_msix]

/-! What a reset does to the recorder, the trace, the forfeits and its seats (R385, R407, R410, R474). -/

theorem trace (s : State) (n tag opcode event st unit : Nat) : ResetLeaves s (s.trace n tag opcode event st unit) := by
  obtain ⟨-, hec, hreg⟩ := State.trace_kept s n tag opcode event st unit
  refine of_reg ?_ (by rw [hec]) fun r hr => hreg r ?_
  · unfold State.trace
    split
    · rfl
    · extract_lets u ctrl size dev bs
      have hu : u.fw = s.fw := by unfold u; split <;> rfl
      clear_value u
      split
      · split
        · rwa [State.bumpObj_fw]
        · rwa [State.setReg_fw, State.csWrite_fw]
      · exact hu
  · have := hr.place
    unfold mgReg
    omega

theorem recorderLost (s : State) : ResetLeaves s s.recorderLost := by
  unfold State.recorderLost
  split
  · exact (refl s).set
  · extract_lets lapse flags u
    have hu : ResetLeaves s u := ite (refl s) (of_eq rfl rfl rfl rfl)
    exact hu.set.trans (raise _ _ _)

theorem tdiError (s : State) (n : Nat) : ResetLeaves s (s.tdiError n) := by
  unfold State.tdiError
  exact ite ((modSeat s n _).trans (raise _ _ _)) (refl s)

theorem traceLost (s : State) (n : Nat) : ResetLeaves s (s.traceLost n) := by
  refine of_reg (by rw [State.traceLost_frame]) (by rw [State.traceLost_frame]) fun r hr => State.reg_traceLost s n ?_
  have := hr.place
  omega

theorem originate (s : State) (j cause n : Nat) : ResetLeaves s (s.originate j cause n) := by
  unfold State.originate
  extract_lets effect tag me body f seen ec u
  have hu : ResetLeaves s u := of_eq rfl rfl rfl rfl
  have hqueued (v : State) : ResetLeaves v (v.queueCtrlAll v.upPorts body) :=
    fold (fun n _ v => queueCtrl v n body) v
  exact ite (refl s) (((hu.trans (hqueued u)).trans (logFault _ 0x80)).trans (bumpObj _ _ _ _))

theorem dropCells (s : State) (n : Nat) : ResetLeaves s (s.dropCells n) := by
  obtain ⟨ports, posted, h⟩ := State.dropCells_frame s n
  rw [h]
  exact of_eq rfl rfl rfl rfl

theorem voidSeat (s : State) (n : Nat) (hard : Bool) : ResetLeaves s (s.voidSeat n hard) := by
  unfold State.voidSeat
  extract_lets runs keep s1 s2 reads launches s3 s4 s5
  have h1 : ResetLeaves s s1 := fold (fun r _ u => ite (refl u) (trace u _ _ _ _ _ _)) s
  have h2 : ResetLeaves s1 s2 :=
    ite (fold (fun a _ u => ite (freeArray u _ a) (refl u)) s1) (refl s1)
  have h4 : ResetLeaves s2 s4 := (dropCells s2 n).set
  have h5 : ResetLeaves s4 s5 := modSeat s4 n _
  exact (((h1.trans h2).trans h4).trans h5).trans (refreshWd s5 n)

theorem clearSlots (s : State) (p : Nat) (sel : Nat → Bool) : ResetLeaves s (s.clearSlots p sel) :=
  fold (f := fun u a => u.modArr p a _) (fun _ _ _ => of_eq rfl rfl rfl rfl) s

theorem shortfall {k : Nat} (s : State) (hk : k < 12) : ResetLeaves s (s.shortfall k) := by
  have hstatus : ¬ IsLog (hbReg k 8) := by
    intro h
    have := h.place
    unfold hbReg at this
    omega
  unfold State.shortfall
  refine trans (fold (fun p _ v => ?_) s) (setReg _ _ hstatus)
  split
  · exact ite ((modStack v k _).trans (raise _ _ _)) (refl v)
  · exact ite (refl v) ((modStack v k _).trans (bumpObj _ _ _ _))

theorem reserve (s : State) (n v : Nat) : ResetLeaves s (s.reserve n v) :=
  (setObj s _ _ v).trans (fold (fun _ hk u => shortfall u (List.mem_range.1 hk)) _)

/-! The start of a partition reset (R407, R425). -/

theorem captureCause {p : Nat} (s : State) (c : ResetCause) (hp : p < 32) : ResetLeaves s (s.captureCause p c) := by
  unfold State.captureCause
  refine ite (setReg s _ fun h => ?_) (refl s)
  have := h.place
  unfold ecReg at this
  omega

theorem abortCommand (s : State) (p : Nat) : ResetLeaves s (s.abortCommand p) := by
  refine of_reg ?_ ?_ fun r hr => State.reg_abortCommand s ?_
  · unfold State.abortCommand
    extract_lets res
    split <;> rfl
  · unfold State.abortCommand
    extract_lets res
    split <;> rfl
  · have := hr.place
    simp only [ctReg, partReg]
    omega

theorem endTargetReset (s : State) (p : Nat) : ResetLeaves s (s.endTargetReset p) :=
  fold (fun n _ u => ite (refl u) (ite ((modSeat u n _).trans (raise _ _ _)) (ite (modSeat u n _) (refl u)))) s

/-- What the reset does to a seat of the partition: its window is cleared, its ward key dropped (R407). -/
theorem seatCleared (s : State) (n : Nat) : ResetLeaves s (((s.csClear (s.csWin n).1
    ((s.csWin n).2 - (s.csWin n).1)).modSeat n fun r => { r with wardKey := none }).reserve n 0) :=
  ((csClear s _ _).trans (modSeat _ n _)).trans (reserve _ n 0)

theorem startPartReset (s : State) (p : Nat) (c : ResetCause) : ResetLeaves s (s.startPartReset p c) := by
  unfold State.startPartReset
  split
  · exact refl s
  · next hstart =>
    have hp : p < 32 := State.lt_of_partPresent (v := s.variant) (by simp at hstart; exact hstart.1)
    split
    · exact modPart s p _
    · extract_lets seats jobs s1 s2 s3 s4 s5 s6 s7 s8 s9 s10
      have h1 : ResetLeaves s s1 :=
        ((captureCause s c hp).trans (takeBack _ p _)).trans (abortCommand _ p)
      have h2 : ResetLeaves s1 s2 := ite (recorderLost s1) (refl s1)
      have h3 : ResetLeaves s2 s3 := fold (fun n _ u => (voidSeat u n true).trans (tdiError _ n)) s2
      have h4 : ResetLeaves s3 s4 := modPart s3 p _
      have h5 : ResetLeaves s4 s5 := fold (fun j _ u => originate u j _ _) s4
      have h8 : ResetLeaves s5 s8 := ((clearSlots s5 p _).trans (dropLines _ _)).set
      have h9 : ResetLeaves s8 s9 := (endTargetReset s8 p).trans (haspDue _ _ _)
      have h10 : ResetLeaves s9 s10 := fold (fun n _ u => seatCleared u n) s9
      exact ((((((h1.trans h2).trans h3).trans h4).trans h5).trans h8).trans (h9.trans h10)).trans (traceLost s10 _)

theorem startPartResets (s : State) (l : List Nat) (c : ResetCause) :
    ResetLeaves s (l.foldl (fun s p => s.startPartReset p c) s) := fold (fun p _ u => startPartReset u p c) s

end ResetLeaves

end Sys2Proof.Machine
end

section
/-! SUPPORT. Retraining, row repair and the loss of an HBM stack (R297, R305 to R307). -/

namespace Sys2Proof.Machine.State

variable {s t : State} {k c : Nat}

@[simp] theorem reg_modStack (s : State) (k r : Nat) (f : StackRec → StackRec) : (s.modStack k f).reg r = s.reg r := rfl

/-! The loss of a stack retires the device (R307). -/

theorem retireDevice_spec (s : State) (why : Nat) (hk : k < 12) :
    (s.retireDevice k why).pw.state = .retired ∧ (s.retireDevice k why).ec.retiredHbm = true ∧
      bit ((s.retireDevice k why).reg (ecReg 8)) 6 = true ∧
      ∀ i, bit (s.reg (hbReg k 0xC)) i = true → bit ((s.retireDevice k why).reg (hbReg k 0xC)) i = true := by
  unfold retireDevice
  extract_lets s1 s2 s3 s4 s5 s6 s7
  have hlogged : ResetLeaves s5 s6 := .logFault s5 0x40
  have hresets : ResetLeaves s6 s7 := .startPartResets s6 s6.partList .fatalHbm
  have hstack : IsLog (hbReg k 0xC) := .inr ⟨k, hk, rfl⟩
  refine ⟨rfl, rfl, ?_, fun i hi => ?_⟩
  · exact hresets.log _ (.inl rfl) 6 (bit_logFault s5 (by decide))
  · have hstatus : bit (s5.reg (hbReg k 0xC)) i = true := by
      have hsame : s5.reg (hbReg k 0xC) = s1.reg (hbReg k 0xC) := rfl
      rwa [hsame, reg_status_other s 7 true (hbReg_ne (by decide))]
    exact hresets.log _ hstack i (hlogged.log _ hstack i hstatus)

/-! Retraining (R297). -/

theorem stack_startRetrain (s : State) (k c : Nat) : (s.startRetrain k c).stack k =
    { s.stack k with retraining := c :: (s.stack k).retraining.filter fun d => decide (d ≠ c) } :=
  stack_modStack_same s k fun r => { r with retraining := c :: r.retraining.filter fun d => decide (d ≠ c) }

theorem reg_startRetrain_other {r : Nat} (s : State) (c : Nat) (h : r ≠ hbReg k 8) :
    (s.startRetrain k c).reg r = s.reg r := reg_status_other _ 2 true h

theorem bit_startRetrain (s : State) (k c : Nat) : bit ((s.startRetrain k c).reg (hbReg k 8)) 2 = true :=
  bit_status_same _ _ _ (by decide)

theorem stack_retrainEnds (s : State) (k c : Nat) : (s.retrainEnds k c).stack k =
    { s.stack k with retraining := (s.stack k).retraining.filter fun d => decide (d ≠ c) } :=
  stack_modStack_same s k fun r => { r with retraining := r.retraining.filter fun d => decide (d ≠ c) }

theorem reg_retrainEnds_other {r : Nat} (s : State) (c : Nat) (h : r ≠ hbReg k 8) :
    (s.retrainEnds k c).reg r = s.reg r := reg_status_other _ 2 _ h

/-- RETRAINING stays 1 while another channel of the stack retrains. -/
theorem bit_retrainEnds (s : State) (k c : Nat) :
    bit ((s.retrainEnds k c).reg (hbReg k 8)) 2 = decide (∃ d ∈ (s.stack k).retraining, d ≠ c) := by
  have hset : bit ((s.retrainEnds k c).reg (hbReg k 8)) 2 = !((s.retrainEnds k c).stack k).retraining.isEmpty :=
    bit_status_same _ _ _ (by decide)
  rw [hset, stack_retrainEnds, Bool.eq_iff_iff]
  simp [List.filter_eq_nil_iff]

/-- A channel's retraining has been asked for by its second parity failure (R297). -/
def retrainAsked (s : State) (k c : Nat) : State := (s.raise (hbReg k 0xC) 0x20).startRetrain k c

theorem stack_retrainAsked (s : State) (k c : Nat) : (s.retrainAsked k c).stack k =
    { s.stack k with retraining := c :: (s.stack k).retraining.filter fun d => decide (d ≠ c) } :=
  stack_startRetrain _ _ _

theorem retrainAsked_spec (s : State) (k c : Nat) :
    c ∈ ((s.retrainAsked k c).stack k).retraining ∧ bit ((s.retrainAsked k c).reg (hbReg k 0xC)) 5 = true ∧
      bit ((s.retrainAsked k c).reg (hbReg k 8)) 2 = true ∧ (s.retrainAsked k c).hbm = s.hbm := by
  refine ⟨?_, ?_, bit_startRetrain _ _ _, rfl⟩
  · rw [stack_retrainAsked]
    exact List.mem_cons_self
  · rw [retrainAsked, reg_startRetrain_other _ _ (hbReg_ne (by decide))]
    exact bit_raise_of_mask s _ (by decide)

/-- The channel has failed to retrain once more. -/
def retrainFailed (s : State) (k c : Nat) : State :=
  (s.retrainAsked k c).modStack k fun r =>
    { r with retrainFails := SMap.set 0 r.retrainFails c (SMap.get 0 (s.stack k).retrainFails c + 1) }

variable {K : StackNo} {C : PartNo}

theorem exec_channelRetrainComplete (ok : Bool) (hon : s.pw.state = .on) (hp : partPresent s.variant C.val = true) :
    exec (.channelRetrainComplete K C ok) s = .next (
      if ok then (((s.retrainAsked K.val C.val).raise (hbReg K.val 0xC) 0x40).retrainEnds K.val C.val).modStack K.val
        fun r => { r with retrainFails := SMap.erase r.retrainFails C.val }
      else if 2 ≤ SMap.get 0 (s.stack K.val).retrainFails C.val + 1 then
        ((s.retrainFailed K.val C.val).retrainEnds K.val C.val).retireDevice K.val 3
      else s.retrainFailed K.val C.val) := by
  have hfails : SMap.get 0 ((s.retrainAsked K.val C.val).stack K.val).retrainFails C.val =
      SMap.get 0 (s.stack K.val).retrainFails C.val := by rw [stack_retrainAsked]
  simp only [exec, execChannelRetrainComplete, hbmRuns, hon, hp]
  rw [if_neg (by simp)]
  refine congrArg Host.Outcome.next ?_
  unfold retrainFailed
  rw [← hfails]
  rfl

/-- A channel that retrains has no failure to its name. -/
theorem retrained_spec (hon : s.pw.state = .on) (hp : partPresent s.variant C.val = true) :
    ∃ t, exec (.channelRetrainComplete K C true) s = .next t ∧ bit (t.reg (hbReg K.val 0xC)) 6 = true ∧
      bit (t.reg (hbReg K.val 8)) 2 = decide (∃ d ∈ (s.stack K.val).retraining, d ≠ C.val) ∧
      SMap.get 0 (t.stack K.val).retrainFails C.val = 0 := by
  let u := (s.retrainAsked K.val C.val).raise (hbReg K.val 0xC) 0x40
  refine ⟨_, (exec_channelRetrainComplete true hon hp).trans (congrArg Host.Outcome.next (if_pos rfl)), ?_, ?_, ?_⟩
  · rw [reg_modStack, reg_retrainEnds_other _ _ (hbReg_ne (by decide))]
    exact bit_raise_of_mask _ _ (by decide)
  · have hstack : u.stack K.val = (s.retrainAsked K.val C.val).stack K.val := rfl
    rw [reg_modStack, bit_retrainEnds, hstack, stack_retrainAsked, Bool.eq_iff_iff]
    simp
  · rw [stack_modStack_same]
    simp [SMap.get, SMap.find?_erase_same]

theorem stack_retrainFailed (s : State) (k c : Nat) :
    SMap.get 0 ((s.retrainFailed k c).stack k).retrainFails c = SMap.get 0 (s.stack k).retrainFails c + 1 := by
  rw [retrainFailed, stack_modStack_same, SMap.get_set_same]

/-- A first failure is repeated. -/
theorem retrainFailed_once (hon : s.pw.state = .on) (hp : partPresent s.variant C.val = true)
    (h : SMap.get 0 (s.stack K.val).retrainFails C.val = 0) :
    ∃ t, exec (.channelRetrainComplete K C false) s = .next t ∧ bit (t.reg (hbReg K.val 8)) 2 = true ∧
      SMap.get 0 (t.stack K.val).retrainFails C.val = 1 ∧ t.pw = s.pw := by
  have hexec := exec_channelRetrainComplete (K := K) (C := C) false hon hp
  rw [if_neg (by decide), if_neg (by omega)] at hexec
  refine ⟨_, hexec, ?_, ?_, rfl⟩
  · rw [retrainFailed, reg_modStack]
    exact bit_startRetrain _ _ _
  · rw [stack_retrainFailed, h]

/-- A second failure in succession loses the stack. -/
theorem retrainFailed_twice (hon : s.pw.state = .on) (hp : partPresent s.variant C.val = true)
    (h : 1 ≤ SMap.get 0 (s.stack K.val).retrainFails C.val) :
    ∃ t, exec (.channelRetrainComplete K C false) s = .next t ∧ t.pw.state = .retired ∧ t.ec.retiredHbm = true ∧
      bit (t.reg (ecReg 8)) 6 = true := by
  have hexec := exec_channelRetrainComplete (K := K) (C := C) false hon hp
  rw [if_neg (by decide), if_pos (by omega)] at hexec
  obtain ⟨hpw, hec, hlog, -⟩ :=
    retireDevice_spec ((s.retrainFailed K.val C.val).retrainEnds K.val C.val) 3 K.isLt
  exact ⟨_, hexec, hpw, hec, hlog⟩

/-! Row repair (R306, R307). -/

theorem rowRepairPending_unlisted {row : Nat} (h : C.val * 2 ^ 15 + row ∉ (s.stack K.val).repair) :
    exec (.rowRepairPending K C row) s = .next s := by
  have hlist : (s.stack K.val).repair.contains (C.val * 2 ^ 15 + row) = false := by simpa using h
  simp only [exec, execRowRepairPending, hlist]
  rw [if_pos (by simp)]

theorem rowRepairPending_listed {row : Nat} (hon : s.pw.state = .on) (hp : partPresent s.variant C.val = true)
    (h : C.val * 2 ^ 15 + row ∈ (s.stack K.val).repair) :
    ∃ t, exec (.rowRepairPending K C row) s = .next t ∧ bit (t.reg (hbReg K.val 0xC)) 7 = true ∧
      ((s.stack K.val).rowsLost C.val = true → t.pw.state = .retired ∧ t.ec.retiredHbm = true) ∧
      ((s.stack K.val).rowsLost C.val = false → s.regsOnly t [hbReg K.val 0xC]) := by
  let u := s.raise (hbReg K.val 0xC) 0x80
  have hpending : bit (u.reg (hbReg K.val 0xC)) 7 = true := bit_raise_of_mask s _ (by decide)
  have hlist : (s.stack K.val).repair.contains (C.val * 2 ^ 15 + row) = true := by simpa using h
  have hexec : exec (.rowRepairPending K C row) s =
      .next (if (s.stack K.val).rowsLost C.val then u.retireDevice K.val 2 else u) := by
    simp only [exec, execRowRepairPending, hlist, hbmRuns, hon, hp]
    rw [if_neg (by simp)]
    rfl
  refine ⟨_, hexec, ?_⟩
  by_cases hlost : (s.stack K.val).rowsLost C.val = true
  · obtain ⟨hpw, hec, -, hlog⟩ := retireDevice_spec u 2 K.isLt
    rw [if_pos hlost]
    exact ⟨hlog 7 hpending, fun _ => ⟨hpw, hec⟩, fun hfew => absurd hlost (by rw [hfew]; decide)⟩
  · rw [if_neg hlost]
    exact ⟨hpending, fun hmany => absurd hmany hlost, fun _ => regsOnly_raise s _ _⟩

end Sys2Proof.Machine.State
end

section
/-! SUPPORT. The patrol scrub of an HBM stack, and what a read of a sector finds (R293, R295, R306). -/

namespace Sys2Proof.Machine

/-- A sector index of a stack's channel is found again in its address (R291). -/
theorem hbmPlace_hbmAddrOf {k : Nat} (i : Nat) (hk : k < 12) :
    hbmPlace (hbmAddrOf k i / 64 * 64) = (k, i / 4, i % 4 * 64) := by
  have haligned : hbmAddrOf k i / 64 * 64 = hbmAddrOf k i := by unfold hbmAddrOf; omega
  rw [haligned]
  unfold hbmPlace hbmAddrOf
  dsimp only
  ext <;> dsimp only <;> omega

namespace State

variable {s t u : State} {k : Nat}

theorem hbmSector_congr (h : t.hbm = s.hbm) (p sec : Nat) : t.hbmSector p sec = s.hbmSector p sec := by
  rw [hbmSector, h, hbmSector]

theorem stack_congr (h : t.hbmStacks = s.hbmStacks) (k : Nat) : t.stack k = s.stack k := by rw [stack, h, stack]

theorem regN_setRegN {v : Nat} (s : State) (off : Nat) (h : v < 2 ^ 32) : (s.setRegN off v).regN off = v := by
  rw [regN, setRegN, reg_setReg_same, BitVec.toNat_ofNat, Nat.mod_eq_of_lt h]

/-! A row and the repair list (R306). -/

theorem rowListed_spec (s : State) (k x : Nat) :
    x ∈ ((s.rowListed k x).stack k).repair ∧ (s.rowListed k x).hbm = s.hbm ∧
      (∀ r, r ≠ hbReg k 0xC → (s.rowListed k x).reg r = s.reg r) ∧
      ∀ i, bit (s.reg (hbReg k 0xC)) i = true → bit ((s.rowListed k x).reg (hbReg k 0xC)) i = true := by
  unfold rowListed
  split
  · next h => exact ⟨by simpa using h, rfl, fun _ _ => rfl, fun _ hi => hi⟩
  · refine ⟨?_, rfl, fun r hr => reg_raise_other _ _ hr, fun i hi => bit_raise_of_set _ _ hi⟩
    rw [stack_congr (raise_hbmStacks _ _ _), stack_modStack_same]
    exact List.mem_append_right _ (List.mem_singleton_self x)

theorem rowCorrected_spec (s : State) (k x : Nat) :
    (s.rowCorrected k x).hbm = s.hbm ∧ (∀ r, r ≠ hbReg k 0xC → (s.rowCorrected k x).reg r = s.reg r) ∧
      ∀ i, bit (s.reg (hbReg k 0xC)) i = true → bit ((s.rowCorrected k x).reg (hbReg k 0xC)) i = true := by
  unfold rowCorrected
  extract_lets n u
  split
  · obtain ⟨-, hhbm, hreg, hlog⟩ := rowListed_spec u k x
    exact ⟨hhbm, hreg, hlog⟩
  · exact ⟨rfl, fun _ _ => rfl, fun _ hi => hi⟩

/-! A sector is read, by what its ECC finds (R293). -/

variable {c i : Nat}

theorem hbmFetch_clean (hgood : (s.hbmSector c (hbmAddrOf k i / 64)).poison = false)
    (hseen : SMap.get EccSeen.clean s.hbmUpset (hbmTweak c (hbmAddrOf k i / 64)) = .clean) :
    (s.hbmFetch c (hbmAddrOf k i / 64)).2 = s := by
  simp only [hbmFetch, hgood, hseen]
  rfl

theorem hbmFetch_single (hk : k < 12) (hgood : (s.hbmSector c (hbmAddrOf k i / 64)).poison = false)
    (hseen : SMap.get EccSeen.clean s.hbmUpset (hbmTweak c (hbmAddrOf k i / 64)) = .single) :
    let t := (s.hbmFetch c (hbmAddrOf k i / 64)).2
    t.hbm = s.hbm ∧ bit (t.reg (hbReg k 0xC)) 0 = true ∧
      t.regN (hbReg k 0x18) = min (s.regN (hbReg k 0x18) + 1) (2 ^ 32 - 1) := by
  let u := { s with hbmUpset := SMap.erase s.hbmUpset (hbmTweak c (hbmAddrOf k i / 64)) }.raise (hbReg k 0xC) 1
  let row := c * 2 ^ 15 + (Config.hbmRow (4 * (i / 4) + i % 4 * 64 / 64)).toNat
  have hfetch : (s.hbmFetch c (hbmAddrOf k i / 64)).2 = (u.countSat (hbReg k 0x18) 1).rowCorrected k row := by
    simp only [hbmFetch, hgood, hseen, hbmPlace_hbmAddrOf i hk]
    rfl
  obtain ⟨hhbm, hreg, hlog⟩ := rowCorrected_spec (u.countSat (hbReg k 0x18) 1) k row
  rw [hfetch]
  refine ⟨hhbm, hlog 0 ?_, ?_⟩
  · rw [countSat, setRegN, reg_setReg_other _ _ (hbReg_ne (by decide))]
    exact bit_raise_of_mask _ _ (by decide)
  · have hold : u.regN (hbReg k 0x18) = s.regN (hbReg k 0x18) :=
      congrArg BitVec.toNat (reg_raise_other _ _ (hbReg_ne (by decide)))
    rw [regN, hreg _ (hbReg_ne (by decide)), ← regN, countSat, regN_setRegN _ _ (by unfold full; omega), hold]
    rfl

theorem hbmFetch_uncorrectable (hk : k < 12) (hgood : (s.hbmSector c (hbmAddrOf k i / 64)).poison = false)
    (hseen : SMap.get EccSeen.clean s.hbmUpset (hbmTweak c (hbmAddrOf k i / 64)) = .uncorrectable)
    (hplace : 2 ^ 31 + c * 2 ^ 25 + i < 2 ^ 32) :
    let t := (s.hbmFetch c (hbmAddrOf k i / 64)).2
    (t.hbmSector c (hbmAddrOf k i / 64)).poison = true ∧ bit (t.reg (hbReg k 0xC)) 1 = true ∧
      (∃ x ∈ (t.stack k).repair, x / 2 ^ 15 = c) ∧
      (bit (s.reg (hbReg k 0x14)) 31 = false → t.regN (hbReg k 0x14) = 2 ^ 31 + c * 2 ^ 25 + i) := by
  let v := s.hbmSector c (hbmAddrOf k i / 64)
  let bad := { s with hbmUpset := SMap.erase s.hbmUpset (hbmTweak c (hbmAddrOf k i / 64)) }.setHbmSector c
    (hbmAddrOf k i / 64) { v with poison := true }
  let row := c * 2 ^ 15 + (Config.hbmRow i).toNat
  let u := (bad.raise (hbReg k 0xC) 2).rowListed k row
  have hindex : 4 * (i / 4) + i % 4 * 64 / 64 = i := by omega
  have hfetch : (s.hbmFetch c (hbmAddrOf k i / 64)).2 =
      if bit (u.reg (hbReg k 0x14)) 31 then u else u.setRegN (hbReg k 0x14) (2 ^ 31 + c * 2 ^ 25 + i) := by
    simp only [hbmFetch, hgood, hseen, hbmPlace_hbmAddrOf i hk, hindex]
    rfl
  obtain ⟨hmem, hhbm, hreg, hlog⟩ := rowListed_spec (bad.raise (hbReg k 0xC) 2) k row
  have hpoison : (u.hbmSector c (hbmAddrOf k i / 64)).poison = true := by
    rw [hbmSector_congr hhbm, hbmSector_congr (raise_hbm bad _ _), hbmSector_set_same]
  have hlogged : bit (u.reg (hbReg k 0xC)) 1 = true := hlog 1 (bit_raise_of_mask _ _ (by decide))
  have hrow : row / 2 ^ 15 = c := by
    have hlt := (Config.hbmRow i).isLt
    omega
  have hcapture : u.reg (hbReg k 0x14) = s.reg (hbReg k 0x14) :=
    (hreg _ (hbReg_ne (by decide))).trans (reg_raise_other bad _ (hbReg_ne (by decide)))
  rw [hfetch, hcapture]
  split
  · next hheld => exact ⟨hpoison, hlogged, ⟨row, hmem, hrow⟩, fun hfree => absurd hheld (by rw [hfree]; decide)⟩
  · refine ⟨?_, ?_, ⟨row, ?_, hrow⟩, fun _ => regN_setRegN u _ hplace⟩
    · rwa [hbmSector_congr (setRegN_hbm u _ _)]
    · rwa [setRegN, reg_setReg_other _ _ (hbReg_ne (by decide))]
    · rwa [stack_congr (setRegN_hbmStacks u _ _)]

/-! The pass (R295). -/

/-- The state in which the pass reads a sector: `seen` is what its ECC finds. -/
def scrubbed (s : State) (k c i : Nat) (seen : EccSeen) : State :=
  { s with hbmUpset := SMap.set EccSeen.clean s.hbmUpset (hbmTweak c (hbmAddrOf k i / 64)) seen }

/-- A read of the pass is a fetch of the sector; beside it only the pass and its lateness change. -/
theorem patrolRead_spec (seen : EccSeen) (hgood : (s.hbmSector c (hbmAddrOf k i / 64)).poison = false) :
    let f := ((s.scrubbed k c i seen).hbmFetch c (hbmAddrOf k i / 64)).2
    let t := s.patrolRead k c i seen
    t.hbm = f.hbm ∧ (∀ r, r ≠ hbReg k 8 → t.reg r = f.reg r) ∧ (t.stack k).repair = (f.stack k).repair := by
  intro f t
  let g := f.modStack k fun r => { r with scrub := r.scrub.map fun q => { q with pos := SMap.set 0 q.pos c (i + 1) } }
  have hrepair : (g.stack k).repair = (f.stack k).repair := by rw [stack_modStack_same]
  have ht : t = match (g.stack k).scrub with
      | some q => if g.passDone q then g.status (hbReg k 8) 6 false else g
      | none => g := by
    simp only [t, patrolRead, hgood]
    rfl
  rw [ht]
  split
  · split
    · exact ⟨rfl, fun r hr => reg_status_other g 6 false hr, hrepair⟩
    · exact ⟨rfl, fun _ _ => rfl, hrepair⟩
  · exact ⟨rfl, fun _ _ => rfl, hrepair⟩

/-- What a read of the pass finds in a sector that is not poisoned (R293, R306). -/
theorem patrolRead_finds (seen : EccSeen) (hk : k < 12) (hplace : 2 ^ 31 + c * 2 ^ 25 + i < 2 ^ 32)
    (hgood : (s.hbmSector c (hbmAddrOf k i / 64)).poison = false) :
    let t := s.patrolRead k c i seen
    (seen = .clean → t.hbm = s.hbm ∧ t.reg (hbReg k 0xC) = s.reg (hbReg k 0xC)) ∧
      (seen = .single → t.hbm = s.hbm ∧ bit (t.reg (hbReg k 0xC)) 0 = true ∧
        t.regN (hbReg k 0x18) = min (s.regN (hbReg k 0x18) + 1) (2 ^ 32 - 1)) ∧
      (seen = .uncorrectable → (t.hbmSector c (hbmAddrOf k i / 64)).poison = true ∧ bit (t.reg (hbReg k 0xC)) 1 = true ∧
        (∃ x ∈ (t.stack k).repair, x / 2 ^ 15 = c) ∧
        (bit (s.reg (hbReg k 0x14)) 31 = false → t.regN (hbReg k 0x14) = 2 ^ 31 + c * 2 ^ 25 + i)) := by
  intro t
  obtain ⟨hhbm, hreg, hrepair⟩ := patrolRead_spec (k := k) (c := c) (i := i) seen hgood
  have hset : SMap.get EccSeen.clean (s.scrubbed k c i seen).hbmUpset (hbmTweak c (hbmAddrOf k i / 64)) = seen :=
    SMap.get_set_same _ _ _ _
  have hlog := hreg (hbReg k 0xC) (hbReg_ne (by decide))
  refine ⟨?_, ?_, ?_⟩ <;> rintro rfl
  · have hfetch := hbmFetch_clean (s := s.scrubbed k c i .clean) hgood hset
    rw [hhbm, hlog, hfetch]
    exact ⟨rfl, rfl⟩
  · obtain ⟨hkept, hcorrected, hcount⟩ := hbmFetch_single (s := s.scrubbed k c i .single) hk hgood hset
    rw [hhbm, hlog, regN, hreg _ (hbReg_ne (by decide)), ← regN]
    exact ⟨hkept, hcorrected, hcount⟩
  · obtain ⟨hpoison, hlost, hlisted, hcapture⟩ :=
      hbmFetch_uncorrectable (s := s.scrubbed k c i .uncorrectable) hk hgood hset hplace
    rw [hbmSector_congr hhbm, hlog, hrepair, regN, hreg _ (hbReg_ne (by decide)), ← regN]
    exact ⟨hpoison, hlost, hlisted, hcapture⟩

theorem lastSector_lt (v : Variant) : lastSector v < 2 ^ 25 := by cases v <;> decide

variable {K : StackNo} {C : PartNo}

/-- The pass under way reads the sector, unless the interface's parity has failed twice (R297). -/
theorem exec_hbPatrolScrub {q : ScrubPass} {sector : Nat} (seen : EccSeen) (hon : s.pw.state = .on)
    (hscrub : (s.stack K.val).scrub = some q) (hpass : s.passDone q = false) (hawake : s.selfRefresh C.val = false)
    (hidle : C.val ∉ (s.stack K.val).retraining) (hlo : SMap.get 0 q.pos C.val ≤ sector)
    (hhi : sector ≤ lastSector s.variant) :
    exec (.hbPatrolScrub K C sector ⟨seen, .good⟩) s = .next (s.patrolRead K.val C.val sector seen) ∧
      exec (.hbPatrolScrub K C sector ⟨seen, .failed⟩) s = .next (s.retrainAsked K.val C.val) := by
  have hnow : s.passNow K.val = s := by
    simp only [passNow, hscrub, hpass]
    rfl
  have hnot : (!s.hbmRuns || s.selfRefresh C.val || (s.stack K.val).retraining.contains C.val ||
      decide (sector < SMap.get 0 q.pos C.val ∨ lastSector s.variant < sector)) = false := by
    have hrange : ¬ (sector < SMap.get 0 q.pos C.val ∨ lastSector s.variant < sector) := by omega
    simp [hbmRuns, hon, hawake, hidle, hrange]
  constructor <;> simp only [exec, execHbPatrolScrub, hnow, hscrub, hnot] <;> rfl

end State

end Sys2Proof.Machine
end

section
/-! PROOFS. HBM stacks. -/

namespace Sys2Proof.Proofs

open Sys2Proof.Machine Sys2Proof.Machine.State

/-- Settles O51: a readout stage by stage and the two ends of its 10 ms (R296, R300, R301, R492); a read of the scrub by
what it finds (R293, R295, R306); the ends of a retraining, the repair list and the loss of a stack (R297, R305 to R307;
log entry 52). -/
theorem hbmStacks : Obligations.HbmStacks := by
  refine ⟨fun s k hon => ⟨fun temp => ?_, fun since hcool hforce => exec_throttleStepFall hon hcool hforce,
    exec_tempReadoutTimeout k hon, fun now hnow => ⟨?_, ?_⟩⟩, fun s k c hon => ⟨?_, fun hp => ?_, ?_⟩⟩
  · refine ⟨_, congrArg Host.Outcome.next (if_pos (decide_eq_true hon)), ?_⟩
    exact tempReadout_spec s k.val temp.isLt
  · have hexec : exec (.hbmRefresh k) s = .next (s.status (hbReg k.val 8) 3 (decide (85 ≤ now))) := by
      simp only [exec, execHbmRefresh, hnow, hbmRuns, hon]
      rfl
    exact ⟨_, hexec, bit_status_same s _ _ (by decide), regsOnly_status s _ _ _⟩
  · have hexec : exec (.hbmCalibration k) s = .next (s.modStack k.val fun r => { r with calTemp := now }) := by
      simp only [exec, execHbmCalibration, hnow, hbmRuns, hon]
      rfl
    exact ⟨_, hexec, by rw [stack_modStack_same], rfl⟩
  · intro sector seen q hscrub hpass hawake hidle hlo hhi
    have hexec := exec_hbPatrolScrub seen hon hscrub hpass hawake hidle hlo hhi
    refine ⟨fun hgood => ?_, _, hexec.2, retrainAsked_spec s k.val c.val⟩
    have hplace : 2 ^ 31 + c.val * 2 ^ 25 + sector < 2 ^ 32 := by
      have hlast := lastSector_lt s.variant
      have hchan := c.isLt
      omega
    exact ⟨_, hexec.1, patrolRead_finds seen k.isLt hplace hgood⟩
  · obtain hlist := fun row => rowRepairPending_listed (row := row) (K := k) (C := c) hon hp
    exact ⟨retrained_spec hon hp, retrainFailed_once hon hp, retrainFailed_twice hon hp,
      fun row h => rowRepairPending_unlisted h, hlist⟩
  · intro q hscrub hpass
    have hexec : exec (.scrubLate k) s = .next ((s.reachUp q.due).status (hbReg k.val 8) 6 true) := by
      simp only [exec, execScrubLate, hscrub, hpass, hbmRuns, hon]
      rfl
    refine ⟨_, hexec, ?_, bit_status_same _ _ _ (by decide), fun o ho => ?_⟩
    · rw [status_uptime]
      exact le_uptime_reachUp s _
    · rw [regsOnly_status _ _ _ _ o ho, reg_reachUp]

end Sys2Proof.Proofs
end

section
/-! SUPPORT. Requests for objects: how one arrives, how it is answered, and what a write needs (R460 to R466). -/

namespace Sys2Proof.SMap

variable {α : Type}

/-- Leaving out other keys does not change what is found at a key. -/
theorem find?_filter_kept (m : SMap α) (p : Nat → Bool) {k : Nat} (h : p k = true) :
    find? (m.filter fun e => p e.1) k = find? m k := by
  induction m with
  | nil => rfl
  | cons e m ih =>
    obtain ⟨j, v⟩ := e
    by_cases hj : j = k
    · have hkeep : p j = true := hj ▸ h
      simp [find?, hj, h]
    · by_cases hkeep : p j = true
      · simp [hkeep, find?, hj, ih]
      · simp [hkeep, find?, hj, ih]

theorem find?_filter_dropped (m : SMap α) (p : Nat → Bool) {k : Nat} (h : p k = false) :
    find? (m.filter fun e => p e.1) k = none := by
  induction m with
  | nil => rfl
  | cons e m ih =>
    obtain ⟨j, v⟩ := e
    by_cases hkeep : p j = true
    · have hj : j ≠ k := by
        rintro rfl
        rw [h] at hkeep
        exact absurd hkeep (by decide)
      simp [hkeep, find?, hj, ih]
    · simp [hkeep, ih]

/-- What is found in a map whose values have been replaced or left out is one of the new values. -/
theorem find?_filterMap {m : SMap α} {g : Nat × α → Option (Nat × α)} {k : Nat} {v : α}
    (h : find? (m.filterMap g) k = some v) : ∃ e ∈ m, ∃ j, g e = some (j, v) := by
  induction m with
  | nil => exact absurd h (by simp [find?])
  | cons e m ih =>
    cases he : g e with
    | none =>
      rw [List.filterMap_cons_none he] at h
      obtain ⟨x, hx, hfound⟩ := ih h
      exact ⟨x, List.mem_cons_of_mem _ hx, hfound⟩
    | some y =>
      rw [List.filterMap_cons_some he] at h
      obtain ⟨j, w⟩ := y
      by_cases hj : j = k
      · rw [find?, if_pos hj] at h
        obtain rfl : w = v := Option.some.inj h
        exact ⟨e, List.mem_cons_self, j, he⟩
      · rw [find?, if_neg hj] at h
        obtain ⟨x, hx, hfound⟩ := ih h
        exact ⟨x, List.mem_cons_of_mem _ hx, hfound⟩

end Sys2Proof.SMap

namespace Sys2Proof.Machine.State

variable {s t u : State} {f : ReqFrame}

/-! A frame arrives (R451, R460). -/

theorem frameIn_kept (s : State) : s.frameIn.fw = s.fw ∧ s.frameIn.hasAddress = s.hasAddress := by
  unfold frameIn setErrs
  extract_lets was u
  split <;> exact ⟨rfl, rfl⟩

theorem heardOn_fw (s : State) (path : Path) : (s.heardOn path).fw = s.fw := by
  cases path
  · exact (frameIn_kept s).1
  · rfl

/-- A request of its own row is carried out where the device answers. -/
theorem request_of_answers {op : Nat} (go : State → State) (hop : f.op.toNat = op) (hans : s.answers f.path = true) :
    s.request op f go = go (s.heardOn f.path) := by
  rw [request, if_pos hop]
  cases hpath : f.path with
  | fieldNetwork =>
    rw [hpath] at hans
    have haddr : s.hasAddress = true := hans
    have hruns : s.fnRuns = true := (Bool.and_eq_true_iff.1 haddr).1
    simp only [frameArrives, hruns, (frameIn_kept s).2, haddr]
    rfl
  | hostMailbox =>
    rw [hpath] at hans
    exact if_pos hans

/-! The answer (R460, R461). -/

theorem reply_frame (s : State) (path : Path) (bs : List Byte) : ∃ fn out,
    s.reply path bs = { s with fn := fn, out := out } := by
  cases path with
  | fieldNetwork =>
    change ∃ fn out, s.queueFrame 6 bs = _
    unfold queueFrame
    split
    · exact ⟨_, s.out, rfl⟩
    · exact ⟨s.fn, s.out, rfl⟩
  | hostMailbox => exact ⟨s.fn, _, rfl⟩

/-- An answer changes nothing but what leaves the device. -/
theorem answer_frame (s : State) (f : ReqFrame) (code : Nat) : ∃ fn out,
    s.answer f code = { s with fn := fn, out := out } := reply_frame s _ _

@[simp] theorem answer_fw (s : State) (f : ReqFrame) (code : Nat) : (s.answer f code).fw = s.fw := by
  obtain ⟨fn, out, h⟩ := answer_frame s f code
  rw [h]

@[simp] theorem answer_objs (s : State) (f : ReqFrame) (code : Nat) : (s.answer f code).objs = s.objs := by
  obtain ⟨fn, out, h⟩ := answer_frame s f code
  rw [h]

@[simp] theorem answer_ec (s : State) (f : ReqFrame) (code : Nat) : (s.answer f code).ec = s.ec := by
  obtain ⟨fn, out, h⟩ := answer_frame s f code
  rw [h]

@[simp] theorem answer_arrays (s : State) (f : ReqFrame) (code : Nat) : (s.answer f code).arrays = s.arrays := by
  obtain ⟨fn, out, h⟩ := answer_frame s f code
  rw [h]

/-! READ (R462). -/

theorem readObject_of_form (hres : f.reserved = false) (hlen : f.len = 0) (hlo : 1 ≤ f.arg.toNat) (hhi : f.arg.toNat ≤ 48) :
    (∀ v, s.readable f.obj = .ok v → s.readObject f =
      s.reply f.path (rspBytes f false v.length ((v.drop f.offset.toNat).take f.arg.toNat))) ∧
    ∀ c, s.readable f.obj = .error c → s.readObject f = s.answer f c := by
  have harg : f.arg ≠ 0 := by
    intro h
    rw [h] at hlo
    exact absurd hlo (by decide)
  have hform : (f.reserved || decide (f.len ≠ 0 ∨ f.arg = 0 ∨ 48 < f.arg.toNat)) = false := by
    rw [hres, Bool.false_or, decide_eq_false_iff_not]
    rintro (h | h | h)
    · exact h hlen
    · exact harg h
    · omega
  constructor <;> intro x hx <;> simp only [readObject, hform, hx] <;> rfl

theorem readObject_out_of_form (h : ¬ (f.reserved = false ∧ f.len = 0 ∧ 1 ≤ f.arg.toNat ∧ f.arg.toNat ≤ 48)) :
    s.readObject f = s.answer f 1 := by
  have hform : (f.reserved || decide (f.len ≠ 0 ∨ f.arg = 0 ∨ 48 < f.arg.toNat)) = true := by
    rw [Bool.or_eq_true, decide_eq_true_iff]
    by_contra hok
    simp only [not_or, not_not, Bool.not_eq_true] at hok
    obtain ⟨hres, hlen, harg, hmost⟩ := hok
    have hpos : f.arg.toNat ≠ 0 := fun h0 => harg (BitVec.eq_of_toNat_eq h0)
    exact h ⟨hres, hlen, by omega, by omega⟩
  rw [readObject, if_pos hform]

/-! WRITE (R462, R465). -/

theorem writeObject_plain {data : List Byte} (hplain : plainWrite f data) (hlen : data.length ≤ 48) :
    (∀ c, s.writable f = .error c → s.writeObject f = s.answer f c) ∧
    ∀ o, s.writable f = .ok o → s.writeObject f =
      (s.writeValue f o data noCheck).2.answer f (s.writeValue f o data noCheck).1 := by
  obtain ⟨hop, hres, hoff, harg, hflen, hdata⟩ := hplain
  have hform : (f.reserved || decide (f.offset ≠ 0 ∨ f.arg ≠ 0 ∨ 48 < f.len)) = false := by
    simp [hres, hoff, harg, hflen, hlen]
  constructor <;> intro x hx <;> simp only [writeObject, hform, hx, hdata] <;> rfl

/-- An entry that may be written is one of the dictionary. -/
theorem objInfo_of_writable {o : ObjInfo} (h : s.writable f = .ok o) :
    objInfo f.obj.index.toNat f.obj.sub.toNat = some o := by
  unfold writable at h
  split at h
  · cases h
  · next i hentry =>
    have hi : i = o := by
      split at h
      · cases h
      · split at h <;> cases h
        rfl
    unfold entry at hentry
    extract_lets index sub at hentry
    split at hentry
    · cases hentry
    · split at hentry
      · cases hentry
      · next hinfo =>
        split at hentry <;> cases hentry
        rw [← hi]
        exact hinfo

/-! Values (R464 to R466). -/

/-- A value that is accepted has been recorded, and a value of the store has drawn (log entry 1). -/
def valueRecorded (s : State) (o : ObjInfo) (index sub : Nat) (data : List Byte) : State :=
  (if storesBlock o index sub (leNat data) then s.draw else s).recordObject index sub data

theorem recordObject_fw (s : State) (index sub : Nat) (data : List Byte) : (s.recordObject index sub data).fw = s.fw := by
  unfold recordObject record
  split
  · unfold recWrite
    extract_lets bs units old u v
    split
    · rfl
    · split
      · rfl
      · obtain ⟨mem, poison, upset, hput⟩ :=
          ringPut_frame s.recRing.1 s.recRing.2 (s.regN (ecReg 0x818)) units bs s
        have hu : u = _ := hput
        change v.fw = _
        rw [setReg_fw, hu]
  · rfl

theorem valueRecorded_fw (s : State) (o : ObjInfo) (index sub : Nat) (data : List Byte) :
    (s.valueRecorded o index sub data).fw = s.fw := by
  rw [valueRecorded, recordObject_fw]
  split <;> rfl

/-- The value, once it is recorded, is kept: an RWP value in a settings block too. -/
def valueKept (s : State) (o : ObjInfo) (index sub v : Nat) : State :=
  match o.acc with
  | .rwp => (s.setObj index sub v).writeBlock ((s.setObj index sub v).nextBlock (s.setObj index sub v).objs false)
  | _ => if index = 0x3000 then s.setObj index sub v else s

/-- A scalar value that nothing speaks against is refused only where its block cannot be stored. -/
theorem writeValue_accepted {o : ObjInfo} {data : List Byte} (c : ImageCheck) (hlen : lengthOk o.type data.length = true)
    (hscalar : o.type.scalar = true) (henc : encodingOk o.type (leNat data) = true)
    (hrange : rangeOk f.obj.index.toNat f.obj.sub.toNat (leNat data) = true)
    (hcause : s.stateCause f.path f.obj.index.toNat f.obj.sub.toNat (leNat data) = 0) :
    s.writeValue f o data c =
      if storesBlock o f.obj.index.toNat f.obj.sub.toNat (leNat data) && Config.storeFails s.free then (0x601, s.draw)
      else (0, ((s.valueRecorded o f.obj.index.toNat f.obj.sub.toNat data).valueKept o f.obj.index.toNat f.obj.sub.toNat
        (leNat data)).objEffect f.obj.index.toNat f.obj.sub.toNat (leNat data)) := by
  simp only [writeValue, writeScalar, hlen, hscalar, henc, hrange, hcause]
  rfl

end Sys2Proof.Machine.State
end

section
/-! SUPPORT. The effect of a written setting: it leaves the dictionary and the firmware store as they are (R199, R243, R309,
R345, R426, R464 to R466). -/

namespace Sys2Proof.Machine

/-- From `s` to `t` the stored values of the dictionary and the record of firmware stay. -/
structure DictKept (s t : State) : Prop where
  objs : t.objs = s.objs
  fw   : t.fw = s.fw

namespace DictKept

variable {s t u : State}

theorem refl (s : State) : DictKept s s := ⟨rfl, rfl⟩

theorem trans (h : DictKept s t) (k : DictKept t u) : DictKept s u := ⟨k.objs.trans h.objs, k.fw.trans h.fw⟩

theorem ite {c : Prop} [Decidable c] {a b : State} (h : DictKept s a) (k : DictKept s b) :
    DictKept s (if c then a else b) := by
  split
  · exact h
  · exact k

theorem fold {α : Type} {f : State → α → State} (h : ∀ u x, DictKept u (f u x)) (l : List α) (s : State) :
    DictKept s (l.foldl f s) := ⟨State.foldl_frame State.objs (fun u x => (h u x).objs) l s,
      State.foldl_frame State.fw (fun u x => (h u x).fw) l s⟩

theorem setReg (s : State) (off : Nat) (v : Word) : DictKept s (s.setReg off v) := ⟨rfl, rfl⟩
theorem raise (s : State) (off mask : Nat) : DictKept s (s.raise off mask) := ⟨rfl, rfl⟩
theorem modPort (s : State) (n : Nat) (f : PortRec → PortRec) : DictKept s (s.modPort n f) := ⟨rfl, rfl⟩
theorem modStack (s : State) (k : Nat) (f : StackRec → StackRec) : DictKept s (s.modStack k f) := ⟨rfl, rfl⟩
theorem csClear (s : State) (a n : Nat) : DictKept s (s.csClear a n) := ⟨rfl, rfl⟩

/-- An update of other fields. -/
theorem set {csScrub : Bool} {resize : Option Nat} {cache : List CacheLine} {fn : FieldNet} {uart : Uart} {tb : TimeBase}
    (h : DictKept s t) :
    DictKept s { t with csScrub := csScrub, resize := resize, cache := cache, fn := fn, uart := uart, tb := tb } :=
  ⟨h.objs, h.fw⟩

/-! The time base and the links (R345). -/

theorem choose (s : State) : DictKept s s.choose := by
  unfold State.choose
  split
  · exact (refl s).set
  · exact refl s

theorem reparent (s : State) : DictKept s s.reparent := by
  unfold State.reparent
  refine ite (ite (((refl s).set.trans (raise _ _ _)).trans (choose _)) (refl s)) ?_
  split
  · exact choose s
  · split
    · split
      · exact ite (refl s).set (refl s)
      · exact refl s
    · exact (refl s).set.set.trans (choose _)

theorem tbCtrlSet (s : State) (v : Word) : DictKept s (s.tbCtrlSet v) := by
  unfold State.tbCtrlSet
  refine ite (refl s) ?_
  extract_lets u1 tb2 u2 tb3 u3 u4
  have h2 : DictKept s u2 := (setReg s _ v).set
  have h3 : DictKept u2 u3 := ite (refl u2).set (refl u2)
  have h4 : DictKept u3 u4 := ite (refl u3).set (refl u3)
  exact ((h2.trans h3).trans h4).trans (reparent u4)

theorem freeCell (s : State) (p : Option Nat) : DictKept s (s.freeCell p) := by
  cases p with
  | none => exact refl s
  | some n => exact modPort s n fun r => { r with freedMine := r.freedMine + 1 }

theorem goDown (s : State) (n : Nat) : DictKept s (s.goDown n) := by
  unfold State.goDown
  extract_lets r u1 on u2 due u3
  have h1 : DictKept s u1 := fold (fun u c => by
    refine (freeCell u c.hold).trans ?_
    split <;> exact ⟨rfl, rfl⟩) _ s
  have h2 : DictKept u1 u2 := ite (raise u1 _ _) (refl u1)
  have h3 : DictKept u2 u3 := modPort u2 n _
  exact ((h1.trans h2).trans h3).trans (ite (reparent u3) (refl u3))

theorem idlePorts (s : State) : DictKept s s.idlePorts :=
  fold (fun u n => ite (modPort u n _) (goDown u n)) _ s

/-! The Central Store and HBM (R241, R243, R295). -/

theorem writeBack (s : State) (l : CacheLine) : DictKept s (s.writeBack l) := by
  unfold State.writeBack
  refine ite (fold (fun u i => ?_) _ s) (refl s)
  exact ⟨rfl, rfl⟩

theorem scResize (s : State) (size : Nat) : DictKept s (s.scResize size).2 := by
  unfold State.scResize
  split
  · exact refl s
  · split
    · exact raise s _ _
    · have hflush : DictKept s s.flushCache := (fold writeBack s.cache s).set
      exact ((hflush.trans (setReg _ _ _)).trans (csClear _ _ _)).set

theorem hbScrubSet (s : State) (k : Nat) (v : Word) : DictKept s (s.hbScrubSet k v) := by
  unfold State.hbScrubSet
  extract_lets u pass
  have hu : DictKept s u := setReg s _ v
  exact ite ((hu.trans (setReg u _ _)).trans (modStack _ _ _)) (hu.trans (modStack u _ _))

theorem qzEntry (s : State) (sub v : Nat) : DictKept s (s.qzEntry sub v) :=
  fold (fun u _ => ite (setReg u _ _) (setReg u _ _)) _ s

theorem tbEntry (s : State) (sub v : Nat) : DictKept s (s.tbEntry sub v) := by
  unfold State.tbEntry
  exact ite (tbCtrlSet s _) (setReg s _ _)

theorem ecEntry (s : State) (index sub v : Nat) : DictKept s (s.ecEntry index sub v) := by
  unfold State.ecEntry
  split <;> exact setReg s _ _

end DictKept

/-! Settings: the RWP entries (Tables 16-6 and after). -/

/-- A setting is no command and no reservation of HBM; the one that its own register also stores is a BOOL (R375). -/
structure IsSetting (index sub : Nat) (o : ObjInfo) : Prop where
  retirement  : index ≠ 0x4020
  arrays      : ¬ (index = 0x4040 ∧ sub = 2)
  resets      : index ≠ 0x4050
  firmware    : index ≠ 0x7002
  reservation : ¬ (0x2600 ≤ index ∧ index < 0x2620)
  recorder    : index = 0x2800 → sub = 1 ∧ o.type = .bool

theorem acc_objAt_ne {sub lo hi : Nat} {e : Option ObjInfo} {a : ObjAccess} (h : e.map ObjInfo.acc ≠ some a) :
    (objAt sub lo hi e).map ObjInfo.acc ≠ some a := by
  unfold objAt
  split
  · exact h
  · exact fun hc => by cases hc

/-- The reservations of a partition's seats are RW (R303). -/
theorem acc_reservation (index sub : Nat) (h : 0x2600 ≤ index ∧ index < 0x2620) :
    (objInfo index sub).map ObjInfo.acc ≠ some .rwp := by
  have hcounter : counterSubs index = none := by
    unfold counterSubs
    rw [if_neg (by simp; omega), if_neg (by simp; omega), if_neg (by omega), if_neg (by omega)]
  have hlow : objInfo index sub = objLow index sub := by
    unfold objInfo
    rw [hcounter]
    exact if_pos (by omega)
  rw [hlow]
  unfold objLow
  split
  any_goals omega
  rw [if_pos h]
  exact acc_objAt_ne (by decide)

/-- The commands' entries are WO, and those beside them RO (R307, R416, R481). -/
theorem acc_command {index : Nat} (sub : Nat) (h : index = 0x4020 ∨ index = 0x4050 ∨ index = 0x7002) :
    (objInfo index sub).map ObjInfo.acc ≠ some .rwp := by
  have hmid : objInfo index sub = objMid index sub := by rcases h with rfl | rfl | rfl <;> rfl
  rw [hmid]
  rcases h with rfl | rfl | rfl <;> simp only [objMid] <;> split <;> decide

theorem isSetting_of_rwp {index sub : Nat} {o : ObjInfo} (hinfo : objInfo index sub = some o) (hacc : o.acc = .rwp) :
    IsSetting index sub o := by
  have hmap : (objInfo index sub).map ObjInfo.acc = some .rwp := by rw [hinfo, ← hacc]; rfl
  refine ⟨fun h => acc_command sub (.inl h) hmap, ?_, fun h => acc_command sub (.inr (.inl h)) hmap,
    fun h => acc_command sub (.inr (.inr h)) hmap, fun h => acc_reservation index sub h hmap, ?_⟩
  · rintro ⟨rfl, rfl⟩
    exact absurd hmap (by decide)
  · rintro rfl
    have hentry : objInfo 0x2800 sub = if 1 ≤ sub ∧ sub ≤ 1 then objB .rwp 0 else none := rfl
    rw [hentry] at hinfo
    split at hinfo
    · next hsub =>
      obtain rfl := Option.some.inj hinfo
      exact ⟨by omega, rfl⟩
    · cases hinfo

/-! The effect of a setting, once its value is stored. -/

/-- The value at a key stays as it is stored, and so does firmware's record. -/
def ValueStays (key v : Nat) (s t : State) : Prop := t.fw = s.fw ∧ SMap.find? t.objs key = some v

theorem DictKept.valueStays {key v : Nat} {s t : State} (h : DictKept s t) (hval : SMap.find? s.objs key = some v) :
    ValueStays key v s t := ⟨h.fw, by rw [h.objs, hval]⟩

namespace State

theorem find?_setObj (s : State) (index sub v : Nat) :
    SMap.find? (s.setObj index sub v).objs (objKey index sub) = some v :=
  SMap.find?_insert_same _ _ _ (SMap.find?_erase_same _ _)

/-- DETERMINISTIC follows object 0x2800:01, or is refused (R375). -/
theorem detCtrlSet_stays {s : State} {v : Nat} (hv : v ≤ 1) (hval : SMap.find? s.objs (objKey 0x2800 1) = some v) :
    ValueStays (objKey 0x2800 1) v s (s.detCtrlSet (BitVec.ofNat 32 v)) := by
  have hbit : b2n (bit (BitVec.ofNat 32 v) 0) = v := by interval_cases v <;> decide
  unfold detCtrlSet
  split
  · exact (DictKept.setReg s _ _).valueStays hval
  · split
    · rw [hbit]
      exact ⟨rfl, find?_setObj _ _ _ _⟩
    · exact (DictKept.raise s _ _).valueStays hval

variable {s : State} {index sub v : Nat} {o : ObjInfo}

theorem coreEffect_stays (hset : IsSetting index sub o) (henc : encodingOk o.type v = true)
    (hval : SMap.find? s.objs (objKey index sub) = some v) :
    ValueStays (objKey index sub) v s (s.coreEffect index sub v) := by
  unfold coreEffect
  split
  · exact (DictKept.qzEntry s _ _).valueStays hval
  · exact (DictKept.scResize s _).valueStays hval
  · exact (DictKept.setReg s _ _).set.valueStays hval
  · exact (DictKept.fold (fun u k => DictKept.hbScrubSet u k _) _ s).valueStays hval
  · exact (DictKept.idlePorts s).valueStays hval
  · exact (DictKept.tbEntry s _ _).valueStays hval
  · obtain ⟨rfl, htype⟩ := hset.recorder rfl
    rw [htype] at henc
    exact detCtrlSet_stays (by simpa [encodingOk] using henc) hval
  · exact (DictKept.ecEntry s _ _ _).valueStays hval
  · exact (DictKept.ecEntry s _ _ _).valueStays hval
  · exact absurd rfl hset.resets
  · exact (DictKept.refl s).valueStays hval

theorem objEffect_stays (hset : IsSetting index sub o) (henc : encodingOk o.type v = true)
    (hval : SMap.find? s.objs (objKey index sub) = some v) :
    ValueStays (objKey index sub) v s (s.objEffect index sub v) := by
  unfold objEffect
  split
  · exact (DictKept.refl s).set.valueStays hval
  · exact (DictKept.refl s).set.valueStays hval
  · exact (DictKept.setReg s _ _).valueStays hval
  · exact (DictKept.setReg s _ _).valueStays hval
  · exact absurd rfl hset.retirement
  · exact absurd ⟨rfl, rfl⟩ hset.arrays
  · exact absurd rfl hset.resets
  · exact absurd rfl hset.firmware
  · exact absurd rfl hset.firmware
  · exact absurd rfl hset.firmware
  · rw [if_neg hset.reservation]
    split
    · exact coreEffect_stays hset henc hval
    · exact (DictKept.refl s).valueStays hval

/-- An accepted setting is in the dictionary and in the newest settings block (R466, R478). -/
theorem setting_stored (s : State) (hsub : sub < 256) (hinfo : objInfo index sub = some o) (hacc : o.acc = .rwp)
    (henc : encodingOk o.type v = true) :
    let t := (s.valueKept o index sub v).objEffect index sub v
    SMap.find? t.objs (objKey index sub) = some v ∧ ∃ b, t.fw.blocks.getLast? = some b ∧
      SMap.find? b.entries (objKey index sub) = some v := by
  intro t
  let u := s.setObj index sub v
  have hkept : s.valueKept o index sub v = u.writeBlock (u.nextBlock u.objs false) := by rw [valueKept, hacc]
  have hval : SMap.find? (u.writeBlock (u.nextBlock u.objs false)).objs (objKey index sub) = some v :=
    find?_setObj s index sub v
  have hkey : keyRwp (objKey index sub) = true := by
    have hdiv : objKey index sub / 256 = index := by unfold objKey; omega
    have hmod : objKey index sub % 256 = sub := by unfold objKey; omega
    rw [keyRwp, hdiv, hmod, hinfo]
    exact decide_eq_true hacc
  obtain ⟨hfw, hfound⟩ : ValueStays (objKey index sub) v (u.writeBlock (u.nextBlock u.objs false)) t := by
    unfold t
    rw [hkept]
    exact objEffect_stays (isSetting_of_rwp hinfo hacc) henc hval
  refine ⟨hfound, u.nextBlock u.objs false, ?_, ?_⟩
  · rw [hfw]
    exact List.getLast?_concat
  · exact (SMap.find?_filter_kept u.objs keyRwp hkey).trans (find?_setObj s index sub v)

end State

end Sys2Proof.Machine
end

section
/-! SUPPORT. Segments of a value, and the commands that are writes of TRUE (R307, R399, R462, R477, R480, R481). -/

namespace Sys2Proof.Machine

namespace State

variable {s : State} {f : ReqFrame}

/-! Segments (R462). -/

theorem setSeg_kept (s : State) (f : ReqFrame) (b : Option SegBuf) : (s.setSeg f.path b).writable f = s.writable f ∧
    (s.setSeg f.path b).downloadCause f.path = s.downloadCause f.path := by
  cases hpath : f.path <;> exact ⟨rfl, rfl⟩

/-- The state in which a segment is judged: one that begins a value drops what its path had of another. -/
def segmentHeard (s : State) (f : ReqFrame) : State := if f.offset = 0 then s.setSeg f.path none else s

/-- A segment that does not continue its value drops it; one that does not complete it is kept. -/
theorem writeSegment_spec {o : ObjInfo} (check : ImageCheck) (hres : f.reserved = false) (hlo : 1 ≤ f.len) (hhi : f.len ≤ 48)
    (harg : f.arg ≠ 0) (hw : s.writable f = .ok o) (hgo : o.type.scalar = true ∨ s.downloadCause f.path = 0) :
    ((s.segmentHeard f).segment f = none →
      s.writeSegment f check = ((s.segmentHeard f).setSeg f.path none).answer f 0x501) ∧
    ∀ b, (s.segmentHeard f).segment f = some b → b.data.length < b.total →
      s.writeSegment f check = ((s.segmentHeard f).setSeg f.path (some b)).answer f 0 := by
  have hform : (f.reserved || decide (f.len = 0 ∨ 48 < f.len ∨ f.arg = 0)) = false := by
    rw [hres, Bool.false_or, decide_eq_false_iff_not]
    rintro (h | h | h)
    · omega
    · omega
    · exact harg h
  obtain ⟨hwritable, hdownload⟩ : (s.segmentHeard f).writable f = .ok o ∧
      (s.segmentHeard f).downloadCause f.path = s.downloadCause f.path := by
    unfold segmentHeard
    split
    · exact ⟨(setSeg_kept s f none).1.trans hw, (setSeg_kept s f none).2⟩
    · exact ⟨hw, rfl⟩
  have hcause : (if o.type.scalar then 0 else (s.segmentHeard f).downloadCause f.path) = 0 := by
    rcases hgo with h | h
    · rw [if_pos h]
    · rw [hdownload, h, ite_self]
  have hjudged : s.writeSegment f check = match (s.segmentHeard f).segment f with
      | none => ((s.segmentHeard f).setSeg f.path none).answer f 0x501
      | some b =>
        if b.data.length < b.total then ((s.segmentHeard f).setSeg f.path (some b)).answer f 0
        else (((s.segmentHeard f).setSeg f.path none).writeValue f o b.data check).2.answer f
          (((s.segmentHeard f).setSeg f.path none).writeValue f o b.data check).1 := by
    rw [writeSegment, if_neg (by rw [hform]; decide)]
    change (match (s.segmentHeard f).writable f with | .error c => _ | .ok o => _) = _
    rw [hwritable]
    exact if_neg (not_not.2 hcause)
  constructor
  · intro hnone
    rw [hjudged, hnone]
  · intro b hb hlt
    rw [hjudged, hb]
    exact if_pos hlt

/-! Commands. -/

/-- The entry of a command: a BOOL that can only be written. -/
def commandEntry : ObjInfo := { type := .bool, acc := .wo, dflt := 0 }

/-- A command written as TRUE that nothing speaks against is recorded and carried out, unless its block cannot be stored. -/
theorem namedWrite_command {index sub : Nat} {o : ObjInfo} (hplain : plainWrite f [1#8]) (hans : s.answers f.path = true)
    (hobj : f.obj.index.toNat = index ∧ f.obj.sub.toNat = sub) (hw : (s.heardOn f.path).writable f = .ok o)
    (hinfo : objInfo index sub = some commandEntry) (hkept : index ≠ 0x3000) (hrange : rangeOk index sub 1 = true)
    (hcause : (s.heardOn f.path).stateCause f.path f.obj.index.toNat f.obj.sub.toNat 1 = 0) :
    s.namedWrite index sub f =
      if storesBlock commandEntry index sub 1 && Config.storeFails (s.heardOn f.path).free then
        (s.heardOn f.path).draw.answer f 0x601
      else (((s.heardOn f.path).valueRecorded commandEntry index sub [1#8]).objEffect index sub 1).answer f 0 := by
  obtain ⟨hindex, hsub⟩ := hobj
  have hop : f.op.toNat = 2 := by rw [hplain.1]; rfl
  have ho : o = commandEntry := by
    have hentry := objInfo_of_writable hw
    rw [hindex, hsub, hinfo] at hentry
    exact (Option.some.inj hentry).symm
  have hvalue := writeValue_accepted (s := s.heardOn f.path) (f := f) (o := commandEntry) (data := [1#8]) noCheck rfl rfl rfl
    (by rw [hindex, hsub]; exact hrange) hcause
  rw [namedWrite, if_pos ⟨hindex, hsub⟩, request_of_answers _ hop hans,
    (writeObject_plain hplain (by decide)).2 o hw, ho, hvalue, hindex, hsub]
  have hone : leNat [1#8] = 1 := rfl
  have hwo (v : State) : v.valueKept commandEntry index sub 1 = v := if_neg hkept
  rw [hone, hwo]
  split <;> rfl

/-- A command that is not in the settings' blocks needs no room there. -/
theorem namedWrite_unstored {index sub : Nat} {o : ObjInfo} (hplain : plainWrite f [1#8]) (hans : s.answers f.path = true)
    (hw : (s.heardOn f.path).writable f = .ok o)
    (hcause : (s.heardOn f.path).stateCause f.path f.obj.index.toNat f.obj.sub.toNat 1 = 0)
    (hobj : f.obj.index.toNat = index ∧ f.obj.sub.toNat = sub) (hinfo : objInfo index sub = some commandEntry)
    (hkept : index ≠ 0x3000) (hrange : rangeOk index sub 1 = true) (hstores : storesBlock commandEntry index sub 1 = false) :
    s.namedWrite index sub f =
      (((s.heardOn f.path).valueRecorded commandEntry index sub [1#8]).objEffect index sub 1).answer f 0 := by
  rw [namedWrite_command hplain hans hobj hw hinfo hkept hrange hcause, hstores, Bool.false_and, if_neg (by decide)]

/-- A plain write of a setting that nothing speaks against (R465, R466). -/
theorem exec_objectWrite_setting {data : List Byte} {o : ObjInfo} (hans : s.answers f.path = true) (hplain : plainWrite f data)
    (hshort : data.length ≤ 48) (hw : (s.heardOn f.path).writable f = .ok o) (hacc : o.acc = .rwp)
    (hscalar : o.type.scalar = true) (hlen : lengthOk o.type data.length = true)
    (henc : encodingOk o.type (leNat data) = true) (hrange : rangeOk f.obj.index.toNat f.obj.sub.toNat (leNat data) = true)
    (hcause : (s.heardOn f.path).stateCause f.path f.obj.index.toNat f.obj.sub.toNat (leNat data) = 0) :
    exec (.objectWrite f) s = .next (if Config.storeFails (s.heardOn f.path).free then (s.heardOn f.path).draw.answer f 0x601
      else ((((s.heardOn f.path).valueRecorded o f.obj.index.toNat f.obj.sub.toNat data).valueKept o f.obj.index.toNat
        f.obj.sub.toNat (leNat data)).objEffect f.obj.index.toNat f.obj.sub.toNat (leNat data)).answer f 0) := by
  have hop : f.op.toNat = 2 := by rw [hplain.1]; rfl
  have hstores : storesBlock o f.obj.index.toNat f.obj.sub.toNat (leNat data) = true := decide_eq_true (.inl hacc)
  have hvalue := writeValue_accepted (s := s.heardOn f.path) noCheck hlen hscalar henc hrange hcause
  refine congrArg Host.Outcome.next ((request_of_answers _ hop hans).trans ?_)
  rw [(writeObject_plain hplain hshort).2 o hw, hvalue, hstores, Bool.true_and]
  split <;> rfl

/-- An accepted setting is stored in the newest block, or the store fails and it is refused (R466, R478, log entry 1). -/
theorem objectWrite_setting {data : List Byte} {o : ObjInfo} (hans : s.answers f.path = true) (hplain : plainWrite f data)
    (hshort : data.length ≤ 48) (hw : (s.heardOn f.path).writable f = .ok o) (hacc : o.acc = .rwp)
    (hscalar : o.type.scalar = true) (hlen : lengthOk o.type data.length = true)
    (henc : encodingOk o.type (leNat data) = true) (hrange : rangeOk f.obj.index.toNat f.obj.sub.toNat (leNat data) = true)
    (hcause : (s.heardOn f.path).stateCause f.path f.obj.index.toNat f.obj.sub.toNat (leNat data) = 0) :
    if Config.storeFails (s.heardOn f.path).free then
      exec (.objectWrite f) s = .next ((s.heardOn f.path).draw.answer f 0x601)
    else ∃ t b, exec (.objectWrite f) s = .next t ∧
      (∀ d, t.obj f.obj.index.toNat f.obj.sub.toNat d = leNat data) ∧ t.fw.blocks.getLast? = some b ∧
      SMap.find? b.entries (objKey f.obj.index.toNat f.obj.sub.toNat) = some (leNat data) := by
  have hexec := exec_objectWrite_setting hans hplain hshort hw hacc hscalar hlen henc hrange hcause
  split
  · next hfails => rw [hexec, if_pos hfails]
  · next hstores =>
    obtain ⟨hvalue, b, hblock, hentry⟩ := setting_stored
      ((s.heardOn f.path).valueRecorded o f.obj.index.toNat f.obj.sub.toNat data) f.obj.sub.isLt
      (objInfo_of_writable hw) hacc henc
    rw [if_neg hstores] at hexec
    refine ⟨_, b, hexec, fun d => ?_, ?_, hentry⟩
    · rw [obj, answer_objs, hvalue]
      rfl
    · rwa [answer_fw]

/-! What the commands do. -/

/-- A device reset that firmware asks for leaves firmware's record, and is under way. -/
theorem startDeviceReset_spec (s : State) :
    (s.startDeviceReset false).fw = s.fw ∧ (s.startDeviceReset false).ec.devReset.isSome = true := by
  let u := { s with ec := { s.ec with devReset := some s.uptime, devDone := false } }.bumpObj 0x60B1 0 1
  have hresets : ResetLeaves u (s.startDeviceReset false) := .startPartResets u u.partList .device
  exact ⟨hresets.fw, by rw [hresets.devReset]; rfl⟩

theorem raiseSvn_fw (s : State) : s.raiseSvn.fw = s.fw := by
  unfold raiseSvn
  extract_lets v
  split
  · rfl
  · split <;> rfl

/-- The selector names the other slot for a trial (R481). -/
def trialNamed (s : State) : State :=
  { s with fw := { s.fw with trial := some (1 - s.fw.running), trialCount := 0, selSeq := s.fw.selSeq + 1,
                             trialSeq := s.fw.selSeq + 1, fell := false } }

/-- START_TRIAL names the other slot, and firmware resets the device (R481). -/
theorem startTrial_spec (s : State) : s.startTrial.fw.trial = some (1 - s.fw.running) ∧ s.startTrial.fw.trialCount = 0 ∧
    s.startTrial.ec.devReset.isSome = true ∧ s.startTrial.fw.committed = s.fw.committed := by
  have hstart : s.startTrial = s.trialNamed.startDeviceReset false := rfl
  obtain ⟨hfw, hdev⟩ := startDeviceReset_spec s.trialNamed
  rw [hstart, hfw]
  exact ⟨rfl, rfl, hdev, rfl⟩

/-- FALL_BACK ends the trial, and firmware resets the device (R477). -/
theorem fallBack_spec (s : State) : (s.trialFails.startDeviceReset false).fw.trial = none ∧
    (s.trialFails.startDeviceReset false).fw.fell = true ∧
    (s.trialFails.startDeviceReset false).ec.devReset.isSome = true ∧
    (s.trialFails.startDeviceReset false).fw.committed = s.fw.committed := by
  obtain ⟨hfw, hdev⟩ := startDeviceReset_spec s.trialFails
  rw [hfw]
  exact ⟨rfl, rfl, hdev, rfl⟩

/-- COMMIT makes the running slot the committed one (R480). -/
theorem commitTrial_spec (s : State) : s.commitTrial.fw.committed = s.fw.running ∧ s.commitTrial.fw.trial = none ∧
    s.commitTrial.fw.bootState = 0 ∧ s.commitTrial.fw.orphaned = false := by
  unfold commitTrial
  extract_lets u1 fw u2 u3 last
  have hfw : u3.fw = u2.fw := raiseSvn_fw u2
  refine ⟨?_, ?_, ?_, rfl⟩
  · exact congrArg Firmware.committed hfw
  · exact congrArg Firmware.trial hfw
  · exact congrArg Firmware.bootState hfw

/-- The retirement record is cleared (R307). -/
theorem obj_clearRetirement {k : Nat} (s : State) (d : Nat) (hk : k < 256) : s.clearRetirement.obj 0x4020 k d = d := by
  have hkey : decide (objKey 0x4020 k / 256 ≠ 0x4020) = false := by
    rw [decide_eq_false_iff_not]
    unfold objKey
    omega
  have hnone : SMap.find? s.clearRetirement.objs (objKey 0x4020 k) = none :=
    SMap.find?_filter_dropped s.objs (fun j => decide (j / 256 ≠ 0x4020)) hkey
  rw [obj, hnone]
  rfl

/-- Every array's fault count and retirement is cleared (R399). -/
theorem arr_clearArrays (s : State) (p a : Nat) :
    (s.clearArrays.arr p a).faults = 0 ∧ (s.clearArrays.arr p a).retired = false := by
  unfold arr SMap.get
  cases hfound : SMap.find? s.clearArrays.arrays (p * 8 + a) with
  | none => exact ⟨rfl, rfl⟩
  | some r =>
    obtain ⟨e, -, j, hr⟩ := SMap.find?_filterMap hfound
    dsimp only at hr
    split at hr
    · cases hr
    · obtain ⟨-, rfl⟩ := Prod.mk.inj (Option.some.inj hr)
      exact ⟨rfl, rfl⟩

section

variable {o : ObjInfo} (hans : s.answers f.path = true) (hplain : plainWrite f [1#8])
  (hw : (s.heardOn f.path).writable f = .ok o)
  (hcause : (s.heardOn f.path).stateCause f.path f.obj.index.toNat f.obj.sub.toNat 1 = 0)

include hans hplain hw hcause

theorem exec_startTrial (hobj : f.obj = { index := 0x7002, sub := 2 }) : ∃ t, exec (.startTrial f) s = .next t ∧
    t.fw.trial = some (1 - s.fw.running) ∧ t.fw.trialCount = 0 ∧ t.ec.devReset.isSome = true ∧
    t.fw.committed = s.fw.committed := by
  have hwrite := namedWrite_unstored (index := 0x7002) (sub := 2) hplain hans hw hcause (by rw [hobj]; decide) rfl
    (by decide) rfl rfl
  have hspec := startTrial_spec ((s.heardOn f.path).valueRecorded commandEntry 0x7002 2 [1#8])
  rw [valueRecorded_fw, heardOn_fw] at hspec
  refine ⟨_, congrArg Host.Outcome.next hwrite, ?_⟩
  rw [answer_fw, answer_ec]
  exact hspec

theorem exec_commit (hobj : f.obj = { index := 0x7002, sub := 3 }) :
    if Config.storeFails (s.heardOn f.path).free then exec (.commit f) s = .next ((s.heardOn f.path).draw.answer f 0x601)
    else ∃ t, exec (.commit f) s = .next t ∧ t.fw.committed = s.fw.running ∧ t.fw.trial = none ∧ t.fw.bootState = 0 ∧
      t.fw.orphaned = false := by
  have hwrite := namedWrite_command (index := 0x7002) (sub := 3) hplain hans (by rw [hobj]; decide) hw rfl (by decide) rfl
    hcause
  split
  · next hfails => exact congrArg Host.Outcome.next (hwrite.trans (if_pos hfails))
  · next hstores =>
    have hspec := commitTrial_spec ((s.heardOn f.path).valueRecorded commandEntry 0x7002 3 [1#8])
    rw [valueRecorded_fw, heardOn_fw] at hspec
    refine ⟨_, congrArg Host.Outcome.next (hwrite.trans (if_neg hstores)), ?_⟩
    rw [answer_fw]
    exact hspec

theorem exec_fallBack (hobj : f.obj = { index := 0x7002, sub := 4 }) : ∃ t, exec (.fallBack f) s = .next t ∧
    t.fw.trial = none ∧ t.fw.fell = true ∧ t.ec.devReset.isSome = true ∧ t.fw.committed = s.fw.committed := by
  have hwrite := namedWrite_unstored (index := 0x7002) (sub := 4) hplain hans hw hcause (by rw [hobj]; decide) rfl
    (by decide) rfl rfl
  have hspec := fallBack_spec ((s.heardOn f.path).valueRecorded commandEntry 0x7002 4 [1#8])
  rw [valueRecorded_fw, heardOn_fw] at hspec
  refine ⟨_, congrArg Host.Outcome.next hwrite, ?_⟩
  rw [answer_fw, answer_ec]
  exact hspec

theorem exec_clearRetirementRecord (hobj : f.obj = { index := 0x4020, sub := 4 }) :
    ∃ t, exec (.clearRetirementRecord f) s = .next t ∧ (∀ k d, k < 256 → t.obj 0x4020 k d = d) ∧ t.fw = s.fw := by
  have hwrite := namedWrite_unstored (index := 0x4020) (sub := 4) hplain hans hw hcause (by rw [hobj]; decide) rfl
    (by decide) rfl rfl
  refine ⟨_, congrArg Host.Outcome.next hwrite, fun k d hk => ?_, ?_⟩
  · rw [obj_congr (answer_objs _ _ _)]
    exact obj_clearRetirement _ d hk
  · rw [answer_fw]
    exact (valueRecorded_fw _ _ _ _ _).trans (heardOn_fw s _)

theorem exec_clearArrayCounts (hobj : f.obj = { index := 0x4040, sub := 2 }) :
    ∃ t, exec (.clearArrayCounts f) s = .next t ∧ ∀ p a, (t.arr p a).faults = 0 ∧ (t.arr p a).retired = false := by
  have hwrite := namedWrite_unstored (index := 0x4040) (sub := 2) hplain hans hw hcause (by rw [hobj]; decide) rfl
    (by decide) rfl rfl
  refine ⟨_, congrArg Host.Outcome.next hwrite, fun p a => ?_⟩
  have harr (v : State) : (v.answer f 0).arr p a = v.arr p a := by rw [arr, answer_arrays, arr]
  rw [harr]
  exact arr_clearArrays _ p a

end

end State

end Sys2Proof.Machine
end

section
/-! PROOFS. Object requests. -/

namespace Sys2Proof.Proofs

open Sys2Proof.Machine Sys2Proof.Machine.State

/-- Settles O56: each request is carried out in the state that has heard it; a READ, a WRITE and a segment by what they
find (R460 to R466, R478; log entry 1), and each command by what its effect does (R307, R399, R477, R480, R481). -/
theorem objectRequests : Obligations.ObjectRequests := by
  refine ⟨fun s f hans => ?_, fun s f o hans hplain hw hcause => ⟨exec_startTrial hans hplain hw hcause,
    exec_commit hans hplain hw hcause, exec_fallBack hans hplain hw hcause, exec_clearRetirementRecord hans hplain hw hcause,
    exec_clearArrayCounts hans hplain hw hcause⟩⟩
  have hread (hop : f.op = 1) : exec (.objectRead f) s = .next ((s.heardOn f.path).readObject f) :=
    congrArg Host.Outcome.next (request_of_answers _ (by rw [hop]; rfl) hans)
  refine ⟨fun hop hform v hv => ?_, fun hop hform c hc => ?_, fun hop hform => ?_, fun c data hplain hlen hc => ?_,
    fun o data hplain hlen hw hacc hscalar hlength henc hrange hcause =>
      objectWrite_setting hans hplain hlen hw hacc hscalar hlength henc hrange hcause,
    fun o check hop hres hlo hhi harg hw hgo => ?_⟩
  · obtain ⟨hres, hlen, hlo, hhi⟩ := hform
    rw [hread hop, (readObject_of_form hres hlen hlo hhi).1 v hv]
  · obtain ⟨hres, hlen, hlo, hhi⟩ := hform
    rw [hread hop, (readObject_of_form hres hlen hlo hhi).2 c hc]
    rfl
  · rw [hread hop, readObject_out_of_form hform]
  · exact congrArg Host.Outcome.next ((request_of_answers _ (by rw [hplain.1]; rfl) hans).trans
      ((writeObject_plain hplain hlen).1 c hc))
  · have hsegment := writeSegment_spec check hres hlo hhi harg hw hgo
    have hexec : exec (.objectWriteSeg f check) s = .next ((s.heardOn f.path).writeSegment f check) :=
      congrArg Host.Outcome.next (request_of_answers _ (by rw [hop]; rfl) hans)
    exact ⟨fun hnone => hexec.trans (congrArg _ (hsegment.1 hnone)),
      fun b hb hlt => hexec.trans (congrArg _ (hsegment.2 b hb hlt))⟩

end Sys2Proof.Proofs
end
